-- ==== Sys2Proof/Word.lean ====
section
/-! DEFINITION. The word types of the ZT-B4480 and the sparse map every indexed part of the state uses. -/

namespace Sys2Proof

/-- One byte (R5). -/
abbrev Byte := BitVec 8
/-- A 32-bit register or event counter. -/
abbrev Word := BitVec 32
/-- A 64-bit register, address or digest. -/
abbrev DWord := BitVec 64
/-- One 64 B beat, flit, line or descriptor, byte 0 in bits [7:0] (R5). -/
abbrev Beat := BitVec 512
/-- One A36 value (R35). -/
abbrev A36 := BitVec 36
/-- A sparse map: keys strictly rising, no entry equal to the map's default (see `SMap.Wf`). -/
abbrev SMap (α : Type) := List (Nat × α)

end Sys2Proof
end

