-- ==== Sys2Proof/Machine/Bits.lean ====
section
/-! DEFINITION. Bit fields, byte order (R5) and the operations of the sparse map. -/

namespace Sys2Proof.Machine

/-- Field of `len` bits from bit `lo` (R4, R5). -/
def fld {w : Nat} (x : BitVec w) (lo len : Nat) : BitVec len := x.extractLsb' lo len

/-- The same field as a number. -/
def fldN {w : Nat} (x : BitVec w) (lo len : Nat) : Nat := (x.extractLsb' lo len).toNat

/-- Bytes cut or filled with zeros to `n`. -/
def fixLen (n : Nat) (bs : List Byte) : List Byte := (bs ++ List.replicate (n - bs.length) 0).take n

/-- A Bool as a bit at a place. -/
def bitAt (b : Bool) (i : Nat) : Nat := b.toNat * 2 ^ i

/-- One bit as a Bool. -/
def bitB {w : Nat} (x : BitVec w) (i : Nat) : Bool := x.getLsbD i

/-- The field as a signed number. -/
def fldI {w : Nat} (x : BitVec w) (lo len : Nat) : Int := (x.extractLsb' lo len).toInt

/-- `v` placed at bit `lo` of a `w`-bit word. -/
def place (w lo v : Nat) : BitVec w := BitVec.ofNat w (v * 2 ^ lo)

/-- A Bool at bit `lo`. -/
def placeB (w lo : Nat) (b : Bool) : BitVec w := place w lo b.toNat

/-- The fields (offset, width, value) laid into a word, each cut to its width. -/
def pack (w : Nat) (fs : List (Nat × Nat × Nat)) : BitVec w :=
  BitVec.ofNat w ((fs.map fun f => (f.2.2 % 2 ^ f.2.1) * 2 ^ f.1).sum)

/-- `x` with the field of `len` bits at `lo` replaced by `v`. -/
def setFld {w : Nat} (x : BitVec w) (lo len v : Nat) : BitVec w :=
  (x &&& ~~~(place w lo (2 ^ len - 1))) ||| place w lo (v % 2 ^ len)

/-- Little-endian number of a byte list (R5). -/
def leNat : List Byte → Nat
  | [] => 0
  | b :: bs => b.toNat + 256 * leNat bs

/-- The `n` low bytes of `v`, byte 0 first (R5). -/
def leBytes : Nat → Nat → List Byte
  | 0, _ => []
  | n + 1, v => BitVec.ofNat 8 v :: leBytes n (v / 256)

/-- A beat from its bytes. -/
def beatOf (bs : List Byte) : Beat := BitVec.ofNat 512 (leNat (bs.take 64))

/-- The 64 bytes of a beat. -/
def beatBytes (b : Beat) : List Byte := leBytes 64 b.toNat

/-- A count that stops at 0xFFFF_FFFF (the rule of every 32-bit count). -/
def sat32 (n : Nat) : Nat := min n 0xFFFFFFFF

/-- A count that stops at the largest 64-bit value. -/
def sat64 (n : Nat) : Nat := min n 0xFFFFFFFFFFFFFFFF

/-- Least multiple of `m` at or above `n`. -/
def roundUp (n m : Nat) : Nat := (n + m - 1) / m * m

/-- `n / m` rounded up. -/
def cdiv (n m : Nat) : Nat := (n + m - 1) / m

/-- The value a sparse map holds at `k`, `d` where nothing is listed. -/
def SMap.get {α : Type} (d : α) : SMap α → Nat → α
  | [], _ => d
  | (k', v) :: m, k => if k' = k then v else SMap.get d m k

/-- Store `v` at `k`, keeping keys rising and listing no default. -/
def SMap.set {α : Type} [DecidableEq α] (d : α) : SMap α → Nat → α → SMap α
  | [], k, v => if v = d then [] else [(k, v)]
  | (k', v') :: m, k, v =>
    if k < k' then (if v = d then (k', v') :: m else (k, v) :: (k', v') :: m)
    else if k = k' then (if v = d then m else (k, v) :: m)
    else (k', v') :: SMap.set d m k v

/-- Change the value at `k`. -/
def SMap.upd {α : Type} [DecidableEq α] (d : α) (m : SMap α) (k : Nat) (f : α → α) : SMap α :=
  SMap.set d m k (f (SMap.get d m k))

/-- The canonical form: keys strictly rising and no listed value equal to the default. -/
def SMap.wf {α : Type} [DecidableEq α] (d : α) : SMap α → Bool
  | [] => true
  | [(_, v)] => v ≠ d
  | (k, v) :: (k', v') :: m => (k < k') && (v ≠ d) && SMap.wf d ((k', v') :: m)

/-- Store a list of bytes from address `a` upward. -/
def SMap.setBytes (m : SMap Byte) (a : Nat) : List Byte → SMap Byte
  | [] => m
  | b :: bs => SMap.setBytes (SMap.set 0 m a b) (a + 1) bs

/-- `n` bytes from address `a` upward; an unlisted byte reads 0 (log 4). -/
def SMap.getBytes (m : SMap Byte) (a : Nat) : Nat → List Byte
  | 0 => []
  | n + 1 => SMap.get 0 m a :: SMap.getBytes m (a + 1) n

/-- The 64 B beat at address `a`. -/
def SMap.getBeat (m : SMap Byte) (a : Nat) : Beat := beatOf (SMap.getBytes m a 64)

/-- Store the 64 B beat at address `a`. -/
def SMap.setBeat (m : SMap Byte) (a : Nat) (b : Beat) : SMap Byte := SMap.setBytes m a (beatBytes b)

/-- A little-endian number of `n` bytes at `a`. -/
def SMap.getNat (m : SMap Byte) (a n : Nat) : Nat := leNat (SMap.getBytes m a n)

/-- Every value changed by a function of its key, the canonical form kept. -/
def SMap.remap {α β : Type} [DecidableEq β] (d : β) (f : Nat → α → β) (m : SMap α) : SMap β :=
  m.foldl (fun a e => SMap.set d a e.1 (f e.1 e.2)) []

/-- Entries of a map with the keys of `ks` dropped. -/
def SMap.dropRange {α : Type} (m : SMap α) (lo hi : Nat) : SMap α :=
  m.filter fun e => e.1 < lo || hi ≤ e.1

end Sys2Proof.Machine
end

