-- ==== Sys2Proof/Syntax.lean ====
section
/-! DEFINITION. The commands of the block: one constructor of `Instr` per row of spec/opcode_table.json, with the
operand data each row carries. -/

namespace Sys2Proof

/-- Thread states (R155). -/
inductive TState where
  | empty | run | seam | halt | fault
  deriving DecidableEq, Repr, Inhabited

/-- One thread context (R154), with the mark at which the thread stands while in SEAM (R192). -/
structure Ctx where
  regs : Vector Word 16
  pc : Word
  wtarget : Word
  wcnt : Byte
  waiting : Bool
  st : TState
  finfo : Word
  markNo : Word
  markSet : BitVec 2
  deriving DecidableEq, Repr

/-- The T format's fields (R186). -/
structure TFields where
  oz : BitVec 4
  ox : BitVec 4
  oy : BitVec 4
  phase : Byte
  dl : Bool
  off : BitVec 3
  deriving DecidableEq, Repr

/-- The D format's fields (R186). -/
structure DFields where
  sa : BitVec 4
  phase : Byte
  cnt : Byte
  dl : Bool
  imm : BitVec 24
  deriving DecidableEq, Repr

/-- The N format's fields (R186). -/
structure NFields where
  sa : BitVec 4
  phase : Byte
  cnt : Byte
  port : BitVec 2
  nflit : BitVec 12
  deriving DecidableEq, Repr

/-- A fabric message: its header flit (R278, R306) and its data flits. -/
structure Msg where
  hdr : Beat
  data : List Beat
  deriving DecidableEq, Repr

/-- A received frame (R269): link header, flit and CRC after the parity has corrected it, and the physical lanes of
the bytes the parity corrected (R271; log 13). -/
structure Frame where
  hdr : DWord
  flit : Beat
  crc : Word
  corrected : List Nat
  deriving DecidableEq, Repr

/-- A directory entry of an image (R183). -/
structure DirEnt where
  type : Nat
  target : Nat
  offset : Nat
  size : Nat
  deriving DecidableEq, Repr

/-- A MEMMAP region entry (R244). -/
structure Region where
  kind : Nat
  wr : Bool
  self0 : Bool
  self1 : Bool
  reservedOk : Bool
  size : Nat
  va0 : Nat
  va1 : Nat
  gpa0 : Nat
  gpa1 : Nat
  deriving DecidableEq, Repr

/-- PORT[p] of the FABRIC section (R300). -/
structure PortCfg where
  role : Nat
  peerPort : Nat
  peerMod : Nat
  detours : List (Nat × Nat)
  allot : List Nat
  deriving DecidableEq, Repr

/-- The FABRIC section (R300). `sched` lists the schedule entries (key 4096·p + i) that differ from the plain ones:
KIND 2 at index 15 modulo 16 (R277), KIND 0 elsewhere. `fieldsOk`: the reserved field is 0 and every detour slot is there. -/
structure FabCfg where
  selfmod : Nat
  ports : List PortCfg
  sched : SMap Nat
  route : SMap Nat
  fieldsOk : Bool := true
  deriving DecidableEq, Repr

/-- One tile's sections of an image (R183): CONTEXT, RING, SLOT_SET (set number, bytes keyed 256·resource + slot,
0x40 where not listed), SCRATCH_INIT, COUNTER_INIT. -/
structure ImgTile where
  contexts : SMap Ctx
  ring : List Nat
  sets : List (Nat × SMap Byte)
  scratch : List (Nat × List Byte)
  counters : SMap Word
  deriving DecidableEq, Repr

/-- A schedule image (R182, R183), its header, directory and sections read from the bytes `raw` (log 6). The slot words
of the bridge tables are keyed 256·channel + slot (log 78). -/
structure Image where
  magic : Nat
  fmtVer : Nat
  stepping : Nat
  nsect : Nat
  seamUs : Nat
  imageSize : Nat
  ngang : Nat
  tilesUsed : List Nat
  digest : Beat
  dir : List DirEnt
  tileMap : SMap Nat
  tiles : List (Nat × ImgTile)
  bridge : SMap Nat
  fabric : FabCfg
  ladder : SMap Nat
  nearTags : Bool
  memmapOk : Bool
  regions : List Region
  auth : Beat
  raw : SMap Byte
  deriving DecidableEq, Repr

/-- A set record of the job configuration (R304, R368). -/
structure SetRec where
  runBase : Nat
  width : Nat
  nodes : List Nat
  deriving DecidableEq, Repr

/-- The job configuration (R368), its fields read from its bytes (log 6). -/
structure JobCfg where
  magic : Nat
  refmode : Bool
  reservedOk : Bool
  seed : DWord
  step : DWord
  modnum : Nat
  parity : Bool
  deadlineUs : Nat
  jobSize : Nat
  parent : Nat
  child : Nat
  seqBase : Nat
  seqLen : Nat
  nearQuota : Nat
  farQuota : Nat
  pcCtrl : Word
  thresh : List Word
  grad : Word
  jobid : BitVec 256
  ladder : SMap Nat
  nladder : Nat
  sets : List SetRec
  members : List Nat
  bytes : List Byte
  deriving DecidableEq, Repr

/-- A firmware package (R414): header, components and vendor signature. -/
structure FwPkg where
  bytes : List Byte
  deriving DecidableEq, Repr

/-- What the window tags of an extent show (R428; log 6). -/
inductive Tags where
  | pass
  | failCheck
  | failWrite (granule : Nat)
  deriving DecidableEq, Repr

/-- An operation that starts: its number, and the words of the hamper that its reads find corrected and uncorrectable (R218;
log 74). -/
structure OpStart where
  op : Nat
  ce : List Nat
  ue : List Nat
  deriving DecidableEq, Repr

/-- What the device of a tier beat meets: an error it reports uncorrectable, and the bits it returns wrong unreported (R264;
log 10). -/
structure BeatErr where
  ue : Bool
  bad : Beat
  deriving DecidableEq, Repr

/-- What bands and units report in one governor window (R381) of the events that State does not show: event counts, those of
compute per band (key 32·band + event; log 10). -/
structure Window where
  counts : SMap Nat
  deriving DecidableEq, Repr

/-- Energy met in a 1 ms window in µJ: 48 V input, links, memory, compute; and sensors read in 1/16 °C: the bands, the hottest
GDDR7 device, coolant inlet and outlet (R382, R397, R468; log 10). -/
structure Meas where
  module : Nat
  links : Nat
  mem : Nat
  comp : Nat
  temps : List Int
  gddr7 : Int := 0
  coolIn : Int := 0
  coolOut : Int := 0
  deriving DecidableEq, Repr

/-- What a GDDR7 physical channel reports of itself: its retrains within the last hour, and that it fails to train (R443; log 10). -/
structure ChanRep where
  ch : Nat
  retrains : Nat
  untrained : Bool
  deriving DecidableEq, Repr

/-- What a boot meets in the outside of the digital model (R415, R416; log 10): PUF rebuilt, the replay-protected area's ID_IDX
readable and incrementable. -/
structure BootIn where
  pufOk : Bool
  rpfRead : Bool
  rpfInc : Bool
  farCap : List Nat
  deriving DecidableEq, Repr

/-- A PTP event message (R404): domain, transport (0 Ethernet, 1 UDP/IPv4), the identity of the port that sent it, timestamps
in ns and 2^-32 ns, sequence number, one- or two-step. -/
structure PtpMsg where
  domain : Nat
  transport : Nat
  src : BitVec 80
  seq : Nat
  origin : Int
  correction : Int
  arrival : Int
  twoStep : Bool
  logInterval : Int
  deriving DecidableEq, Repr

/-- A PTP Announce message (R404): domain, transport, the identity of the port that sent it, and what the best time transmitter
algorithm compares. -/
structure PtpAnn where
  domain : Nat
  transport : Nat
  src : BitVec 80
  priority1 : Nat
  clockClass : Nat
  accuracy : Nat
  variance : Nat
  priority2 : Nat
  grandmaster : BitVec 64
  steps : Nat
  deriving DecidableEq, Repr

/-- Who makes a register access: the host through a BAR, or the BMC (R122 row REGISTER_WRITE). -/
inductive Master where
  | bar0 | bar2 | bar4 | bmc
  deriving DecidableEq, Repr

/-- The commands of the block. A thread instruction carries its tile and thread; a unit event its tile and the number
of the operation; a fabric event its port; a queue command its submission queue and the entry as read. -/
inductive Instr where
  -- thread instructions (R187)
  | add (t th : Nat) (sd sa sb : BitVec 4)
  | sub (t th : Nat) (sd sa sb : BitVec 4)
  | and (t th : Nat) (sd sa sb : BitVec 4)
  | or (t th : Nat) (sd sa sb : BitVec 4)
  | xor (t th : Nat) (sd sa sb : BitVec 4)
  | shl (t th : Nat) (sd sa sb : BitVec 4)
  | shr (t th : Nat) (sd sa sb : BitVec 4)
  | sra (t th : Nat) (sd sa sb : BitVec 4)
  | mul (t th : Nat) (sd sa sb : BitVec 4)
  | sltu (t th : Nat) (sd sa sb : BitVec 4)
  | slt (t th : Nat) (sd sa sb : BitVec 4)
  | addi (t th : Nat) (sd sa : BitVec 4) (imm : Word)
  | li (t th : Nat) (sd : BitVec 4) (imm : Word)
  | rdtr (t th : Nat) (sd sa : BitVec 4) (imm : Word)
  | rdsys (t th : Nat) (sd : BitVec 4) (imm : Word)
  | jmp (t th : Nat) (imm : Word)
  | jal (t th : Nat) (sd : BitVec 4) (imm : Word)
  | jr (t th : Nat) (sa : BitVec 4)
  | beq (t th : Nat) (sa sb : BitVec 4) (imm : Word)
  | bne (t th : Nat) (sa sb : BitVec 4) (imm : Word)
  | bltu (t th : Nat) (sa sb : BitVec 4) (imm : Word)
  | bgeu (t th : Nat) (sa sb : BitVec 4) (imm : Word)
  | blt (t th : Nat) (sa sb : BitVec 4) (imm : Word)
  | bge (t th : Nat) (sa sb : BitVec 4) (imm : Word)
  | nopInstruction (t th : Nat)
  | halt (t th : Nat)
  | wait (t th : Nat) (sa : BitVec 4) (cnt : Byte) (imm : Word)
  | signal (t th : Nat) (cnt amt : Byte)
  | pressPoint (t th : Nat) (cnt : Byte) (round : BitVec 3)
  | seam (t th : Nat) (no : Word) (tset : BitVec 2)
  | matrix (t th : Nat) (f : TFields)
  | matvec (t th : Nat) (f : TFields)
  | vector (t th : Nat) (f : TFields)
  | xfer (t th : Nat) (f : TFields)
  | dload (t th : Nat) (f : DFields)
  | send (t th : Nat) (f : NFields)
  | recv (t th : Nat) (f : NFields)
  -- unit events
  | operationStart (t : Nat) (op : OpStart)
  | matrixComplete (t op : Nat)
  | matvecComplete (t op : Nat)
  | vectorComplete (t op : Nat)
  | xferComplete (t op : Nat) (ce ue : List Nat)
  | sendComplete (t op : Nat)
  | recvComplete (t op : Nat)
  | inboundFlit (t : Nat) (port : BitVec 2) (flit : Beat)
  | fetchFill (t bank : Nat)
  | seamTake (g : Nat)
  | seamLeave (g : Nat)
  | pressCheckComplete (t : Nat)
  | pressVerdict (t : Nat)
  -- step guard
  | stepStartSignal
  | deadlineCheck
  | rewind
  -- commit rounds: arrival port and message
  | tally (p : Nat) (m : Msg)
  | vote (p : Nat) (m : Msg)
  | result (p : Nat) (m : Msg)
  | flipAck (p : Nat) (m : Msg)
  | release (p : Nat) (m : Msg)
  | query (p : Nat) (m : Msg)
  | abandon (p : Nat) (m : Msg)
  | roundTimeout
  | commitHoldTimeout
  -- fabric links
  | frameReceive (p : Nat) (f : Frame)
  | hello (p : Nat) (flit : Beat)
  | laneSwap (p : Nat) (flit : Beat)
  | laneAck (p : Nat) (flit : Beat)
  | down (p : Nat) (flit : Beat)
  | retrained (p : Nat) (flit : Beat)
  -- remote operations and collectives: arrival port and message
  | write (p : Nat) (m : Msg)
  | read (p : Nat) (m : Msg)
  | atomic (p : Nat) (m : Msg)
  | remoteSignal (p : Nat) (m : Msg)
  | ack (p : Nat) (m : Msg)
  | readResp (p : Nat) (m : Msg)
  | atomicResp (p : Nat) (m : Msg)
  | error (p : Nat) (m : Msg)
  | cput (p : Nat) (m : Msg)
  | leave (p : Nat) (m : Msg)
  | resync (p : Nat) (m : Msg)
  | resyncReply (p : Nat) (m : Msg)
  | offer (p : Nat) (m : Msg)
  | set (p : Nat) (m : Msg)
  | time (p : Nat) (m : Msg) (rx : BitVec 16)
  | timeSend
  | laneLockLoss (p lane : Nat)
  | laneErrorWindow (p lane bytes : Nat)
  | linkSilence (p : Nat)
  | resyncTimeout (p : Nat)
  | portReturn (p : Nat) (peerIdle : Bool)
  -- movers
  | mvEnq (t op m : Nat) (d : Beat)
  | moverCopy (m : Nat) (win : List (Beat × Bool))
  | atomicDescriptor (m : Nat)
  | collectiveDescriptor (m : Nat) (win : List (Beat × Bool))
  | permutationDescriptor (m : Nat) (win : List (Beat × Bool))
  -- transfers
  | memoryBeatReturn (t op beat : Nat) (win : Beat) (winOk ce : Bool) (ue : BeatErr)
  | inboundDrain (t bank : Nat)
  | outboundBeatDrain (t : Nat) (chan : Bool)
  | faultRetry (n : Nat)
  | faultError (n : Nat)
  | farResponseTimeout (t op beat : Nat)
  | farMissLimit (n : Nat)
  | hwinLimit (n : Nat)
  | farRequestTimeout (n : Nat)
  | farPortDown (p : Nat)
  | farPortUp (p : Nat)
  | farPortEnumerated (p cap : Nat) (ide : Bool)
  | pageRetire (page : Nat)
  | scrubComplete
  | preemptSave
  | saveComplete
  | restoreComplete
  -- host interface
  | sqTail (q : Nat) (v : Word)
  | cqHead (q : Nat) (v : Word)
  | sqEnable (q : Nat)
  | sqDisable (q : Nat)
  | cqEnable (q : Nat)
  | cqDisable (q : Nat)
  | sqResume (q : Nat)
  | entryReread (q : Nat) (e : BitVec 2048)
  | hwtInval (v : DWord) (ents : SMap DWord)
  | llrClear
  | timeNowRead
  | registerWrite (who : Master) (off width : Nat) (v : DWord)
  | h2dSnoop (addr : DWord)
  | exchangeAreaAccess (wr : Bool) (addr : Nat) (line : Beat)
  | configRequest
  | linkDown
  | linkUp (lanes rate : Nat)
  | linkDownTimeout
  | hostPerstAssert
  | hostPerstDeassert
  | hotReset
  | functionLevelReset
  | cxlReset
  -- commands
  | nop (q : Nat) (e : BitVec 2048)
  | identify (q : Nat) (e : BitVec 2048)
  | sessionOpen (q : Nat) (e : BitVec 2048)
  | sessionClose (q : Nat) (e : BitVec 2048)
  | attest (q : Nat) (e : BitVec 2048)
  | imageLoad (q : Nat) (e : BitVec 2048) (img : SMap Byte) (tags : Tags)
  | imageUnload (q : Nat) (e : BitVec 2048)
  | jobBind (q : Nat) (e : BitVec 2048) (cfg : SMap Byte) (tags : Tags)
  | jobRelease (q : Nat) (e : BitVec 2048)
  | jobReleaseForce (q : Nat) (e : BitVec 2048)
  | stepRun (q : Nat) (e : BitVec 2048)
  | preempt (q : Nat) (e : BitVec 2048)
  | resume (q : Nat) (e : BitVec 2048)
  | copyIn (q : Nat) (e : BitVec 2048) (lines : List Beat) (tags : Tags)
  | copyOut (q : Nat) (e : BitVec 2048)
  | writeInline (q : Nat) (e : BitVec 2048)
  | powerSet (q : Nat) (e : BitVec 2048)
  | powerQuery (q : Nat) (e : BitVec 2048)
  | restEnter (q : Nat) (e : BitVec 2048)
  | countersSnapshotInstant (q : Nat) (e : BitVec 2048)
  | countersSnapshotSeam (q : Nat) (e : BitVec 2048)
  | snapshotCopy
  | snapshotSeamCopy
  | ledgerRead (q : Nat) (e : BitVec 2048)
  | auditRead (q : Nat) (e : BitVec 2048)
  | firmwareStage (q : Nat) (e : BitVec 2048) (fw : FwPkg) (flashOk : Bool)
  | firmwareActivate (q : Nat) (e : BitVec 2048)
  | firmwareRestart
  | stagedFirmwareTimeout
  | portConfigOut (q : Nat) (e : BitVec 2048)
  | portConfigReturn (q : Nat) (e : BitVec 2048)
  | portStatus (q : Nat) (e : BitVec 2048)
  -- governor, lacing, alerts
  | govWindow (w : Window)
  | govCalibrate (m : Meas)
  | capUnattainable
  | bmcCapSet (mw : Nat)
  | lacingInstant
  | offerTimeout
  | setTimeout
  | setMiss
  | levelSwitch
  | palertAssert
  | alertClockSwitch
  | palertDeassert
  | bandHot (b : Nat) (temp : Int)
  | bandThermalDescent (b : Nat) (temp : Int)
  | gddr7Hot
  | thermalTrip
  | securitySelfTestFail
  | droopDetect (b : Nat)
  | droopStretchEnd (b : Nat) (firing : Bool)
  | railSensorFault (rail : Nat)
  | regulatorPhaseFail (rail phase maxOp : Nat)
  | trimUpdate (need : List Nat)
  | restEntry
  | wakeEnd
  -- time
  | ptpSync (m : PtpMsg)
  | ptpFollowUp (m : PtpMsg)
  | ptpDelayReq (seq : Nat) (sent : Int)
  | ptpDelayResp (m : PtpMsg)
  | ptpAnnounce (a : PtpAnn)
  | announceTimeout
  -- trust
  | getVersion
  | getCapabilities
  | negotiateAlgorithms (sha384 aesGcm : Bool)
  | getMeasurements (index : Nat)
  | pskExchange (slot : Nat)
  | pskFinish (session : Nat) (verified : Bool)
  | heartbeat (session : Nat)
  | endSession (session : Nat)
  | evidence (nonce : BitVec 256)
  | pskProvision (slot session : Nat) (ct psk tag : List Byte)
  | pldmFirmwareUpdate (fw : FwPkg) (flashOk : Bool)
  | boardRecordRetry (flashOk : Bool)
  -- faults and darning
  | lockstepMismatch (pair : Nat) (survivor : Bool)
  | tileFaultPredictive (t : Nat)
  | tileFaultHard (t : Nat)
  | tileDarn (t : Nat) (readable flashOk : Bool)
  | darnComplete
  | channelFaultPredictive (ch : ChanRep)
  | channelFaultHard (ch : ChanRep)
  | channelDarn (flashOk : Bool)
  -- bring-up
  | powerOn
  | aux12vLoss
  | modResetAssert
  | modResetDeassert
  | mainSequence (fail : Bool)
  | sequenceRetry (fail : Bool)
  | vin48Fault
  | vin48WarningTick
  | boot (b : BootIn)
  | fullReadiness
  | fabricTrainRetry
  | frameSend (p : Nat)
  | portTrained (p : Nat)
  | sensorRecovery
  | mainInputLoss
  | ideKm (session : Nat) (stream : Bool)
  deriving DecidableEq, Repr

end Sys2Proof
end

