-- ==== Sys2Proof/WellFormed.lean ====
section
/-! DEFINITION. Which commands are well formed: numbers within the ranges the spec gives the indices. -/

namespace Sys2Proof

/-- A message carries as many data flits as its LEN says, at most 16 (R278). -/
def Msg.wf (m : Msg) : Bool :=
  m.data.length == Machine.fldN m.hdr 8 5 && decide (m.data.length ≤ 16)

/-- The keys of a block of bytes rise. -/
def rising : SMap Byte → Bool
  | [] => true
  | [_] => true
  | a :: b :: m => decide (a.1 < b.1) && rising (b :: m)

/-- The range checks of a command: tile (R150), thread (R154), gang (R169), bank (R152), fabric port and lane (R268),
far-tier port (R240), queue (R340), mover (R255), band (R16), channel (R19), near-tier page (R265), PSK slot (R413),
lockstep pair (R441), access width (R12). -/
def Instr.wf : Instr → Bool
  | .add t th _ _ _ => decide (t < 1024) && decide (th < 4096)
  | .sub t th _ _ _ => decide (t < 1024) && decide (th < 4096)
  | .and t th _ _ _ => decide (t < 1024) && decide (th < 4096)
  | .or t th _ _ _ => decide (t < 1024) && decide (th < 4096)
  | .xor t th _ _ _ => decide (t < 1024) && decide (th < 4096)
  | .shl t th _ _ _ => decide (t < 1024) && decide (th < 4096)
  | .shr t th _ _ _ => decide (t < 1024) && decide (th < 4096)
  | .sra t th _ _ _ => decide (t < 1024) && decide (th < 4096)
  | .mul t th _ _ _ => decide (t < 1024) && decide (th < 4096)
  | .sltu t th _ _ _ => decide (t < 1024) && decide (th < 4096)
  | .slt t th _ _ _ => decide (t < 1024) && decide (th < 4096)
  | .addi t th _ _ _ => decide (t < 1024) && decide (th < 4096)
  | .li t th _ _ => decide (t < 1024) && decide (th < 4096)
  | .rdtr t th _ _ _ => decide (t < 1024) && decide (th < 4096)
  | .rdsys t th _ _ => decide (t < 1024) && decide (th < 4096)
  | .jmp t th _ => decide (t < 1024) && decide (th < 4096)
  | .jal t th _ _ => decide (t < 1024) && decide (th < 4096)
  | .jr t th _ => decide (t < 1024) && decide (th < 4096)
  | .beq t th _ _ _ => decide (t < 1024) && decide (th < 4096)
  | .bne t th _ _ _ => decide (t < 1024) && decide (th < 4096)
  | .bltu t th _ _ _ => decide (t < 1024) && decide (th < 4096)
  | .bgeu t th _ _ _ => decide (t < 1024) && decide (th < 4096)
  | .blt t th _ _ _ => decide (t < 1024) && decide (th < 4096)
  | .bge t th _ _ _ => decide (t < 1024) && decide (th < 4096)
  | .nopInstruction t th => decide (t < 1024) && decide (th < 4096)
  | .halt t th => decide (t < 1024) && decide (th < 4096)
  | .wait t th _ _ _ => decide (t < 1024) && decide (th < 4096)
  | .signal t th _ _ => decide (t < 1024) && decide (th < 4096)
  | .pressPoint t th _ _ => decide (t < 1024) && decide (th < 4096)
  | .seam t th _ _ => decide (t < 1024) && decide (th < 4096)
  | .matrix t th _ => decide (t < 1024) && decide (th < 4096)
  | .matvec t th _ => decide (t < 1024) && decide (th < 4096)
  | .vector t th _ => decide (t < 1024) && decide (th < 4096)
  | .xfer t th _ => decide (t < 1024) && decide (th < 4096)
  | .dload t th _ => decide (t < 1024) && decide (th < 4096)
  | .send t th _ => decide (t < 1024) && decide (th < 4096)
  | .recv t th _ => decide (t < 1024) && decide (th < 4096)
  | .operationStart t _ => decide (t < 1024)
  | .matrixComplete t _ => decide (t < 1024)
  | .matvecComplete t _ => decide (t < 1024)
  | .vectorComplete t _ => decide (t < 1024)
  | .xferComplete t _ _ _ => decide (t < 1024)
  | .sendComplete t _ => decide (t < 1024)
  | .recvComplete t _ => decide (t < 1024)
  | .inboundFlit t _ _ => decide (t < 1024)
  | .fetchFill t bank => decide (t < 1024) && decide (bank < 16)
  | .seamTake g => decide (g < 64)
  | .seamLeave g => decide (g < 64)
  | .pressCheckComplete t => decide (t < 1024)
  | .pressVerdict t => decide (t < 1024)
  | .stepStartSignal => true
  | .deadlineCheck => true
  | .rewind => true
  | .tally p m => decide (p < 18) && m.wf
  | .vote p m => decide (p < 18) && m.wf
  | .result p m => decide (p < 18) && m.wf
  | .flipAck p m => decide (p < 18) && m.wf
  | .release p m => decide (p < 18) && m.wf
  | .query p m => decide (p < 18) && m.wf
  | .abandon p m => decide (p < 18) && m.wf
  | .roundTimeout => true
  | .commitHoldTimeout => true
  | .frameReceive p _ => decide (p < 18)
  | .hello p _ => decide (p < 18)
  | .laneSwap p _ => decide (p < 18)
  | .laneAck p _ => decide (p < 18)
  | .down p _ => decide (p < 18)
  | .retrained p _ => decide (p < 18)
  | .write p m => decide (p < 18) && m.wf
  | .read p m => decide (p < 18) && m.wf
  | .atomic p m => decide (p < 18) && m.wf
  | .remoteSignal p m => decide (p < 18) && m.wf
  | .ack p m => decide (p < 18) && m.wf
  | .readResp p m => decide (p < 18) && m.wf
  | .atomicResp p m => decide (p < 18) && m.wf
  | .error p m => decide (p < 19) && m.wf
  | .cput p m => decide (p < 18) && m.wf
  | .leave p m => decide (p < 18) && m.wf
  | .resync p m => decide (p < 18) && m.wf
  | .resyncReply p m => decide (p < 18) && m.wf
  | .offer p m => decide (p < 18) && m.wf
  | .set p m => decide (p < 18) && m.wf
  | .time p m _ => decide (p < 18) && m.wf
  | .timeSend => true
  | .laneLockLoss p lane => decide (p < 18) && decide (lane < 9)
  | .laneErrorWindow p lane _ => decide (p < 18) && decide (lane < 9)
  | .linkSilence p => decide (p < 18)
  | .resyncTimeout p => decide (p < 18)
  | .portReturn p _ => decide (p < 18)
  | .mvEnq t _ m _ => decide (t < 1024) && decide (m < 32)
  | .moverCopy m _ => decide (m < 32)
  | .atomicDescriptor m => decide (m < 32)
  | .collectiveDescriptor m _ => decide (m < 32)
  | .permutationDescriptor m _ => decide (m < 32)
  | .memoryBeatReturn t _ _ _ _ _ _ => decide (t ≤ 1024)
  | .inboundDrain t bank => decide (t < 1024) && decide (bank < 16)
  | .outboundBeatDrain t _ => decide (t < 1024)
  | .faultRetry _ => true
  | .faultError _ => true
  | .farResponseTimeout t _ _ => decide (t < 1074)
  | .farMissLimit _ => true
  | .hwinLimit _ => true
  | .farRequestTimeout _ => true
  | .farPortDown p => decide (p < 4)
  | .farPortUp p => decide (p < 4)
  | .farPortEnumerated p _ _ => decide (p < 4)
  | .pageRetire page => decide (page < 4194304)
  | .scrubComplete => true
  | .preemptSave => true
  | .saveComplete => true
  | .restoreComplete => true
  | .sqTail q _ => decide (q < 16)
  | .cqHead q _ => decide (q < 16)
  | .sqEnable q => decide (q < 16)
  | .sqDisable q => decide (q < 16)
  | .cqEnable q => decide (q < 16)
  | .cqDisable q => decide (q < 16)
  | .sqResume q => decide (q < 16)
  | .entryReread q _ => decide (q < 16)
  | .hwtInval _ _ => true
  | .llrClear => true
  | .timeNowRead => true
  | .registerWrite _ _ width _ => decide (0 < width) && decide (width ≤ 64)
  | .h2dSnoop _ => true
  | .exchangeAreaAccess _ addr _ => decide (addr < 2 ^ 52)
  | .configRequest => true
  | .linkDown => true
  | .linkUp _ _ => true
  | .linkDownTimeout => true
  | .hostPerstAssert => true
  | .hostPerstDeassert => true
  | .hotReset => true
  | .functionLevelReset => true
  | .cxlReset => true
  | .nop q _ => decide (q < 16)
  | .identify q _ => decide (q < 16)
  | .sessionOpen q _ => decide (q < 16)
  | .sessionClose q _ => decide (q < 16)
  | .attest q _ => decide (q < 16)
  | .imageLoad q _ img _ => decide (q < 16) && rising img
  | .imageUnload q _ => decide (q < 16)
  | .jobBind q _ cfg _ => decide (q < 16) && rising cfg
  | .jobRelease q _ => decide (q < 16)
  | .jobReleaseForce q _ => decide (q < 16)
  | .stepRun q _ => decide (q < 16)
  | .preempt q _ => decide (q < 16)
  | .resume q _ => decide (q < 16)
  | .copyIn q _ _ _ => decide (q < 16)
  | .copyOut q _ => decide (q < 16)
  | .writeInline q _ => decide (q < 16)
  | .powerSet q _ => decide (q < 16)
  | .powerQuery q _ => decide (q < 16)
  | .restEnter q _ => decide (q < 16)
  | .countersSnapshotInstant q _ => decide (q < 16)
  | .countersSnapshotSeam q _ => decide (q < 16)
  | .snapshotCopy => true
  | .snapshotSeamCopy => true
  | .ledgerRead q _ => decide (q < 16)
  | .auditRead q _ => decide (q < 16)
  | .firmwareStage q _ _ _ => decide (q < 16)
  | .firmwareActivate q _ => decide (q < 16)
  | .firmwareRestart => true
  | .stagedFirmwareTimeout => true
  | .portConfigOut q _ => decide (q < 16)
  | .portConfigReturn q _ => decide (q < 16)
  | .portStatus q _ => decide (q < 16)
  | .govWindow _ => true
  | .govCalibrate _ => true
  | .capUnattainable => true
  | .bmcCapSet _ => true
  | .lacingInstant => true
  | .offerTimeout => true
  | .setTimeout => true
  | .setMiss => true
  | .levelSwitch => true
  | .palertAssert => true
  | .alertClockSwitch => true
  | .palertDeassert => true
  | .bandHot b _ => decide (b < 8)
  | .bandThermalDescent b _ => decide (b < 8)
  | .gddr7Hot => true
  | .thermalTrip => true
  | .securitySelfTestFail => true
  | .droopDetect b => decide (b < 8)
  | .droopStretchEnd b _ => decide (b < 8)
  | .railSensorFault _ => true
  | .regulatorPhaseFail _ _ _ => true
  | .trimUpdate _ => true
  | .restEntry => true
  | .wakeEnd => true
  | .ptpSync m => decide (m.transport < 2)
  | .ptpFollowUp m => decide (m.transport < 2)
  | .ptpDelayReq _ _ => true
  | .ptpDelayResp m => decide (m.transport < 2)
  | .ptpAnnounce a => decide (a.transport < 2)
  | .announceTimeout => true
  | .getVersion => true
  | .getCapabilities => true
  | .negotiateAlgorithms _ _ => true
  | .getMeasurements _ => true
  | .pskExchange slot => decide (slot < 16)
  | .pskFinish _ _ => true
  | .heartbeat _ => true
  | .endSession _ => true
  | .evidence _ => true
  | .pskProvision slot _ _ _ _ => decide (slot < 16)
  | .pldmFirmwareUpdate _ _ => true
  | .boardRecordRetry _ => true
  | .lockstepMismatch pair _ => decide (pair < 2)
  | .tileFaultPredictive t => decide (t < 1024)
  | .tileFaultHard t => decide (t < 1024)
  | .tileDarn t _ _ => decide (t < 1024)
  | .darnComplete => true
  | .channelFaultPredictive c => decide (c.ch < 34)
  | .channelFaultHard c => decide (c.ch < 34)
  | .channelDarn _ => true
  | .powerOn => true
  | .aux12vLoss => true
  | .modResetAssert => true
  | .modResetDeassert => true
  | .mainSequence _ => true
  | .sequenceRetry _ => true
  | .vin48Fault => true
  | .vin48WarningTick => true
  | .boot _ => true
  | .fullReadiness => true
  | .fabricTrainRetry => true
  | .frameSend p => decide (p < 18)
  | .portTrained p => decide (p < 18)
  | .sensorRecovery => true
  | .mainInputLoss => true
  | .ideKm _ _ => true

end Sys2Proof
end

