-- ==== Sys2Proof/Decode.lean ====
section
/-! DEFINITION. Thread instruction words (R185 to R187) to commands and back. The opcode table gives no row any bits, so
`decodeTableWord` spells no command. -/

namespace Sys2Proof

open Machine

/-- No row of the opcode table gives bits: no word spells a command. -/
def decodeTableWord (_nbits _w : Nat) : Option Instr := none

/-- The T format's fields (R186). -/
def decodeT (w : BitVec 64) : TFields :=
  { oz := fld w 8 4, ox := fld w 12 4, oy := fld w 16 4, phase := fld w 20 8, dl := bitB w 28, off := fld w 29 3 }

/-- The D format's fields (R186). -/
def decodeD (w : BitVec 64) : DFields :=
  { sa := fld w 12 4, phase := fld w 20 8, cnt := fld w 28 8, dl := bitB w 36, imm := fld w 40 24 }

/-- The N format's fields (R186). -/
def decodeN (w : BitVec 64) : NFields :=
  { sa := fld w 12 4, phase := fld w 20 8, cnt := fld w 28 8, port := fld w 36 2, nflit := fld w 38 12 }

/-- The thread instruction a 64-bit word spells for thread `th` of tile `t`; none for a reserved OP (R187). -/
def decodeThread (t th : Nat) (w : BitVec 64) : Option Instr :=
  let sd : BitVec 4 := fld w 8 4
  let sa : BitVec 4 := fld w 12 4
  let sb : BitVec 4 := fld w 16 4
  let imm : Word := fld w 20 32
  match fldN w 0 8 with
  | 0x01 => some (.add t th sd sa sb)
  | 0x02 => some (.sub t th sd sa sb)
  | 0x03 => some (.and t th sd sa sb)
  | 0x04 => some (.or t th sd sa sb)
  | 0x05 => some (.xor t th sd sa sb)
  | 0x06 => some (.shl t th sd sa sb)
  | 0x07 => some (.shr t th sd sa sb)
  | 0x08 => some (.sra t th sd sa sb)
  | 0x09 => some (.mul t th sd sa sb)
  | 0x0A => some (.sltu t th sd sa sb)
  | 0x0B => some (.slt t th sd sa sb)
  | 0x10 => some (.addi t th sd sa imm)
  | 0x11 => some (.li t th sd imm)
  | 0x12 => some (.rdtr t th sd sa imm)
  | 0x13 => some (.rdsys t th sd imm)
  | 0x20 => some (.jmp t th imm)
  | 0x21 => some (.jal t th sd imm)
  | 0x22 => some (.jr t th sa)
  | 0x23 => some (.beq t th sa sb imm)
  | 0x24 => some (.bne t th sa sb imm)
  | 0x25 => some (.bltu t th sa sb imm)
  | 0x26 => some (.bgeu t th sa sb imm)
  | 0x27 => some (.blt t th sa sb imm)
  | 0x28 => some (.bge t th sa sb imm)
  | 0x2E => some (.nopInstruction t th)
  | 0x2F => some (.halt t th)
  | 0x30 => some (.wait t th sa (fld w 20 8) (fld w 32 32))
  | 0x31 => some (.signal t th (fld w 20 8) (fld w 28 8))
  | 0x32 => some (.pressPoint t th (fld w 20 8) (fld w 28 3))
  | 0x33 => some (.seam t th imm (fld w 52 2))
  | 0x40 => some (.matrix t th (decodeT w))
  | 0x41 => some (.matvec t th (decodeT w))
  | 0x42 => some (.vector t th (decodeT w))
  | 0x43 => some (.xfer t th (decodeT w))
  | 0x44 => some (.dload t th (decodeD w))
  | 0x45 => some (.send t th (decodeN w))
  | 0x46 => some (.recv t th (decodeN w))
  | _ => none

/-- The word of an R-format instruction (R186). -/
def encodeR (op : BitVec 8) (sd sa sb : BitVec 4) : BitVec 64 := (0 : BitVec 44) ++ sb ++ sa ++ sd ++ op

/-- The word of an I-format instruction. -/
def encodeI (op : BitVec 8) (sd sa sb : BitVec 4) (imm : Word) : BitVec 64 :=
  (0 : BitVec 12) ++ imm ++ sb ++ sa ++ sd ++ op

/-- The word of a T-format instruction. -/
def encodeT (op : BitVec 8) (f : TFields) : BitVec 64 :=
  (0 : BitVec 32) ++ f.off ++ BitVec.ofBool f.dl ++ f.phase ++ f.oy ++ f.ox ++ f.oz ++ op

/-- The word of a D-format instruction. -/
def encodeD (op : BitVec 8) (f : DFields) : BitVec 64 :=
  f.imm ++ (0 : BitVec 3) ++ BitVec.ofBool f.dl ++ f.cnt ++ f.phase ++ (0 : BitVec 4) ++ f.sa ++ (0 : BitVec 4) ++ op

/-- The word of an N-format instruction. -/
def encodeN (op : BitVec 8) (f : NFields) : BitVec 64 :=
  (0 : BitVec 14) ++ f.nflit ++ f.port ++ f.cnt ++ f.phase ++ (0 : BitVec 4) ++ f.sa ++ (0 : BitVec 4) ++ op

/-- The tile, thread and word of a thread instruction, reserved bits 0; none for a command of another kind. -/
def encodeThread : Instr → Option (Nat × Nat × BitVec 64)
  | .add t th sd sa sb => some (t, th, encodeR 0x01 sd sa sb)
  | .sub t th sd sa sb => some (t, th, encodeR 0x02 sd sa sb)
  | .and t th sd sa sb => some (t, th, encodeR 0x03 sd sa sb)
  | .or t th sd sa sb => some (t, th, encodeR 0x04 sd sa sb)
  | .xor t th sd sa sb => some (t, th, encodeR 0x05 sd sa sb)
  | .shl t th sd sa sb => some (t, th, encodeR 0x06 sd sa sb)
  | .shr t th sd sa sb => some (t, th, encodeR 0x07 sd sa sb)
  | .sra t th sd sa sb => some (t, th, encodeR 0x08 sd sa sb)
  | .mul t th sd sa sb => some (t, th, encodeR 0x09 sd sa sb)
  | .sltu t th sd sa sb => some (t, th, encodeR 0x0A sd sa sb)
  | .slt t th sd sa sb => some (t, th, encodeR 0x0B sd sa sb)
  | .addi t th sd sa imm => some (t, th, encodeI 0x10 sd sa 0 imm)
  | .li t th sd imm => some (t, th, encodeI 0x11 sd 0 0 imm)
  | .rdtr t th sd sa imm => some (t, th, encodeI 0x12 sd sa 0 imm)
  | .rdsys t th sd imm => some (t, th, encodeI 0x13 sd 0 0 imm)
  | .jmp t th imm => some (t, th, encodeI 0x20 0 0 0 imm)
  | .jal t th sd imm => some (t, th, encodeI 0x21 sd 0 0 imm)
  | .jr t th sa => some (t, th, encodeI 0x22 0 sa 0 0)
  | .beq t th sa sb imm => some (t, th, encodeI 0x23 0 sa sb imm)
  | .bne t th sa sb imm => some (t, th, encodeI 0x24 0 sa sb imm)
  | .bltu t th sa sb imm => some (t, th, encodeI 0x25 0 sa sb imm)
  | .bgeu t th sa sb imm => some (t, th, encodeI 0x26 0 sa sb imm)
  | .blt t th sa sb imm => some (t, th, encodeI 0x27 0 sa sb imm)
  | .bge t th sa sb imm => some (t, th, encodeI 0x28 0 sa sb imm)
  | .nopInstruction t th => some (t, th, encodeR 0x2E 0 0 0)
  | .halt t th => some (t, th, encodeR 0x2F 0 0 0)
  | .wait t th sa cnt imm =>
    some (t, th, imm ++ (0 : BitVec 4) ++ cnt ++ (0 : BitVec 4) ++ sa ++ (0 : BitVec 4) ++ (0x30 : BitVec 8))
  | .signal t th cnt amt =>
    some (t, th, (0 : BitVec 28) ++ amt ++ cnt ++ (0 : BitVec 12) ++ (0x31 : BitVec 8))
  | .pressPoint t th cnt round =>
    some (t, th, (0 : BitVec 33) ++ round ++ cnt ++ (0 : BitVec 12) ++ (0x32 : BitVec 8))
  | .seam t th no tset => some (t, th, (0 : BitVec 10) ++ tset ++ no ++ (0 : BitVec 12) ++ (0x33 : BitVec 8))
  | .matrix t th f => some (t, th, encodeT 0x40 f)
  | .matvec t th f => some (t, th, encodeT 0x41 f)
  | .vector t th f => some (t, th, encodeT 0x42 f)
  | .xfer t th f => some (t, th, encodeT 0x43 f)
  | .dload t th f => some (t, th, encodeD 0x44 f)
  | .send t th f => some (t, th, encodeN 0x45 f)
  | .recv t th f => some (t, th, encodeN 0x46 f)
  | _ => none

end Sys2Proof
end

