-- ==== Sys2Proof/Config.lean ====
section
/-! DEFINITION. What the manual leaves to an implementation, to the TRNG or to a published standard: constants
without a body, so that a claim is true whatever they are (logs 3, 5, 9). -/

namespace Sys2Proof

/-- A fresh free value: the n-th number the model has drawn, where the manual states no value (log 3). -/
opaque Config.freeBits : Nat → DWord
/-- A 512-bit draw of the security controller's TRNG (R411), by draw number (log 5). -/
opaque Config.trng : Nat → Beat
/-- SHAKE256 with 64 B output (R410), on the bytes given (log 5). -/
opaque Config.shake256 : List Byte → Beat
/-- KMAC256: output length in bits, key, input, customisation string (R411; log 5). -/
opaque Config.kmac256 : Nat → Beat → List Byte → String → Beat
/-- Reed-Solomon parity of the 76 bytes before it, symbols of 8 bits, correcting any 2 byte errors (R269; log 13). -/
opaque Config.rsParity : List Byte → Word
/-- AES-256-GCM: the key stream's byte at a position, from key and nonce; and the 16 B tag of key, nonce, additional data and
ciphertext (R410; log 5). -/
opaque Config.gcmStream : Beat → List Byte → Nat → Byte
opaque Config.gcmTag : Beat → List Byte → List Byte → List Byte → BitVec 128
/-- ML-KEM-1024 decapsulation of a ciphertext under this boot's key pair, named by its draw number: a shared secret of 32 B
(R410, R425; log 5). -/
opaque Config.kemDecap : Nat → List Byte → BitVec 256
/-- ML-KEM-1024 encapsulation key of the key pair named by its draw number (R423; log 5). -/
opaque Config.kemKey : Nat → List Byte
/-- The XMSS key of three seeds: SK_SEED, SK_PRF, PUB_SEED (R412; log 5). -/
opaque Config.xmssKey : Beat → Beat → Beat → Beat
/-- XMSS signature: key seed, leaf, message (R419, R421; log 5). -/
opaque Config.xmssSign : Beat → Nat → List Byte → List Byte
/-- XMSS public key (root and public seed) of a key seed (R410; log 5). -/
opaque Config.xmssPub : Beat → Beat
/-- The vendor's public key, root and public seed (R410, R412). -/
opaque Config.vendorKey : Beat
/-- A signature that the holder of a public key makes over a message; and whether any other one verifies: public key, message,
signature (R410, R414; log 5). -/
opaque Config.xmssMade : Beat → List Byte → List Byte
opaque Config.xmssVerify : Beat → List Byte → List Byte → Bool
/-- A component of a firmware package, from its components' bytes: security controller, management, link-die PHYs. Where each ends is
laid down nowhere (R414; log 5). -/
opaque Config.component : List Byte → Nat → List Byte
/-- AES-256-XTS on one 16 B block of a data unit: key, tweak of the unit, number of the block in it; encryption, its inverse
decryption (R263, R427; log 5). -/
opaque Config.xtsBlock : Beat → Nat → Nat → (BitVec 128 ≃ BitVec 128)
/-- The module's 256-bit PUF secret P (R412). -/
opaque Config.pufSecret : BitVec 256
/-- The serial number in the factory part of the board record (R417). -/
opaque Config.serial : BitVec 128
/-- Base voltage in mV of a band at an operating point: band, operating point (R380, R417). -/
opaque Config.vbase : Nat → Nat → Nat
/-- LEAK_b in mW and the static powers of links and memory in mW (R381, R417). -/
opaque Config.leak : Nat → Nat
opaque Config.staticPower : Nat → Nat
/-- PTP defaults of the board record: PTP_CFG, PTP_ASYM_PS, PTP_IPV4 (R408, R417). -/
opaque Config.ptpDefault : Nat → Word
/-- The fixed transcendental functions of chain steps (R130), by opcode, on S32 bit patterns (log 9). -/
opaque Config.transc : BitVec 6 → Word → Word
/-- DIV's fixed function of its two operands (R130; log 9). -/
opaque Config.divFn : Word → Word → Word
/-- The 64-bit MAC over the ciphertext of one 512 B granule and its global address: tag key, global address, ciphertext
(R263; log 5). -/
opaque Config.granuleMac : Beat → Nat → List Byte → DWord
/-- The 64-bit word of host memory at an address, where the host has told the device nothing else (R351, R352; log 7). -/
opaque Config.hostWord : Nat → DWord
/-- The pairs of scratchpad offset and bytes that a SCRATCH_INIT section holds: the widths of a pair are laid down nowhere
(R183; log 6). -/
opaque Config.scratchInit : List Byte → List (Nat × List Byte)
/-- Flits that the links limiter lets leave in KIND 1 slots in a window, from the links grant in mW (R387; log 36). -/
opaque Config.linkLimit : Nat → Nat
/-- Near-tier beats that the memory limiter, and far-tier requests that the links limiter, let through in a window, from the
domain's grant in mW (R387; log 36). -/
opaque Config.memLimit : Nat → Nat
opaque Config.farLimit : Nat → Nat
/-- Ziotte's PCI-SIG identifier, the vendor ID in configuration space (R339). -/
opaque Config.vendorId : BitVec 16
/-- Which free page of a DEMAND pool firmware supplies: a number reduced modulo the free pages (R246). -/
opaque Config.pickPage : Nat → Nat

end Sys2Proof
end

