-- ==== Sys2Proof/Machine/State.lean ====
section
/-! DEFINITION. The state of the module as plain data, block by block, each field with its width or kind, the rule that
names it and its reset value (the `:=` default); `State.reset` is every field at that value. -/

namespace Sys2Proof.Machine

/-- The faults a step could stop with. Every fault of the manual has an effect the manual states, so no meaning raises
one: the constructor is here because the interface asks for the type (safe: nothing stops). -/
inductive Fault where
  /-- raised by nobody; safe -/
  | none
  deriving DecidableEq, Repr

/-- The reasons a command could have no meaning. -/
inductive Refusal where
  /-- raised by an arm of exec whose row has no meaning yet; safe (no arm does) -/
  | notModelled (mnemonic : String)
  deriving DecidableEq, Repr

/-! ## Clock and time -/

/-- The compute clock as the rows see it (R159, R379, R398; log 1). -/
structure Clock where
  /-- count of cycles that advanced the slot index; R159; reset 0 -/
  cycle : Nat := 0
  /-- slot index, 8 bits; R159; reset 0 -/
  slot : Byte := 0
  /-- position in the 8-cycle duty pattern, 3 bits; R379; reset 0 -/
  duty : BitVec 3 := 0
  /-- phase of the 400 MHz time clock against CCLK; R402, R403; reset 0 -/
  phase : Nat := 0
  /-- CCLK cycles a droop stretch still lasts; R398; reset 0 -/
  stretch : Nat := 0
  /-- inside the idle gap of an operating-point switch; R393; reset false -/
  gap : Bool := false
  deriving DecidableEq, Repr

/-- TIME_STATUS.STATE (R405). -/
inductive PtpState where
  | free | acquiring | locked | holdover | node
  deriving DecidableEq, Repr

/-- The time block (R403 to R408) and the PTP port's state. -/
structure TimeBlk where
  /-- TIME_NOW, ns and 2^-32 ns, 96 bits; R403; reset 0 -/
  now : BitVec 96 := 0
  /-- TIME_FRAC, 16 bits; R408; reset 0 -/
  frac : BitVec 16 := 0
  /-- TIME_STATUS.STATE; R405; reset FREE -/
  st : PtpState := .free
  /-- TIME_STATUS.NODE_REF; R406; reset 0 -/
  nodeRef : Bool := false
  /-- TIME_STATUS.NODE_FALLBACK; R406; reset 0 -/
  fallback : Bool := false
  /-- TIME_STATUS [7:5], index of the reference; R408; reset 0 -/
  refIdx : BitVec 3 := 0
  /-- TIME_INCR, 40 bits; R403; reset 0x2_8000_0000 -/
  incr : BitVec 40 := 0x280000000
  /-- TIME_OFFSET_PS, signed; R408; reset 0 -/
  offsetPs : Int := 0
  /-- TIME_NODE_PS, signed; R408; reset 0 -/
  nodePs : Int := 0
  /-- PTP_CFG; R408; boot (reads 0 before) -/
  cfg : Word := 0
  /-- PTP_ASYM_PS; R408; boot (reads 0 before) -/
  asym : Word := 0
  /-- PTP_IPV4; R408; boot (reads 0 before) -/
  ipv4 : Word := 0
  /-- time transmitters whose Announce has been received, the latest Announce of each; R404, R405; DESIGN CHOICE none (log 14) -/
  announced : List PtpAnn := []
  /-- t1 and t2 of the latest Sync, in 2^-32 ns, with its sequence number; R404; DESIGN CHOICE none (log 14) -/
  sync : Option (Nat × Int × Int) := none
  /-- a two-step Sync waits for its Follow_Up; R404; DESIGN CHOICE false (log 14) -/
  waitFollow : Bool := false
  /-- t3 of the latest Delay_Req with its sequence number; R404; DESIGN CHOICE none (log 14) -/
  delayReq : Option (Nat × Int) := none
  /-- consecutive offsets below 100 ns; R405; reset 0 -/
  good : Nat := 0
  /-- offset still to be removed by rate, in 2^-32 ns; R403; reset 0 -/
  residual : Int := 0
  deriving DecidableEq, Repr

/-! ## Tiles -/

/-- The units an issued operation belongs to (R162). -/
inductive OpKind where
  | matrix | matvec | vector | xfer | dload | send | recv
  deriving DecidableEq, Repr

/-- One use of a resource by an operation: resource index (R151) and first and last cycle, in cycle counts. -/
structure Use where
  res : Nat
  from_ : Nat
  to_ : Nat
  deriving DecidableEq, Repr

/-- The sources of an escalation request (R107). -/
inductive ReqSrc where
  | check | pool | budget | budgetMv
  deriving DecidableEq, Repr

/-- An escalation request: source and the ladder entries it names (R107). -/
structure EscReq where
  src : ReqSrc
  entries : List Nat
  deriving DecidableEq, Repr

/-- An issued operation: in its start latch until `started`, then in flight (R162, R170). -/
structure Op where
  /-- number of the operation in its tile -/
  id : Nat
  kind : OpKind
  /-- issuing thread; R154 -/
  thread : Nat
  /-- descriptor copied at issue, offsets and ladder formats applied; R194, R96 -/
  desc : Beat := 0
  /-- first cycle; R162 -/
  ts : Nat
  /-- cycle of the last event of its timing table; R166 -/
  fin : Nat
  uses : List Use := []
  started : Bool := false
  /-- scratchpad address of a DLOAD, SEND or RECV; R193, R205 -/
  addr : Nat := 0
  cnt : Byte := 0
  dl : Bool := false
  port : BitVec 2 := 0
  nflit : Nat := 0
  /-- flits received so far, and the receive has faulted; R205 -/
  got : Nat := 0
  bad : Bool := false
  /-- accumulator elements captured at t_s for XSRC = 1, in element order; R125, R86 -/
  xacc : List A36 := []
  /-- a hazardous read has raised its fault; R86 -/
  hazarded : Bool := false
  /-- hazardous group reads still to come: cycle and lowest array; R86 -/
  hz : List (Nat × Nat) := []
  /-- escalation requests it raises at its end: patch budget overruns; R85 -/
  reqs : List EscReq := []
  /-- sampled for the press check, in the press interval named; R100, R101 -/
  sampled : Bool := false
  interval : Nat := 0
  /-- bytes read at t_s − 1: the expander table or the chain record; R81, R128, R471 -/
  pre : Option (List Byte) := none
  /-- scratchpad and hamper as the operation has read them within its window; R471 -/
  seen : Option (SMap Byte × SMap Byte) := none
  /-- words of the hamper that its reads find corrected and uncorrectable; R218 -/
  ceWords : List Nat := []
  ueWords : List Nat := []
  /-- transfer: beats requested or read from its source; copy between kinds 0 and 1: beats written; R202, R252, R258 -/
  reqd : Nat := 0
  done : Nat := 0
  /-- beats asked for and not returned (beat, global address); R252 -/
  asked : List (Nat × Nat) := []
  /-- beats returned or read, waiting in the boundary buffer or outbound buffer (beat, address, data, poisoned) -/
  buf : List (Nat × Nat × Beat × Bool) := []
  /-- outbound credits the transfer holds for beats a fault or a save keeps; R258, R261 -/
  keeps : Nat := 0
  /-- number of the transfer fault that holds it; R258 -/
  held : Option Nat := none
  /-- the transfer requests no more beats: abandoned step; R229 -/
  stopped : Bool := false
  deriving DecidableEq, Repr

/-- The KFS block (R59); every count stops at 0xFFFF_FFFF; all reset 0. -/
structure Kfs where
  /-- KFS_FLAGS.NAN, OVF, POOL_OVF, FMT_FAULT; R59; reset 0 -/
  nan : Bool := false
  ovf : Bool := false
  poolOvf : Bool := false
  fmtFault : Bool := false
  /-- KFS_SAT_COUNT, 32 bits; R59; reset 0 -/
  sat : Nat := 0
  /-- KFS_UNF_COUNT, 32 bits; R59; reset 0 -/
  unf : Nat := 0
  /-- KFS_NAN_COUNT, 32 bits; R59; reset 0 -/
  nanCount : Nat := 0
  /-- KFS_PATCH_COUNT, 32 bits; R59; reset 0 -/
  patch : Nat := 0
  /-- KFS_ZBLK_COUNT, 32 bits; R59; reset 0 -/
  zblk : Nat := 0
  /-- KFS_SATBLK_COUNT, 32 bits; R59; reset 0 -/
  satblk : Nat := 0
  /-- KFS_ESCBLK_COUNT, 32 bits; R59; reset 0 -/
  escblk : Nat := 0
  /-- KFS_FMT_FAULT_COUNT, 32 bits; R59; reset 0 -/
  fmtCount : Nat := 0
  deriving DecidableEq, Repr

/-- The MXS block (R89); all reset 0. -/
structure Mxs where
  /-- MXS_OP_COUNT, 32 bits; R89; reset 0 -/
  ops : Nat := 0
  /-- MXS_PATCH_COUNT, 32 bits; R89; reset 0 -/
  patch : Nat := 0
  /-- MXS_PBUDGET_COUNT, 32 bits; R89; reset 0 -/
  pbudget : Nat := 0
  /-- MXS_OVF_COUNT, 32 bits; R89; reset 0 -/
  ovf : Nat := 0
  /-- MXS_NAN_COUNT, 32 bits; R89; reset 0 -/
  nan : Nat := 0
  /-- MXS_HAZARD_COUNT, 32 bits; R89; reset 0 -/
  hazard : Nat := 0
  deriving DecidableEq, Repr

/-- The VRS block (R148); all reset 0. -/
structure Vrs where
  /-- VRS_FLAGS.NANSEEN; R148; reset 0 (the other flags follow their counts) -/
  nanSeen : Bool := false
  /-- VRS_OP_COUNT, 32 bits; R148; reset 0 -/
  ops : Nat := 0
  /-- VRS_EMPTY_COUNT, 32 bits; R148; reset 0 -/
  empty : Nat := 0
  /-- VRS_NAN_GEN_COUNT, 32 bits; R148; reset 0 -/
  nanGen : Nat := 0
  /-- VRS_DOMAIN_COUNT, 32 bits; R148; reset 0 -/
  domain : Nat := 0
  /-- VRS_NANZERO_COUNT, 32 bits; R148; reset 0 -/
  nanZero : Nat := 0
  /-- VRS_NANMAP, 32 bits; R148; reset 0 -/
  nanMap : Word := 0
  /-- VRS_NAN_FIRST, 64 bits; R148; reset 0 -/
  nanFirst : DWord := 0
  /-- issue number of the operation that wrote VRS_NAN_FIRST; R143; reset none -/
  firstOp : Option Nat := none
  deriving DecidableEq, Repr

/-- The TS block (R181); TS_STATE is computed from the tile and its gang. -/
structure Ts where
  /-- TS_SEAM, 32 bits; R181; reset 0 -/
  seam : Word := 0
  /-- TS_FAULT, 64 bits; R181; reset 0 -/
  fault : DWord := 0
  /-- TS_FAULT_COUNT, 32 bits; R181; reset 0 -/
  faults : Nat := 0
  /-- TS_LATE_SIG, 32 bits; R181; reset 0 -/
  lateSig : Nat := 0
  /-- TS_SIG_IN, 64 bits; R181; reset 0 -/
  sigIn : Nat := 0
  /-- TS_ISSUE, 64 bits; R181; reset 0 -/
  issued : Nat := 0
  deriving DecidableEq, Repr

/-- A raise in PCT_RAISE_LIST (R108, R120). -/
structure Raise where
  entry : Nat
  rung : Nat
  deferred : Bool
  deriving DecidableEq, Repr

/-- A captured operation of a press interval (R101): key, descriptor, snapshot once complete, outcome once checked. -/
structure PressEnt where
  layer : Nat
  opid : Nat
  op : Nat
  desc : Beat
  snap : Option (List A36)
  checked : Bool
  deriving DecidableEq, Repr

/-- A press interval (R102): open, or closed with the counter and round its PRESS_POINT names (R191). -/
structure Interval where
  id : Nat
  closed : Bool := false
  cnt : Byte := 0
  round : Nat := 0
  closedAt : Nat := 0
  /-- sampled operations issued and not complete -/
  pend : Nat := 0
  ents : List PressEnt := []
  reqs : List EscReq := []
  checks : Nat := 0
  skipped : Nat := 0
  /-- a check of the interval has failed -/
  failed : Bool := false
  deriving DecidableEq, Repr

/-- A line of the fetch buffer (R158): tag and contents. -/
structure FLine where
  tag : Nat
  line : Beat
  deriving DecidableEq, Repr

/-- A context that holds no thread (R155); unset register values read 0 (log 14). -/
def Ctx.empty : Ctx :=
  { regs := Vector.replicate 16 0, pc := 0, wtarget := 0, wcnt := 0, waiting := false, st := .empty, finfo := 0,
    markNo := 0, markSet := 0 }

/-- One logical tile. -/
structure Tile where
  /-- gang of the tile, none if unused; R169; reset none -/
  gang : Option Nat := none
  /-- 4,096 contexts of 80 B; R154; reset EMPTY, registers DESIGN CHOICE 0 (log 14) -/
  threads : SMap Ctx := []
  /-- issue ring entries; R157; reset empty -/
  ring : List Nat := []
  /-- ring position; R157; reset 0 -/
  last : Nat := 0
  /-- an instruction has issued in this cycle; R157; reset false -/
  issuedNow : Bool := false
  /-- banks whose FETCH or DRAIN slot of this cycle has been used, and 33 + inbound ports whose DRAIN slot has; R158, R160, R241;
  reset none -/
  slotUsed : List Nat := []
  /-- four table sets, key 8448·set + 256·resource + slot, 0x40 where not listed; R161; reset NONE (log 14) -/
  sets : SMap Byte := []
  /-- active table set, 2 bits; R161; reset 0 -/
  tset : BitVec 2 := 0
  /-- EC[0] to EC[255], 32 bits each; R165; reset 0 (bind) -/
  ec : SMap Word := []
  /-- the counters as they stood at the end of the previous cycle; R165; reset 0 -/
  ecPrev : SMap Word := []
  /-- fetch buffer of 64 lines; R158; reset empty -/
  fetch : SMap (Option FLine) := []
  /-- fill requests outstanding (line address, cycle raised), oldest first; R158; reset none -/
  fills : List (Nat × Nat) := []
  /-- descriptor latches, key 2·group + DL; R193; reset empty -/
  dl : SMap (Option Beat) := []
  /-- the latches as they stood at the end of the previous cycle; R193; reset empty -/
  dlPrev : SMap (Option Beat) := []
  /-- scratchpad bytes, 2 MiB; R152; reset DESIGN CHOICE 0 (log 4) -/
  scratch : SMap Byte := []
  /-- hamper bytes, 1 MiB; R217; reset DESIGN CHOICE 0 (log 4) -/
  hamper : SMap Byte := []
  /-- accumulators, key 128·array + 64·buffer + 4·row + column; R65; reset +0 (R87: read +0 when lost) -/
  acc : SMap A36 := []
  /-- operations in start latches and in flight, issue order; R162, R170; reset none -/
  ops : List Op := []
  /-- number the next issued operation takes; reset 0 -/
  nextOp : Nat := 0
  /-- outbound credits in use on DMA channels 0 and 1; R254; reset 0 -/
  outUsed0 : Nat := 0
  outUsed1 : Nat := 0
  kfs : Kfs := {}
  mxs : Mxs := {}
  vrs : Vrs := {}
  ts : Ts := {}
  /-- PCT_VERDICT, 32 bits; R120; reset 0 -/
  pctVerdict : Word := 0
  /-- PCT_RAISE_LIST, at most 8; R108, R120; reset empty -/
  raises : List Raise := []
  /-- press intervals, oldest first, the open one last; R102; reset none -/
  press : List Interval := []
  /-- press-owned cycles the check under way has had; R103; reset 0 -/
  pressCycles : Nat := 0
  /-- the check under way: its interval and operation, and the scratchpad as its product cycles have read it; R103, R105;
  reset none -/
  pressOn : Option (Nat × Nat × SMap Byte) := none
  /-- seam breaches received at the seam; R173; reset 0 -/
  breaches : Nat := 0
  /-- tile marked for darning, predictively or hard; R434; reset false -/
  failing : Bool := false
  hardFail : Bool := false
  deriving DecidableEq, Repr

/-- Seam state of a gang (R170 to R172). -/
structure Gang where
  /-- the gang has taken a seam and not left it, with the cycle t0; R171; reset none -/
  seamAt : Option Nat := none
  /-- table set named at the mark; R171; reset 0 -/
  markSet : BitVec 2 := 0
  /-- frozen by a slot fault; R168; reset false -/
  frozen : Bool := false
  /-- cycle in which it froze: no thread issues from the next; R168; reset 0 -/
  frozenAt : Nat := 0
  /-- held at EC[0] by a hold that has begun (R172); reset false -/
  heldQuiet : Bool := false
  deriving DecidableEq, Repr

/-! ## Press block (R118) -/

/-- A ladder entry (R119). -/
structure LadderEnt where
  valid : Bool := false
  base : Nat := 0
  ceil : Nat := 0
  scope : Bool := false
  jobwide : Bool := false
  grad : Bool := false
  gang : Nat := 0
  relax : Nat := 0
  rung : Nat := 0
  raised : Bool := false
  clean : Nat := 0
  records : Nat := 0
  deriving DecidableEq, Repr

/-- A gradient record (R114). -/
structure GRec where
  nz : Nat := 0
  ovf : Nat := 0
  unf8 : Nat := 0
  unf6 : Nat := 0
  deriving DecidableEq, Repr

/-- The PC block. -/
structure PcBlk where
  /-- PC_CTRL as written; R118; reset 0x91 -/
  ctrl : Word := 0x91
  /-- PC_CTRL in force for the step in progress; R118; reset 0x91 -/
  ctrlNow : Word := 0x91
  /-- PC_THRESH_A, B, C as written; R118; reset 0x0300_0400, 0x0100_0200, 0x0000_0080 -/
  thA : Word := 0x03000400
  thB : Word := 0x01000200
  thC : Word := 0x00000080
  /-- thresholds in force; R118; same resets -/
  thANow : Word := 0x03000400
  thBNow : Word := 0x01000200
  thCNow : Word := 0x00000080
  /-- PC_GRAD; R118; reset 0x0C -/
  grad : Word := 0xC
  /-- PC_STATUS bits; R118; reset 0 -/
  escFail : Bool := false
  jobwideMark : Bool := false
  skippedFlag : Bool := false
  wideFlag : Bool := false
  /-- PC_MAX_DQ, 32 bits; R118; reset 0 -/
  maxDq : Nat := 0
  /-- PC counts, 32 bits each; R118; reset 0 -/
  sampled : Nat := 0
  checked : Nat := 0
  skipped : Nat := 0
  fail : Nat := 0
  raise : Nat := 0
  relax : Nat := 0
  escfail : Nat := 0
  wide : Nat := 0
  /-- PC_LADDER, 4,096 entries; R119; reset 0 -/
  ladder : SMap LadderEnt := []
  /-- PC_GSUM, newest record first; R114; reset 0 -/
  gsum : SMap (List GRec) := []
  /-- the current step's gradient records; R114; reset 0 -/
  grec : SMap GRec := []
  /-- entries marked for a job-wide raise in this step; R112; reset none -/
  marks : List Nat := []
  /-- entries a request named in this step; R113; reset none -/
  named : List Nat := []
  deriving DecidableEq, Repr

/-! ## Step guard (R235) -/

/-- STG_STATE.STATE (R213). -/
inductive StepState where
  | unbound | idle | running | localDone | committing | abandoned | preempted
  deriving DecidableEq, Repr

/-- The STG block. -/
structure StgBlk where
  /-- STG_STATE.STATE; R213; reset UNBOUND -/
  st : StepState := .unbound
  /-- STG_STATE.LAST_STATUS, 16 bits; R235; reset 0 -/
  lastStatus : BitVec 16 := 0
  /-- STG_STEP, 64 bits; R208; reset 0 -/
  step : DWord := 0
  /-- STG_LOCAL bits [9:0]; R225; reset 0 -/
  loc : BitVec 10 := 0
  /-- STG_VERDICT bits [9:0]; R225; reset 0 -/
  verdict : BitVec 10 := 0
  /-- STG_GANGS, 64 bits; R235; reset 0 -/
  gangs : DWord := 0
  /-- STG_GANG_DONE, 64 bits; R235; reset 0 -/
  gangDone : DWord := 0
  /-- STG_FLIP.PARITY; R209; bind (0) -/
  parity : Bool := false
  /-- STG_DEADLINE_US as written; R228; bind (0) -/
  deadlineUs : Word := 0
  /-- the deadline in force; R228; reset 0 -/
  deadlineNow : Nat := 0
  /-- STG_COMMIT_COUNT, DISCARD, ROLLFWD, ABANDON, 32 bits each; R235; reset 0 -/
  commits : Nat := 0
  discards : Nat := 0
  rollfwds : Nat := 0
  abandons : Nat := 0
  /-- STG_HAMPER_HWM, CE, UE, 32 bits each; R235; reset 0 -/
  hwm : Nat := 0
  ce : Nat := 0
  ue : Nat := 0
  /-- STG_HAMPER_UE_LOC, 32 bits; R235; reset 0 -/
  ueLoc : Word := 0
  /-- STG_SPILL_WR and RD, 64 bits each; R235; reset 0 -/
  spillWr : Nat := 0
  spillRd : Nat := 0
  /-- STG_LAST_US, 32 bits; R235; reset 0 -/
  lastUs : Nat := 0
  /-- time counter at the EC[0] signal, ns; R228; reset none -/
  timer : Option Nat := none
  /-- ns excluded from the deadline so far, and the start of the interval now excluded; R228; reset 0, none -/
  excluded : Nat := 0
  exclFrom : Option Nat := none
  /-- time of the STEP_RUN take whose EC[0] signal is due; R215; reset none -/
  startAt : Option Nat := none
  /-- queue whose STEP_RUN or RESUME reports the step; R227, R370; reset none -/
  reporter : Option Nat := none
  /-- the abandoned step's verdict is known, so that rewind may run; R229; reset false -/
  rewindDue : Bool := false
  /-- the step of a saved context was in progress; R370; reset false -/
  midStep : Bool := false
  deriving DecidableEq, Repr

/-! ## Memory (R236 to R267) -/

/-- A held or recorded transfer fault (R257, R259). -/
structure FaultRec where
  /-- number of the fault -/
  n : Nat
  code : Nat
  /-- write direction; R259 -/
  dir : Bool
  /-- a bulk mover, else a tile channel -/
  mover : Bool
  chan : Bool
  /-- tile, or 16·die + mover -/
  unit : Nat
  op : Nat
  gang : Nat
  beat : Nat
  va : Nat
  ga : Nat
  /-- time of first detection, ns -/
  at_ : Nat
  /-- the 64 B record -/
  record : Beat
  /-- saved with a pre-empted context; R261 -/
  saved : Bool
  /-- a command's access to its window extent: `va` is the window offset (log 50) -/
  win : Bool
  deriving DecidableEq, Repr

/-- A cached translation (R251): die of the unit, level and page of the entry, the entry. -/
structure TlbEnt where
  die : Nat
  lvl : Nat
  page : Nat
  pte : DWord
  deriving DecidableEq, Repr

/-- A remote request held for a far-tier port (R285). -/
structure HeldReq where
  n : Nat
  port : Nat
  msg : Msg
  far : Nat
  at_ : Nat
  deriving DecidableEq, Repr

/-- The MEM block and the tiers. -/
structure MemBlk where
  /-- near- and far-tier bytes by local offset; R236; reset DESIGN CHOICE 0 (log 4) -/
  dram : SMap Byte := []
  /-- poisoned 64 B beats by local offset / 64; R264; reset none -/
  poison : SMap Bool := []
  /-- far-tier beats written under the keys in force; R266; reset none -/
  farWritten : SMap Bool := []
  /-- MEM_CTRL.NEAR_TAGS; R267; reset 0 -/
  nearTags : Bool := false
  /-- MEM_CTRL.SCRUB_BUSY; R266; reset 0 -/
  scrub : Bool := false
  /-- MEM_FAULT_COUNT, 32 bits; R267; reset 0 -/
  faultCount : Nat := 0
  /-- MEM_FAR_LIMIT_US; R267; reset 0x7D0 -/
  farLimit : Word := 0x7D0
  /-- MEM_HWIN_LIMIT_US; R267; reset 0x3E8 -/
  hwinLimit : Word := 0x3E8
  /-- MEM_NEAR_CE, NEAR_UE, FAR_POISON, TAG_FAIL, 32 bits each; R267; reset 0 -/
  nearCe : Nat := 0
  nearUe : Nat := 0
  farPoison : Nat := 0
  tagFail : Nat := 0
  /-- MEM_RETIRED; R267; boot (reads 0 before) -/
  retired : Nat := 0
  /-- MEM_RETIRE_CE; R267; reset 0x10 -/
  retireCe : Word := 0x10
  /-- MEM_MV_INVALID, 32 bits; R267; reset 0 -/
  mvInvalid : Nat := 0
  /-- MEM_FAULT_FIRST and LAST, 512 bits each; R267; reset 0 -/
  faultFirst : Beat := 0
  faultLast : Beat := 0
  /-- transfer faults now held; R258; reset none -/
  faults : List FaultRec := []
  /-- faults whose beat is being retried: one that fails again with its code is the same fault; R260; reset none -/
  retried : List FaultRec := []
  /-- number the next fault takes; reset 0 -/
  nextFault : Nat := 0
  /-- corrected errors per 64 KiB near page; R265; reset 0 -/
  pageCe : SMap Nat := []
  /-- pages due for retirement; R265; reset none -/
  retireDue : List Nat := []
  /-- demand pages supplied: virtual page to physical page; R246; reset none -/
  demand : SMap Nat := []
  /-- remote requests held for a far-tier port; R285; reset none -/
  heldReqs : List HeldReq := []
  /-- 64-bit words of the two reserves by near-tier offset / 8: translation tables and fault records; R239, R246, R259; reset 0 -/
  reserve : SMap DWord := []
  /-- integrity tags by the local offset of their word / 8, none where no write has formed one since JOB_BIND; R239, R240, R263;
  reset none -/
  tags : SMap (Option DWord) := []
  /-- FLIP_DELTA, 42 bits, of flip pairs 0 to 4,095; R249; reset 0 -/
  flipDelta : SMap Nat := []
  /-- fault records written to each die's queue; R259; reset 0 -/
  frq : SMap Nat := []
  /-- translations cached by the two units, at most 8,192 for each die; R251; reset none -/
  tlb : List TlbEnt := []
  /-- far-tier ports: in service, installed capacity in GiB, under IDE; R240, R432; reset not in service, 0 (boot) -/
  farUp : SMap Bool := []
  farCap : SMap Nat := []
  farIde : SMap Bool := []
  /-- capacity of each port found at JOB_BIND; R240, R467; reset 0 -/
  farCapBound : SMap Nat := []
  /-- GDDR7 in self-refresh; R399; reset false -/
  selfRefresh : Bool := false
  deriving DecidableEq, Repr

/-- A descriptor queued on a mover, with the tile and gang that enqueued it (R255). -/
structure MvEnt where
  desc : Beat
  tile : Nat
  gang : Nat
  deriving DecidableEq, Repr

/-- A bulk mover (R255). -/
structure Mover where
  /-- queue of up to 16 descriptors, the one in progress first; R255; reset empty -/
  queue : List MvEnt := []
  /-- the first descriptor has been taken; R255; reset false -/
  busy : Bool := false
  /-- next beat or message of the descriptor to request; reset 0 -/
  pos : Nat := 0
  /-- beat within the permutation entry in progress; R318; reset 0 -/
  sub : Nat := 0
  /-- permutation table entry in progress; R318; reset none -/
  ent : Option (BitVec 256) := none
  /-- a read of another module or of a scratchpad's DRAIN cycle is awaited; R241, R280; reset false -/
  asking : Bool := false
  /-- data of that read, poisoned or not, not yet used; reset none -/
  got : Option (Beat × Bool) := none
  /-- data flits gathered for the collective message in progress; R308; reset none -/
  part : List Beat := []
  /-- messages of the collective descriptor in progress: module, CID and SEQ; R308; reset none -/
  cputs : List (Nat × Nat × Nat) := []
  /-- number of the fault that holds the mover; MV_STATUS.HELD; R255; reset none -/
  held : Option Nat := none
  /-- the descriptor has ended at a fault and waits for its earlier beats; R258, R260; reset false -/
  ended : Bool := false
  /-- MV_DONE, 32 bits; R255; reset 0 -/
  done : Nat := 0
  deriving DecidableEq, Repr

/-! ## Fabric (R268 to R303) -/

/-- FP_STATUS.STATE (R302). -/
inductive PortState where
  | off | wait | up | swap | detoured | lost
  deriving DecidableEq, Repr

/-- A frame as sent (R269, R270): header, flit, CRC-32C of bytes 0 to 71, Reed-Solomon parity of bytes 0 to 75. The sender
keeps its last 8,192 for replay (R271). -/
structure SentFrame where
  hdr : DWord
  flit : Beat
  crc : Word
  parity : Word
  deriving DecidableEq, Repr

/-- One fabric port. -/
structure Port where
  /-- FP_STATUS.STATE; R302; reset OFF -/
  st : PortState := .off
  /-- FP_STATUS.HELLO_BAD, PEERMOD, PEERPORT; R302; reset 0 -/
  helloBad : Bool := false
  peerMod : Nat := 0
  peerPort : Nat := 0
  /-- failed physical lanes, transmit and receive (FP_LANES); R302; boot (reads 0 before) -/
  lanesTx : BitVec 9 := 0
  lanesRx : BitVec 9 := 0
  /-- a lane swap asked of the peer, lane failing; R292; reset none -/
  swapAsked : Option Nat := none
  /-- first frame of the new transmit map, as LANE_ACK names it; R292; reset none -/
  txMapFrom : Option (BitVec 16) := none
  /-- the new transmit map waits for that frame, the new receive map for the frame given; R292; reset false, none -/
  txMapDue : Bool := false
  rxMapFrom : Option (BitVec 16) := none
  /-- corrected bytes of each physical lane in the 1 ms window that began at the ns given; R292; reset none, 0 -/
  laneCorr : SMap Nat := []
  laneWin : Nat := 0
  /-- FP_FEC_CORR, CRC_FAIL, REPLAYS, ICV_FAIL, DOWN_COUNT, 32 bits each; R302; reset 0 -/
  fecCorr : Nat := 0
  crcFail : Nat := 0
  replays : Nat := 0
  icvFail : Nat := 0
  downCount : Nat := 0
  /-- FP_EPOCH, 32 bits; R302; reset 0 -/
  epoch : Nat := 0
  /-- FP_TX_MSG, RX_MSG, TX_FLIT, RX_FLIT, DET_FLIT, 64 bits each; R302; reset 0 -/
  txMsg : Nat := 0
  rxMsg : Nat := 0
  txFlit : Nat := 0
  rxFlit : Nat := 0
  detFlit : Nat := 0
  /-- FP_RESENT, 32 bits; R302; reset 0 -/
  resent : Nat := 0
  /-- credits held as sender, per channel; FP_CREDIT [13:0]; R274; reset 0 -/
  credit : SMap Nat := []
  /-- flits buffered as receiver, per channel; R274; reset 0 -/
  buffered : SMap Nat := []
  /-- credits owed to the peer, in the order they fell due; R274; reset none -/
  owed : List Nat := []
  /-- next FSN to send, 16 bits; R270; reset DESIGN CHOICE 0 (log 14) -/
  fsn : BitVec 16 := 0
  /-- FSN of the last frame received correctly, 16 bits; R270; reset DESIGN CHOICE 0xFFFF (log 14) -/
  ackRx : BitVec 16 := 0xFFFF
  /-- NAK is being sent; R271; reset false -/
  nak : Bool := false
  /-- consecutive failed replays of one frame; R271; reset 0 -/
  nakRun : Nat := 0
  /-- last frames sent, newest first; R271; reset none -/
  kept : List SentFrame := []
  /-- the frame last put on the link; R269; reset none -/
  lastOut : Option SentFrame := none
  /-- frames to resend, oldest first; R271; reset none -/
  replay : List SentFrame := []
  /-- schedule position, 0 to 4,095; R275; reset 0 -/
  slot : Nat := 0
  /-- outbound message queue: channel and message; R276; reset none -/
  outq : List (Nat × Msg) := []
  /-- flits left of the message leaving on each channel; R276; reset none -/
  outFlits : SMap (List Beat) := []
  /-- the message leaving on each channel, whole; R276, R295; reset none -/
  outCur : SMap (Option Msg) := []
  /-- detour queue: flits with their channel; R277, R294; reset none -/
  detq : List (Nat × Msg) := []
  /-- channel on which a detoured message is leaving; R277; reset none -/
  detVc : Option Nat := none
  /-- link control frames waiting; R284; reset none -/
  ctlq : List Beat := []
  /-- partly received message on each channel; R278; reset none -/
  inFlits : SMap (List Beat) := []
  /-- FSN of the header frame and message number of the partly received message on each channel; R291; reset 0 -/
  inFsn : SMap Nat := []
  inIdx : SMap Nat := []
  /-- link control flits received, waiting for their own steps; R284; reset none -/
  inCtl : List Beat := []
  /-- the peer's last HELLO; R298; reset none -/
  hello : Option Beat := none
  /-- a message has failed its ICV: its channel, its number, and the last FSN processed before the replay; R291; reset
  none -/
  icvTo : Option (Nat × Nat × Nat) := none
  /-- whole messages received and waiting for the boundary block; R272; reset none -/
  inMsgs : List (Nat × Msg) := []
  /-- messages sent whole on this direction in the epoch, newest first (own copies, R295, R308); reset none -/
  sentLog : List Msg := []
  /-- messages accepted on this direction in the epoch; R295; reset 0 -/
  accepted : Nat := 0
  /-- header frame whose message failed its ICV once; R291; reset none -/
  icvBad : Option (BitVec 16) := none
  /-- a RETRAINED has been received in this epoch; R297; reset false -/
  retrIn : Bool := false
  /-- the port has retrained in the background after a failure, and has sent RETRAINED; R297; reset false -/
  retrOut : Bool := false
  retrSaid : Bool := false
  /-- RESYNC_REPLY received for this failure; R295; reset false -/
  resynced : Bool := false
  /-- the port has been UP in this job; R298; reset false -/
  matched : Bool := false
  /-- the swap back to service has begun: a RESYNC awaits its reply; R297; reset false -/
  returning : Bool := false
  /-- time of the failure, ns, and the credits held then, which its audit uses; R295, R452; reset none -/
  failAt : Option Nat := none
  frozen : Option Nat := none
  /-- next detour pair in rotation; R294; reset 0 -/
  detNext : Nat := 0
  /-- AUD_CR_IN, AUD_CR_OUT, AUD_TX_UP, 64 bits each; R454; reset 0 -/
  crIn : Nat := 0
  crOut : Nat := 0
  txUp : Nat := 0
  /-- transmit timestamp of the previous TIME, receive timestamp of the peer's latest; R406; reset 0 -/
  timeTx : DWord := 0
  /-- lacing round in which that TIME left; R406; reset 0 -/
  timeTxK : Nat := 0
  /-- receive timestamps of the last frames that carried a TIME, by their FSN; R406; reset none -/
  stamps : List (BitVec 16 × DWord) := []
  /-- receive timestamp of the peer's latest TIME; R406; reset 0 -/
  timeRx : DWord := 0
  /-- transmit timestamp of the TIME before; R406; reset 0 -/
  timeTx1 : DWord := 0
  /-- exchanges with the peer: delay and offset in 2^-16 ns, newest first, at most 8; R406; reset none -/
  exch : List (Int × Int) := []
  /-- the peer said LOCKED in its latest TIME, with its node-local index; R406; reset false, 0 -/
  peerLocked : Bool := false
  peerIdx : Nat := 0
  deriving DecidableEq, Repr

/-- An outstanding request (R280): tag, the operation or mover it serves, what it was. -/
structure OutReq where
  tag : Nat
  /-- tile and operation number, or none for a mover -/
  op : Option (Nat × Nat)
  mover : Nat
  dst : Nat
  /-- first beat of the transfer it carries, and how many -/
  beat : Nat
  nbeats : Nat
  rd : Bool
  /-- the transfer has ended; a late response is discarded; R229 -/
  dead : Bool
  deriving DecidableEq, Repr

/-- What completes once the last beat of a group has been drained (R241, R261, R286, R309). -/
inductive DrainAfter where
  | nothing
  /-- a READ to answer with the data read -/
  | read (port : Nat) (req : Msg)
  /-- a beat of mover `m`'s descriptor -/
  | mover (m : Nat)
  /-- write beat `beat` of a restored transfer, read again from its source -/
  | refill (t op beat : Nat)
  /-- a WRITE to answer with ACK -/
  | write (port : Nat) (req : Msg)
  /-- a CPUT to accept -/
  | cput (port : Nat) (msg : Msg)
  deriving DecidableEq, Repr

/-- A beat waiting for a DRAIN cycle of its bank (R241, R286): one to be written, or one to be read, its data then kept until
its group is complete. -/
structure DrainEnt where
  grp : Nat
  tile : Nat
  addr : Nat
  rd : Bool
  done : Bool
  data : Beat
  after : DrainAfter
  deriving DecidableEq, Repr

/-- A message on its way over the bridges from a fabric port of one link die to a port of the other (R18, R283): the port and
channel it came in by, the port it goes to, whether to its detour queue, its flits still to enter the bridges, and the cycle in
which the last one has left them. -/
structure Bridged where
  src : Nat
  vc : Nat
  dst : Nat
  det : Bool
  msg : Msg
  left : Nat
  at_ : Option Nat
  deriving DecidableEq, Repr

/-- The FAB block (R303). -/
structure FabBlk where
  /-- FAB_LANE_LIMIT; R303; reset 0x400 -/
  laneLimit : Word := 0x400
  /-- requests awaiting a response (FAB_OUTSTANDING is their number); R280; reset none -/
  outstanding : List OutReq := []
  /-- next tag to try; R280; reset DESIGN CHOICE 0 (log 14) -/
  nextTag : Nat := 0
  /-- FAB counts; R303; reset 0 -/
  reqSent : Nat := 0
  rspRecv : Nat := 0
  reqRecv : Nat := 0
  rspSent : Nat := 0
  sigApplied : Nat := 0
  sigDrop : Nat := 0
  routeFault : Nat := 0
  errRsp : Nat := 0
  detours : Nat := 0
  laneSwaps : Nat := 0
  /-- modules that have left the job or are lost; R299, R437; reset none -/
  departed : List Nat := []
  /-- ERROR responses this module gave itself for requests it could not route; R282; reset none -/
  loopback : List Msg := []
  /-- inbound beats waiting for DRAIN cycles, and the number the next group takes; R241, R286; reset none, 0 -/
  drain : List DrainEnt := []
  nextGrp : Nat := 0
  /-- signals held for a saved gang: tile, counter, amount; R173; reset none -/
  heldSigs : List (Nat × Nat × Nat) := []
  /-- SIGNAL and CPUT messages whose signal is held for a saved gang: they stay in the inbound buffer of their port, answered or
  accepted, their credit unreturned; R173, R288; reset none -/
  sigHeld : List (Nat × Msg) := []
  /-- signals to other modules that wait for a free tag: module, tile, counter, amount; R280; reset none -/
  sigWait : List (Nat × Nat × Nat × Nat) := []
  /-- messages crossing the bridges between the link dies, oldest first; R18, R283; reset none -/
  bridged : List Bridged := []
  deriving DecidableEq, Repr

/-! ## Collectives and commit (R304 to R331) -/

/-- A shard record (R330). -/
structure Shard where
  d0 : DWord := 0
  d1 : DWord := 0
  version : Word := 0
  seen : Bool := false
  p0End : Bool := false
  p1End : Bool := false
  mismatch : Bool := false
  deriving DecidableEq, Repr

/-- A receive stream (R306): peer port and CID, sequence numbers accepted, signals and ends that wait for them. -/
structure Stream where
  port : Nat
  cid : Nat
  seqs : List Nat
  sigs : List (Nat × Nat × Nat × Nat)
  ends : List (Nat × Nat × Bool)
  deriving DecidableEq, Repr

/-- A subtree aggregate (R323). -/
structure Agg where
  or_ : BitVec 10 := 0
  missing : Bool := false
  count : Nat := 0
  permSum : DWord := 0
  mark : BitVec 256 := 0
  qual : BitVec 256 := BitVec.allOnes 256
  permXor : DWord := 0
  deriving DecidableEq, Repr

/-- A kept RESULT (R325). -/
structure ResultRec where
  step : Word
  msg : Msg
  deriving DecidableEq, Repr

/-- The CM block. -/
structure CmBlk where
  /-- CM_STATUS bits and TALLY_PORT; R330; reset 0, TALLY_PORT 0x1F -/
  stalled : Bool := false
  held : Bool := false
  rolled : Bool := false
  queried : Bool := false
  tallyPort : Nat := 0x1F
  /-- CM_TREE; R330; bind (0) -/
  parent : Nat := 0
  child : BitVec 18 := 0
  /-- CM_JOB_SIZE; R330; bind (0) -/
  jobSize : Nat := 0
  /-- CM_ROUND_TIMEOUT_US; R330; reset 0x2710 -/
  roundTimeout : Word := 0x2710
  /-- CM counts; R330; reset 0 -/
  votes : Nat := 0
  acks : Nat := 0
  tallyFail : Nat := 0
  shardFail : Nat := 0
  queryCount : Nat := 0
  heldCount : Nat := 0
  collDrop : Nat := 0
  /-- permutation registers, 64 bits each; R318; reset 0 -/
  permOutBytes : DWord := 0
  permInBytes : DWord := 0
  permOutDig : DWord := 0
  permInDig : DWord := 0
  /-- transmit and receive tallies per port: digest and bytes; R314; reset 0 -/
  txTally : SMap DWord := []
  rxTally : SMap DWord := []
  txBytes : SMap Nat := []
  rxBytes : SMap Nat := []
  /-- CM_SHARD; R317; reset 0 -/
  shards : SMap Shard := []
  /-- next SEQ to send, key 65,536·port + CID; R306; reset 0 -/
  txSeq : SMap Nat := []
  /-- receive streams; R306; reset none -/
  streams : List Stream := []
  /-- TALLY messages received in this step: port, digest, bytes; R315; reset none -/
  tallies : List (Nat × DWord × Nat) := []
  /-- ports whose comparison has been made; R315; reset none -/
  compared : List Nat := []
  /-- votes received from child ports; R323; reset none -/
  childVotes : List (Nat × Agg) := []
  /-- this module has sent its vote, at the time given; R323; reset none -/
  votedAt : Option Nat := none
  /-- acknowledgements received from child ports: count, rolled; R327; reset none -/
  childAcks : List (Nat × Nat × Bool) := []
  /-- own flip made for this step, at the time given; R231; reset none -/
  flippedAt : Option Nat := none
  /-- FLIP_ACK sent for this step; R327; reset false -/
  ackSent : Bool := false
  /-- kept RESULTs and RELEASEs of the last two steps; R325; reset none -/
  results : List ResultRec := []
  releases : List (Word × Bool) := []
  /-- queriers remembered: port and step; R325; reset none -/
  queriers : List (Nat × Word) := []
  /-- ABANDON sent, and received, for this step; R326, R315; reset false -/
  abandonSent : Bool := false
  abandonSeen : Bool := false
  /-- tally and digest key k; R313; reset 0 -/
  key : DWord := 0
  deriving DecidableEq, Repr

/-! ## Host attachment (R332 to R359) -/

/-- A taken command (R343): the row as read, its generation (R350), the HEAD after the take, its CQ, whether it still
waits, and the plaintext bytes a copy has completed (R364). -/
structure Taken where
  cmd : Instr
  entry : BitVec 2048
  gen : Nat
  sqhd : Nat
  cq : Nat
  waiting : Bool
  bytes : Nat := 0
  /-- plaintext of an inline payload; R429 -/
  body : List Byte := []
  /-- time of the take, ns; R374 -/
  takenAt : Nat := 0
  /-- a delivered beat was poisoned; R372 -/
  poison : Bool := false
  /-- the fields of a POWER_SET are written, and it waits until its cap is in force; R373, R385 -/
  applied : Bool := false
  deriving DecidableEq, Repr

/-- A submission queue (R340). -/
structure Sq where
  /-- SQ_BASE, 64 bits; R340; reset 0 -/
  base : DWord := 0
  /-- SQ_CFG, 32 bits; R340; reset 4 -/
  cfg : Word := 4
  /-- SQ_CTRL.ENABLE; R340; reset 0 -/
  en : Bool := false
  /-- HEAD, pass count, tail doorbell; R340, R342; reset 0 -/
  head : Nat := 0
  passN : Nat := 0
  tail : Nat := 0
  /-- SQ_STATUS.STOPPED, CFG_ERR; R340; reset 0 -/
  stopped : Bool := false
  cfgErr : Bool := false
  /-- SQ_TAKEN count and EPOCH; R340; reset 0 -/
  taken : Nat := 0
  epoch : Nat := 0
  /-- the taken command not yet complete (BUSY); R343; reset none -/
  cur : Option Taken := none
  /-- failed reads of the entry at HEAD; R346; reset 0 -/
  fails : Nat := 0
  /-- the last write to SQ_BASE, and to SQ_CFG, put a 1 in a reserved field; R341; reset false -/
  resvBase : Bool := false
  resvCfg : Bool := false
  deriving DecidableEq, Repr

/-- A completion queue (R340). -/
structure Cq where
  /-- CQ_BASE, 64 bits; R340; reset 0 -/
  base : DWord := 0
  /-- CQ_CFG, 32 bits; R340; reset 4 -/
  cfg : Word := 4
  /-- CQ_CTRL.ENABLE; R340; reset 0 -/
  en : Bool := false
  /-- TAIL and PHASE; R340; reset 0 -/
  tail : Nat := 0
  phase : Bool := false
  /-- position after the last completion consumed; R342; reset 0 -/
  head : Nat := 0
  /-- slots written and not consumed, and slots reserved; R343; reset 0 -/
  used : Nat := 0
  reserved : Nat := 0
  cfgErr : Bool := false
  /-- the last write to CQ_BASE, and to CQ_CFG, put a 1 in a reserved field; R341; reset false -/
  resvBase : Bool := false
  resvCfg : Bool := false
  deriving DecidableEq, Repr

/-- What the device sends toward the host, in order (R335). -/
inductive HostOut where
  /-- a completion entry: queue, slot, 32 B (R348) -/
  | cpl (cq slot : Nat) (entry : BitVec 256)
  /-- a result buffer's body, from offset 0x40 on, and its header, a write each: RLOC, address of the buffer (R350) -/
  | resultBody (rloc : Bool) (addr : DWord) (body : List Byte)
  | resultHead (rloc : Bool) (addr : DWord) (hdr : Beat)
  /-- an MSI-X message (R349, R353) -/
  | msix (vec : Nat)
  /-- a host-window line: window offset, host address and ciphertext (R351, R352) -/
  | window (off addr : Nat) (line : Beat)
  /-- the tag of a window granule: granule, host address of the tag (R351, R427) -/
  | wtag (granule addr : Nat) (tag : BitVec 128)
  /-- the answer to a snoop or configuration request (R335, R466) -/
  | snoopMiss (addr : DWord)
  | configRetry
  | configOk (ids : Word)
  /-- data of a CXL.mem read of the exchange area (R336) -/
  | xarea (off : Nat) (line : Beat)
  /-- the host's copy of an exchange-area line is taken back, and invalidated (R336) -/
  | bisnpData (off : Nat)
  | bisnpInv (off : Nat)
  deriving DecidableEq, Repr

/-- The host side. -/
structure HostBlk where
  /-- DEV_STATUS.READY, LLR, LLR_CAUSE; R354; reset 0 -/
  ready : Bool := false
  llr : Bool := false
  llrCause : Nat := 0
  /-- READY has been set since power-on; R462; reset false -/
  wasReady : Bool := false
  /-- INT_STATUS, 5 bits; R354; reset 0 -/
  intStatus : BitVec 5 := 0
  /-- INT_ENABLE, 32 bits; R354; reset 0 -/
  intEnable : Word := 0
  /-- LLR_COUNT; R354; reset 0 -/
  llrCount : Nat := 0
  /-- HOST_LINK fields; R354; reset 0 -/
  width : Nat := 0
  rate : Nat := 0
  ideIo : Bool := false
  ideCm : Bool := false
  retrains : Nat := 0
  /-- HWIN_FAULT_ADDR, 64 bits; R354; reset 0 -/
  hwinAddr : DWord := 0
  /-- LLR_TIME, LLR_DROPPED; R354; reset 0 -/
  llrTime : DWord := 0
  llrDropped : Nat := 0
  /-- submission and completion queues; R340; reset as the queue's fields -/
  sqs : SMap Sq := []
  cqs : SMap Cq := []
  /-- HWT_BASE, HWT_CTRL.ENABLE; R352; reset 0 -/
  hwtBase : DWord := 0
  hwtEn : Bool := false
  /-- cached host window table entries; R352; reset none -/
  hwtCache : SMap DWord := []
  /-- words of host memory that the host has told of, by address / 8; R351, R352 (log 7); reset none -/
  hostMem : SMap (Option DWord) := []
  /-- the upstream link is up, with the time it went down; R356; reset down -/
  linkUp : Bool := false
  downSince : Option Nat := none
  /-- sent toward the host, newest last; R335 (log 16); reset none -/
  out : List HostOut := []
  /-- held in the boundary buffers while the link is down; R356; reset none -/
  heldOut : List HostOut := []
  /-- credits of the upstream boundary buffer that held requests keep: its credit count is full at 0; R356, R357; reset 0 -/
  upHeld : Nat := 0
  /-- the link has been up since power-on, so that its next return is a retrain; R354, R356; reset false -/
  trained : Bool := false
  /-- MSI-X table and pending-bit words by BAR2 offset, each XOR its reset value; R337; reset 0, the mask bits 1 -/
  msix : SMap Word := []
  /-- HDM decoder programmed base; R336; reset 0 -/
  hdm : DWord := 0
  /-- upper half of HWT_INVAL as written; R352; reset 0 -/
  hwtInval : Word := 0
  /-- submission queue whose turn is next; R343; reset DESIGN CHOICE 0 (log 14) -/
  turn : Nat := 0
  /-- bits of INT_STATUS, and LLR, set in the cycle in progress; R8; reset 0 -/
  intNow : BitVec 5 := 0
  llrNow : Bool := false
  deriving DecidableEq, Repr

/-! ## Sessions, trust, flash (R366, R410 to R433) -/

/-- Fragments of an opening message (R366). -/
structure Frags where
  queue : Nat
  handle : Nat
  msglen : Nat
  bytes : List Byte
  deriving DecidableEq, Repr

/-- The field part of the board record (R417). -/
structure FieldRec where
  /-- version -/
  ver : Nat := 0
  /-- darned column of row 16·die + row, 0xFF none; R177 -/
  darned : SMap Nat := []
  /-- physical channel of logical channel 16·die + L, 0xFF as shipped; R238 -/
  chan : SMap Nat := []
  /-- spare channel in service per die; R443 -/
  chanSpare : SMap Bool := []
  /-- failed lanes per port; R302 -/
  laneTx : SMap (BitVec 9) := []
  laneRx : SMap (BitVec 9) := []
  /-- page remaps: near page to spare page number + 1 in its half's reserve; R265 -/
  remap : SMap Nat := []
  /-- highest operating point not withdrawn; R380 -/
  maxOp : Nat := 15
  /-- PSK slot of each far-tier port, 0xFF none; R432 -/
  farSlot : SMap Nat := []
  /-- the tag under K_BR; R417; DESIGN CHOICE 0 (log 14) -/
  tag : BitVec 256 := 0
  deriving DecidableEq, Repr

/-- The factory part of the board record (R417), as the flash holds it: ID_PUBKEY, ID_CERT, the rest, and the vendor's signature
over the whole; DESIGN CHOICE empty (log 14). -/
structure Factory where
  idPubkey : Beat := 0
  idCert : List Byte := []
  rest : List Byte := []
  sig : List Byte := []
  deriving DecidableEq, Repr

/-- The flash (R413). -/
structure Flash where
  /-- firmware banks 0 and 1; R413; reset DESIGN CHOICE none (log 14) -/
  bank0 : Option FwPkg := none
  bank1 : Option FwPkg := none
  /-- the active bank is bank 1; R413; reset DESIGN CHOICE false (log 14) -/
  active1 : Bool := false
  /-- field part copies A and B; R413; reset DESIGN CHOICE as shipped (log 14) -/
  copyA : FieldRec := {}
  copyB : FieldRec := {}
  /-- the factory part, and the vendor public key that verifies it and the packages; R412, R417; reset DESIGN CHOICE empty (log 14) -/
  factory : Factory := {}
  vendorKey : Beat := 0
  /-- the key with which the replay-protected area authenticates; R413; reset DESIGN CHOICE 0 (log 14) -/
  rpfKey : BitVec 256 := 0
  /-- ID_IDX, FW_FLOOR, BR_VER; R413; reset DESIGN CHOICE 0 (log 14) -/
  idIdx : Word := 0
  fwFloor : Word := 0
  brVer : Word := 0
  /-- PSK slots, 0 empty; R413; reset DESIGN CHOICE empty (log 14) -/
  psk : SMap (Option Beat) := []
  /-- ledger area: entries, LEDG_NEXT, time, tag verifies; R449; reset DESIGN CHOICE none (log 14) -/
  ledger : Option (List (BitVec 256) × DWord × DWord × Bool) := none
  deriving DecidableEq, Repr

/-- An SPDM session (R432): session number, PSK slot, established. -/
structure Spdm where
  id : Nat
  slot : Nat
  open_ : Bool
  deriving DecidableEq, Repr

/-- SPDM answers (R432). -/
inductive SpdmOut where
  | version
  | capabilities
  | algorithms
  | measurement (index : Nat) (value : Beat)
  | pskRsp (session : Nat)
  | finishRsp (session : Nat)
  | heartbeatAck (session : Nat)
  | ended (session : Nat)
  | evidence (record : List Byte)
  | provisioned (slot : Nat)
  | ideKm (stream : Bool)
  | error
  deriving DecidableEq, Repr

/-- The security controller. -/
structure TrustBlk where
  /-- MEAS[0] to MEAS[7]; R422; reset 0 -/
  meas : SMap Beat := []
  /-- the AK's seed draw and next leaf; R421; reset none (discarded at reset) -/
  ak : Option (Nat × Nat) := none
  /-- the ML-KEM key pair's draw; R415; reset none -/
  kem : Option Nat := none
  /-- AK_CERT and its leaf; identity failed; identity exhausted; R419, R420; reset none, false -/
  akCert : List Byte := []
  idLeaf : Nat := 0
  idFail : Bool := false
  idExhausted : Bool := false
  /-- nonces of the last 16 ATTESTs, newest first; R424; reset none -/
  nonces : List (BitVec 256) := []
  /-- the open session: handle, session key K_S, job secret JS, owner, inline count n; R425, R429; reset none -/
  session : Option (Nat × Beat × Beat × Nat) := none
  /-- fragments in progress; R366; reset none -/
  frags : Option Frags := none
  /-- next handle; R366; reset DESIGN CHOICE 1 (log 14) -/
  nextHandle : Nat := 1
  /-- the first of the draws that are the job near and far keys and their tag keys, of those that are the reserve key and its tag
  key, and the fabric key; none when erased; R263, R426; reset none -/
  jobKeys : Option Nat := none
  reserveKey : Option Nat := none
  fabricKey : Option Beat := none
  /-- SPDM sessions and answers; R432; reset none -/
  spdm : List Spdm := []
  spdmOut : List SpdmOut := []
  nextSpdm : Nat := 1
  /-- algorithms negotiated; R432; reset false -/
  algs : Bool := false
  /-- running firmware: version, SVN; R339, R423; boot (reads 0 before) -/
  fwVersion : Word := 0
  fwSvn : Word := 0
  /-- staged firmware verified, staging held by PLDM; R375; reset false -/
  staged : Bool := false
  pldmHolds : Bool := false
  /-- restart due after FIRMWARE_ACTIVATE; restarted firmware not yet READY; R375, R416; reset false -/
  restartDue : Bool := false
  /-- the link-die PHY component of the running firmware has been verified; R415, R465; reset false -/
  phyOk : Bool := false
  /-- restarted firmware not yet READY; R375, R416; reset false -/
  activating : Bool := false
  /-- time of the restart from a staged firmware that has not yet set READY; R416; reset none -/
  restartAt : Option Nat := none
  /-- TRNG draws made; R411; reset 0 -/
  draws : Nat := 0
  /-- field part in force, and a change not yet written; R417, R418; reset as shipped -/
  board : FieldRec := {}
  boardDirty : Bool := false
  /-- time of the last flash write that failed; R418; reset 0 -/
  boardAt : Nat := 0
  flash : Flash := {}
  deriving DecidableEq, Repr

/-! ## Governor and lacing (R378 to R409) -/

/-- The GOV block and the governor's working state. -/
structure GovBlk where
  /-- GOV_STATUS.OP and DUTY: current operating point and active duty in eighths; R407; reset OP0, 1/8 -/
  op : Nat := 0
  duty : Nat := 1
  /-- GOV_STATUS.SET; R407; reset 0 -/
  set : Nat := 0
  /-- GOV_STATUS bits; R407; reset 0 -/
  alert : Bool := false
  distrust : Bool := false
  sensorFault : Bool := false
  unattainable : Bool := false
  rest : Bool := false
  thermal : Bool := false
  loc : Bool := false
  /-- GOV_CTRL, 32 bits; R407; reset 0x0798 -/
  ctrl : Word := 0x798
  /-- GOV_CAP_MW, GOV_BMC_CAP_MW, 32 bits; R407; reset 1,650,000 and 2,000,000 -/
  cap : Word := 0x192D50
  bmcCap : Word := 0x1E8480
  /-- GOV_EFF_CAP_MW, the cap in force; R385, R407; reset 1,650,000 -/
  effCap : Nat := 0x192D50
  /-- GOV_MEAS_MW, GOV_EST_MW; R407; reset 0 -/
  meas : Nat := 0
  est : Nat := 0
  /-- estimates and demands of links, memory, compute in the last window, mW; R381, R386; reset 0 -/
  estD : List Nat := [0, 0, 0]
  /-- grants of links, memory, compute; R386; reset 0 -/
  grants : List Nat := [0, 0, 0]
  /-- gains of links, memory, compute in 2^-16; R382; reset 0x1_0000 -/
  gains : List Nat := [0x10000, 0x10000, 0x10000]
  /-- energy estimated per domain in this 1 ms window, fJ; R382; reset 0 -/
  acc : List Nat := [0, 0, 0]
  /-- GOV_ENERGY_UJ, 64 bits; R407; reset 0 -/
  energy : Nat := 0
  /-- GOV counts, 32 bits each; R407; reset 0 -/
  distrusts : Nat := 0
  alerts : Nat := 0
  droops : Nat := 0
  droopLong : Nat := 0
  laceMiss : Nat := 0
  unatt : Nat := 0
  /-- GOV_MAX_OP_AVAIL; R407; boot (reads 0 before) -/
  maxOpAvail : Nat := 0
  /-- GOV_W, 18 weights, each XOR its default; R381; reset the table of R381 -/
  weights : SMap Word := []
  /-- the weights of the window in progress, in the same form; R381; reset the table of R381 -/
  weightsNow : SMap Word := []
  /-- GOV_VBAND in mV; R407; reset 0 -/
  vband : SMap Nat := []
  /-- margin of each band's trim over its base voltage, mV; R380; reset 0 -/
  margin : SMap Nat := []
  /-- margin that each band's monitors last called for, mV; R380; reset 0 -/
  need : SMap Nat := []
  /-- OP0 itself is withdrawn; R380; reset false -/
  op0Out : Bool := false
  /-- GOV_TEMP in 1/16 °C; R407; reset 0 -/
  temp : SMap Int := []
  /-- windows in a row: estimate off by over 15%, within 15%, at 1/8 duty over the grant; R383, R388; reset 0 -/
  badRun : Nat := 0
  goodRun : Nat := 0
  overRun : Nat := 0
  /-- ns since which the cap in force has stood below 180,000 mW; R389; reset none -/
  lowSince : Option Nat := none
  /-- lowest fit of compute since the last lacing instant; R388; reset 22 -/
  fit : Nat := 22
  /-- alert ceiling level, and the ns of the deassertion after which it lifts; R395, R396; reset none -/
  alertCeil : Option Nat := none
  alertLift : Option Nat := none
  /-- a switch to the alert PLL is due at the next frame boundary; R395; reset false -/
  alertDue : Bool := false
  /-- thermal ceiling level; R397; reset none -/
  thermalCeil : Option Nat := none
  /-- m_mod of the last 1 ms window, mW; R383; reset 0 -/
  mMod : Nat := 0
  /-- memory limit halved; R397; reset false -/
  memHalf : Bool := false
  /-- near-tier beats and far-tier requests that may go in this window; R387; reset none -/
  memLim : Option Nat := none
  farLim : Option Nat := none
  /-- events of this window that State shows, by 32·band + event, or event; R381; reset 0 -/
  events : SMap Nat := []
  /-- CCLK cycles of this window that were no idle slots; R381; reset 0 -/
  active : Nat := 0
  /-- flits, near-tier beats and far-tier requests the limiters have held back in this window; R386; reset 0 -/
  heldFlit : Nat := 0
  heldBeat : Nat := 0
  heldFar : Nat := 0
  /-- the alert ceiling is also a failed sensor's; R384; reset false -/
  sensorCeil : Bool := false
  /-- coolant inlet and outlet temperature, which the PLDM sensors read, 1/16 °C; R468; reset DESIGN CHOICE 0 (log 14) -/
  coolIn : Int := 0
  coolOut : Int := 0
  /-- rounds for which the offer stays one level lower after a long droop; R398; reset 0 -/
  droopRounds : Nat := 0
  /-- a droop holds the duty at 1/8 since the ns given; R398; reset none -/
  droopHold : Option Nat := none
  /-- the duty that droop cut to 1/8; R398; reset 1 -/
  droopDuty : Nat := 1
  /-- flits that may leave in KIND 1 slots in this window, and those that have left; R387; reset none, 0 -/
  linkLim : Option Nat := none
  linkUsed : Nat := 0
  /-- phases lost, rail and phase; R442; reset none -/
  phaseLost : List (Nat × Nat) := []
  /-- rail sensors failed; R384; reset false -/
  frozenGains : Bool := false
  deriving DecidableEq, Repr

/-- The lacing round (R390 to R394). -/
structure LaceBlk where
  /-- round in progress; R390; reset 0 -/
  k : Nat := 0
  /-- offers held from child ports: level, missing, count; R392; reset none -/
  offers : List (Nat × Nat × Bool × Nat) := []
  /-- own offer; R388; reset 22 -/
  own : Nat := 22
  /-- OFFER sent, or at the root SET sent, in this round; R392; reset false -/
  sent : Bool := false
  /-- this round's TIME has been sent; R406; reset false -/
  timeSent : Bool := false
  /-- level agreed in this round, not yet applied; R392; reset none -/
  level : Option Nat := none
  /-- last SET level the root sent; R392; reset 0 -/
  lastSet : Nat := 0
  /-- a round without a timely SET has been counted; R392; reset false -/
  missed : Bool := false
  /-- a level whose switch is due at the next S_k; R393; reset none -/
  due : Option Nat := none
  deriving DecidableEq, Repr

/-- Rest (R399 to R401). -/
inductive RestState where
  | awake | pending | resting | waking
  deriving DecidableEq, Repr

/-- Rest and its causes. -/
structure RestBlk where
  st : RestState := .awake
  /-- forced by an unattainable cap; R389; reset false -/
  forced : Bool := false
  /-- queue whose REST_ENTER waits; R373; reset none -/
  queue : Option Nat := none
  /-- time of the wake event; R401; reset none -/
  wakeAt : Option Nat := none
  deriving DecidableEq, Repr

/-! ## Faults, ledger, audits, snapshots -/

/-- A PLDM event the module sends (R380, R389, R435, R437, R467). -/
inductive Pldm where
  | opWithdrawn (op : Nat)
  | capUnattainable (mw : Nat)
  | sensorFault (rail : Nat)
  | fatal (cause : Nat)
  | vinWarning
  | fullReadiness
  | remapsExhausted (die : Nat)
  | idLow (left : Nat)
  | phaseFailed (rail : Nat)
  | spareLost (port : Nat)
  deriving DecidableEq, Repr

/-- A tile's move (R178): the tile, the cycle in which the move ends, and whether its state could be read and the flash
takes the record. -/
structure Darn where
  tile : Nat
  at_ : Nat
  readable : Bool
  flashOk : Bool
  deriving DecidableEq, Repr

/-- The fault and audit block (R454), the ledger (R444) and the snapshot window (R451). -/
structure FltBlk where
  /-- ledger ring, oldest first, 256-bit entries, at most 65,536; R444; reset empty -/
  ring : List (BitVec 256) := []
  /-- LEDG_NEXT, 64 bits; R454; reset 0 -/
  next : Nat := 0
  /-- entries in the ledger's queue; R446; reset 0 -/
  qlen : Nat := 0
  /-- ns at which the queue last gave up an entry; R446; reset 0 -/
  drainedAt : Nat := 0
  /-- LEDG_SUPPRESSED; R446; reset 0 -/
  suppressed : Nat := 0
  /-- LEDG_FLUSH_SEQ, LEDG_FLUSH_TIME; R454; boot (read 0 before) -/
  flushSeq : DWord := 0
  flushTime : DWord := 0
  /-- FLT_STATUS bits; R454; boot (read 0 before) -/
  fatalLast : Bool := false
  rebind : Bool := false
  jobDataLost : Bool := false
  coreSpare : Bool := false
  /-- FLT_LOST_COUNT, FLT_LOST_LAST; R454; reset 0 -/
  lostCount : Nat := 0
  lostLast : Nat := 0
  /-- AUD_MASK, AUD_VIOL_COUNT; R454; reset 0 -/
  audMask : BitVec 5 := 0
  /-- what the last evaluation in hardware found; R453; reset 0 -/
  hwMask : BitVec 5 := 0
  /-- AUD_VIOL_COUNT, 32 bits; R454; reset 0 -/
  viol : Nat := 0
  /-- AUD_SIG_LOCAL, REMOTE, SENT, DROPPED, 64 bits each (HELD is computed); R454; reset 0 -/
  sigLocal : Nat := 0
  sigRemote : Nat := 0
  sigSent : Nat := 0
  sigDropped : Nat := 0
  /-- AUD_SIG_HELD as the last unbinding left it; R455; reset 0 -/
  sigHeldLast : Nat := 0
  /-- AUD_PWR_WINDOWS, PWR_BAD, BND_BAD, CR_BAD; R454; reset 0 -/
  pwrWindows : Nat := 0
  pwrBad : Nat := 0
  bndBad : Nat := 0
  crBad : Nat := 0
  /-- PLDM events sent, newest last (log 16); reset none -/
  pldm : List Pldm := []
  /-- logical tiles unavailable (CAP_TILE_UNAVAIL); R339; boot (none before) -/
  unavail : List Nat := []
  /-- corrected errors of each physical channel in the hour that began at the ns given; R443; reset none, 0 -/
  chanCe : SMap Nat := []
  chanHour : Nat := 0
  /-- failing channels (predictive) and failed ones (hard); R443; reset none -/
  chanFailing : List Nat := []
  chanFailed : List Nat := []
  /-- snapshot window bytes; R451; reset 0 -/
  snap : SMap Byte := []
  /-- SNAP_GEN last written; R451; reset 0 -/
  snapGen : Nat := 0
  /-- snapshot pending: queue, MODE 1, instant; R374; reset none -/
  snapPend : Option (Nat × Bool × Nat) := none
  /-- the move of a tile being darned; R178; reset none -/
  darning : Option Darn := none
  /-- gangs that a tile's move found at their seams and that have not left them: inbound messages stay held; R301; reset none -/
  darnHold : List Nat := []
  deriving DecidableEq, Repr

/-! ## Pins, rails, bring-up -/

/-- Where the module stands in its bring-up (R416, R435, R462 to R467). -/
inductive Phase where
  | unpowered | standby | rails | booting | up | seqRetry | seqFailed | bootHold | fatalHold | inReset
  deriving DecidableEq, Repr

/-- The low-speed signals and rails (R457 to R465). -/
structure PinBlk where
  phase : Phase := .standby
  /-- main rails on; R459; reset off -/
  mainOn : Bool := false
  /-- MOD_RESET_N and HOST_PERST_N asserted; R457; reset PRESUMED deasserted, asserted (unconnected states; log 76) -/
  modReset : Bool := false
  hostPerst : Bool := true
  /-- FAULT_N and THERM_TRIP_N asserted; R457; reset deasserted -/
  faultN : Bool := false
  thermTripN : Bool := false
  /-- far-tier PERST asserted; R465; reset asserted -/
  farPerst : Bool := true
  /-- FAR_REFCLK running; R461, R465; reset stopped -/
  farRefclk : Bool := false
  /-- MGMT_MODE and SMB_ADDR[2:0] as sampled at power-on; R457; reset PRESUMED 0 (unconnected states; log 76) -/
  mgmtMode : Bool := false
  smbAddr : BitVec 3 := 0
  /-- levels of those straps; PALERT_N asserted; R457; reset PRESUMED 0, deasserted (unconnected states; log 76) -/
  strapMode : Bool := false
  strapAddr : BitVec 3 := 0
  palert : Bool := false
  /-- ns at which AUX_12V has been within its limits for 10 ms; R465; reset DESIGN CHOICE 10 ms after power-on (log 14) -/
  auxDue : Nat := 10000000
  /-- time of the last VIN48 warning; R458; reset none -/
  vinWarnAt : Option Nat := none
  /-- failures of the main sequence; R465; reset 0 -/
  seqFails : Nat := 0
  /-- time of the last failure of the main sequence; R465; reset 0 -/
  seqAt : Nat := 0
  /-- t_b in ns; R465; reset none -/
  tb : Option Nat := none
  /-- every bring-up step complete; R467; reset false -/
  full : Bool := false
  /-- cause of the fatal fault, 0 none, and its time in ns; R435, R449; reset 0 -/
  fatalCause : Nat := 0
  fatalAt : Nat := 0
  deriving DecidableEq, Repr

/-- A pre-emption (R370): queue of PREEMPT, pending or saved; queue of RESUME. -/
structure PreemptBlk where
  pending : Option Nat := none
  saving : Bool := false
  saved : Bool := false
  /-- queue of the PREEMPT whose save runs -/
  saveQ : Option Nat := none
  restoring : Option Nat := none
  deriving DecidableEq, Repr

/-- The loaded image and its kept copy (R367). -/
structure Kept where
  img : Image
  keep : Nat
  size : Nat
  deriving DecidableEq, Repr

/-- A flit on its way over an on-die link: tile and inbound port it reaches, cycle of its arrival (R175). -/
structure Wire where
  tile : Nat
  port : Nat
  at_ : Nat
  flit : Beat
  deriving DecidableEq, Repr

/-- A flit in a channel of a die-to-die bridge: the die it reaches, the channel, the cycle in which it leaves the far side
(R176; log 78). -/
structure Crossing where
  die : Nat
  chan : Nat
  at_ : Nat
  flit : Beat
  deriving DecidableEq, Repr

/-- The whole machine. -/
structure State where
  /-- commands waiting, first in first out -/
  pending : List Instr
  clk : Clock
  tm : TimeBlk
  tiles : SMap Tile
  gangs : SMap Gang
  pc : PcBlk
  stg : StgBlk
  mem : MemBlk
  movers : SMap Mover
  ports : SMap Port
  fab : FabBlk
  cm : CmBlk
  host : HostBlk
  trust : TrustBlk
  gov : GovBlk
  lace : LaceBlk
  rest : RestBlk
  flt : FltBlk
  pins : PinBlk
  pre : PreemptBlk
  /-- the loaded image; R367; reset none -/
  image : Option Kept
  /-- the bound job's configuration; R368; reset none -/
  job : Option JobCfg
  /-- flits on the on-die links; R175; reset none -/
  wires : List Wire
  /-- flits in the bridges' channels and behind them; R176; reset none -/
  crossing : List Crossing
  /-- flits that have left a compute die at an edge port in a cycle in which no bridge channel is theirs (log 78); R176; reset
  none -/
  edgeOut : List Wire
  /-- the model's own counter of free values drawn (log 3); reset DESIGN CHOICE 0 -/
  free : Nat
  deriving DecidableEq, Repr

/-- The machine right after power-on (R13, R462): standby rails up, every register at its Reset value. -/
def State.reset : State :=
  { pending := [], clk := {}, tm := {}, tiles := [], gangs := [], pc := {}, stg := {}, mem := {}, movers := [],
    ports := [], fab := {}, cm := {}, host := {}, trust := {}, gov := {}, lace := {}, rest := {}, flt := {},
    pins := {}, pre := {}, image := none, job := none, wires := [], crossing := [], edgeOut := [], free := 0 }

end Sys2Proof.Machine
end

