-- ==== Sys2Proof/Machine/Image.lean ====
section
/-! DEFINITION. Schedule images and job configurations read from their bytes (R154, R161, R176, R182, R183, R244, R275,
R300, R368). An object is a sparse block of bytes: an offset that is not listed holds 0. -/

namespace Sys2Proof.Machine

/-! ## Sparse blocks -/

/-- `n` bytes of a block from `off` on, as a block of their own. -/
def slice (m : SMap Byte) (off n : Nat) : SMap Byte :=
  m.filterMap fun e => if off ≤ e.1 && e.1 < off + n then some (e.1 - off, e.2) else none

/-- The bytes of a block without those of a range. -/
def zeroed (m : SMap Byte) (off n : Nat) : SMap Byte := m.filter fun e => e.1 < off || off + n ≤ e.1

/-- The first `n` bytes of a block as a list. -/
def blobBytes (m : SMap Byte) (n : Nat) : List Byte := SMap.getBytes m 0 n

/-- The little-endian words of `w` bytes that a block holds and that are not 0 (R5). -/
def wordsOf (w : Nat) : SMap Byte → SMap Nat
  | [] => []
  | e :: m =>
    let v := e.2.toNat * 256 ^ (e.1 % w)
    match wordsOf w m with
    | [] => if v == 0 then [] else [(e.1 / w, v)]
    | (k, x) :: r => if k == e.1 / w then (k, x + v) :: r else if v == 0 then (k, x) :: r else (e.1 / w, v) :: (k, x) :: r

/-- The bits that a block sets, bit `8k + i` being bit `i` of byte `k`. -/
def bitsOf (m : SMap Byte) : List Nat := m.flatMap fun e => ((List.range 8).filter (bitB e.2)).map fun i => 8 * e.1 + i

/-- Every byte of a range is 0: a reserved field. -/
def zeroAt (m : SMap Byte) (off n : Nat) : Bool := m.all fun e => e.1 < off || off + n ≤ e.1 || e.2 == 0

/-! ## Sections of an image -/

/-- STATE of a thread from its code (R155); a reserved code reads as EMPTY (log 6). -/
def tstateOf (n : Nat) : TState :=
  match n with
  | 1 => .run
  | 2 => .seam
  | 3 => .halt
  | 4 => .fault
  | _ => .empty

/-- A context read from its 80 bytes; the mark at which the thread stands is not among them (R154). -/
def ctxOf (bs : List Byte) (old : Ctx) : Ctx :=
  let n := fun o k => leNat ((bs.drop o).take k)
  { old with regs := Vector.ofFn fun (i : Fin 16) => BitVec.ofNat 32 (n (4 * i.val) 4)
             pc := BitVec.ofNat 32 (n 0x40 4), wtarget := BitVec.ofNat 32 (n 0x44 4), wcnt := BitVec.ofNat 8 (n 0x48 1)
             waiting := n 0x49 1 % 2 == 1, st := tstateOf (n 0x4A 1), finfo := BitVec.ofNat 32 (n 0x4C 4) }

/-- The directory (R183). -/
def dirOf (m : SMap Byte) (nsect : Nat) : List DirEnt :=
  (List.range nsect).map fun i =>
    let o := 0x100 + 32 * i
    ⟨SMap.getNat m o 4, SMap.getNat m (o + 4) 4, SMap.getNat m (o + 8) 8, SMap.getNat m (o + 16) 8⟩

/-- The bytes of the section an entry names; what lies past its SIZE reads 0 (log 6). -/
def sectOf (m : SMap Byte) (e : DirEnt) : SMap Byte := slice m e.offset e.size

/-- The first section of a type that serves the whole module; none gives an empty block (log 6). -/
def sect (m : SMap Byte) (dir : List DirEnt) (type : Nat) : SMap Byte :=
  match dir.find? fun e => e.type == type with
  | some e => sectOf m e
  | none => []

/-- Tile that an entry's TARGET names (R183). -/
def dirTile (e : DirEnt) : Nat := e.target % 1024

/-- The table set that an entry's TARGET names, with whatever stands above its two bits (R183, R184). -/
def dirSet (e : DirEnt) : Nat := e.target / 0x10000

/-- CONTEXT: 4,096 contexts of 80 B. -/
def contextsOf (m : SMap Byte) : SMap Ctx :=
  ((wordsOf 80 m).map (·.1)).filterMap fun t =>
    let c := ctxOf (SMap.getBytes m (80 * t) 80) Ctx.empty
    if t < 4096 && c != Ctx.empty then some (t, c) else none

/-- RING: RING_LEN, then its entries. -/
def ringOf (m : SMap Byte) : List Nat := (List.range (SMap.getNat m 0 2)).map fun i => SMap.getNat m (2 + 2 * i) 2

/-- SLOT_SET: 33 tables of 256 B, listed where they differ from NONE. -/
def slotsOf (m : SMap Byte) : SMap Byte :=
  (List.range 8448).filterMap fun i =>
    let b := SMap.get 0 m i
    if b == 0x40 then none else some (i, b)

/-- One tile's sections. -/
def tileOf (m : SMap Byte) (dir : List DirEnt) (t : Nat) : ImgTile :=
  let mine := dir.filter fun e => dirTile e == t
  { contexts := contextsOf (sect m mine 2), ring := ringOf (sect m mine 3)
    sets := (mine.filter fun e => e.type == 4).map fun e => (dirSet e, slotsOf (sectOf m e))
    scratch := (mine.filter fun e => e.type == 5).flatMap fun e =>
      (Config.scratchInit (blobBytes (sectOf m e) e.size)).filter fun p => p.1 + p.2.length ≤ 0x200000
    counters := ((wordsOf 4 (sect m mine 6)).filter fun e => e.1 < 256).map fun e => (e.1, BitVec.ofNat 32 e.2) }

/-- Tiles that some per-tile section names. -/
def tilesOf (m : SMap Byte) (dir : List DirEnt) : List (Nat × ImgTile) :=
  ((List.range 1024).filter fun t => dir.any fun e => 2 ≤ e.type && e.type ≤ 6 && dirTile e == t).map fun t => (t, tileOf m dir t)

/-- TILE_MAP: without one every tile is unused. -/
def tileMapOf (m : SMap Byte) (dir : List DirEnt) : SMap Nat :=
  match dir.find? fun e => e.type == 1 with
  | some e =>
    (List.range 1024).filterMap fun t =>
      let g := (SMap.get 0 (sectOf m e) t).toNat
      if g == 0xFF then none else some (t, g)
  | none => []

/-- PORT[p] (R300). -/
def portCfgOf (m : SMap Byte) (p : Nat) : PortCfg :=
  let o := 0x40 + 64 * p
  { role := SMap.getNat m o 1, peerPort := SMap.getNat m (o + 1) 1, peerMod := SMap.getNat m (o + 2) 2
    detours := (List.range (SMap.getNat m (o + 4) 1)).map fun i => (SMap.getNat m (o + 8 + 3 * i) 1, SMap.getNat m (o + 9 + 3 * i) 2)
    allot := (List.range 16).map fun v => SMap.getNat m (o + 32 + 2 * v) 2 }

/-- The schedule words that are not 0, keyed 4096·p + i. -/
def schedOf (m : SMap Byte) : SMap Nat :=
  (wordsOf 2 (slice m 0x800 (18 * 0x2000)))

/-- ROUTE: a port toward each module, listed where it is not 0xFF. -/
def routeOf (m : SMap Byte) : SMap Nat :=
  let r := slice m 0x24800 0x8000
  (List.range 32768).filterMap fun d =>
    let p := (SMap.get 0 r d).toNat
    if p == 0xFF then none else some (d, p)

/-- The FABRIC section (R300). Detour slots that hold plain KIND 2 words are not listed again; `fieldsOk` says that all 256 of
each port are there and the reserved field is 0. -/
def fabricOf (m : SMap Byte) : FabCfg :=
  let ws := schedOf m
  { selfmod := SMap.getNat m 0 2, ports := (List.range 18).map (portCfgOf m)
    sched := ws.filter fun e => !(e.1 % 16 == 15 && e.2 == 0x2000)
    route := routeOf m
    fieldsOk := zeroAt m 2 62 && (ws.filter fun e => e.1 % 16 == 15).length == 18 * 256 }

/-- A region entry (R244). -/
def regionOf (m : SMap Byte) (i : Nat) : Region :=
  let o := 64 + 64 * i
  let f := SMap.get 0 m (o + 1)
  { kind := SMap.getNat m o 1, wr := bitB f 0, self0 := bitB f 1, self1 := bitB f 2
    reservedOk := f.toNat < 8 && zeroAt m (o + 2) 6 && zeroAt m (o + 0x30) 16
    size := SMap.getNat m (o + 8) 8, va0 := SMap.getNat m (o + 0x10) 8, va1 := SMap.getNat m (o + 0x18) 8
    gpa0 := SMap.getNat m (o + 0x20) 8, gpa1 := SMap.getNat m (o + 0x28) 8 }

/-- The image that a block of bytes holds (R182, R183). NSECT and NREG out of range leave their lists empty: the checks refuse
such an image or binding. -/
def imageOf (m : SMap Byte) : Image :=
  let nsect := SMap.getNat m 8 4
  let dir := if nsect ≤ 4096 then dirOf m nsect else []
  let mm := sect m dir 0xA
  let nreg := SMap.getNat mm 0 4
  { magic := SMap.getNat m 0 4, fmtVer := SMap.getNat m 4 2, stepping := SMap.getNat m 6 2, nsect := nsect
    seamUs := SMap.getNat m 0xC 4, imageSize := SMap.getNat m 0x10 8, ngang := SMap.getNat m 0x18 1
    tilesUsed := bitsOf (slice m 0x40 128), digest := beatOf (SMap.getBytes m 0xC0 64), dir := dir
    tileMap := tileMapOf m dir, tiles := tilesOf m dir, bridge := wordsOf 2 (sect m dir 7)
    fabric := fabricOf (sect m dir 8), ladder := (wordsOf 8 (sect m dir 9)).filter fun e => e.1 < 4096
    nearTags := SMap.getNat mm 4 4 % 2 == 1, memmapOk := SMap.getNat mm 4 4 < 2 && 1 ≤ nreg && nreg ≤ 65536
    regions := if nreg ≤ 65536 then (List.range nreg).map (regionOf mm) else []
    auth := beatOf (SMap.getBytes (sect m dir 0xB) 0 64), raw := m }

/-! ## A job configuration -/

/-- `n` set records from `off` on, each padded to a multiple of 8, with the end of the last. A node count above 4,096 ends the
list: no record follows it. -/
def setsOf (m : SMap Byte) : Nat → Nat → List SetRec × Nat × Bool
  | 0, off => ([], off, true)
  | n + 1, off =>
    let k := SMap.getNat m (off + 2) 2
    if 4096 < k then ([], off, false)
    else
      let len := roundUp (8 + 2 * k) 8
      let (rs, e, ok) := setsOf m n (off + len)
      (⟨SMap.getNat m off 1, SMap.getNat m (off + 1) 1, (List.range k).map fun i => SMap.getNat m (off + 8 + 2 * i) 2⟩ :: rs, e,
        ok && zeroAt m (off + 4) 4 && zeroAt m (off + 8 + 2 * k) (len - 8 - 2 * k))

/-- Reserved bits of a ladder word are 0 (R119). -/
def ladderWordOk (w : Nat) : Bool :=
  w / 2 ^ 24 % 256 == 0 && w / 2 ^ 36 % 16 == 0 && w / 2 ^ 51 == 0

/-- The job configuration that a block of `size` bytes holds (R368). `reservedOk` says that reserved fields are 0, the two
offsets are multiples of 8 and every region lies within SIZE. -/
def jobCfgOf (m : SMap Byte) (size : Nat) : JobCfg :=
  let w := fun o => SMap.getNat m o 4
  let nsets := SMap.getNat m 0x34 2
  let nladder := SMap.getNat m 0x36 2
  let lo := w 0x80
  let so := w 0x84
  let sets := if nsets ≤ 256 then setsOf m nsets so else ([], so, false)
  let ladder := if nladder ≤ 4096 then wordsOf 8 (slice m lo (8 * nladder)) else []
  let members := bitsOf (slice m 0x100 0x1000)
  { magic := w 0, refmode := w 4 % 2 == 1
    reservedOk := w 4 < 2 && SMap.getNat m 0x1A 1 < 2 && zeroAt m 0x1B 1 && zeroAt m 0x25 3 && w 0x28 < 2 ^ 18 && zeroAt m 0x5C 4 &&
      zeroAt m 0x88 0x78 && zeroAt m 0x56 2 && lo % 8 == 0 && so % 8 == 0 && lo + 8 * nladder ≤ size && sets.2.1 ≤ size &&
      sets.2.2 && ladder.all (fun e => ladderWordOk e.2)
    seed := BitVec.ofNat 64 (SMap.getNat m 8 8), step := BitVec.ofNat 64 (SMap.getNat m 0x10 8), modnum := SMap.getNat m 0x18 2
    parity := SMap.getNat m 0x1A 1 % 2 == 1, deadlineUs := w 0x1C, jobSize := w 0x20, parent := SMap.getNat m 0x24 1
    child := w 0x28, seqBase := w 0x2C, seqLen := w 0x30, nearQuota := SMap.getNat m 0x38 8, farQuota := SMap.getNat m 0x40 8
    pcCtrl := BitVec.ofNat 32 (w 0x48), thresh := [BitVec.ofNat 32 (w 0x4C), BitVec.ofNat 32 (w 0x50), BitVec.ofNat 32 (w 0x54)]
    grad := BitVec.ofNat 32 (w 0x58), jobid := BitVec.ofNat 256 (SMap.getNat m 0x60 32)
    ladder := ladder, nladder := nladder, sets := sets.1, members := members, bytes := blobBytes m size }

end Sys2Proof.Machine
end

