-- ==== Sys2Proof/Machine/Ops.lean ====
section
/-! DEFINITION. The named operations every family uses: reading and writing the indexed parts of the state, time, the
ledger, what is sent to the host, completions, and signals to event counters. -/

namespace Sys2Proof.Machine

/-- KDF(K, X, L, S) for an output of `bits` bits (R411). -/
def kdf (bits : Nat) (k : Beat) (x : List Byte) (tag : String) : Beat :=
  Config.kmac256 bits k x tag &&& BitVec.ofNat 512 (2 ^ bits - 1)

/-! ## AES-256-GCM (R291, R425, R429, R432) -/

/-- Bytes under the key stream of a key and a nonce. -/
def gcmXor (k : Beat) (nonce bs : List Byte) : List Byte :=
  (List.range bs.length).map fun i => bs.getD i 0 ^^^ Config.gcmStream k nonce i

/-- Sealing: additional data, plaintext; ciphertext and 16 B tag. -/
def gcmSeal (k : Beat) (nonce ad pt : List Byte) : List Byte × List Byte :=
  (gcmXor k nonce pt, leBytes 16 (Config.gcmTag k nonce ad (gcmXor k nonce pt)).toNat)

/-- Opening: additional data, ciphertext, tag; none where the tag fails. -/
def gcmOpen (k : Beat) (nonce ad ct tag : List Byte) : Option (List Byte) :=
  if tag == leBytes 16 (Config.gcmTag k nonce ad ct).toNat then some (gcmXor k nonce ct) else none

/-! ## Roots of trust (R410 to R412) -/

/-- The digest of the vendor public key in the mask ROM. -/
def romKeyDigest : Beat := Config.shake256 (beatBytes Config.vendorKey)

/-- A 2,820 B signature that verifies under a public key. -/
def xmssOk (key : Beat) (msg sig : List Byte) : Bool := sig == fixLen 2820 (Config.xmssMade key msg) || Config.xmssVerify key msg sig

/-- The vendor's signature over a message: the flash's vendor key is the one whose digest the ROM holds, and the signature verifies
under it. -/
def vendorOk (f : Flash) (msg sig : List Byte) : Bool :=
  Config.shake256 (beatBytes f.vendorKey) == romKeyDigest && xmssOk f.vendorKey msg sig

/-- A key of the PUF secret P. -/
def pufKey (name : List Byte) (tag : String) : Beat := kdf 256 (Config.pufSecret.setWidth 512) name tag

/-- K_RPF and K_BR. -/
def kRpf : BitVec 256 := (pufKey [] "ZT-B4480 RPF").setWidth 256
def kBr : Beat := pufKey [] "ZT-B4480 BOARD"

/-- Accesses of the replay-protected area authenticate with K_RPF (R413). -/
def rpfAuth (f : Flash) : Bool := f.rpfKey == kRpf

/-! ## AES-256-XTS (R263, R427) -/

/-- The 16 B blocks of a data unit from its block `i` on, each through `f`. -/
def xtsMap (f : Nat → BitVec 128 → BitVec 128) (i : Nat) (bs : List Byte) : List Byte :=
  (List.range (cdiv bs.length 16)).flatMap fun j =>
    leBytes 16 (f (i + j) (BitVec.ofNat 128 (leNat ((bs.drop (16 * j)).take 16)))).toNat

/-- Bytes that begin at block `i` of a data unit, encrypted and decrypted: key, tweak of the unit. -/
def xtsEnc (k : Beat) (tweak i : Nat) (bs : List Byte) : List Byte := xtsMap (fun n => Config.xtsBlock k tweak n) i bs
def xtsDec (k : Beat) (tweak i : Nat) (bs : List Byte) : List Byte := xtsMap (fun n => (Config.xtsBlock k tweak n).symm) i bs

/-! ## Access to the indexed parts -/

def State.tile (s : State) (t : Nat) : Tile := SMap.get {} s.tiles t
def State.setTile (s : State) (t : Nat) (x : Tile) : State := { s with tiles := SMap.set {} s.tiles t x }
def State.modTile (s : State) (t : Nat) (f : Tile → Tile) : State := s.setTile t (f (s.tile t))

def Tile.ctx (x : Tile) (th : Nat) : Ctx := SMap.get Ctx.empty x.threads th
def Tile.setCtx (x : Tile) (th : Nat) (c : Ctx) : Tile := { x with threads := SMap.set Ctx.empty x.threads th c }
def State.ctx (s : State) (t th : Nat) : Ctx := (s.tile t).ctx th
def State.setCtx (s : State) (t th : Nat) (c : Ctx) : State := s.modTile t fun x => x.setCtx th c

def State.gang (s : State) (g : Nat) : Gang := SMap.get {} s.gangs g
def State.modGang (s : State) (g : Nat) (f : Gang → Gang) : State :=
  { s with gangs := SMap.set {} s.gangs g (f (s.gang g)) }

def State.mover (s : State) (m : Nat) : Mover := SMap.get {} s.movers m
def State.modMover (s : State) (m : Nat) (f : Mover → Mover) : State :=
  { s with movers := SMap.set {} s.movers m (f (s.mover m)) }

def State.port (s : State) (p : Nat) : Port := SMap.get {} s.ports p
def State.modPort (s : State) (p : Nat) (f : Port → Port) : State :=
  { s with ports := SMap.set {} s.ports p (f (s.port p)) }

def State.sq (s : State) (q : Nat) : Sq := SMap.get {} s.host.sqs q
def State.modSq (s : State) (q : Nat) (f : Sq → Sq) : State :=
  { s with host := { s.host with sqs := SMap.set {} s.host.sqs q (f (s.sq q)) } }

def State.cq (s : State) (q : Nat) : Cq := SMap.get {} s.host.cqs q
def State.modCq (s : State) (q : Nat) (f : Cq → Cq) : State :=
  { s with host := { s.host with cqs := SMap.set {} s.host.cqs q (f (s.cq q)) } }

/-- A state of a block changed by a function. -/
def State.modStg (s : State) (f : StgBlk → StgBlk) : State := { s with stg := f s.stg }
def State.modMem (s : State) (f : MemBlk → MemBlk) : State := { s with mem := f s.mem }
def State.modFab (s : State) (f : FabBlk → FabBlk) : State := { s with fab := f s.fab }
def State.modCm (s : State) (f : CmBlk → CmBlk) : State := { s with cm := f s.cm }
def State.modPc (s : State) (f : PcBlk → PcBlk) : State := { s with pc := f s.pc }
def State.modHost (s : State) (f : HostBlk → HostBlk) : State := { s with host := f s.host }
def State.modFlt (s : State) (f : FltBlk → FltBlk) : State := { s with flt := f s.flt }
def State.modGov (s : State) (f : GovBlk → GovBlk) : State := { s with gov := f s.gov }
def State.modTrust (s : State) (f : TrustBlk → TrustBlk) : State := { s with trust := f s.trust }

/-- The time counter in ns (R403). -/
def State.ns (s : State) : Nat := fldN s.tm.now 32 64

/-- CCLK at an operating point, in MHz (R378). -/
def opMHz (op : Nat) : Nat := 600 + 160 * op

/-- The cycle in progress ends after time `t` in ns: at the current operating point, a stretched period a quarter longer (R398,
R402, R403). -/
def State.endsAfter (s : State) (t : Nat) : Bool :=
  let f := opMHz s.gov.op
  decide (t * 2 ^ 32 * (2 * f) < s.tm.now.toNat * (2 * f) + 5 * (s.clk.phase + (if s.clk.stretch = 0 then 400 else 500)) * 2 ^ 32)

/-- The slot index (R159) as a number. -/
def State.slotN (s : State) : Nat := s.clk.slot.toNat

/-- The slot index of cycle `c`, from the current cycle and slot (R159). -/
def State.slotAt (s : State) (c : Nat) : Nat := (s.slotN + 256 - s.clk.cycle % 256 + c) % 256

/-- The next free value (log 3) and the state that has drawn it. -/
def State.draw (s : State) : DWord × State := (Config.freeBits s.free, { s with free := s.free + 1 })

/-- Tiles of a gang (R169). -/
def State.gangTiles (s : State) (g : Nat) : List Nat :=
  (s.tiles.filter fun e => e.2.gang == some g).map (·.1)

/-- Used tiles (R169). -/
def State.usedTiles (s : State) : List Nat := (s.tiles.filter fun e => e.2.gang.isSome).map (·.1)

/-- Gangs of the tile map (R169), each once. -/
def State.gangList (s : State) : List Nat := (s.tiles.filterMap fun e => e.2.gang).eraseDups

/-- The number of this module (R25); 0 with no job bound. -/
def State.self (s : State) : Nat := (s.job.map (·.modnum)).getD 0

/-- A job is bound (R213). -/
def State.bound (s : State) : Bool := s.stg.st != .unbound

/-- The fabric section of the bound job's image (R300). -/
def State.fabCfg (s : State) : Option FabCfg := if s.bound then s.image.map (·.img.fabric) else none

/-- The PORT record of port `p` (R300); role 0 with no job. -/
def State.portCfg (s : State) (p : Nat) : PortCfg :=
  match s.fabCfg with
  | some f => (f.ports[p]?).getD ⟨0, 0, 0, [], []⟩
  | none => ⟨0, 0, 0, [], []⟩

/-- Ports of role other than 0 (R281). -/
def State.rolePorts (s : State) : List Nat := (List.range 18).filter fun p => (s.portCfg p).role != 0

/-! ## The ledger (R444 to R446) and PLDM events -/

/-- MSI-X vector `v` is sent, or held while the link is down; a masked one becomes pending (R332, R354). -/
def msixSend (s : State) (v : Nat) : State :=
  let ctl := SMap.get 0 s.host.msix (16 * v + 12) ^^^ 1
  if bitB ctl 0 then
    let a := 0x8000 + v / 32 * 4
    s.modHost fun h => { h with msix := SMap.upd 0 h.msix a fun w => w ||| BitVec.ofNat 32 (2 ^ (v % 32)) }
  else if s.host.linkUp then s.modHost fun h => { h with out := h.out ++ [.msix v] }
  else s.modHost fun h => { h with heldOut := h.heldOut ++ [.msix v], upHeld := h.upHeld + 1 }

/-- INT_STATUS bit `b` is set; vector 0 is sent where INT_ENABLE allows (R354). -/
def raiseInt (s : State) (b : Nat) : State :=
  let s := s.modHost fun h =>
    { h with intStatus := h.intStatus ||| BitVec.ofNat 5 (2 ^ b), intNow := h.intNow ||| BitVec.ofNat 5 (2 ^ b) }
  if bitB s.host.intEnable b then msixSend s 0 else s

/-- Two ledger entries detected in one cycle of the always-on domain's 25 MHz crystal (R402, R446; log 57). -/
def sameAoCycle (a b : BitVec 256) : Bool := fldN a 64 64 / 40 == fldN b 64 64 / 40

/-- The order of entries within an always-on cycle: SRC, then UNIT (R446). -/
def ledgerKey (e : BitVec 256) : Nat := fldN e 56 8 * 2 ^ 16 + fldN e 144 16

/-- An entry with another SEQ. -/
def withSeq (e : BitVec 256) (n : Nat) : BitVec 256 := e.extractLsb' 48 208 ++ BitVec.ofNat 48 n

/-- The ring, newest first, with `e` put among the entries of its own always-on cycle, SEQ rising (R446). -/
def ledgerPut (e : BitVec 256) : List (BitVec 256) → List (BitVec 256)
  | [] => [e]
  | x :: xs =>
    if sameAoCycle x e && decide (ledgerKey e < ledgerKey x) then
      withSeq x (fldN e 0 48) :: ledgerPut (withSeq e (fldN x 0 48)) xs
    else e :: x :: xs

/-- A ledger entry of the given severity, source, event code, unit and data (R444); an info or warning entry that finds
no place among the 960 is counted in LEDG_SUPPRESSED (R446), and a fatal one sets INT_STATUS.LEDGER (R354). Entries of one always-on cycle
stand by SRC and UNIT (R446). -/
def ledger (s : State) (sev src code unit data : Nat) : State :=
  if sev < 2 && s.flt.qlen ≥ 960 then s.modFlt fun f => { f with suppressed := sat32 (f.suppressed + 1) }
  else
    let e : BitVec 256 := pack 256 [(0, 48, s.flt.next), (48, 4, sev), (56, 8, src), (64, 64, s.ns), (128, 16, code),
      (144, 16, unit), (160, 32, s.stg.step.toNat), (192, 64, data)]
    let s := s.modFlt fun f =>
      { f with ring := (ledgerPut e f.ring.reverse).reverse.drop (f.ring.length + 1 - 65536), next := f.next + 1, qlen := f.qlen + 1 }
    if sev == 3 then raiseInt s 4 else s

/-- The UNIT of an entry that names none (R444). -/
def noUnit : Nat := 0xFFFF

/-- A PLDM event toward the BMC (log 16). -/
def pldm (s : State) (e : Pldm) : State := s.modFlt fun f => { f with pldm := f.pldm ++ [e] }

/-! ## Toward the host (R335, R348 to R350, R356) -/

/-- A write toward host memory: held while the link is down (R356); writes to the exchange area proceed. -/
def hostSend (s : State) (o : HostOut) (xarea : Bool) : State :=
  if s.host.linkUp || xarea then s.modHost fun h => { h with out := h.out ++ [o] }
  else s.modHost fun h => { h with heldOut := h.heldOut ++ [o], upHeld := h.upHeld + 1 }

/-- `n` events of the governor's kind `i` in this window (R381). -/
def noteEvents (s : State) (i n : Nat) : State :=
  if n = 0 then s else s.modGov fun g => { g with events := SMap.upd 0 g.events i fun c => c + n }

/-- The window's near-tier beats, or far-tier requests, are used up (R387). -/
def memFull (s : State) : Bool := s.gov.memLim.any fun n => n ≤ SMap.get 0 s.gov.events 14
def farFull (s : State) : Bool := s.gov.farLim.any fun n => n ≤ SMap.get 0 s.gov.events 15

/-- Fields of a submission entry (R344). -/
def entOpcode (e : BitVec 2048) : Nat := fldN e 0 16
def entCid (e : BitVec 2048) : Nat := fldN e 16 16
def entFlags (e : BitVec 2048) : BitVec 8 := fld e 32 8
def entPhase (e : BitVec 2048) : Bool := bitB e 32
def entRloc (e : BitVec 2048) : Bool := bitB e 33
def entPlen (e : BitVec 2048) : Nat := fldN e 48 16
def entSession (e : BitVec 2048) : Nat := fldN e 64 32
def entResult (e : BitVec 2048) : Nat := fldN e 128 64
def entReslen (e : BitVec 2048) : Nat := fldN e 192 32
/-- The bytes of the entry and of its payload up to PLEN. -/
def entBytes (e : BitVec 2048) : List Byte := leBytes 256 e.toNat
def entPayload (e : BitVec 2048) : List Byte := ((entBytes e).drop 64).take (entPlen e)
/-- A PARAM field at entry byte `off`, `bits` wide (R362). -/
def entParam (e : BitVec 2048) (off bits : Nat) : Nat := fldN e (8 * off) bits

/-! ## Gangs at their seams and signals (R166, R173) -/

/-- The thread stands in SEAM, or in a state that counts as arrived at every seam (R155). -/
def ctxArrived (c : Ctx) : Bool := c.st == .seam || c.st == .empty || c.st == .halt

/-- Every thread of gang `g` has arrived (R173). -/
def gangArrived (s : State) (g : Nat) : Bool :=
  s.tiles.all fun e => e.2.gang != some g || e.2.threads.all fun c => ctxArrived c.2

/-- The gang is at its seam, from its last thread's arrival until it leaves (R173). -/
def atSeam (s : State) (g : Nat) : Bool := (s.gang g).seamAt.isSome || gangArrived s g

/-- The gang's context stands in the SAVE region (R172, R262). -/
def contextSaved (s : State) : Bool := s.pre.saved

/-- `amt` is added to EC[c] of tile `t` (R165, R166), counted in TS_SIG_IN; a signal from elsewhere to a gang at its
seam is a breach, counted in TS_LATE_SIG (R173). `src` is the gang of the source, none if no gang. -/
def applySignal (s : State) (src : Option Nat) (t c amt : Nat) : State :=
  let g := (s.tile t).gang
  let breach := match g with
    | some g => atSeam s g && src != some g
    | none => false
  s.modTile t fun x =>
    { x with ec := SMap.upd 0 x.ec c fun v => v + BitVec.ofNat 32 amt
             ts := { x.ts with sigIn := sat64 (x.ts.sigIn + amt)
                               lateSig := if breach then sat32 (x.ts.lateSig + 1) else x.ts.lateSig }
             breaches := if breach then x.breaches + 1 else x.breaches }

/-- A signal whose gang's context is saved waits in the boundary buffer (R173); otherwise it is applied. -/
def deliverSignal (s : State) (src : Option Nat) (t c amt : Nat) : State :=
  if contextSaved s && src != (s.tile t).gang then
    s.modFab fun f => { f with heldSigs := f.heldSigs ++ [(t, c, amt)] }
  else applySignal s src t c amt

/-- A signal from a source of this module (R166, R452). -/
def signalLocal (s : State) (src : Option Nat) (t c amt : Nat) : State :=
  if amt == 0 then s
  else deliverSignal (s.modFlt fun f => { f with sigLocal := sat64 (f.sigLocal + amt) }) src t c amt

/-- Register address of EC[c] of tile t (R180, R242). -/
def ecAddr (t c : Nat) : Nat := 0x31000000000 + t * 0x10000 + 0x800 + 4 * c

/-- A signal to a tile the tile map does not use is dropped, counted and written to the ledger (R288). -/
def dropSignal (s : State) (t c amt : Nat) : State :=
  let s := s.modFab fun f => { f with sigDrop := sat32 (f.sigDrop + 1) }
  let s := s.modFlt fun f => { f with sigDropped := sat64 (f.sigDropped + amt) }
  ledger s 1 3 0x0305 t (ecAddr t c)

/-- A signal from a remote message, a CPUT or a SIG word (R166, R173, R288, R363). -/
def signalRemote (s : State) (t c amt : Nat) : State :=
  if (s.tile t).gang.isNone then dropSignal s t c amt
  else deliverSignal (s.modFlt fun f => { f with sigRemote := sat64 (f.sigRemote + amt) }) none t c amt

/-! ## Verdict bits and freezing -/

/-- Bit `b` of STG_LOCAL is set while a job is bound (R225). -/
def setLocal (s : State) (b : Nat) : State :=
  if s.bound then s.modStg fun g => { g with loc := g.loc ||| BitVec.ofNat 10 (2 ^ b) } else s

/-- The gang issues nothing from the next cycle (R168). -/
def freezeGang (s : State) (g : Nat) : State :=
  s.modGang g fun x => { x with frozen := true, frozenAt := if x.frozen then x.frozenAt else s.clk.cycle }

def freezeAll (s : State) : State := s.gangList.foldl freezeGang s

/-! ## Sensors and switches shared by several chapters -/

/-- PC_CTRL.REFMODE (R121). -/
def State.refMode (s : State) : Bool := bitB s.pc.ctrlNow 9

/-- A ladder entry (R119). -/
def State.ladder (s : State) (n : Nat) : LadderEnt := SMap.get {} s.pc.ladder n
def State.modLadder (s : State) (n : Nat) (f : LadderEnt → LadderEnt) : State :=
  s.modPc fun p => { p with ladder := SMap.upd {} p.ladder n f }

/-- Escalation failure: PC_STATUS.ESC_FAIL and its count (R109, R118). -/
def escFail (s : State) : State :=
  s.modPc fun p => { p with escFail := true, escfail := sat32 (p.escfail + 1) }

/-! ## Holds (R172) -/

/-- A tile is to be darned: predictively at the next seam, after a hard fault while IDLE (R178, R434, R440). -/
def darnPending (s : State) : Bool :=
  s.tiles.any fun e => e.2.failing || (e.2.hardFail && s.stg.st != .running)

/-- A snapshot with MODE 1 waits for every gang to be held (R374). -/
def snapSeamPending (s : State) : Bool :=
  match s.flt.snapPend with
  | some p => p.2.1
  | none => false

/-- A hold for which gangs wait at their seams has fallen due: darning, pre-emption, Rest, a MODE 1 snapshot. While the
module is LOCAL_DONE or COMMITTING such an event waits until it is IDLE (R172, R216). -/
def holdDue (s : State) : Bool :=
  s.pre.saving || s.pre.saved || s.pre.restoring.isSome || s.flt.darning.isSome || s.rest.st == .resting ||
  s.rest.st == .waking ||
  ((s.stg.st == .running || s.stg.st == .idle) &&
    (s.pre.pending.isSome || darnPending s || s.rest.st == .pending || snapSeamPending s))

/-- A transfer fault of gang `g` is unresolved (R172). -/
def gangFault (s : State) (g : Nat) : Bool := s.mem.faults.any fun f => f.gang == g && !(f.mover && decide (12 ≤ f.unit % 16))

/-- The gang is held (R172): at its seam by an event or by an unresolved transfer fault, or quiescent at EC[0] by a hold. -/
def gangHeld (s : State) (g : Nat) : Bool :=
  (s.gang g).heldQuiet || (gangArrived s g && gangFault s g) ||
    ((s.gang g).seamAt.any (fun t0 => t0 + 2 ≤ s.clk.cycle) && holdDue s)

/-! ## Bridges (R176) -/

/-- The sender that a channel's table names in cycle `c` (R176). -/
def channelSender (s : State) (ch c : Nat) : Nat :=
  match s.image with
  | some k => SMap.get 0 k.img.bridge (256 * ch + s.slotAt c)
  | none => 0

/-! ## The time counter's rate (R403) -/

/-- Nominal TIME_INCR. -/
def nominalIncr : Nat := 0x280000000

/-- A rate brought within 500 ppm of nominal, as a bound job needs it. -/
def jobIncr (i : BitVec 40) : BitVec 40 :=
  BitVec.ofNat 40 (min (max i.toNat (nominalIncr - nominalIncr / 2000)) (nominalIncr + nominalIncr / 2000))

/-- The node trim stops (R409): the rate is nominal again, and a member that its node's reference disciplined acquires PTP. -/
def stopTrim (t : TimeBlk) : TimeBlk :=
  if t.st == .node then { t with st := .acquiring, good := 0, residual := 0, incr := BitVec.ofNat 40 nominalIncr } else t

/-- Link-loss reset and JOB_RELEASE abandon the lacing round in progress and stop the node trim (R409). -/
def leaveRound (s : State) : State :=
  { s with lace := { s.lace with offers := [], sent := false, level := none, due := none }, tm := stopTrim s.tm }

end Sys2Proof.Machine
end

