-- ==== Sys2Proof/Machine/Board.lean ====
section
/-! DEFINITION. The field part of the board record: its tag, a change in service and its write to flash (R413, R417, R418). -/

namespace Sys2Proof.Machine

/-- A map of a field copy as bytes. -/
def mapBytes (m : SMap Nat) : List Byte := leBytes 4 m.length ++ m.flatMap fun e => leBytes 4 e.1 ++ leBytes 4 e.2

/-- Version and contents of a field copy (the model's order of its contents, log 5). -/
def fieldBytes (c : FieldRec) : List Byte :=
  leBytes 4 c.ver ++ mapBytes c.darned ++ mapBytes c.chan ++ mapBytes (c.chanSpare.map fun e => (e.1, bitAt e.2 0)) ++
  mapBytes (c.laneTx.map fun e => (e.1, e.2.toNat)) ++ mapBytes (c.laneRx.map fun e => (e.1, e.2.toNat)) ++
  mapBytes c.remap ++ leBytes 4 c.maxOp ++ mapBytes c.farSlot

/-- The tag of a field copy: KDF(K_BR, version ‖ contents, 256, "ZT-B4480 FIELD") (R417). -/
def fieldTag (c : FieldRec) : BitVec 256 := (kdf 256 kBr (fieldBytes c) "ZT-B4480 FIELD").setWidth 256

/-- The tag of a field copy verifies. -/
def tagOk (c : FieldRec) : Bool := c.tag == fieldTag c

/-- A record under the next version, tagged. -/
def nextField (f : Flash) (b : FieldRec) : FieldRec :=
  let r := { b with ver := f.brVer.toNat + 1 }
  { r with tag := fieldTag r }

/-- Copy A is the older one: a copy above BR_VER is what a write cut short has left (R418). -/
def olderA (f : Flash) : Bool :=
  let age := fun (c : FieldRec) => if c.ver ≤ f.brVer.toNat then c.ver + 1 else 0
  age f.copyA ≤ age f.copyB

/-- The older copy written. -/
def putCopy (f : Flash) (r : FieldRec) : Flash := if olderA f then { f with copyA := r } else { f with copyB := r }

/-- The record in force written to the older copy with version BR_VER + 1 and read back, and only then BR_VER incremented, which the
area's authenticated read shows (R413, R418). Where one of these fails, the older copy is left at a version that boot rejects, the
change stays in force, and the write is tried again (log 39). -/
def boardFlush (s : State) (ok : Bool) : State :=
  let f := s.trust.flash
  let r := nextField f s.trust.board
  if ok && rpfAuth f && f.brVer != 0xFFFFFFFF then
    s.modTrust fun t => { t with board := r, boardDirty := false, flash := { putCopy f r with brVer := f.brVer + 1 } }
  else
    ledger (s.modTrust fun t => { t with boardDirty := true, boardAt := s.ns, flash := putCopy f r }) 2 6 0x0603 noUnit f.brVer.toNat

/-- A far-tier port can run under IDE: it is populated, and the board record names a filled PSK slot for it (R432). -/
def farSlotOk (s : State) (p cap : Nat) : Bool :=
  cap != 0 && (SMap.get none s.trust.flash.psk (SMap.get 0xFF s.trust.board.farSlot p)).isSome

/-- A change of the field part, in force at once. -/
def boardSet (s : State) (ok : Bool) (f : FieldRec → FieldRec) : State :=
  boardFlush (s.modTrust fun t => { t with board := f t.board }) ok

end Sys2Proof.Machine
end

