-- ==== Sys2Proof/Machine/Digest.lean ====
section
/-! DEFINITION. CRC-32C (R269, R345) and the digests over GF(2^64) (R313). -/

namespace Sys2Proof.Machine

/-- Eight shifts of the reflected CRC register. -/
def crcShift : Nat → Word → Word
  | 0, c => c
  | n + 1, c => crcShift n (if c.getLsbD 0 then (c >>> 1) ^^^ 0x82F63B78 else c >>> 1)

/-- CRC-32C of a byte string (R345). -/
def crc32c (bs : List Byte) : Word :=
  ~~~(bs.foldl (fun c b => crcShift 8 (c ^^^ b.setWidth 32)) 0xFFFFFFFF)

/-- gmul of R313, from bit `i` of `b` upward for `n` bits. -/
def gmulStep : Nat → DWord → DWord → DWord → DWord
  | 0, _, _, r => r
  | n + 1, a, b, r =>
    gmulStep n (if a.getLsbD 63 then (a <<< 1) ^^^ 0x1B else a <<< 1) (b >>> 1) (if b.getLsbD 0 then r ^^^ a else r)

def gmul (a b : DWord) : DWord := gmulStep 64 a b 0

/-- `k` to the power `e` by squaring over `n` bits of `e`. -/
def gpowStep : Nat → DWord → Nat → DWord → DWord
  | 0, _, _, r => r
  | n + 1, k, e, r => gpowStep n (gmul k k) (e / 2) (if e % 2 = 1 then gmul r k else r)

def gpow (k : DWord) (e : Nat) : DWord := gpowStep 64 k e 1

/-- digest_add of R313; pos + 1 wraps. -/
def digestAdd (d k : DWord) (salt pos : Nat) (w : DWord) : DWord :=
  d ^^^ gmul (w ^^^ BitVec.ofNat 64 (salt * 2 ^ 48)) (gpow k ((pos + 1) % 2 ^ 64))

/-- The 64-bit words of a beat, word 0 first. -/
def beatWords (b : Beat) : List DWord := (List.range 8).map fun i => fld b (64 * i) 64

/-- A list of words added at consecutive positions. -/
def digestWords (d k : DWord) (salt pos : Nat) (ws : List DWord) : DWord :=
  (ws.zipIdx).foldl (fun d w => digestAdd d k salt (pos + w.2) w.1) d

end Sys2Proof.Machine
end

