-- ==== Sys2Proof/Machine/Regs.lean ====
section
/-! DEFINITION. What every register block reads: tile register space, register aperture and BAR0 (R180, R242, R338). A
block is a list of (offset, width in bits, value); offsets not listed read 0 (R10). -/

namespace Sys2Proof.Machine

/-- A register block: offset, width in bits, value. -/
abbrev Blk := List (Nat × Nat × Nat)

/-- The 32-bit word at offset `o` of a block: the addressed part of a wider register (R12, R189). -/
def blkWord (l : Blk) (o : Nat) : Word :=
  match l.find? fun e => e.1 ≤ o && o < e.1 + e.2.1 / 8 with
  | some e => BitVec.ofNat 32 (e.2.2 / 2 ^ (8 * (o - e.1)))
  | none => 0

/-- The first `n` bytes of a block. -/
def blkBytes (l : Blk) (n : Nat) : List Byte :=
  (List.range (n / 4)).flatMap fun i => leBytes 4 (blkWord l (4 * i)).toNat

/-- A signed value as a 32-bit field. -/
def s32 (i : Int) : Nat := (BitVec.ofInt 32 i).toNat

/-! ## Tile register space (R180) -/

/-- Physical column of a logical tile (R177). -/
def physCol (s : State) (t : Nat) : Nat :=
  let c := t % 32
  if c < SMap.get 0xFF s.trust.board.darned (t / 32) then c else c + 1

/-- TS block (R181). TS_STATE shows the physical column while a job is bound, and 0, its Reset value, before (log 14). -/
def tsBlk (s : State) (t : Nat) : Blk :=
  let x := s.tile t
  let g := x.gang.getD 0
  let st := if x.gang.isNone then 0 else if contextSaved s then 3 else if (s.gang g).frozen then 2
    else if gangHeld s g then 1 else 0
  let col := if s.bound then physCol s t else 0
  [(0x00, 32, g + bitAt x.gang.isSome 6 + st * 256 + x.tset.toNat * 1024 + col * 65536),
   (0x04, 32, x.ts.seam.toNat), (0x08, 64, x.ts.fault.toNat), (0x10, 32, x.ts.faults), (0x14, 32, x.ts.lateSig),
   (0x18, 64, x.ts.sigIn), (0x20, 64, x.ts.issued)]

/-- KFS block (R59). -/
def kfsBlk (k : Kfs) : Blk :=
  [(0x00, 32, bitAt k.nan 0 + bitAt k.ovf 1 + bitAt k.poolOvf 2 + bitAt k.fmtFault 3), (0x04, 32, k.sat),
   (0x08, 32, k.unf), (0x0C, 32, k.nanCount), (0x10, 32, k.patch), (0x14, 32, k.zblk), (0x18, 32, k.satblk),
   (0x1C, 32, k.escblk), (0x20, 32, k.fmtCount)]

/-- MXS block (R89). -/
def mxsBlk (m : Mxs) : Blk :=
  [(0x00, 32, bitAt (m.ovf != 0) 0 + bitAt (m.nan != 0) 1 + bitAt (m.pbudget != 0) 2 + bitAt (m.hazard != 0) 3),
   (0x04, 32, m.ops), (0x08, 32, m.patch), (0x0C, 32, m.pbudget), (0x10, 32, m.ovf), (0x14, 32, m.nan),
   (0x18, 32, m.hazard)]

/-- VRS block (R148). -/
def vrsBlk (v : Vrs) : Blk :=
  [(0x00, 32, bitAt (v.empty != 0) 0 + bitAt (v.nanGen != 0) 1 + bitAt v.nanSeen 2 + bitAt (v.nanZero != 0) 3 +
      bitAt (v.domain != 0) 4), (0x04, 32, v.ops), (0x08, 32, v.empty), (0x0C, 32, v.nanGen), (0x10, 32, v.domain),
   (0x14, 32, v.nanZero), (0x18, 32, v.nanMap.toNat), (0x20, 64, v.nanFirst.toNat)]

/-- PCT block (R120). -/
def pctBlk (x : Tile) : Blk :=
  (0, 32, x.pctVerdict.toNat) ::
  ((List.range 8).filterMap fun i => x.raises[i]?.map fun r =>
    (4 + 4 * i, 32, r.entry + r.rung * 4096 + bitAt r.deferred 15 + 2 ^ 31))

/-- A byte of the active table set (R160, R161); 0x40 where not listed. -/
def slotByte (x : Tile) (set res slot : Nat) : Byte := SMap.get 0x40 x.sets (8448 * set + 256 * res + slot)

/-- The word at offset `o` of the register space of tile `t`, counters as they now stand (R180). -/
def tileWord (s : State) (t o : Nat) : Word :=
  let x := s.tile t
  if o < 0x100 then blkWord (tsBlk s t) o
  else if o < 0x200 then blkWord (kfsBlk x.kfs) (o - 0x100)
  else if o < 0x300 then blkWord (mxsBlk x.mxs) (o - 0x200)
  else if o < 0x400 then blkWord (vrsBlk x.vrs) (o - 0x300)
  else if o < 0x800 then blkWord (pctBlk x) (o - 0x400)
  else if o < 0xC00 then SMap.get 0 x.ec ((o - 0x800) / 4)
  else if 0x1000 ≤ o ∧ o < 0x3100 then
    BitVec.ofNat 32 (leNat ((List.range 4).map fun i =>
      slotByte x x.tset.toNat ((o - 0x1000 + i) / 256) ((o - 0x1000 + i) % 256)))
  else 0

/-! ## Register aperture (R242) -/

/-- The word of a ladder entry (R119). -/
def ladderWord (s : State) (e : LadderEnt) : Nat :=
  bitAt e.valid 0 + e.base * 2 + e.ceil * 16 + bitAt e.scope 7 + bitAt e.jobwide 8 + bitAt e.grad 9 + e.gang * 2 ^ 10 +
  e.relax * 2 ^ 16 + (if s.refMode then 5 else e.rung) * 2 ^ 32 + bitAt e.raised 35 + e.clean * 2 ^ 40 +
  e.records * 2 ^ 48

/-- PC block registers (R118). -/
def pcBlk (s : State) : Blk :=
  let p := s.pc
  [(0x00, 32, p.ctrl.toNat), (0x04, 32, bitAt p.escFail 0 + bitAt p.jobwideMark 1 + bitAt p.skippedFlag 2 +
      bitAt p.wideFlag 3), (0x08, 32, p.thA.toNat), (0x0C, 32, p.thB.toNat), (0x10, 32, p.thC.toNat),
   (0x14, 32, p.grad.toNat), (0x18, 32, p.maxDq), (0x20, 32, p.sampled), (0x24, 32, p.checked), (0x28, 32, p.skipped),
   (0x2C, 32, p.fail), (0x30, 32, p.raise), (0x34, 32, p.relax), (0x38, 32, p.escfail), (0x3C, 32, p.wide)]

/-- PC_GSUM of an entry (R114, R118): newest first. -/
def gsumBlk (s : State) (n : Nat) : Blk :=
  ((SMap.get [] s.pc.gsum n).zipIdx).flatMap fun ri =>
    [(16 * ri.2, 32, ri.1.nz), (16 * ri.2 + 4, 32, ri.1.ovf), (16 * ri.2 + 8, 32, ri.1.unf8),
     (16 * ri.2 + 12, 32, ri.1.unf6)]

def pcWord (s : State) (o : Nat) : Word :=
  if o < 0x1000 then blkWord (pcBlk s) o
  else if o < 0x9000 then
    blkWord [(0, 64, ladderWord s (s.ladder ((o - 0x1000) / 8)))] ((o - 0x1000) % 8)
  else if 0x10000 ≤ o ∧ o < 0x50000 then blkWord (gsumBlk s ((o - 0x10000) / 64)) ((o - 0x10000) % 64)
  else 0

/-- Code of a step state (R213). -/
def StepState.code : StepState → Nat
  | .unbound => 0
  | .idle => 1
  | .running => 2
  | .localDone => 3
  | .committing => 4
  | .abandoned => 5
  | .preempted => 6

/-- STG block (R235). -/
def stgBlk (s : State) : Blk :=
  let g := s.stg
  [(0x00, 32, g.st.code + g.lastStatus.toNat * 65536), (0x08, 64, g.step.toNat), (0x10, 32, g.loc.toNat),
   (0x14, 32, g.verdict.toNat), (0x18, 64, g.gangs.toNat), (0x20, 64, g.gangDone.toNat), (0x28, 32, g.parity.toNat),
   (0x2C, 32, if s.bound then g.deadlineUs.toNat else 0), (0x30, 32, g.commits), (0x34, 32, g.discards), (0x38, 32, g.rollfwds),
   (0x3C, 32, g.abandons), (0x40, 32, g.hwm), (0x44, 32, g.ce), (0x48, 32, g.ue), (0x4C, 32, g.ueLoc.toNat),
   (0x50, 64, g.spillWr), (0x58, 64, g.spillRd), (0x60, 32, g.lastUs)]

/-- MEM block (R267). -/
def memBlk (s : State) : Blk :=
  let m := s.mem
  [(0x00, 32, bitAt m.nearTags 0 + bitAt m.scrub 1), (0x04, 32, m.faultCount), (0x08, 32, m.faults.length),
   (0x0C, 32, m.farLimit.toNat), (0x10, 32, m.hwinLimit.toNat), (0x14, 32, m.nearCe), (0x18, 32, m.nearUe),
   (0x1C, 32, m.farPoison), (0x20, 32, m.tagFail), (0x24, 32, m.retired), (0x28, 32, m.retireCe.toNat),
   (0x2C, 32, m.mvInvalid), (0x40, 512, m.faultFirst.toNat), (0x80, 512, m.faultLast.toNat)]

/-- A mover window (R255). -/
def mvBlk (s : State) (m : Nat) : Blk :=
  let v := s.mover m
  [(0x40, 32, v.queue.length + bitAt v.held.isSome 5), (0x44, 32, v.done)]

/-- Code of a port state (R302). -/
def PortState.code : PortState → Nat
  | .off => 0
  | .wait => 1
  | .up => 2
  | .swap => 3
  | .detoured => 4
  | .lost => 5

/-- FP_STATUS (R302): the spare is in service once a lane of its direction has failed. -/
def fpStatus (s : State) (p : Nat) : Nat :=
  let x := s.port p
  x.st.code + (s.portCfg p).role * 8 + bitAt (x.lanesTx != 0) 5 + bitAt (x.lanesRx != 0) 6 + bitAt x.helloBad 7 +
  x.peerMod * 256 + x.peerPort * 2 ^ 23

/-- Credits held by the sender of port `p` on channel `v`. -/
def portCredit (x : Port) (v : Nat) : Nat := SMap.get 0 x.credit v

/-- Credits held over all channels. -/
def heldCredits (x : Port) : Nat := ((List.range 16).map (portCredit x)).sum
/-- Flits buffered or credits owed as receiver on a channel. -/
def portOwed (x : Port) (v : Nat) : Nat := SMap.get 0 x.buffered v + (x.owed.filter (· == v)).length

/-- Registers of a fabric port (R302). -/
def fpBlk (s : State) (p : Nat) : Blk :=
  let x := s.port p
  [(0x00, 32, fpStatus s p), (0x04, 32, x.lanesTx.toNat + x.lanesRx.toNat * 65536), (0x08, 32, x.fecCorr),
   (0x0C, 32, x.crcFail), (0x10, 32, x.replays), (0x14, 32, x.icvFail), (0x18, 32, x.downCount), (0x1C, 32, x.epoch),
   (0x20, 64, x.txMsg), (0x28, 64, x.rxMsg), (0x30, 64, x.txFlit), (0x38, 64, x.rxFlit), (0x40, 64, x.detFlit),
   (0x48, 32, x.resent)] ++
  (List.range 16).map fun v => (0x50 + 4 * v, 32, portCredit x v + portOwed x v * 65536)

/-- FAB block (R303). -/
def fabBlk (s : State) : Blk :=
  let f := s.fab
  [(0x00, 32, f.laneLimit.toNat), (0x04, 32, f.outstanding.length), (0x08, 64, f.reqSent), (0x10, 64, f.rspRecv),
   (0x18, 64, f.reqRecv), (0x20, 64, f.rspSent), (0x28, 64, f.sigApplied), (0x30, 32, f.sigDrop),
   (0x34, 32, f.routeFault), (0x38, 32, f.errRsp), (0x3C, 32, f.detours), (0x40, 32, f.laneSwaps)]

/-- CM registers below offset 0x50 (R330). -/
def cmBlk (s : State) : Blk :=
  let c := s.cm
  [(0x00, 32, bitAt c.stalled 0 + bitAt c.held 1 + bitAt c.rolled 2 + bitAt c.queried 3 + c.tallyPort * 16),
   (0x04, 32, c.parent + c.child.toNat * 256), (0x08, 32, c.jobSize), (0x0C, 32, c.roundTimeout.toNat),
   (0x10, 32, c.votes), (0x14, 32, c.acks), (0x18, 32, c.tallyFail), (0x1C, 32, c.shardFail), (0x20, 32, c.queryCount),
   (0x24, 32, c.heldCount), (0x28, 32, c.collDrop), (0x30, 64, c.permOutBytes.toNat), (0x38, 64, c.permInBytes.toNat),
   (0x40, 64, c.permOutDig.toNat), (0x48, 64, c.permInDig.toNat)]

/-- Tallies of a port (R330). -/
def tallyBlk (s : State) (p : Nat) : Blk :=
  let c := s.cm
  [(0x00, 64, (SMap.get 0 c.txTally p).toNat), (0x08, 64, (SMap.get 0 c.rxTally p).toNat),
   (0x10, 64, SMap.get 0 c.txBytes p), (0x18, 64, SMap.get 0 c.rxBytes p)]

/-- A shard record (R330). -/
def shardBlk (r : Shard) : Blk :=
  [(0x00, 64, r.d0.toNat), (0x08, 64, r.d1.toNat), (0x10, 32, r.version.toNat),
   (0x14, 32, bitAt r.p0End 0 + bitAt r.p1End 1 + bitAt r.mismatch 2)]

def cmWord (s : State) (o : Nat) : Word :=
  if o < 0x1000 then blkWord (cmBlk s) o
  else if o < 0x1240 then blkWord (tallyBlk s ((o - 0x1000) / 32)) ((o - 0x1000) % 32)
  else if 0x20000 ≤ o ∧ o < 0x40000 then blkWord (shardBlk (SMap.get {} s.cm.shards ((o - 0x20000) / 32))) (o % 32)
  else 0

/-- Default weights of the events in fJ (R381). -/
def weightReset (i : Nat) : Nat :=
  ([30, 55, 110, 220, 400, 160, 300, 1200, 250, 2500, 2000, 1800, 4000, 900, 2560000, 1500000, 600000, 350000000] :
    List Nat).getD i 0

/-- GOV_W[i]: the state holds it XOR its reset value. -/
def weightOf (s : State) (i : Nat) : Nat := weightReset i ^^^ (SMap.get 0 s.gov.weights i).toNat

/-- GOV block (R407). -/
def govBlk (s : State) : Blk :=
  let g := s.gov
  let hot := (List.range 8).foldl (fun (a : Int × Nat) b =>
    if a.1 < SMap.get 0 g.temp b then (SMap.get 0 g.temp b, b) else a) (SMap.get 0 g.temp 0, 0)
  [(0x000, 32, g.op + (g.duty - 1) * 16 + g.set * 128 + bitAt g.alert 12 + bitAt g.distrust 13 +
      bitAt g.sensorFault 14 + bitAt g.unattainable 15 + bitAt g.rest 16 + bitAt g.thermal 17 + bitAt g.loc 18),
   (0x004, 32, g.ctrl.toNat), (0x008, 32, g.cap.toNat), (0x00C, 32, g.bmcCap.toNat), (0x010, 32, g.effCap),
   (0x014, 32, g.meas), (0x018, 32, g.est), (0x01C, 32, g.grants.getD 0 0), (0x020, 32, g.grants.getD 1 0),
   (0x024, 32, g.grants.getD 2 0), (0x028, 32, 60000), (0x02C, 32, 40000), (0x030, 32, 80000),
   (0x034, 32, g.gains.getD 0 0), (0x038, 32, g.gains.getD 1 0), (0x03C, 32, g.gains.getD 2 0), (0x040, 64, g.energy),
   (0x048, 32, g.distrusts), (0x04C, 32, g.alerts), (0x050, 32, g.droops), (0x054, 32, g.droopLong),
   (0x058, 32, g.laceMiss), (0x05C, 32, g.unatt), (0x060, 32, (BitVec.ofInt 16 hot.1).toNat + hot.2 * 65536),
   (0x064, 32, g.maxOpAvail)] ++
  ((List.range 18).map fun i => (0x080 + 4 * i, 32, weightOf s i)) ++
  ((List.range 8).map fun b => (0x100 + 4 * b, 32, SMap.get 0 g.vband b)) ++
  ((List.range 8).map fun b => (0x120 + 4 * b, 32, (BitVec.ofInt 16 (SMap.get 0 g.temp b)).toNat))

/-- Code of TIME_STATUS.STATE (R405). -/
def PtpState.code : PtpState → Nat
  | .free => 0
  | .acquiring => 1
  | .locked => 2
  | .holdover => 3
  | .node => 4

/-- TIME block (R408). -/
def timeBlk (s : State) : Blk :=
  let t := s.tm
  [(0x00, 64, s.ns), (0x08, 32, t.frac.toNat),
   (0x0C, 32, t.st.code + bitAt t.nodeRef 3 + bitAt t.fallback 4 + t.refIdx.toNat * 32), (0x10, 64, t.incr.toNat),
   (0x18, 32, s32 t.offsetPs), (0x1C, 32, s32 t.nodePs), (0x20, 32, t.cfg.toNat), (0x24, 32, t.asym.toNat),
   (0x28, 32, t.ipv4.toNat)]

/-! ## Where the units stand (R15, R16): dies 0 C0, 1 C1, 2 L0, 3 L1 -/

/-- The die of a fabric port, of a far-tier port, of a tile; the band of a tile: four rows of its die. -/
def fabricPortDie (p : Nat) : Nat := if p < 9 then 2 else 3
def farPortDie (p : Nat) : Nat := if p < 2 then 2 else 3
def tileDie (t : Nat) : Nat := t / 512
def tileBand (t : Nat) : Nat := 4 * (t / 512) + t % 512 / 128

/-- Signal amounts held for a saved gang until they are applied: those of SIGNAL messages in the inbound buffers and of other
sources (R173, R452). -/
def sigHeld (s : State) : Nat :=
  s.flt.sigHeldLast + (s.fab.heldSigs.map fun h => h.2.2).sum +
    ((s.fab.sigHeld.filter fun h => fldN h.2.hdr 0 8 == 4).map fun h => fldN h.2.hdr 160 8).sum

/-- Fault and audit block below offset 0x100 (R454). -/
def fltBlk (s : State) : Blk :=
  let f := s.flt
  [(0x00, 64, f.next), (0x08, 64, f.next - f.ring.length), (0x10, 64, f.flushSeq.toNat), (0x18, 64, f.flushTime.toNat),
   (0x20, 32, f.suppressed), (0x24, 32, bitAt f.fatalLast 0 + bitAt f.rebind 1 + bitAt f.jobDataLost 2 +
      bitAt f.coreSpare 3), (0x28, 32, f.lostCount), (0x2C, 32, f.lostLast), (0x30, 32, f.audMask.toNat),
   (0x34, 32, f.viol), (0x40, 64, f.sigLocal), (0x48, 64, f.sigRemote), (0x50, 64, sigHeld s), (0x58, 64, f.sigSent),
   (0x60, 64, f.sigDropped), (0x68, 64, f.pwrWindows), (0x70, 32, f.pwrBad), (0x74, 32, f.bndBad), (0x78, 32, f.crBad)]

/-- AUD counters of a port (R454). -/
def audPortBlk (s : State) (p : Nat) : Blk :=
  let x := s.port p
  [(0x00, 64, x.crIn), (0x08, 64, x.crOut), (0x10, 64, x.txUp)]

def fltWord (s : State) (o : Nat) : Word :=
  if o < 0x1000 then blkWord (fltBlk s) o
  else if o < 0x1480 then blkWord (audPortBlk s ((o - 0x1000) / 64)) ((o - 0x1000) % 64)
  else 0

/-- The word at offset `o` of the register aperture, counted from 0x0310_0000_0000 (R242). -/
def apWord (s : State) (o : Nat) : Word :=
  if o < 0x4000000 then tileWord s (o / 0x10000) (o % 0x10000)
  else if o < 0x4100000 then pcWord s (o - 0x4000000)
  else if o < 0x4101000 then blkWord (stgBlk s) (o - 0x4100000)
  else if o < 0x4102000 then blkWord (memBlk s) (o - 0x4101000)
  else if 0x4110000 ≤ o ∧ o < 0x4130000 then blkWord (mvBlk s ((o - 0x4110000) / 0x1000)) (o % 0x1000)
  else if 0x4200000 ≤ o ∧ o < 0x4212000 then blkWord (fpBlk s ((o - 0x4200000) / 0x1000)) (o % 0x1000)
  else if 0x4280000 ≤ o ∧ o < 0x4281000 then blkWord (fabBlk s) (o - 0x4280000)
  else if 0x4300000 ≤ o ∧ o < 0x4400000 then cmWord s (o - 0x4300000)
  else if 0x4400000 ≤ o ∧ o < 0x4401000 then blkWord (govBlk s) (o - 0x4400000)
  else if 0x4410000 ≤ o ∧ o < 0x4411000 then blkWord (timeBlk s) (o - 0x4410000)
  else if 0x4500000 ≤ o ∧ o < 0x4600000 then fltWord s (o - 0x4500000)
  else 0

/-- A read of TIME_NOW latches the fraction; a beat that holds both registers shows the fraction latched before (R408, log 63). -/
def latchFrac (s : State) : State := { s with tm := { s.tm with frac := fld s.tm.now 16 16 } }

/-- 64 bytes of the aperture as 16 words (R243). -/
def apBeat (s : State) (o : Nat) : Beat :=
  beatOf ((List.range 16).flatMap fun i => leBytes 4 (apWord s (o + 4 * i)).toNat)

/-! ## BAR0 (R338) -/

/-- Boot has loaded the registers whose Reset entry is "boot" (R13). -/
def booted (s : State) : Bool := s.pins.phase == .up || s.pins.phase == .fatalHold

/-- Spare capacity (R339): usable spare tiles, ports with both spare lanes unused, unused spare channels; 0 before boot has loaded it
(R13; log 14). -/
def capSpares (s : State) : Nat :=
  if !booted s then 0 else
  let rows := (List.range 32).filter fun r => SMap.get 0xFF s.trust.board.darned r == 0xFF
  let ports := (List.range 18).filter fun p => (s.port p).lanesTx == 0 && (s.port p).lanesRx == 0
  let chans := (List.range 2).filter fun d => !SMap.get false s.trust.board.chanSpare d
  rows.length + ports.length * 256 + chans.length * 65536

/-- Bitmap of unavailable tiles (R339). -/
def capUnavail (s : State) : Nat := (s.flt.unavail.map fun t => 2 ^ t).sum

/-- Identification block (R339). -/
def idBlk (s : State) : Blk :=
  [(0x00, 32, 0x00A14480), (0x04, 32, s.trust.fwVersion.toNat), (0x08, 32, 0x10001010), (0x0C, 32, capSpares s)] ++
  ((List.range 4).map fun p => (0x10 + 4 * p, 32, SMap.get 0 s.mem.farCap p)) ++
  [(0x20, 64, 0x10000000), (0x80, 1024, capUnavail s)]

/-- The CQ is full: no slot is free (R340, R343). -/
def cqFull (c : Cq) : Bool := c.used + c.reserved ≥ fldN c.cfg 0 13

/-- The taken command of a queue is a STEP_RUN that waits under R214, not one that waits for a Rest to end (R340, R401). -/
def sqWaiting (s : State) (x : Sq) : Bool :=
  match x.cur with
  | some k => k.waiting && entOpcode k.entry == 0x0220 && s.bound &&
      (s.stg.st != .idle || (s.rest.st != .resting && s.rest.st != .waking))
  | none => false

/-- Registers of a submission queue (R340). -/
def sqBlk (s : State) (x : Sq) : Blk :=
  [(0x00, 64, x.base.toNat), (0x08, 32, x.cfg.toNat), (0x0C, 32, x.en.toNat),
   (0x10, 32, x.head + x.passN % 2 * 4096 + bitAt x.cur.isSome 16 + bitAt x.stopped 17 + bitAt (sqWaiting s x) 18 +
      bitAt x.cfgErr 19), (0x18, 64, x.taken % 2 ^ 48 + x.epoch * 2 ^ 48)]

/-- Registers of a completion queue (R340). -/
def cqBlk (c : Cq) : Blk :=
  [(0x00, 64, c.base.toNat), (0x08, 32, c.cfg.toNat), (0x0C, 32, c.en.toNat),
   (0x10, 32, c.tail + bitAt c.phase 12 + bitAt (cqFull c) 16 + bitAt c.cfgErr 17)]

/-- Host window registers (R352): an invalidation is over within its own row, so BUSY reads 0. -/
def hwtBlk (s : State) : Blk :=
  [(0x00, 64, s.host.hwtBase.toNat), (0x08, 32, s.host.hwtEn.toNat)]

/-- CXL component registers (R338): of the decoder its base alone is modelled (log 51). -/
def cxlBlk (s : State) : Blk := [(0x10, 64, s.host.hdm.toNat)]

/-- HOST_LINK (R354): degraded below x16 at 64 GT/s while trained. -/
def hostLink (s : State) : Nat :=
  let h := s.host
  let deg := h.width != 0 && (h.width < 16 || h.rate < 128)
  h.width % 32 + h.rate % 256 * 32 + bitAt h.ideIo 13 + bitAt h.ideCm 14 + bitAt deg 15 + h.retrains % 65536 * 65536

/-- Status and interrupts block (R354). -/
def statBlk (s : State) : Blk :=
  let h := s.host
  [(0x00, 32, bitAt h.ready 0 + bitAt h.llr 1 + bitAt s.bound 2 + bitAt s.trust.session.isSome 3 + h.llrCause * 16),
   (0x04, 32, h.intStatus.toNat), (0x08, 32, h.intEnable.toNat), (0x0C, 32, h.llrCount), (0x10, 32, hostLink s),
   (0x18, 64, h.hwinAddr.toNat), (0x20, 64, h.llrTime.toNat), (0x28, 32, h.llrDropped)]

/-- The word at BAR0 offset `o` (R338). Doorbells are write-only and read 0. -/
def bar0Word (s : State) (o : Nat) : Word :=
  if o < 0x1000 then blkWord (idBlk s) o
  else if 0x10000 ≤ o ∧ o < 0x10400 then blkWord (sqBlk s (s.sq ((o - 0x10000) / 64))) (o % 64)
  else if 0x10400 ≤ o ∧ o < 0x10800 then blkWord (cqBlk (s.cq ((o - 0x10400) / 64))) (o % 64)
  else if 0x10800 ≤ o ∧ o < 0x10900 then blkWord (hwtBlk s) (o - 0x10800)
  else if 0x20000 ≤ o ∧ o < 0x21000 then blkWord (statBlk s) (o - 0x20000)
  else if 0x30000 ≤ o ∧ o < 0x31000 then blkWord (timeBlk s) (o - 0x30000)
  else if 0x40000 ≤ o ∧ o < 0x41000 then blkWord (govBlk s) (o - 0x40000)
  else if 0x100000 ≤ o ∧ o < 0x200000 then BitVec.ofNat 32 (SMap.getNat s.flt.snap (o - 0x100000) 4)
  else if 0x200000 ≤ o ∧ o < 0x210000 then blkWord (cxlBlk s) (o - 0x200000)
  else 0

/-- The word at BAR2 offset `o`: MSI-X table, its mask bits 1 at reset, and the pending bit array (R337). -/
def bar2Word (s : State) (o : Nat) : Word :=
  SMap.get 0 s.host.msix o ^^^ (if o < 0x400 && o % 16 = 12 then 1 else 0)

/-- What a read of `n` bytes at an offset returns: a naturally aligned access of 4 or 8 bytes its words, any other all ones in
every byte (R12). -/
def readRegs (word : Nat → Word) (o n : Nat) : List Byte :=
  if (n = 4 || n = 8) && o % n = 0 then (List.range (n / 4)).flatMap fun i => leBytes 4 (word (o + 4 * i)).toNat
  else List.replicate n 0xFF

end Sys2Proof.Machine
end

