-- ==== Sys2Proof/Machine/Net.lean ====
section
/-! DEFINITION. Fabric messages: their fields, routing, detours, requests and responses, signals to other modules, and
the receipt of a message that a port has taken in (R272 to R300). -/

namespace Sys2Proof.Machine

/-! ## Header fields (R278) -/

def mOpc (m : Msg) : Nat := fldN m.hdr 0 8
def mLen (m : Msg) : Nat := fldN m.hdr 8 5
def mHops (m : Msg) : Nat := fldN m.hdr 13 3
def mDetour (m : Msg) : Bool := bitB m.hdr 16
def mVia (m : Msg) : Nat := fldN m.hdr 17 15
def mSrc (m : Msg) : Nat := fldN m.hdr 32 15
def mDst (m : Msg) : Nat := fldN m.hdr 48 15
def mTag (m : Msg) : Nat := fldN m.hdr 64 16
def mCode (m : Msg) : Nat := fldN m.hdr 80 4
def mW64 (m : Msg) : Bool := bitB m.hdr 84
def mAddr (m : Msg) : Nat := fldN m.hdr 96 64
def mArg (m : Msg) : Nat := fldN m.hdr 160 32
def mOp0 (m : Msg) : Nat := fldN m.hdr 192 64
def mOp1 (m : Msg) : Nat := fldN m.hdr 256 64
/-- The message with a header field replaced. -/
def mSet (m : Msg) (lo len v : Nat) : Msg := { m with hdr := setFld m.hdr lo len v }

/-- Global address of a local offset of a module (R26). -/
def gAddr (mod off : Nat) : Nat := 2 ^ 63 + mod * 2 ^ 42 + off
/-- Module and local offset of a global address. -/
def gaMod (ga : Nat) : Nat := ga / 2 ^ 42 % 2 ^ 15
def gaOff (ga : Nat) : Nat := ga % 2 ^ 42

/-- A message of this module. -/
def mkMsg (s : State) (opc dst code addr arg op0 op1 : Nat) (data : List Beat) : Msg :=
  { hdr := pack 512 [(0, 8, opc), (8, 5, data.length), (32, 15, s.self), (48, 15, dst), (80, 4, code), (96, 64, addr),
      (160, 32, arg), (192, 64, op0), (256, 64, op1)], data := data }

/-! ## Channels (R273, R279) -/

/-- Class of an opcode: 0 REQ, 1 RSP, 2 COLL, 3 CTRL; none where reserved (R279, R306, R322, R391). -/
def classOf (opc : Nat) : Option Nat :=
  if 1 ≤ opc ∧ opc ≤ 4 then some 0
  else if 0x81 ≤ opc ∧ opc ≤ 0x84 then some 1
  else if opc = 0x10 then some 2
  else if 0x20 ≤ opc ∧ opc ≤ 0x2E ∧ opc ≠ 0x26 ∧ opc ≠ 0x27 then some 3
  else none

/-- Channel of a message crossing its link number `h` (R273); a COLL or CTRL message on a detour travels in REQ's
(R294). -/
def channelOf (opc h : Nat) (detour : Bool) : Nat :=
  match classOf opc with
  | some 1 => 7 + (h - 1)
  | some 2 => if detour then h - 1 else 14
  | some 3 => if detour then h - 1 else 15
  | _ => h - 1

/-- The port carries traffic (R302). -/
def portUp (s : State) (p : Nat) : Bool := (s.port p).st == .up || (s.port p).st == .swap

/-! ## Outbound queues and detours (R276, R294, R296) -/

/-- The next detour pair of port `p` in rotation whose own port is up: next position, port q, module v (R294). -/
def detourPair (s : State) (p : Nat) : Option (Nat × Nat × Nat) :=
  let ds := (s.portCfg p).detours
  let n := ds.length
  (List.range n).findSome? fun i =>
    let j := ((s.port p).detNext + i) % n
    match ds[j]? with
    | some d => if portUp s d.1 then some ((j + 1) % n, d.1, d.2) else none
    | none => none

/-- A message placed in the detour queue of a port. -/
def detPush (s : State) (q vc : Nat) (m : Msg) : State :=
  s.modPort q fun x => { x with detq := x.detq ++ [(vc, m)] }

/-- The message sent by the next detour pair of failed port `p`, DETOUR set and VIA naming its peer; none where no pair can carry
it (R294). -/
def detourSend (s : State) (p : Nat) (m : Msg) : Option State :=
  (detourPair s p).map fun d =>
    let m := mSet (mSet m 16 1 1) 17 15 (s.portCfg p).peerMod
    detPush (s.modPort p fun x => { x with detNext := d.1 }) d.2.1 (channelOf (mOpc m) (mHops m) true) m

/-- A message whose link number stands in HOPS leaves through port `p`: in its channel's queue, or by detour while the
port is DETOURED; held in the queue where no pair can carry it (R294, R296). -/
def enqPort (s : State) (p : Nat) (m : Msg) : State :=
  let hold := s.modPort p fun x => { x with outq := x.outq ++ [(channelOf (mOpc m) (mHops m) false, m)] }
  if (s.port p).st == .detoured then (detourSend s p m).getD hold else hold

/-- A message that rejoins at the peer of port `p` leaves in the port's detour slots; while the port is DETOURED, by this
module's own detour pairs, or held there (R294, R296). -/
def enqDetour (s : State) (p : Nat) (m : Msg) : State :=
  let hold := detPush s p (channelOf (mOpc m) (mHops m) true) m
  if (s.port p).st == .detoured then (detourSend s p m).getD hold else hold

/-- A message sent through port `p` now leaves by detour (R294). -/
def leavesDetoured (s : State) (p : Nat) : Bool := (s.port p).st == .detoured && (detourPair s p).isSome

/-- The next link of a REQ or RSP message: port and message with HOPS incremented; none where R282 discards it. -/
def nextLink (s : State) (m : Msg) : Option (Nat × Msg) :=
  match s.fabCfg with
  | none => none
  | some f =>
    let p := SMap.get 0xFF f.route (mDst m)
    let h := mHops m + 1
    if p ≥ 18 ∨ (s.portCfg p).role = 0 ∨ h > (if mDetour m || leavesDetoured s p then 7 else 5) then none
    else some (p, mSet m 13 3 h)

/-- A message discarded as unroutable is counted and written to the ledger (R282). -/
def routeFault (s : State) (m : Msg) : State :=
  ledger (s.modFab fun f => { f with routeFault := sat32 (f.routeFault + 1) }) 2 3 0x0304 noUnit (mDst m)

/-- A message discarded under R279 or R280 is counted. -/
def discard (s : State) : State := s.modFab fun f => { f with routeFault := sat32 (f.routeFault + 1) }

/-- A response sent on its way; one that cannot be routed is lost (R282). -/
def routeRsp (s : State) (m : Msg) : State :=
  match nextLink s m with
  | some (p, m) => enqPort s p m
  | none => routeFault s m

/-- The response of this module to request `r` (R278, R280). -/
def response (s : State) (r : Msg) (opc code op0 : Nat) (data : List Beat) : Msg :=
  mSet (mSet (mkMsg s opc (mSrc r) code (mAddr r) 0 op0 0 data) 64 16 (mTag r)) 84 1 (mW64 r).toNat

/-- A response sent and counted (R280). -/
def respond (s : State) (r : Msg) (opc code op0 : Nat) (data : List Beat) : State :=
  routeRsp (s.modFab fun f => { f with rspSent := sat64 (f.rspSent + 1) }) (response s r opc code op0 data)

/-- This module's own request ends with an ERROR it gives itself (R282, R299). -/
def loopErr (s : State) (m : Msg) (code : Nat) : State :=
  s.modFab fun f => { f with loopback := f.loopback ++ [response s m 0x84 code 0 []] }

/-- A routed message is discarded: a request is answered with ERROR CODE 3 in its destination's place (R280, R282). -/
def routeDrop (s : State) (m : Msg) : State :=
  let s := routeFault s m
  if classOf (mOpc m) != some 0 then s
  else if mSrc m == s.self then loopErr s m 3
  else respond s m 0x84 3 0 []

/-- A request to a module that has left the job ends with CODE 2 (R299). -/
def goneErr (s : State) (m : Msg) : State :=
  if mSrc m == s.self then loopErr s m 2 else respond s m 0x84 2 0 []

/-- A request sent on its way (R282, R299). -/
def routeReq (s : State) (m : Msg) : State :=
  if s.fab.departed.contains (mDst m) then goneErr s m
  else match nextLink s m with
    | some (p, m) => enqPort s p m
    | none => routeDrop s m

/-! ## Transit (R18, R283, R294) -/

/-- Credits of a drained message of `n` flits on channel `vc` fall due to the peer (R274). -/
def oweCredits (s : State) (p vc n : Nat) : State :=
  s.modPort p fun x =>
    { x with owed := x.owed ++ List.replicate n vc, buffered := SMap.upd 0 x.buffered vc fun b => b - n }

/-- A fabric port of die L1: ports 9 to 17 (R18). -/
def portOnL1 (p : Nat) : Bool := decide (9 ≤ p)

/-- A transit message enters the outbound queue or the detour queue of port `q`. -/
def transitOut (s : State) (q : Nat) (det : Bool) (m : Msg) : State := if det then enqDetour s q m else enqPort s q m

/-- A transit message passes from the inbound buffer of port `p` to port `q`: at once on one link die, else over the bridges, its
credits unreturned until its flits have left the buffer (R283). -/
def transitTo (s : State) (p vc q : Nat) (det : Bool) (m : Msg) : State :=
  let n := 1 + m.data.length
  if portOnL1 p == portOnL1 q then transitOut (oweCredits s p vc n) q det m
  else s.modFab fun f => { f with bridged := f.bridged ++ [⟨p, vc, q, det, m, n, none⟩] }

/-- This module's port to module `v`: one that is up before one that is not (R294). -/
def viaPort (s : State) (v : Nat) : Option Nat :=
  let ps := (List.range 18).filter fun p => (s.portCfg p).role != 0 && (s.portCfg p).peerMod == v
  ((ps.find? fun p => portUp s p).or (ps.find? fun p => (s.port p).st == .detoured)).or ps.head?

/-- A transit message that came in by port `p` on channel `vc` goes on (R283); one on a detour that rejoins at VIA leaves in the
detour slots of this module's port to VIA, DETOUR cleared (R294). -/
def transit (s : State) (p vc : Nat) (m : Msg) : State :=
  let owe := fun (_ : Unit) => oweCredits s p vc (1 + m.data.length)
  if mDetour m then
    match viaPort s (mVia m) with
    | some q =>
      let h := mHops m + 1
      if h > 7 then routeDrop (owe ()) m else transitTo s p vc q true (mSet (mSet m 13 3 h) 16 1 0)
    | none => routeDrop (owe ()) m
  else match classOf (mOpc m) with
    | some 0 =>
      if s.fab.departed.contains (mDst m) then goneErr (owe ()) m
      else match nextLink s m with
        | some (q, m) => transitTo s p vc q false m
        | none => routeDrop (owe ()) m
    | some 1 =>
      match nextLink s m with
      | some (q, m) => transitTo s p vc q false m
      | none => routeFault (owe ()) m
    | _ => discard (owe ())

/-- A COLL or CTRL message for the peer of port `p` (R281). -/
def sendDirect (s : State) (p : Nat) (m : Msg) : State :=
  enqPort s p (mSet (mSet m 48 15 (s.portCfg p).peerMod) 13 3 1)

/-! ## Requests and tags (R280) -/

/-- The lowest free tag from the next one upward. -/
def freeTag (s : State) : Option Nat :=
  let o := s.fab.outstanding
  if o.length ≥ 65536 then none
  else (List.range (o.length + 1)).findSome? fun i =>
    let t := (s.fab.nextTag + i) % 65536
    if o.any fun r => r.tag == t then none else some t

/-- Owner code of a request no mover made. -/
def noMover : Nat := 0xFF

/-- Request `m` sent under a free tag, kept as outstanding for its operation or mover; none while no tag is free. -/
def sendReq (s : State) (op : Option (Nat × Nat)) (mover beat nbeats : Nat) (rd : Bool) (m : Msg) : Option State :=
  (freeTag s).map fun t =>
    let m := mSet m 64 16 t
    let r : OutReq := ⟨t, op, mover, mDst m, beat, nbeats, rd, false⟩
    let s := s.modFab fun f => { f with outstanding := f.outstanding ++ [r], nextTag := (t + 1) % 65536,
                                        reqSent := sat64 (f.reqSent + 1) }
    routeReq s m

/-- A response frees its request's tag and counts; none where its tag names no outstanding request (R280). -/
def takeRsp (s : State) (m : Msg) : Option (OutReq × State) :=
  (s.fab.outstanding.find? fun r => r.tag == mTag m).map fun r =>
    (r, s.modFab fun f => { f with outstanding := f.outstanding.filter (fun q => q.tag != r.tag),
                                   rspRecv := sat64 (f.rspRecv + 1) })

/-! ## Signals (R166, R204, R288) -/

/-- The SIGNAL request for a counter of another module; it waits while no tag is free (R280). -/
def sendSignal (s : State) (dst t c amt : Nat) : State :=
  match sendReq s none noMover 0 0 false (mkMsg s 4 dst 0 (gAddr dst (ecAddr t c)) amt 0 0 []) with
  | some s => s
  | none => s.modFab fun f => { f with sigWait := f.sigWait ++ [(dst, t, c, amt)] }

/-- A signal from a source of this module in gang `src` to counter `c` of tile `t` of module `dst`. -/
def signalTo (s : State) (src : Option Nat) (dst t c amt : Nat) : State :=
  if amt == 0 then s
  else if dst == s.self then
    (if (s.tile t).gang.isNone then dropSignal s t c amt else signalLocal s src t c amt)
  else sendSignal (s.modFlt fun f => { f with sigSent := sat64 (f.sigSent + amt) }) dst t c amt

/-- Signals that waited for a tag go out once one is free. -/
def sendWaiting (s : State) : State :=
  match s.fab.sigWait with
  | [] => s
  | (d, t, c, a) :: rest => sendSignal (s.modFab fun f => { f with sigWait := rest }) d t c a

/-! ## Receipt (R272, R274) -/

/-- The boundary drains inbound job traffic: not in Rest until 600 µs into the wake, nor while a tile is moved or, in a step that
runs, the gangs it held stand at their seams (R301, R401). -/
def boundaryOpen (s : State) : Bool :=
  s.flt.darning.isNone && (s.flt.darnHold.isEmpty || s.stg.st != .running) &&
  match s.rest.st with
  | .resting => false
  | .waking => decide ((s.rest.wakeAt.getD 0) + 600000 ≤ s.ns)
  | _ => true

/-- A message is held in its inbound buffer: for a far-tier port (R285), for a saved gang (R173), or with the boundary closed
(R301); messages of the control rounds are not held there. -/
def msgHeld (s : State) (p : Nat) (m : Msg) : Bool :=
  (s.mem.heldReqs.any fun h => h.port == p && h.msg == m) || s.fab.sigHeld.contains (p, m) ||
  (classOf (mOpc m) != some 3 && !boundaryOpen s)

/-- Message `m` where it waits at port `p` as the next to be performed: messages of one link are performed in the order in which
they came (R289), those that are held aside. -/
def waiting (s : State) (p : Nat) (m : Msg) : Option (Nat × Msg) :=
  if msgHeld s p m then (s.port p).inMsgs.find? fun e => e.2 == m
  else match (s.port p).inMsgs.find? fun e => !msgHeld s p e.2 with
    | some e => if e.2 == m then some e else none
    | none => none

/-- Message `m` with opcode `opc` taken from the whole messages waiting at port `p`, its credits due to the peer; port
18 names the responses this module gave itself, and channel 16 a detoured message whose credits are already due. None where no such message waits. -/
def takeMsg (s : State) (p opc : Nat) (m : Msg) : Option State :=
  if mOpc m != opc then none
  else if p == 18 then
    (if s.fab.loopback.contains m then some (s.modFab fun f => { f with loopback := f.loopback.erase m }) else none)
  else match waiting s p m with
    | some e =>
      let s := s.modPort p fun x => { x with inMsgs := x.inMsgs.erase e }
      some (if e.1 ≥ 16 then s else oweCredits s p e.1 (1 + m.data.length))
    | none => none

/-- Message `m` seen at port `p`, its buffer kept (a request that is held, R285). -/
def peekMsg (s : State) (p opc : Nat) (m : Msg) : Bool := mOpc m == opc && (waiting s p m).isSome

end Sys2Proof.Machine
end

