-- ==== Sys2Proof/Machine/Mem.lean ====
section
/-! DEFINITION. The local map, access checks, translation, and reads and writes of 64 B beats of the tiers and the SRAM
aperture (R236 to R251, R264). -/

namespace Sys2Proof.Machine

/-! ## The local map (R236, R241, R242) -/

/-- What a module-local offset names. -/
inductive Place where
  | near (off : Nat)
  | far (port a : Nat)
  | scratch (tile a : Nat)
  | hamper (tile a : Nat)
  | mover (m off : Nat)
  | reg (off : Nat)
  | hwin (off : Nat)
  | reserved
  deriving DecidableEq, Repr

def placeOf (off : Nat) : Place :=
  if off < 0x4000000000 then .near off
  else if 0x10000000000 ≤ off ∧ off < 0x30000000000 then
    .far ((off - 0x10000000000) / 0x8000000000) ((off - 0x10000000000) % 0x8000000000)
  else if 0x30000000000 ≤ off ∧ off < 0x30080000000 then
    .scratch ((off - 0x30000000000) / 0x200000) (off % 0x200000)
  else if 0x30080000000 ≤ off ∧ off < 0x300C0000000 then
    .hamper ((off - 0x30080000000) / 0x100000) (off % 0x100000)
  else if 0x31004110000 ≤ off ∧ off < 0x31004130000 then
    .mover ((off - 0x31004110000) / 0x1000) (off % 0x1000)
  else if 0x31000000000 ≤ off ∧ off < 0x31100000000 then .reg (off - 0x31000000000)
  else if 0x3F000000000 ≤ off ∧ off < 0x40000000000 then .hwin (off - 0x3F000000000)
  else .reserved

/-- A near-tier offset lies in a reserve (R239). -/
def inReserve (off : Nat) : Bool := off % 0x2000000000 ≥ 0x1FC0000000
/-- A near-tier offset lies in a tag range (R239). -/
def inTags (off : Nat) : Bool := off % 0x2000000000 ≥ 0x1F40000000 && off % 0x2000000000 < 0x1FC0000000

/-- Bytes of far-tier port `p` a job may map: 63 × Cp / 64 (R240). -/
def farSpan (s : State) (p : Nat) : Nat := 63 * (SMap.get 0 s.mem.farCap p * 2 ^ 30) / 64

/-- The far-tier port is in service (R240, R285). -/
def farReady (s : State) (p : Nat) : Bool := SMap.get false s.mem.farUp p

/-- The scratchpad of the tile is reachable by the job and by remote requests (R241). -/
def tileOpen (s : State) (t : Nat) : Bool := (s.tile t).gang.isSome && !s.flt.unavail.contains t

/-! ## The host window (R351 to R353) -/

/-- A 64-bit word of host memory: what the host has told of it, else what stands there (log 7). -/
def hostRead (s : State) (addr : Nat) : DWord :=
  match SMap.get none s.host.hostMem (addr / 8) with
  | some v => v
  | none => Config.hostWord addr

/-- Entry `i` of the host window table at HWT_BASE (R351). -/
def hwtAt (s : State) (i : Nat) : DWord := hostRead s (s.host.hwtBase.toNat + 8 * i)

/-- The window table entry of a window offset: the cached copy where one is held, else the table in host memory. -/
def hwtEntry (s : State) (off : Nat) : DWord :=
  let i := off / 0x200000
  match s.host.hwtCache.find? fun e => e.1 == i with
  | some e => e.2
  | none => hwtAt s i

/-- The host address of a window offset: HADDR with w[20:0] added (R351). -/
def hwinAddr (s : State) (off : Nat) : Nat := fldN (hwtEntry s off) 21 31 * 2 ^ 21 + off % 2 ^ 21

/-- The access is served: the table is enabled, the entry valid and, for a write, writable; a read needs the link, a write waits
in the boundary buffer while it is down (R353, R356). -/
def hwinOk (s : State) (off : Nat) (wr : Bool) : Bool :=
  let e := hwtEntry s off
  s.host.hwtEn && (wr || s.host.linkUp) && bitB e 0 && (!wr || bitB e 1)

/-- The entry of a served access is cached while fewer than 4,096 are (R352). -/
def hwtFill (s : State) (off : Nat) : State :=
  let i := off / 0x200000
  if s.host.hwtCache.any (fun e => e.1 == i) || s.host.hwtCache.length ≥ 4096 then s
  else s.modHost fun h => { h with hwtCache := (i, hwtAt s i) :: h.hwtCache }

/-! ## Checks (R237, R243, R257) -/

/-- Fault codes (R257). -/
def fNotMapped : Nat := 1
def fDemand : Nat := 2
def fWriteRo : Nat := 3
def fAddress : Nat := 4
def fFarMiss : Nat := 5
def fHwin : Nat := 6
def fMoverFull : Nat := 7
def fTable : Nat := 8

/-- The fault a job access to an offset of this module meets, none where it is served (R237, R240, R241, R243,
R255, R427). -/
def localFault (s : State) (off : Nat) (wr : Bool) : Option Nat :=
  match placeOf off with
  | .near o => if inReserve o || (s.mem.nearTags && inTags o) then some fAddress else none
  | .far p a => if a ≥ farSpan s p then some fAddress else if farReady s p then none else some fFarMiss
  | .scratch t _ => if tileOpen s t then none else some fAddress
  | .hamper _ _ => some fAddress
  | .mover m o =>
    if !wr then none
    else if o != 0 || m % 16 ≥ 12 then some fAddress
    else if (s.mover m).queue.length ≥ 16 then some fMoverFull
    else none
  | .reg _ => if wr then some fAddress else none
  | .hwin o => if o ≥ 0xF800000000 then some fAddress else if hwinOk s o wr then none else some fHwin
  | .reserved => some fAddress

/-- The fault a job access to a global address meets at its source (R26, R237). -/
def gaFault (s : State) (ga : Nat) (wr : Bool) : Option Nat :=
  if ga / 2 ^ 57 != 64 then some fAddress
  else if gaMod ga == s.self then localFault s (gaOff ga) wr
  else if (s.job.map (·.members)).getD [] |>.contains (gaMod ga) then none
  else some fAddress

/-- A remote request for an address of this module is refused (R237, R285): READ also reaches the registers, and a
far-tier port that is down is no refusal. -/
def remoteRefused (s : State) (ga : Nat) (wr : Bool) : Bool :=
  if ga / 2 ^ 57 != 64 || gaMod ga != s.self then true
  else match placeOf (gaOff ga) with
    | .near o => inReserve o || (s.mem.nearTags && inTags o)
    | .far p a => a ≥ farSpan s p
    | .scratch t _ => !tileOpen s t
    | .mover _ _ => wr
    | .reg _ => wr
    | _ => true

/-! ## Translation (R244 to R249) -/

/-- A region's physical base with SELF resolved (R244). -/
def selfGpa (s : State) (g : Nat) (self : Bool) : Nat :=
  if self then g - gaMod g * 2 ^ 42 + s.self * 2 ^ 42 else g

/-- The regions of the bound job's image, with their indices. -/
def State.regions (s : State) : List Region :=
  if s.bound then (s.image.map (·.img.regions)).getD [] else []

/-- What a virtual address names: region, its view (shadow) and offset in it. -/
def findRegion (s : State) (va : Nat) : Option (Region × Bool × Nat) :=
  s.regions.findSome? fun r =>
    if r.kind != 4 && r.va0 ≤ va && va < r.va0 + r.size then some (r, false, va - r.va0)
    else if r.kind == 2 && r.va1 ≤ va && va < r.va1 + r.size then some (r, true, va - r.va1)
    else none

/-- Writable by tiles and movers (R244, R250). -/
def regionWr (r : Region) (shadow : Bool) : Bool :=
  match r.kind with
  | 2 => shadow
  | 3 => true
  | 5 => true
  | 7 => true
  | 8 => false
  | _ => r.wr

/-- Fields of a table entry (R248). -/
def pteV (e : DWord) : Bool := bitB e 0
def pteLeaf (e : DWord) : Bool := bitB e 1
def pteW (e : DWord) : Bool := bitB e 2
def pteFp (e : DWord) : Bool := bitB e 3
def pteFpsel (e : DWord) : Bool := bitB e 4
def pteDz (e : DWord) : Bool := bitB e 5
def pteFpidx (e : DWord) : Nat := fldN e 8 12
def pteOut (e : DWord) : Nat := fldN e 20 41

/-- Address bits below a level's index; its leaf size where it may hold a leaf (R247). -/
def lvlShift (lvl : Nat) : Nat :=
  match lvl with
  | 0 => 39
  | 1 => 30
  | 2 => 21
  | _ => 16

/-- Index of a virtual address in a table of a level (R247). -/
def lvlIndex (va lvl : Nat) : Nat := va / 2 ^ lvlShift lvl % (if lvl < 3 then 512 else 32)

/-- Near-tier offset of the reserve of half `h` (R239). -/
def reserveBase (h : Nat) : Nat := h * 2 ^ 37 + 0x1FC0000000

/-- Offset of the root table of a die's copy: the bottom of its half's reserve (log 21). -/
def tableRoot (die : Nat) : Nat := reserveBase die

/-- The walk of R249 from the table at `t`: level and offset of the entry at which it stops. -/
def walk (m : SMap DWord) (va : Nat) : Nat → Nat → Nat → Nat × Nat
  | 0, lvl, t => (lvl, t)
  | n + 1, lvl, t =>
    let a := t + 8 * lvlIndex va lvl
    let e := SMap.get 0 m (a / 8)
    if !pteV e || lvl == 3 || pteLeaf e then (lvl, a) else walk m va n (lvl + 1) (pteOut e % 2 ^ 30 * 256)

/-- The entry of a die's copy at which the walk for `va` stops: level, offset, entry. -/
def lookup (s : State) (die va : Nat) : Nat × Nat × DWord :=
  let r := walk s.mem.reserve va 4 0 (tableRoot die)
  (r.1, r.2, SMap.get 0 s.mem.reserve (r.2 / 8))

/-- Translation by a die's copy of the tables (R249): a global address, or a fault code. No table maps an address of more than 48
bits. `cmd`: a command that may write a live
view (R250). The flip delta is added within the module's 42 offset bits (DEDUCED; log 21). -/
def translate (s : State) (die va : Nat) (wr cmd : Bool) : Except Nat Nat :=
  let (lvl, _, e) := lookup s die va
  if 2 ^ 48 ≤ va then .error fNotMapped
  else if !pteV e then .error (if pteDz e then fDemand else fNotMapped)
  else if lvl == 0 then .error fTable
  else
    let size := 2 ^ lvlShift lvl
    if pteOut e % (size / 2 ^ 16) != 0 then .error fTable
    else if wr && !pteW e && !(cmd && pteFp e && !pteFpsel e) then .error fWriteRo
    else
      let ga := pteOut e * 2 ^ 16 + va % size
      let d := if pteFp e && (pteFpsel e ^^ s.stg.parity) then SMap.get 0 s.mem.flipDelta (pteFpidx e) else 0
      .ok (2 ^ 63 + ga / 2 ^ 42 * 2 ^ 42 + (ga + d) % 2 ^ 42)

/-- Dies of a tile and of a mover (R15, R255). -/
def dieOfTile (t : Nat) : Nat := t / 512 % 2
def dieOfMover (m : Nat) : Nat := m / 16 % 2

/-- Translation and access checks of a beat: global address, or fault code and the address where translated. -/
def reach (s : State) (die va : Nat) (wr cmd : Bool) : Except (Nat × Nat) Nat :=
  match translate s die va wr cmd with
  | .error c => .error (c, 0)
  | .ok ga =>
    match gaFault s ga wr with
    | some c => .error (c, ga)
    | none => .ok ga

/-- The die's unit caches the translation of `va` while it holds fewer than 8,192; a full unit takes no other (R251, log 21). -/
def tlbNote (s : State) (die va : Nat) : State :=
  let (lvl, _, e) := lookup s die va
  let t : TlbEnt := ⟨die, lvl, va / 2 ^ lvlShift lvl, e⟩
  if s.mem.tlb.contains t || decide (8192 ≤ (s.mem.tlb.filter fun x => x.die == die).length) then s
  else s.modMem fun m => { m with tlb := t :: m.tlb }

/-- The address lies in the spill region (R219). -/
def inSpill (s : State) (va : Nat) : Bool :=
  match findRegion s va with
  | some (r, _, _) => r.kind == 3
  | none => false

/-! ## Beats of the tiers (R264, R266) -/

/-- A beat made of eight free values (log 3). -/
def drawBeat (s : State) : Beat × State :=
  (BitVec.ofNat 512 (((List.range 8).map fun i => (Config.freeBits (s.free + i)).toNat * 2 ^ (64 * i)).sum),
   { s with free := s.free + 8 })

/-- A far-tier beat was written under the keys in force (R266). -/
def farKnown (s : State) (off : Nat) : Bool := SMap.get false s.mem.farWritten (off / 64)

/-- Die and logical channel of a near-tier offset, as 16·die + channel (R238). -/
def chanKey (off : Nat) : Nat := 16 * (off / 2 ^ 37 % 2) + (off / 512 % 16 ^^^ off / 8192 % 16)

/-- Physical channel that serves a logical channel: 17·die + channel as shipped (R238). -/
def physChan (s : State) (k : Nat) : Nat :=
  let v := SMap.get 0xFF s.trust.board.chan k
  if v = 0xFF then 17 * (k / 16) + k % 16 else v

/-- The near-tier offset lies on a failed channel that is still mapped (R443). -/
def chanDead (s : State) (off : Nat) : Bool := s.flt.chanFailed.contains (physChan s (chanKey off))

/-- The spare pages of a half's reserve (log 21). -/
def spareBase (h : Nat) : Nat := reserveBase h + 0x20000000

/-- Where the near-tier controller finds a near- or far-tier offset: the spare page of a remapped page (R265). -/
def memOff (s : State) (off : Nat) : Nat :=
  match (if off < 0x4000000000 then SMap.get 0 s.trust.board.remap (off / 0x10000) else 0) with
  | 0 => off
  | n + 1 => spareBase (off / 2 ^ 37) + n * 0x10000 + off % 0x10000

/-- Local offset of the word that holds the integrity tag of a granule: in the tag range of its half (R239), or in the top of the
far-tier port's capacity, granule by granule (R240; log 17). -/
def tagOff (s : State) (off : Nat) : Nat :=
  if off < 0x4000000000 then off / 2 ^ 37 * 2 ^ 37 + 0x1F40000000 + off % 2 ^ 37 / 512 * 8
  else
    let p := (off - 0x10000000000) / 0x8000000000
    0x10000000000 + p * 0x8000000000 + farSpan s p / 8 * 8 + (off - 0x10000000000) % 0x8000000000 / 512 * 8

/-- A near-tier offset in the range that keeps an image (R367). -/
def inKept (s : State) (a : Nat) : Bool :=
  match s.image with
  | some k => k.keep ≤ a && a < k.keep + roundUp k.size 0x10000
  | none => false

/-- The near-tier offset is under the reserve's encryption: a reserve, or the kept image (R263, R367). -/
def devOwned (s : State) (off : Nat) : Bool := decide (off < 0x4000000000) && (inReserve off || inKept s off)

/-- The granule's tier keeps integrity tags: the far tier and the reserve always, job ranges of the near tier with NEAR_TAGS
(R263). -/
def tagged (s : State) (off : Nat) : Bool := off ≥ 0x10000000000 || s.mem.nearTags || devOwned s off

/-- A 256-bit key of a TRNG draw (R426). -/
def key256 (n : Nat) : Beat := Config.trng n &&& BitVec.ofNat 512 (2 ^ 256 - 1)

/-- Data key and tag key of the tier at an offset: the reserve's of this boot, or the job's near or far keys (R263, R426). -/
def tierKeys (s : State) (off : Nat) : Beat × Beat :=
  let j := s.trust.jobKeys.getD 0
  let r := s.trust.reserveKey.getD 0
  if devOwned s off then (Config.trng r, key256 (r + 1))
  else if off < 0x10000000000 then (Config.trng j, key256 (j + 2))
  else (Config.trng (j + 1), key256 (j + 3))

/-- The ciphertext of the granule at an offset: each beat a data unit, its tweak the global address / 64 (R263). -/
def granuleCipher (s : State) (off : Nat) : List Byte :=
  let g := off / 512 * 512
  (List.range 8).flatMap fun i =>
    xtsEnc (tierKeys s off).1 (gAddr s.self (g + 64 * i) / 64) 0 (SMap.getBytes s.mem.dram (memOff s g + 64 * i) 64)

/-- The tags of the reserves and of the kept image, which outlast a job (R263). -/
def devTags (s : State) : SMap (Option DWord) :=
  s.mem.tags.filter fun e => decide (8 * e.1 < 0x4000000000) &&
    devOwned s (e.1 / 2 ^ 34 * 2 ^ 37 + (8 * e.1 % 2 ^ 37 - 0x1F40000000) * 64)

/-- The tag of the granule at an offset, as its contents stand (R263). -/
def granuleTag (s : State) (off : Nat) : DWord :=
  Config.granuleMac (tierKeys s off).2 (gAddr s.self (off / 512 * 512)) (granuleCipher s off)

/-- The granule's tag matches its contents; one that no write has formed since JOB_BIND matches (log 17). -/
def tagMatches (s : State) (off : Nat) : Bool :=
  !tagged s off ||
  match SMap.get none s.mem.tags (tagOff s off / 8) with
  | some t => t == granuleTag s off
  | none => true

/-- After a write, the tag of its granule is formed over the whole granule (R263). -/
def tagForm (s : State) (off : Nat) : State :=
  if tagged s off then
    let t := granuleTag s off
    s.modMem fun m => { m with tags := SMap.set none m.tags (tagOff s off / 8) (some t) }
  else s

/-- A beat of a tier moves: an event of the memory domain, or of the links' for the far tier (R381). -/
def beatEvent (s : State) (off : Nat) : State := noteEvents s (if off ≥ 0x10000000000 then 15 else 14) 1

/-- A read of the beat at a near- or far-tier offset: data, poisoned, and the state with the poison counted and
logged (R264). -/
def dramRead (s : State) (off : Nat) : Beat × Bool × State :=
  let far := off ≥ 0x10000000000
  let s := beatEvent s off
  let log := fun (s : State) => ledger s 2 2 0x0202 noUnit (gAddr s.self off)
  let tagBad := fun (s : State) => log (s.modMem fun m => { m with tagFail := sat32 (m.tagFail + 1) })
  if far && !farKnown s off then
    let (d, s) := drawBeat s
    (d, true, tagBad s)
  else if !far && chanDead s off then
    let (d, s) := drawBeat s
    (d, true, log (s.modMem fun m => { m with nearUe := sat32 (m.nearUe + 1) }))
  else
    let d := SMap.getBeat s.mem.dram (memOff s off)
    if SMap.get false s.mem.poison (off / 64) then
      (d, true, log (s.modMem fun m =>
        if far then { m with farPoison := sat32 (m.farPoison + 1) } else { m with nearUe := sat32 (m.nearUe + 1) }))
    else if !tagMatches s off then (d, true, tagBad s)
    else (d, false, s)

/-- A beat read to form a tag: one that is poisoned counts like any read, and stays poisoned under the new tag (R263, R264). -/
def readForTag (s : State) (off : Nat) : State :=
  let r := dramRead s off
  if r.2.1 then r.2.2.modMem fun m => { m with poison := SMap.set false m.poison (off / 64) true } else r.2.2

/-- A write of the beat at an offset, or with `own` of part of it, reads the rest of its granule where that keeps a tag (R263). -/
def readRest (s : State) (off : Nat) (own : Bool) : State :=
  if tagged s off then
    (((List.range 8).map fun i => off / 512 * 512 + 64 * i).filter fun a => own || a != off / 64 * 64).foldl readForTag s
  else s

/-- A whole beat written to a near- or far-tier offset: it is no longer poisoned, and known under the keys in force. -/
def dramWrite (s : State) (off : Nat) (b : Beat) : State :=
  let s := beatEvent (readRest s off false) off
  let a := memOff s off
  tagForm (s.modMem fun m =>
    { m with dram := SMap.setBeat m.dram a b, poison := SMap.set false m.poison (off / 64) false,
             farWritten := if off ≥ 0x10000000000 then SMap.set false m.farWritten (off / 64) true else m.farWritten }) off

/-- Bytes written to a near- or far-tier offset within one beat (R429). -/
def dramWriteBytes (s : State) (off : Nat) (bs : List Byte) : State :=
  let s := beatEvent (readRest s off true) off
  let a := memOff s off
  tagForm (s.modMem fun m =>
    { m with dram := SMap.setBytes m.dram a bs
             farWritten := if off ≥ 0x10000000000 then SMap.set false m.farWritten (off / 64) true else m.farWritten }) off

/-- The near-tier offset whose byte the controller keeps at `a` (R265). -/
def logOff (s : State) (a : Nat) : Nat :=
  match s.trust.board.remap.find? fun e =>
      e.2 != 0 && a / 0x10000 == (spareBase (e.1 / 0x200000) + (e.2 - 1) * 0x10000) / 0x10000 with
  | some e => e.1 * 0x10000 + a % 0x10000
  | none => a

/-- `n` near-tier bytes from `lo` on replaced by a sparse block of bytes. -/
def rangePut (s : State) (lo n : Nat) (src : SMap Byte) : State :=
  let kept := s.mem.dram.filter fun e => !(decide (lo ≤ logOff s e.1) && decide (logOff s e.1 < lo + n))
  s.modMem fun m =>
    { m with dram := (src.filter fun e => decide (e.1 < n)).foldl (fun d e => SMap.set 0 d (memOff s (lo + e.1)) e.2) kept
             poison := SMap.dropRange m.poison (lo / 64) ((lo + n) / 64)
             tags := SMap.dropRange m.tags (tagOff s lo / 8) (tagOff s (lo + n) / 8 + 1) }

/-- `n` near-tier bytes from `lo` on as a sparse block. -/
def rangeGet (s : State) (lo n : Nat) : SMap Byte :=
  (s.mem.dram.filter fun e => decide (lo ≤ logOff s e.1) && decide (logOff s e.1 < lo + n) &&
      memOff s (logOff s e.1) == e.1).foldl (fun m e => SMap.set 0 m (logOff s e.1 - lo) e.2) []

/-- Beats of `n` near-tier bytes from `lo` on that may be read poisoned. -/
def suspects (s : State) (lo n : Nat) : List Nat :=
  if s.flt.chanFailed.isEmpty && s.mem.tags.isEmpty then
    (s.mem.poison.filter fun e => decide (lo ≤ 64 * e.1) && decide (64 * e.1 < lo + n)).map fun e => 64 * e.1
  else (List.range (n / 64)).map fun i => lo + 64 * i

/-- Firmware reads `n` near-tier bytes from `lo` on: each poisoned beat counts and is logged like any read's (R264). -/
def countReads (s : State) (lo n : Nat) : State := (suspects s lo n).foldl (fun s a => (dramRead s a).2.2) s

/-- A firmware mover of a half's die has done a descriptor's work that no command waits for (R255; log 50). -/
def fwDone (s : State) (die : Nat) : State := s.modMover (16 * die + 12) fun v => { v with done := sat32 (v.done + 1) }

def scratchRead (s : State) (t a : Nat) : Beat := SMap.getBeat (s.tile t).scratch a
def scratchWrite (s : State) (t a : Nat) (b : Beat) : State :=
  s.modTile t fun x => { x with scratch := SMap.setBeat x.scratch a b }

/-- A beat that a job's unit receives poisoned sets DATA (R264). -/
def noteData (s : State) (poisoned : Bool) : State := if poisoned then setLocal s 6 else s

/-- A beat of scratchpad waits for a DRAIN cycle of its bank (R241). -/
def drainPush (s : State) (t a : Nat) (rd : Bool) (d : Beat) (after : DrainAfter) : State :=
  s.modFab fun f => { f with drain := f.drain ++ [⟨f.nextGrp, t, a, rd, false, d, after⟩], nextGrp := f.nextGrp + 1 }

/-- A local beat read for a job or a peer where no window line and no DRAIN cycle is needed: data, poisoned, state. -/
def placeRead (s : State) (off : Nat) : Beat × Bool × State :=
  match placeOf off with
  | .near o => dramRead s o
  | .far p a => dramRead s (0x10000000000 + p * 0x8000000000 + a)
  | .reg o => (apBeat s o, false, if o / 64 = 0x4410000 / 64 then latchFrac s else s)
  | .mover m o => (apBeat s (0x4110000 + m * 0x1000 + o), false, s)
  | _ => (0, false, s)

/-- A local beat written for a job or a peer; scratchpads have their DRAIN cycles, windows their own writes. -/
def placeWrite (s : State) (off : Nat) (b : Beat) : State :=
  match placeOf off with
  | .near o => dramWrite s o b
  | .far p a => dramWrite s (0x10000000000 + p * 0x8000000000 + a) b
  | _ => s

/-! ## The exchange area, completions and results (R335, R336, R348 to R350) -/

/-- Near-tier offset of the exchange area (R336). -/
def xareaBase : Nat := 0x1FF0000000

/-- Bytes written to the exchange area: line by line, the host's copy invalidated first (R336). -/
def xareaPut (s : State) (off : Nat) (bs : List Byte) : State :=
  (List.range (cdiv bs.length 64)).foldl (fun s i =>
    let part := (bs.drop (64 * i)).take 64
    let s := s.modHost fun h => { h with out := h.out ++ [.bisnpInv ((off + 64 * i) / 64 * 64)] }
    let a := xareaBase + off + 64 * i
    if part.length = 64 && a % 64 = 0 then dramWrite s a (beatOf part) else dramWriteBytes s a part) s

/-- Exchange-area offset of a queue's BASE (R340). -/
def baseOff (base : DWord) : Nat := base.toNat / 4096 * 4096 % 0x10000000

/-- A completion in CQ `cq` at TAIL, with the CQ's PHASE (R348, R349): to host memory, or to the exchange area. -/
def postCq (s : State) (cq cid st sq sqhd info0 info1 gen : Nat) (rvalid : Bool) : State :=
  let c := s.cq cq
  let size := fldN c.cfg 0 13
  let e : BitVec 256 := pack 256 [(0, 16, cid), (16, 16, st), (32, 8, sq), (40, 1, c.phase.toNat),
    (41, 1, rvalid.toNat), (48, 16, sqhd), (64, 64, info0), (128, 64, info1), (192, 64, gen)]
  let s := if bitB c.base 0 then xareaPut s (baseOff c.base + 32 * c.tail) (leBytes 32 e.toNat) else s
  let s := hostSend s (.cpl cq c.tail e) (bitB c.base 0)
  let wrap := decide (c.tail + 1 ≥ size)
  s.modCq cq fun c =>
    { c with tail := if wrap then 0 else c.tail + 1, phase := if wrap then !c.phase else c.phase,
             used := c.used + 1, reserved := c.reserved - 1 }

/-- The interrupt of a CQ that received completions, where IEN is 1 (R349). -/
def cqNotify (s : State) (cq : Nat) : State :=
  if bitB (s.cq cq).cfg 24 then msixSend s (fldN (s.cq cq).cfg 16 6) else s

/-- The result buffer of R350: body, then header; what fits RESLEN − 64. -/
def postResult (s : State) (e : BitVec 2048) (gen st : Nat) (body : List Byte) : State :=
  let b := body.take (entReslen e - 64)
  let h : Beat := pack 512 [(0, 64, gen), (64, 32, b.length), (96, 16, st), (112, 16, entCid e)]
  let s := if entRloc e then xareaPut (xareaPut s (entResult e + 64) b) (entResult e) (beatBytes h) else s
  let s := if b.isEmpty then s else hostSend s (.resultBody (entRloc e) (BitVec.ofNat 64 (entResult e)) b) (entRloc e)
  hostSend s (.resultHead (entRloc e) (BitVec.ofNat 64 (entResult e)) h) (entRloc e)

/-- Completion of the command queue `q` has taken, its interrupt still to come (R343, R364): result, completion, the status of a
STEP_RUN noted (R235), and the queue is free. With `body` none the command writes no result and INFO1 is as given; with a body INFO1
is its full size. -/
def finish (s : State) (q st info0 info1 : Nat) (body : Option (List Byte) := none) : State :=
  match (s.sq q).cur with
  | none => s
  | some k =>
    let rv := body.isSome && entResult k.entry != 0
    let s := match body with
      | some b => if entResult k.entry != 0 then postResult s k.entry k.gen st b else s
      | none => s
    let i1 := match body with
      | some b => b.length
      | none => info1
    let s := postCq s k.cq (entCid k.entry) st q k.sqhd info0 i1 k.gen rv
    let s := if entOpcode k.entry == 0x0220 then s.modStg fun g => { g with lastStatus := BitVec.ofNat 16 st } else s
    s.modSq q fun x => { x with cur := none }

/-- Completion of the command queue `q` has taken, and the interrupt of its CQ (R349). -/
def complete (s : State) (q st info0 info1 : Nat) (body : Option (List Byte) := none) : State :=
  match (s.sq q).cur with
  | none => s
  | some k => cqNotify (finish s q st info0 info1 body) k.cq

end Sys2Proof.Machine
end

