-- ==== Sys2Proof/Machine/Xfer.lean ====
section
/-! DEFINITION. Transfers of kind 2: their beats, requests, faults, ends and completion signals (R201, R204, R252 to R261),
and what abandoning a step does to them (R229). -/

namespace Sys2Proof.Machine

/-! ## Fields of a transfer descriptor (R201) -/

def xChan (d : Beat) : Bool := bitB d 8
def xConv (d : Beat) : Bool := bitB d 9
def xTrans (d : Beat) : Bool := bitB d 10
def xSkind (d : Beat) : Nat := fldN d 12 2
def xDkind (d : Beat) : Nat := fldN d 14 2
def dCnt (d : Beat) : Nat := fldN d 16 8
def dAmt (d : Beat) : Nat := fldN d 24 8
def xSrc (d : Beat) : Nat := fldN d 32 64
def xDst (d : Beat) : Nat := fldN d 96 64
def xLen (d : Beat) : Nat := fldN d 160 24
def xNcols (d : Beat) : Nat := fldN d 160 22
def xNrows (d : Beat) : Nat := fldN d 184 17
def xSstride (d : Beat) : Nat := fldN d 208 32
def xDstride (d : Beat) : Nat := fldN d 240 32
def xKs (d : Beat) : Word := (fld d 272 24).setWidth 32
def xKd (d : Beat) : Word := (fld d 296 24).setWidth 32
def xTid (d : Beat) : BitVec 20 := fld d 320 20
def xDladder (d : Beat) : Nat := fldN d 340 12
def xDlv (d : Beat) : Bool := bitB d 352
def xRsig (d : Beat) : Bool := bitB d 353
def xRmod (d : Beat) : Nat := fldN d 360 15
def xRtile (d : Beat) : Nat := fldN d 375 10
def xRcnt (d : Beat) : Nat := fldN d 385 8
def xRamt (d : Beat) : Nat := fldN d 393 8

/-- Beats of a copy (R202, R252). -/
def xBeats (d : Beat) : Nat := xNrows d * xLen d / 64
/-- Address of beat `i` from a base and a stride (R252). -/
def beatAddr (base stride len i : Nat) : Nat := base + i / (len / 64) * stride + i % (len / 64) * 64
def xSrcAt (d : Beat) (i : Nat) : Nat := beatAddr (xSrc d) (xSstride d) (xLen d) i
def xDstAt (d : Beat) (i : Nat) : Nat := beatAddr (xDst d) (xDstride d) (xLen d) i

/-- The transfer has a side of kind 2; it reads or writes through it. -/
def xRead2 (d : Beat) : Bool := xSkind d == 2
def xWrite2 (d : Beat) : Bool := xDkind d == 2
def xKind2 (o : Op) : Bool := o.kind == .xfer && (xRead2 o.desc || xWrite2 o.desc)

/-! ## Operations of a tile -/

def State.op? (s : State) (t id : Nat) : Option Op := (s.tile t).ops.find? fun o => o.id == id
def State.modOp (s : State) (t id : Nat) (f : Op → Op) : State :=
  s.modTile t fun x => { x with ops := x.ops.map fun o => if o.id == id then f o else o }
def State.dropOp (s : State) (t id : Nat) : State :=
  s.modTile t fun x => { x with ops := x.ops.filter fun o => o.id != id }

/-- Beats of an operation that wait for a fabric response. -/
def opOut (s : State) (t id : Nat) : List OutReq :=
  s.fab.outstanding.filter fun r => r.op == some (t, id) && !r.dead

/-- A write beat of the operation is still to be read again from its source (R261). -/
def refills (s : State) (t id : Nat) : Bool :=
  s.fab.drain.any fun e => match e.after with
    | .refill t' id' _ => t' == t && id' == id
    | _ => false

/-- No requested beat of the operation is pending. -/
def opQuiet (s : State) (t : Nat) (o : Op) : Bool :=
  o.asked.isEmpty && o.buf.isEmpty && (opOut s t o.id).isEmpty && !refills s t o.id

/-- Every byte of the transfer is visible (R253), or it has been ended with what was requested visible (R260). -/
def xferDone (s : State) (t : Nat) (o : Op) : Bool :=
  opQuiet s t o && o.held.isNone && (o.stopped || o.reqd ≥ xBeats o.desc)

/-- Requests no longer served: their responses will be discarded (R229, R258). -/
def killFrom (s : State) (t id beat : Nat) : State :=
  let kill := fun (r : OutReq) => if r.op == some (t, id) && r.beat ≥ beat then { r with dead := true } else r
  s.modFab fun f => { f with outstanding := f.outstanding.map kill }

/-! ## Fault records (R257 to R259) -/

/-- A fault of a command's copy (R255). -/
def ofCopy (f : FaultRec) : Bool := f.mover && decide (12 ≤ f.unit % 16)

/-- Window offset of an HWIN fault (R353): a command's window fault carries it in place of a virtual address (log 50). -/
def faultWoff (f : FaultRec) : Nat := if f.win then f.va else gaOff f.ga - 0x3F000000000

/-- The oldest unresolved HWIN fault is shown in HWIN_FAULT_ADDR (R353, R354). -/
def hwinRefresh (s : State) : State :=
  let a := match s.mem.faults.find? fun f => f.code == fHwin with
    | some f => faultWoff f
    | none => 0
  let v := s.mem.faults.any fun f => f.code == fHwin
  s.modHost fun h => { h with hwinAddr := if v then BitVec.ofNat 64 (a / 64 * 64 + 1) else 0 }

/-- Offset of the fault record queue in the reserve of half `h`: 16,384 records, the oldest overwritten (DESIGN CHOICE; log 21). -/
def faultQueue (h : Nat) : Nat := reserveBase h + 0x1FF00000

/-- A 64 B record put into the fault queue of a die's reserve (R239, R259). -/
def queueRecord (m : MemBlk) (die : Nat) (r : Beat) : MemBlk :=
  let n := SMap.get 0 m.frq die
  let a := (faultQueue die + n % 16384 * 64) / 8
  { m with frq := SMap.set 0 m.frq die (n + 1)
           reserve := (List.range 8).foldl (fun w i => SMap.set 0 w (a + i) (fld r (64 * i) 64)) m.reserve }

/-- The retried beat that `code` at beat `beat` of the unit's work would fail again. -/
def retriedAs (s : State) (code : Nat) (dir mover : Bool) (unit op beat : Nat) : Option FaultRec :=
  s.mem.retried.find? fun f =>
    f.code == code && f.dir == dir && f.mover == mover && f.unit == unit && f.op == op && f.beat == beat

/-- A new fault record: queued, counted, shown in the MEM block; an HWIN fault also interrupts the host (R259, R353). A retried beat
that fails again with the same code is the same fault: no record, no count, and the time of its first detection (R260). -/
def addFault (s : State) (code : Nat) (dir mover chan : Bool) (unit op gang beat va ga cnt tile : Nat) :
    Nat × State :=
  let rec_ : Beat := pack 512 [(0, 8, code), (8, 1, dir.toNat), (9, 1, mover.toNat), (10, 1, chan.toNat),
    (16, 10, unit), (26, 6, gang), (32, 32, beat), (64, 48, va), (112, 16, beat / 2 ^ 32), (128, 64, ga),
    (192, 64, s.stg.step.toNat), (256, 32, (s.tile tile).ts.seam.toNat), (288, 8, cnt), (320, 64, s.ns)]
  let n := s.mem.nextFault
  let f : FaultRec := ⟨n, code, dir, mover, chan, unit, op, gang, beat, va, ga, s.ns, rec_, false, false⟩
  let shown := fun (s : State) => if code == fHwin then raiseInt (hwinRefresh s) 0 else s
  match retriedAs s code dir mover unit op beat with
  | some f =>
    (f.n, shown (s.modMem fun m => { m with faults := m.faults ++ [f], retried := m.retried.filter fun x => x.n != f.n }))
  | none =>
    let s := s.modMem fun m =>
      queueRecord
        { m with faults := m.faults ++ [f], nextFault := n + 1, faultCount := sat32 (m.faultCount + 1),
                 faultFirst := if m.faultFirst == 0 then rec_ else m.faultFirst, faultLast := rec_ }
        (if mover then dieOfMover unit else dieOfTile unit) rec_
    let s := shown s
    (n, if code == fTable then ledger s 2 2 0x0201 noUnit va else s)

/-- A fault resolved or dropped. -/
def dropFault (s : State) (n : Nat) : State :=
  hwinRefresh (s.modMem fun m => { m with faults := m.faults.filter fun f => f.n != n })

/-- The work of a unit is over: nothing of it is retried any more. -/
def retryGone (s : State) (mover : Bool) (unit op : Nat) : State :=
  s.modMem fun m => { m with retried := m.retried.filter fun f => !(f.mover == mover && f.unit == unit && f.op == op) }

/-- The held faults of a transfer of a tile, or of a mover. -/
def faultsOf (s : State) (mover : Bool) (unit op : Nat) : List FaultRec :=
  s.mem.faults.filter fun f => f.mover == mover && f.unit == unit && f.op == op

/-- The fault at the lowest beat among those given. -/
def lowFault (fs : List FaultRec) : Option FaultRec :=
  fs.foldl (fun a f => match a with
    | some x => if f.beat < x.beat then some f else a
    | none => some f) none

/-- The beat before which a transfer makes its requests: that of the fault that holds it (R258). -/
def holdBeat (s : State) (o : Op) : Option Nat :=
  o.held.bind fun n => (s.mem.faults.find? fun f => f.n == n).map (·.beat)

/-- A fault of a tile's transfer at beat `b`: no beat at or after it is requested, earlier ones complete, the completion signal
is held back (R258). A fault at another beat of a transfer already held is a new one, and the one at the lowest beat holds the
transfer (R260). -/
def holdXfer (s : State) (t id code ga b : Nat) (wr : Bool) : State :=
  match s.op? t id with
  | none => s
  | some o =>
    if (faultsOf s false t id).any fun f => f.code == code && f.beat == b then s
    else
      let va := if wr then xDstAt o.desc b else xSrcAt o.desc b
      let (n, s) := addFault s code wr false (xChan o.desc) t id ((s.tile t).gang.getD 0) b va ga (dCnt o.desc) t
      let s := if wr then s else killFrom s t id b
      let first := match holdBeat s o with
        | some f => decide (b < f)
        | none => true
      s.modOp t id fun o =>
        let o := if first then { o with held := some n } else o
        if wr then o
        else { o with reqd := min o.reqd b, asked := o.asked.filter (fun a => a.1 < b), buf := o.buf.filter (fun a => a.1 < b) }

/-! ## Requests of a read-direction transfer (R252) -/

/-- Beats requested in ascending order until the transfer has requested all, or all before the beat at which a fault holds it, a
beat faults, or no tag is free. -/
def requestBeats : Nat → State → Nat → Nat → State
  | 0, s, _, _ => s
  | fuel + 1, s, t, id =>
    match s.op? t id with
    | none => s
    | some o =>
      if o.stopped || (o.held.isSome && decide ((holdBeat s o).getD 0 ≤ o.reqd)) || o.reqd ≥ xBeats o.desc then s
      else
        let b := o.reqd
        match reach s (dieOfTile t) (xSrcAt o.desc b) false false with
        | .error (c, ga) => holdXfer s t id c ga b false
        | .ok ga =>
          let s := tlbNote s (dieOfTile t) (xSrcAt o.desc b)
          if gaMod ga == s.self then
            let s := match placeOf (gaOff ga) with
              | .hwin w => hwtFill s w
              | _ => s
            requestBeats fuel (s.modOp t id fun o => { o with asked := o.asked ++ [(b, ga)], reqd := b + 1 }) t id
          else
            match sendReq s (some (t, id)) noMover b 1 true (mkMsg s 2 (gaMod ga) 0 ga 1 0 0 []) with
            | none => s
            | some s => requestBeats fuel (s.modOp t id fun o => { o with reqd := b + 1 }) t id

/-- The transfer's requests as far as they go. -/
def requestAll (s : State) (t id : Nat) : State :=
  match s.op? t id with
  | some o => if xRead2 o.desc then requestBeats (xBeats o.desc) s t id else s
  | none => s

/-- Transfers whose requests waited for a free tag go on (R280). -/
def resumeRequests (s : State) : State :=
  let s := sendWaiting s
  s.tiles.foldl (fun s e => (e.2.ops.filter fun o => o.started && xKind2 o).foldl
    (fun s o => requestAll s e.1 o.id) s) s

/-! ## Arrival of a read beat (R252) -/

/-- STG_SPILL_RD and WR count bytes of the spill region (R219). -/
def spillRd (s : State) (va : Nat) : State :=
  if inSpill s va then s.modStg fun g => { g with spillRd := sat64 (g.spillRd + 64) } else s
def spillWr (s : State) (va : Nat) : State :=
  if inSpill s va then s.modStg fun g => { g with spillWr := sat64 (g.spillWr + 64) } else s

/-- A beat written to a hamper, with its high-water mark (R235). -/
def hamperWrite (s : State) (t a : Nat) (b : Beat) : State :=
  let s := s.modTile t fun x => { x with hamper := SMap.setBeat x.hamper a b }
  s.modStg fun g => { g with hwm := max g.hwm (a + 64) }

/-- Beat `b` has arrived: it waits for a DRAIN cycle of its bank, or is written to the hamper at once. -/
def beatArrive (s : State) (t : Nat) (o : Op) (b : Nat) (d : Beat) (poisoned : Bool) : State :=
  let s := noteData (spillRd s (xSrcAt o.desc b)) poisoned
  let a := xDstAt o.desc b
  if xDkind o.desc == 1 then hamperWrite s t a d
  else s.modOp t o.id fun o => { o with buf := o.buf ++ [(b, a, d, poisoned)] }

/-! ## Ends (R253, R254, R260) -/

/-- Outbound credits in use on a channel (R254). -/
def outUsed (x : Tile) (chan : Bool) : Nat := if chan then x.outUsed1 else x.outUsed0
def setOut (x : Tile) (chan : Bool) (n : Nat) : Tile := if chan then { x with outUsed1 := n } else { x with outUsed0 := n }

/-- `n` credits of a channel's outbound buffer return to EC[254] or EC[255] of the tile (R254). -/
def returnCredits (s : State) (t : Nat) (chan : Bool) (n : Nat) : State :=
  let s := s.modTile t fun x => setOut x chan (outUsed x chan - n)
  signalLocal s (s.tile t).gang t (if chan then 255 else 254) n

/-- Completion of a transfer: its signal, its remote signal where every byte is visible, and it is over (R204, R253). -/
def finishXfer (s : State) (t : Nat) (o : Op) : State :=
  let g := (s.tile t).gang
  let s := retryGone (s.dropOp t o.id) false t o.id
  let s := signalLocal s g t (dCnt o.desc) (dAmt o.desc)
  if xRsig o.desc && !o.stopped then signalTo s g (xRmod o.desc) (xRtile o.desc) (xRcnt o.desc) (xRamt o.desc) else s

/-- A transfer ends with what it has requested: beats onward are dropped, their credits returned, and the completion
signal applied once the earlier beats are done (R260). -/
def endXfer (s : State) (t id from_ : Nat) : State :=
  match s.op? t id with
  | none => s
  | some o =>
    let lost := if xWrite2 o.desc then o.buf.length + (xBeats o.desc - o.reqd) + o.keeps else 0
    let s := (faultsOf s false t id).foldl (fun s f => dropFault s f.n) s
    let s := killFrom s t id from_
    let s := s.modOp t id fun o =>
      { o with held := none, stopped := true, reqd := min o.reqd from_, asked := o.asked.filter (fun a => a.1 < from_)
               buf := if xWrite2 o.desc then [] else o.buf.filter (fun a => a.1 < from_), keeps := 0 }
    let s := if lost = 0 then s else returnCredits s t (xChan o.desc) lost
    match s.op? t id with
    | some o => if xferDone s t o then finishXfer s t o else s
    | none => s

/-- Firmware's ERROR for a tile's transfer (R260): DATA is set. -/
def errorXfer (s : State) (t id : Nat) (f : Nat) : State := endXfer (setLocal s 6) t id f

/-! ## Movers -/

/-- The signal of a mover descriptor's end (R256, R287, R307, R318): count, DONE and the queue moves on. -/
def moverNext (s : State) (m : Nat) : State :=
  (retryGone s true m 0).modMover m fun v =>
    { v with queue := v.queue.drop 1, busy := false, pos := 0, sub := 0, ent := none, asking := false, got := none
             part := [], cputs := [], held := none, ended := false }

/-- Fields of the descriptors a mover takes (R256, R287, R307, R318). -/
def mvType (d : Beat) : Nat := fldN d 0 8
/-- Module, tile, counter and amount of the local or remote signal. -/
def mvSignal (s : State) (d : Beat) : Nat × Nat × Nat × Nat :=
  match mvType d with
  | 6 => (if bitB d 8 then s.self else fldN d 256 15, fldN d 271 10, dCnt d, dAmt d)
  | 7 => (s.self, fldN d 188 10, dCnt d, dAmt d)
  | 8 => (fldN d 112 15, fldN d 127 10, dCnt d, dAmt d)
  | _ => (if bitB d 8 then s.self else fldN d 177 15, fldN d 192 10, dCnt d, dAmt d)

/-- A mover's descriptor is complete: its signal applied, MV_DONE counted, the next one may be taken. -/
def moverDone (s : State) (m : Nat) : State :=
  match (s.mover m).queue with
  | [] => s
  | e :: _ =>
    let (dst, t, c, a) := mvSignal s e.desc
    let s := moverNext s m
    let s := s.modMover m fun v => { v with done := sat32 (v.done + 1) }
    signalTo s (some e.gang) dst t c a

/-- A mover's descriptor meets a fault at step `b` of its work: the mover is held (R258). One already held holds on at the lower
of the two (R260). -/
def holdMover (s : State) (m code ga va b : Nat) (wr : Bool) : State :=
  match (s.mover m).queue with
  | [] => s
  | e :: _ =>
    if (faultsOf s true m 0).any fun f => f.code == code && f.beat == b then s
    else
      let (_, s) := addFault s code wr true false m 0 e.gang b va ga (dCnt e.desc) e.tile
      s.modMover m fun v => { v with held := (lowFault (faultsOf s true m 0)).map (·.n) }

/-- Requests of a mover whose responses it awaits. -/
def mvOut (s : State) (m : Nat) : List OutReq := s.fab.outstanding.filter fun r => r.mover == m && !r.dead

/-- Responses a mover no longer waits for: reads, and writes of beats from `b` on; its reads of scratchpads go with them. -/
def killMover (s : State) (m b : Nat) : State :=
  let kill := fun (r : OutReq) => if r.mover == m && (r.rd || decide (b ≤ r.beat)) then { r with dead := true } else r
  s.modFab fun f => { f with outstanding := f.outstanding.map kill
                             drain := f.drain.filter fun e => !(e.rd && e.after == .mover m) }

/-- Beats of a mover that wait for DRAIN cycles (R241). -/
def mvDrains (s : State) (m : Nat) : Bool := s.fab.drain.any fun e => e.after == .mover m

/-- A mover's descriptor ends with what it has moved: beat `b` and what follows is dropped, and its signal is applied once the
beats before it are visible (R229, R260). -/
def endMover (s : State) (m b : Nat) : State :=
  let s := (faultsOf s true m 0).foldl (fun s f => dropFault s f.n) s
  let s := killMover s m b
  let s := s.modMover m fun v => { v with ended := true, held := none, asking := false, got := none, part := [] }
  if (mvOut s m).isEmpty && !mvDrains s m then moverDone s m else s

/-- Firmware's ERROR for a mover's descriptor (R260): DATA is set. -/
def errorMover (s : State) (m b : Nat) : State := endMover (setLocal s 6) m b

/-! ## Abandoning a step (R229) -/

/-- A transfer of a tile at the abandonment: held by a fault or waiting for a fabric response, it ends with ERROR; else
it requests nothing more, one still in its start latch none at all. -/
def abandonOp (s : State) (t : Nat) (o : Op) : State :=
  if !xKind2 o then s
  else if !o.started then
    let s := s.modOp t o.id fun o => { o with stopped := true }
    if xWrite2 o.desc then returnCredits s t (xChan o.desc) (xBeats o.desc) else s
  else
    let f := if xWrite2 o.desc then 0 else ((opOut s t o.id).map (·.beat)).foldl min o.reqd
    if o.held.isSome || !(opOut s t o.id).isEmpty then errorXfer s t o.id f
    else if xWrite2 o.desc && (!o.buf.isEmpty || decide (o.reqd < xBeats o.desc)) then endXfer s t o.id f
    else s.modOp t o.id fun o => { o with stopped := true }

/-- A job mover at the abandonment: descriptors not started are discarded, one that is held or waits for a response ends
with ERROR, another ends where it stands. -/
def abandonMover (s : State) (m : Nat) : State :=
  let v := s.mover m
  if m % 16 ≥ 12 then s
  else
    let s := s.modMover m fun v => { v with queue := if v.busy then v.queue.take 1 else [] }
    if !v.busy then s
    else if v.held.isSome || !(mvOut s m).isEmpty then errorMover s m 0 else endMover s m 0

def abandonTransfers (s : State) : State :=
  let s := s.tiles.foldl (fun s e => e.2.ops.foldl (fun s o => abandonOp s e.1 o) s) s
  (List.range 32).foldl abandonMover s

end Sys2Proof.Machine
end

