-- ==== Sys2Proof/Machine/Flags.lean ====
section
/-! DEFINITION. The local verdict and what it decides: ladder marks and records at a resolution, tallies, votes, RESULT,
the flip, RELEASE, abandonment and slot faults (R112 to R116, R168, R225 to R232, R315, R323 to R327). -/

namespace Sys2Proof.Machine

/-! ## Ladder entries at a resolution (R112 to R116) -/

/-- JOBWIDE entries in ascending ladder index: entry i of MARK and QUAL (R323). -/
def jobwideList (s : State) : List Nat := (s.pc.ladder.filter fun e => e.2.valid && e.2.jobwide).map (·.1)

/-- The records of a GRAD entry with the current step's record appended (R114, R323). -/
def recsWith (s : State) (n : Nat) : List GRec := SMap.get {} s.pc.grec n :: (SMap.get [] s.pc.gsum n).take 3

/-- A GRAD entry qualifies for narrowing on this module, the step's record appended (R115). -/
def qualifies (s : State) (n : Nat) : Bool :=
  let e := s.ladder n
  let r := recsWith s n
  let nz : Nat := (r.map (·.nz)).sum
  let unf : Nat := if e.rung == 5 then (r.map (·.unf8)).sum else (r.map (·.unf6)).sum
  !s.refMode && decide (e.records ≥ 3) && r.all (fun g => g.ovf == 0) && (e.rung == 5 || e.rung == 4) &&
    decide (e.base ≤ e.rung - 1) && decide (unf * 2 ^ fldN s.pc.grad 0 6 < nz)

/-- MARK and QUAL of this module (R323). -/
def markWord (s : State) : BitVec 256 :=
  BitVec.ofNat 256 (((jobwideList s).zipIdx.filter fun e => s.pc.marks.contains e.1).map fun e => 2 ^ e.2).sum
def qualWord (s : State) : BitVec 256 :=
  BitVec.ofNat 256 (((jobwideList s).zipIdx.filter fun e => !(s.ladder e.1).grad || qualifies s e.1).map
    fun e => 2 ^ e.2).sum + (BitVec.allOnes 256 <<< (jobwideList s).length)

/-- Each marked entry rises by one rung, never past CEIL; a raise clears RECORDS (R110, R112, R115). -/
def applyMarks (s : State) (mark : BitVec 256) : State :=
  if s.refMode then s
  else (jobwideList s).zipIdx.foldl (fun s e =>
    if bitB mark e.2 && (s.ladder e.1).rung < (s.ladder e.1).ceil then
      (s.modLadder e.1 fun l => { l with rung := l.rung + 1, records := 0 }).modPc fun p =>
        { p with raise := sat32 (p.raise + 1) }
    else s) s

/-- The step's record joins each GRAD entry's last four (R114); not in reference mode (R121). -/
def appendRecords (s : State) : State :=
  if s.refMode then s
  else (s.pc.ladder.filter fun e => e.2.valid && e.2.grad).foldl (fun s e =>
    (s.modPc fun p => { p with gsum := SMap.set [] p.gsum e.1 (recsWith s e.1) }).modLadder e.1 fun l =>
      { l with records := min 4 (l.records + 1) }) s

/-- Relaxation at a commit (R113). -/
def relaxEntries (s : State) : State :=
  if s.refMode then s
  else (s.pc.ladder.filter fun e => e.2.valid && !e.2.jobwide && e.2.relax != 0 && e.2.base < e.2.rung).foldl
    (fun s e =>
      let clean := if s.pc.named.contains e.1 then 0 else min 255 (e.2.clean + 1)
      if e.2.relax ≤ clean then
        (s.modLadder e.1 fun l => { l with rung := l.rung - 1, clean := 0 }).modPc fun p =>
          { p with relax := sat32 (p.relax + 1) }
      else s.modLadder e.1 fun l => { l with clean := clean }) s

/-- Each GRAD entry whose QUAL bit is 1 falls by one rung; a lowering clears RECORDS (R115, R324). -/
def lowerGrads (s : State) (qual : BitVec 256) : State :=
  if s.refMode then s
  else (jobwideList s).zipIdx.foldl (fun s e =>
    let l := s.ladder e.1
    if l.grad && bitB qual e.2 && 3 < l.rung && l.base < l.rung then
      (s.modLadder e.1 fun l => { l with rung := l.rung - 1, records := 0 }).modPc fun p =>
        { p with relax := sat32 (p.relax + 1) }
    else s) s

/-! ## Messages of the round (R322) -/

/-- Bits [31:0] of the step whose round is in progress: the step in commit is the one before STG_STEP once flipped. -/
def roundStep (s : State) : Nat :=
  (if s.stg.st == .committing && s.cm.flippedAt.isSome then s.stg.step - 1 else s.stg.step).toNat % 2 ^ 32

/-- A round's message with ARG the step. -/
def roundMsg (s : State) (opc step op0 op1 : Nat) (data : List Beat) : Msg := mkMsg s opc 0 0 0 step op0 op1 data

/-- The peer of port `p` is lost or has left (R295, R299). -/
def peerGone (s : State) (p : Nat) : Bool :=
  (s.port p).st == .lost || s.fab.departed.contains (s.portCfg p).peerMod

/-- Ports of role other than 0 to a member of the job that is not lost (R315). -/
def tallyPorts (s : State) : List Nat :=
  s.rolePorts.filter fun p => !peerGone s p && ((s.job.map (·.members)).getD []).contains (s.portCfg p).peerMod

/-- TALLY to the peer of port `p` (R315, R322). -/
def sendTally (s : State) (p : Nat) : State :=
  sendDirect s p (roundMsg s 0x28 (s.stg.step.toNat % 2 ^ 32) (SMap.get 0 s.cm.txTally p).toNat
    (SMap.get 0 s.cm.txBytes p) [])

/-- One comparison of a received TALLY with the receive tally of its port (R315). -/
def compareTally (s : State) (e : Nat × DWord × Nat) : State :=
  if s.cm.compared.contains e.1 then s
  else
    let ok := SMap.get 0 s.cm.rxTally e.1 == e.2.1 && SMap.get 0 s.cm.rxBytes e.1 == e.2.2
    let s := s.modCm fun c => { c with compared := e.1 :: c.compared }
    if ok then s
    else
      let s := (setLocal s 5).modCm fun c =>
        { c with tallyFail := sat32 (c.tallyFail + 1), tallyPort := if c.tallyPort == 0x1F then e.1 else c.tallyPort }
      ledger s 2 3 0x0307 e.1 e.1

/-- Comparisons of every message held, made once this module is locally complete (R315). -/
def compareTallies (s : State) : State :=
  if s.stg.st == .localDone then s.cm.tallies.foldl compareTally s else s

/-- No comparison is still awaited (R315). -/
def talliesDone (s : State) : Bool := s.cm.abandonSeen || (tallyPorts s).all fun p => s.cm.compared.contains p

/-! ## Votes (R323) -/

def children (s : State) : List Nat := (List.range 18).filter fun p => bitB s.cm.child p

/-- A vote, or a loss, from every child. -/
def childrenIn (s : State) : Bool :=
  (children s).all fun p => s.cm.childVotes.any (fun v => v.1 == p) || peerGone s p

/-- This module's own terms. -/
def ownAgg (s : State) : Agg :=
  { or_ := s.stg.loc, missing := false, count := 1, permSum := s.cm.permOutBytes - s.cm.permInBytes,
    mark := markWord s, qual := qualWord s, permXor := s.cm.permOutDig ^^^ s.cm.permInDig }

def joinAgg (a b : Agg) : Agg :=
  { or_ := a.or_ ||| b.or_, missing := a.missing || b.missing, count := a.count + b.count,
    permSum := a.permSum + b.permSum, mark := a.mark ||| b.mark, qual := a.qual &&& b.qual,
    permXor := a.permXor ^^^ b.permXor }

/-- The subtree's aggregate: own terms, the children's votes, MISSING for a child lost before its vote. -/
def aggregate (s : State) : Agg :=
  let a := s.cm.childVotes.foldl (fun a v => joinAgg a v.2) (ownAgg s)
  { a with missing := a.missing || (children s).any fun p =>
      peerGone s p && !s.cm.childVotes.any fun v => v.1 == p }

/-- The message of an aggregate: VOTE, or RESULT with COMMIT in OPND0 [11] (R323, R324). -/
def aggMsg (s : State) (opc step : Nat) (a : Agg) (commit : Bool) : Msg :=
  roundMsg s opc step (a.or_.toNat + bitAt a.missing 10 + bitAt commit 11 + a.count % 65536 * 2 ^ 32) a.permSum.toNat
    [BitVec.ofNat 512 (a.mark.toNat + a.qual.toNat * 2 ^ 256), BitVec.ofNat 512 a.permXor.toNat]

/-- The aggregate a VOTE or RESULT carries. -/
def aggOf (m : Msg) : Agg :=
  let d := m.data.getD 0 0
  { or_ := BitVec.ofNat 10 (mOp0 m), missing := bitB m.hdr 202, count := fldN m.hdr 224 16,
    permSum := BitVec.ofNat 64 (mOp1 m), mark := fld d 0 256, qual := fld d 256 256, permXor := fld (m.data.getD 1 0) 0 64 }

/-- COMMIT of a RESULT. -/
def resultCommit (m : Msg) : Bool := bitB m.hdr 203

/-! ## The end of a step (R227, R231) -/

/-- Status of a resolved step (R227). -/
def stepStatus (s : State) (discarded rolled : Bool) : Nat :=
  if bitB s.stg.loc 3 then 0x0701 else if bitB s.stg.loc 4 then 0x0702 else if discarded then 0x0401
  else if rolled then 0x0402 else 0

/-- INFO0 of STEP_RUN: STG_VERDICT, and STG_LOCAL above it (R364). -/
def stepInfo (s : State) : Nat := s.stg.verdict.toNat + s.stg.loc.toNat * 2 ^ 32

/-- The resolved step is reported by its STEP_RUN or RESUME (R227, R364, R370). -/
def reportStep (s : State) (discarded rolled : Bool) : State :=
  let st := stepStatus s discarded rolled
  let s := match s.stg.reporter with
    | some q => complete s q st (stepInfo s) s.stg.step.toNat
    | none => s
  s.modStg fun g => { g with lastStatus := BitVec.ofNat 16 st, reporter := none, midStep := false }

/-- What the round has gathered is dropped once the step is flipped or discarded. -/
def clearVotes (s : State) : State :=
  s.modCm fun c => { c with childVotes := [], compared := [], tallies := [], votedAt := none, abandonSent := false,
                            abandonSeen := false }
def clearAcks (s : State) : State :=
  s.modCm fun c => { c with childAcks := [], flippedAt := none, ackSent := false }

/-- RELEASE or RESULT to every child. -/
def toChildren (s : State) (m : Msg) : State := (children s).foldl (fun s p => sendDirect s p m) s

/-- A member that asked for `step` is answered (R325). -/
def answerQueriers (s : State) (step : Nat) (m : Msg) (last : Bool) : State :=
  let s := (s.cm.queriers.filter fun q => q.2.toNat == step).foldl (fun s q => sendDirect s q.1 m) s
  if last then s.modCm fun c => { c with queriers := c.queriers.filter fun q => q.2.toNat != step } else s

/-- RELEASE (R231, R327): kept, passed on, and the step is over. -/
def doRelease (s : State) (rolled : Bool) : State :=
  let step := roundStep s
  let m := roundMsg s 0x2C step rolled.toNat 0 []
  let s := s.modCm fun c => { c with releases := ((BitVec.ofNat 32 step, rolled) :: c.releases).take 2, rolled := rolled }
  let s := answerQueriers (toChildren s m) step m true
  let or_ := match s.cm.results.find? fun r => r.step.toNat == step with
    | some r => (aggOf r.msg).or_
    | none => 0
  let s := s.modStg fun g => { g with st := .idle, verdict := or_,
                                      rollfwds := if rolled then sat32 (g.rollfwds + 1) else g.rollfwds }
  clearAcks (reportStep s false rolled)

/-- FLIP_ACK once this module has flipped and every child has acknowledged; at the root RELEASE once the
acknowledgements cover the job (R327). -/
def tryAck (s : State) : State :=
  if s.stg.st != .committing || s.cm.flippedAt.isNone || s.cm.ackSent ||
      !(children s).all (fun p => s.cm.childAcks.any fun a => a.1 == p) then s
  else
    let n := 1 + (s.cm.childAcks.map (·.2.1)).sum
    let rolled := s.cm.queried || s.cm.childAcks.any (·.2.2)
    if s.cm.parent == 0x1F then (if n = s.cm.jobSize then doRelease s rolled else s)
    else
      let s := s.modCm fun c => { c with ackSent := true }
      sendDirect s s.cm.parent (roundMsg s 0x2B (roundStep s) (n % 65536 * 2 ^ 32 + rolled.toNat) 0 [])

/-- The commit token (R231): records and ladder, then the flip. -/
def doCommit (s : State) (a : Agg) : State :=
  let s := relaxEntries (applyMarks (lowerGrads (appendRecords s) a.qual) a.mark)
  let s := s.modPc fun p => { p with grec := [], marks := [], named := [] }
  let s := s.modMem fun m => { m with tlb := m.tlb.filter fun e => !pteFp e.pte }
  let s := s.modStg fun g => { g with st := .committing, parity := !g.parity, step := g.step + 1,
                                      commits := sat32 (g.commits + 1) }
  let s := clearVotes (s.modCm fun c => { c with flippedAt := some s.ns })
  tryAck s

/-- A bad verdict (R231): a module in LOCAL_DONE is IDLE, one in ABANDONED rewinds first. -/
def doDiscard (s : State) (a : Agg) : State :=
  let s := applyMarks s a.mark
  let s := s.modPc fun p => { p with grec := [], marks := [], named := [] }
  let s := s.modStg fun g => { g with discards := sat32 (g.discards + 1), verdict := a.or_ }
  if s.stg.st == .localDone then
    clearAcks (clearVotes (reportStep (s.modStg fun g => { g with st := .idle }) true false))
  else clearAcks (clearVotes (s.modStg fun g => { g with rewindDue := true }))

/-- RESULT for the step in progress: kept, passed on to children and queriers, then acted on (R324, R325). -/
def takeResult (s : State) (a : Agg) (commit : Bool) : State :=
  if (s.stg.st == .localDone || (s.stg.st == .abandoned && !commit)) && !s.stg.rewindDue then
    let step := roundStep s
    let m := aggMsg s 0x2A step a commit
    let s := s.modCm fun c => { c with results := (⟨BitVec.ofNat 32 step, m⟩ :: c.results).take 2 }
    let s := answerQueriers (toChildren s m) step m (!commit)
    if commit then doCommit s a else doDiscard s a
  else s

/-- The root's decision (R324). -/
def rootDecide (s : State) (a : Agg) : State :=
  let perm := a.permSum == 0 && a.permXor == 0
  let a := if perm then a else { a with or_ := a.or_ ||| 0x20 }
  takeResult s a ((a.or_ &&& 0x1FF) == 0 && !a.missing && a.count == s.cm.jobSize)

/-- The module waits for RESULT (R325). -/
def waitsResult (s : State) : Bool :=
  (s.stg.st == .localDone || s.stg.st == .abandoned) && !s.stg.rewindDue && s.cm.votedAt.isSome &&
  s.cm.parent != 0x1F

/-- QUERY to every member peer (R322, R325). -/
def sendQueries (s : State) : State :=
  let ps := (tallyPorts s).filter fun p => portUp s p || (s.port p).st == .detoured
  let s := ps.foldl (fun s p => sendDirect s p (roundMsg s 0x2D (roundStep s) 0 0 [])) s
  s.modCm fun c => { c with queryCount := sat32 (c.queryCount + ps.length) }

/-- A module that waits for RESULT and has lost its parent asks for it (R325). -/
def orphanQuery (s : State) : State :=
  if waitsResult s && peerGone s s.cm.parent then sendQueries s else s

/-- The vote goes to the parent once due; at the root the step is decided. An abandoned member votes at once, the root
with every child's vote in hand (R229, R323, R324). With its parent gone already, the module asks its peers (R325). -/
def tryVote (s : State) : State :=
  let root := s.cm.parent == 0x1F
  let due := (s.stg.st == .localDone && talliesDone s && childrenIn s) ||
    (s.stg.st == .abandoned && (!root || childrenIn s))
  if s.cm.votedAt.isSome || !due then s
  else
    let a := aggregate s
    let s := s.modCm fun c => { c with votedAt := some s.ns }
    if root then rootDecide s a else orphanQuery (sendDirect s s.cm.parent (aggMsg s 0x29 (roundStep s) a false))

/-! ## The deadline's clock and local completion (R226, R228) -/

/-- Time of the step from the EC[0] signal, excluded intervals left out (R228). -/
def stepNs (s : State) : Nat :=
  match s.stg.timer with
  | none => 0
  | some t0 =>
    let ex := match s.stg.exclFrom with
      | some t => s.ns - t
      | none => 0
    s.ns - t0 - s.stg.excluded - ex

/-- Local completion (R226, R315, R323). -/
def localComplete (s : State) : State :=
  let us := sat32 (stepNs s / 1000)
  let s := if s.tiles.any (fun e => e.2.kfs.nan) then setLocal s 0 else s
  let s := if s.tiles.any (fun e => e.2.kfs.ovf) then setLocal s 1 else s
  let s := if s.pc.escFail then setLocal s 2 else s
  let s := if s.pc.jobwideMark then setLocal s 9 else s
  let s := s.modStg fun g => { g with st := .localDone, timer := none, exclFrom := none, lastUs := us }
  let s := (tallyPorts s).foldl sendTally s
  tryVote (compareTallies s)

/-! ## Abandonment and slot faults (R168, R229, R326) -/

/-- ABANDON on every port of role other than 0 that is UP or DETOURED, once per step (R326). -/
def sendAbandon (s : State) : State :=
  if s.cm.abandonSent then s
  else
    let s := s.modCm fun c => { c with abandonSent := true }
    (s.rolePorts.filter fun p => portUp s p || (s.port p).st == .detoured).foldl
      (fun s p => sendDirect s p (roundMsg s 0x2E (roundStep s) 0 0 [])) s

/-- The device abandons a step that is RUNNING (R229). -/
def abandonStep (s : State) : State :=
  if s.stg.st != .running then s
  else
    let s := setLocal s 8
    let s := s.modStg fun g => { g with st := .abandoned, abandons := sat32 (g.abandons + 1), timer := none,
                                        exclFrom := none }
    let s := ledger s 2 7 0x0701 noUnit s.stg.loc.toNat
    tryVote (sendAbandon (abandonTransfers (freezeAll s)))

/-- A cause of R229: the step is abandoned; in PREEMPTED it is recorded, and acted on at RESUME. -/
def abandonCause (s : State) : State :=
  if s.stg.st == .preempted then sendAbandon (setLocal s 8) else abandonStep s

/-- A shard mismatch (R316, R317). -/
def shardFail (s : State) : State :=
  let s := (setLocal s 4).modCm fun c => { c with shardFail := sat32 (c.shardFail + 1) }
  if s.stg.st == .preempted then s else abandonStep s

/-- A slot fault of tile `t` (R168, R206, R445): recorded, the thread in FAULT, the gang frozen, the step abandoned. -/
def slotFault (s : State) (t : Nat) (th : Option Nat) (src res slot reason : Nat) : State :=
  let rec_ : DWord := pack 64 [(0, 8, src), (8, 8, res), (16, 8, slot), (24, 12, th.getD 0xFFF), (63, 1, 1)]
  let s := match th with
    | some h => s.setCtx t h { s.ctx t h with
        st := .fault, finfo := pack 32 [(0, 8, src), (8, 8, res), (16, 8, slot)] }
    | none => s
  let s := s.modTile t fun x =>
    { x with ts := { x.ts with fault := if bitB x.ts.fault 63 then x.ts.fault else rec_,
                               faults := sat32 (x.ts.faults + 1) } }
  let s := ledger s 2 1 0x0101 t (rec_.toNat + (if src == 7 then reason % 256 * 2 ^ 48 else 0))
  let s := match (s.tile t).gang with
    | some g => freezeGang s g
    | none => s
  abandonStep (setLocal s 3)

end Sys2Proof.Machine
end

