-- ==== Sys2Proof/Machine/Sched.lean ====
section
/-! DEFINITION. The issue ring, when a thread instruction issues, slot ownership, collisions and start latches (R155 to
R165, R195, R196). -/

namespace Sys2Proof.Machine

/-! ## Cycles (R159, R379) -/

/-- The cycle in progress is an idle slot: the duty pattern, a switch's gap, or Rest (R379, R393, R399). -/
def idleNow (s : State) : Bool :=
  s.clk.duty.toNat ≥ s.gov.duty || s.clk.gap || s.rest.st == .resting || s.rest.st == .waking

/-- Bound and powered: the tile clocks run. -/
def tilesRun (s : State) : Bool := s.pins.mainOn && s.bound

/-! ## The issue ring (R156 to R158, R165) -/

/-- The wait condition is met, with the counter as it stood at the end of the previous cycle (R165). -/
def waitMet (x : Tile) (c : Ctx) : Bool :=
  !c.waiting || (SMap.get 0 x.ecPrev c.wcnt.toNat - c.wtarget).toNat < 2 ^ 31

/-- Line index and tag of a PC (R158). -/
def lineIdx (pc : Word) : Nat := fldN pc 6 6
def lineTag (pc : Word) : Nat := fldN pc 12 9

/-- The fetch line that holds the PC, where present. -/
def fetchLine (x : Tile) (pc : Word) : Option Beat :=
  match SMap.get none x.fetch (lineIdx pc) with
  | some l => if l.tag = lineTag pc then some l.line else none
  | none => none

/-- The instruction word at the PC of a present line (R185). -/
def fetchWord (x : Tile) (pc : Word) : Option (BitVec 64) := (fetchLine x pc).map fun l => fld l (8 * (pc.toNat % 64)) 64

/-- The thread is ready except for its line (R156). -/
def nearReady (x : Tile) (th : Nat) : Bool := (x.ctx th).st == .run && waitMet x (x.ctx th)
def ready (x : Tile) (th : Nat) : Bool := nearReady x th && (fetchLine x (x.ctx th).pc).isSome

/-- Ring positions in the order issue_cycle examines them (R157). -/
def ringOrder (x : Tile) : List Nat := (List.range x.ring.length).map fun n => (x.last + n + 1) % x.ring.length

/-- The position the sequencer issues from (R157). -/
def ringPick (x : Tile) : Option Nat := (ringOrder x).find? fun p => ready x (x.ring.getD p 0)

/-- A fill request for the line of a thread: at most 8 outstanding, one for each line, whichever of its threads misses it (R158;
DESIGN CHOICE, log 82). -/
def requestFill (cyc : Nat) (x : Tile) (th : Nat) : Tile :=
  let a := (x.ctx th).pc.toNat / 64 * 64
  if nearReady x th && (fetchLine x (x.ctx th).pc).isNone && x.fills.length < 8 && !x.fills.any (fun f => f.1 == a) then
    { x with fills := x.fills ++ [(a, cyc)] }
  else x

/-- Requests of the threads examined before position `stop` (all where none issues). -/
def raiseFills (cyc : Nat) (x : Tile) (stop : Option Nat) : Tile :=
  ((ringOrder x).takeWhile fun p => some p != stop).foldl (fun x p => requestFill cyc x (x.ring.getD p 0)) x

/-- The tile's sequencer may issue in this cycle (R157, R168, R172). -/
def tileIssues (s : State) (t : Nat) : Bool :=
  let x := s.tile t
  tilesRun s && !idleNow s && !x.issuedNow && !contextSaved s &&
  match x.gang with
  | some g => (!(s.gang g).frozen || decide (s.clk.cycle ≤ (s.gang g).frozenAt)) && !(s.gang g).heldQuiet
  | none => false

/-- The instruction the sequencer of tile `t` issues in this cycle, with its ring position; none where nothing issues
or the word's OP is reserved. -/
def issueNext (s : State) (t : Nat) : Option (Nat × Instr) :=
  if tileIssues s t then
    match ringPick (s.tile t) with
    | none => none
    | some p =>
      let x := s.tile t
      let th := x.ring.getD p 0
      match fetchWord x (x.ctx th).pc with
      | none => none
      | some w => (decodeThread t th w).map fun i => (p, i)
  else none

/-- Thread instruction `i` is the one that issues in this cycle. -/
def canIssue (s : State) (t : Nat) (i : Instr) : Bool :=
  match issueNext s t with
  | some r => r.2 == i
  | none => false

/-- The issue itself: fill requests of the threads examined before, ring position, the WAIT bit of the issuing thread
(R157, R158, R165). -/
def beginIssue (s : State) (t th : Nat) : State :=
  (noteEvents s (32 * tileBand t + 13) 1).modTile t fun x =>
    let p := ringPick x
    let x := raiseFills s.clk.cycle x p
    let x := { x with last := p.getD x.last, issuedNow := true }
    x.setCtx th { x.ctx th with waiting := false }

/-- An issue that succeeded is counted (R181). -/
def countIssue (s : State) (t : Nat) : State :=
  s.modTile t fun x => { x with ts := { x.ts with issued := sat64 (x.ts.issued + 1) } }

/-- The issued instruction succeeds: the thread's context becomes `f` of it (R188). -/
def issueOk (s : State) (t th : Nat) (f : Ctx → Ctx) : State :=
  countIssue (s.setCtx t th (f (s.ctx t th))) t

/-- A fault of the instruction found at issue, source 0x07 with its reason (R206). -/
def issueFault (s : State) (t th reason : Nat) : State := slotFault s t (some th) 7 0xFF s.slotN reason

/-- The effect of thread instruction `i`: nothing where it does not issue in this cycle (log 2), else `body` of the
state in which it has issued. -/
def issued (s : State) (t th : Nat) (i : Instr) (body : State → State) : State :=
  if canIssue s t i then body (beginIssue s t th) else s

/-! ## Ownership (R160, R163) -/

/-- Owner code of a resource in a cycle, under the active table set (R161). -/
def owner (s : State) (t res c : Nat) : Nat :=
  let x := s.tile t
  (slotByte x x.tset.toNat res (s.slotAt c)).toNat

/-- The use of resource `u.res` from `u.from_` to `u.to_`: first cycle not owned by code `o`. An inbound port, which
has no slot table, is numbered 33 + port here (R196). -/
def firstBad (s : State) (t o : Nat) (u : Use) : Option Nat :=
  let n := if u.res ≥ 33 then 0 else u.to_ + 1 - u.from_
  ((List.range (min n 256)).map fun i => u.from_ + i).find? fun c => owner s t u.res c != o

/-- The ownership check over every use: first failing cycle and the lowest resource index among those failing in it
(R163, R168). -/
def ownFail (s : State) (t o : Nat) (us : List Use) : Option (Nat × Nat) :=
  us.foldl (fun best u =>
    match firstBad s t o u with
    | none => best
    | some c =>
      match best with
      | none => some (c, u.res)
      | some b => if c < b.1 || (c == b.1 && u.res < b.2) then some (c, u.res) else best) none

/-! ## Collisions and start latches (R162, R196) -/

/-- Two uses meet: one resource in one cycle. -/
def usesMeet (a b : Use) : Bool := a.res == b.res && a.from_ ≤ b.to_ && b.from_ ≤ a.to_

/-- A collision with an operation in flight or in a start latch (R196). -/
def collides (x : Tile) (us : List Use) : Bool := x.ops.any fun o => o.uses.any fun a => us.any (usesMeet a)

/-- The lowest start latch among resources 16 to 28 that an operation holds in cycle `c`: until its t_s (R162, R195). -/
def latchFull (x : Tile) (c : Nat) (us : List Use) : Option Nat :=
  (List.range 13).map (· + 16) |>.find? fun r => us.any (fun u => u.res == r) &&
    x.ops.any fun o => !o.started && decide (c < o.ts) && o.uses.any fun a => a.res == r

/-- First cycle after the issue cycle whose slot index is PHASE (R162). -/
def startCycle (s : State) (phase : Byte) : Nat :=
  s.clk.cycle + 1 + (phase.toNat + 512 - (s.slotN + 1)) % 256

/-- Checks 4 to 7 of R195 on the uses of a new operation with first cycle `ts`, then the operation itself in its start
latch. `hazard`: the array resource a hazardous start names (R86). -/
def launch (s : State) (t th ts : Nat) (us : List Use) (hazard : Option Nat) (mk : Nat → Op) : State :=
  let x := s.tile t
  match latchFull x s.clk.cycle us with
  | some r => slotFault s t (some th) 2 r s.slotN 0
  | none =>
    match ownFail s t (th / 64) us with
    | some (c, r) => slotFault s t (some th) 1 r (s.slotAt c) 0
    | none =>
      if collides x us then issueFault s t th 6
      else match hazard with
        | some r =>
          let s := s.modTile t fun x => { x with mxs := { x.mxs with hazard := sat32 (x.mxs.hazard + 1) } }
          slotFault s t (some th) 3 r (s.slotAt ts) 0
        | none =>
          let s := issueOk s t th fun c => { c with pc := c.pc + 8 }
          s.modTile t fun x => { x with ops := x.ops ++ [mk x.nextOp], nextOp := x.nextOp + 1 }

end Sys2Proof.Machine
end

