-- ==== Sys2Proof/Machine/Scalar.lean ====
section
/-! DEFINITION. Scalar and control instructions of a thread: they act at issue, on the thread's own context (R157,
R185 to R192, R206). -/

namespace Sys2Proof.Machine

/-- A PC an instruction may set (R188). -/
def pcOk (pc : Word) : Bool := pc.toNat % 8 == 0 && pc.toNat ≤ 0x1FFFF8

/-- A scalar or control instruction: the context becomes `f` of it with PC `next`, unless that PC faults (R188). -/
def scalar (s : State) (t th : Nat) (i : Instr) (next : Ctx → Word) (f : Ctx → Ctx) : State :=
  issued s t th i fun s =>
    let n := next (s.ctx t th)
    if pcOk n then issueOk s t th fun c => { f c with pc := n } else issueFault s t th 2

/-- Register `r` of a context (R154). -/
def reg (c : Ctx) (r : BitVec 4) : Word := c.regs[r.toNat]
def setReg (c : Ctx) (r : BitVec 4) (v : Word) : Ctx := { c with regs := c.regs.set r.toNat v }

/-- PC + 8. -/
def pcNext (c : Ctx) : Word := c.pc + 8

/-- S[SD] = op of S[SA] and S[SB]. -/
def alu (s : State) (t th : Nat) (i : Instr) (sd sa sb : BitVec 4) (op : Word → Word → Word) : State :=
  scalar s t th i pcNext fun c => setReg c sd (op (reg c sa) (reg c sb))

/-- PC = IMM where the comparison holds. -/
def branch (s : State) (t th : Nat) (i : Instr) (sa sb : BitVec 4) (imm : Word) (cmp : Word → Word → Bool) : State :=
  scalar s t th i (fun c => if cmp (reg c sa) (reg c sb) then imm else pcNext c) id

/-- 1 or 0 (R187). -/
def flag01 (b : Bool) : Word := if b then 1 else 0

abbrev Res := Host.Outcome State Fault Refusal

/-- ADD: the 32-bit sum (R188). -/
def execAdd (t th : Nat) (sd sa sb : BitVec 4) (s : State) : Res :=
  .next (alu s t th (.add t th sd sa sb) sd sa sb fun a b => a + b)

/-- SUB: the difference (R188). -/
def execSub (t th : Nat) (sd sa sb : BitVec 4) (s : State) : Res :=
  .next (alu s t th (.sub t th sd sa sb) sd sa sb fun a b => a - b)

/-- AND (R188). -/
def execAnd (t th : Nat) (sd sa sb : BitVec 4) (s : State) : Res :=
  .next (alu s t th (.and t th sd sa sb) sd sa sb fun a b => a &&& b)

/-- OR (R188). -/
def execOr (t th : Nat) (sd sa sb : BitVec 4) (s : State) : Res :=
  .next (alu s t th (.or t th sd sa sb) sd sa sb fun a b => a ||| b)

/-- XOR (R188). -/
def execXor (t th : Nat) (sd sa sb : BitVec 4) (s : State) : Res :=
  .next (alu s t th (.xor t th sd sa sb) sd sa sb fun a b => a ^^^ b)

/-- SHL: shift left by S[SB][4:0] (R188). -/
def execShl (t th : Nat) (sd sa sb : BitVec 4) (s : State) : Res :=
  .next (alu s t th (.shl t th sd sa sb) sd sa sb fun a b => a <<< fldN b 0 5)

/-- SHR: logical shift right by S[SB][4:0] (R188). -/
def execShr (t th : Nat) (sd sa sb : BitVec 4) (s : State) : Res :=
  .next (alu s t th (.shr t th sd sa sb) sd sa sb fun a b => a >>> fldN b 0 5)

/-- SRA: shift right filled with bit 31 (R188). -/
def execSra (t th : Nat) (sd sa sb : BitVec 4) (s : State) : Res :=
  .next (alu s t th (.sra t th sd sa sb) sd sa sb fun a b => a.sshiftRight (fldN b 0 5))

/-- MUL: low 32 bits of the product (R188). -/
def execMul (t th : Nat) (sd sa sb : BitVec 4) (s : State) : Res :=
  .next (alu s t th (.mul t th sd sa sb) sd sa sb fun a b => a * b)

/-- SLTU: unsigned less-than (R188). -/
def execSltu (t th : Nat) (sd sa sb : BitVec 4) (s : State) : Res :=
  .next (alu s t th (.sltu t th sd sa sb) sd sa sb fun a b => flag01 (a.ult b))

/-- SLT: signed less-than (R188). -/
def execSlt (t th : Nat) (sd sa sb : BitVec 4) (s : State) : Res :=
  .next (alu s t th (.slt t th sd sa sb) sd sa sb fun a b => flag01 (a.slt b))

/-- ADDI: S[SA] + IMM (R188). -/
def execAddi (t th : Nat) (sd sa : BitVec 4) (imm : Word) (s : State) : Res :=
  .next (scalar s t th (.addi t th sd sa imm) pcNext fun c => setReg c sd (reg c sa + imm))

/-- LI: IMM (R188). -/
def execLi (t th : Nat) (sd : BitVec 4) (imm : Word) (s : State) : Res :=
  .next (scalar s t th (.li t th sd imm) pcNext fun c => setReg c sd imm)

/-- JMP: PC = IMM (R188). -/
def execJmp (t th : Nat) (imm : Word) (s : State) : Res :=
  .next (scalar s t th (.jmp t th imm) (fun _ => imm) id)

/-- JAL: S[SD] = PC + 8; PC = IMM (R188). -/
def execJal (t th : Nat) (sd : BitVec 4) (imm : Word) (s : State) : Res :=
  .next (scalar s t th (.jal t th sd imm) (fun _ => imm) fun c => setReg c sd (c.pc + 8))

/-- JR: PC = S[SA] (R188). -/
def execJr (t th : Nat) (sa : BitVec 4) (s : State) : Res :=
  .next (scalar s t th (.jr t th sa) (fun c => reg c sa) id)

/-- BEQ: PC = IMM if S[SA] is equal to S[SB] (R188). -/
def execBeq (t th : Nat) (sa sb : BitVec 4) (imm : Word) (s : State) : Res :=
  .next (branch s t th (.beq t th sa sb imm) sa sb imm fun a b => a == b)

/-- BNE: PC = IMM if S[SA] is unequal to S[SB] (R188). -/
def execBne (t th : Nat) (sa sb : BitVec 4) (imm : Word) (s : State) : Res :=
  .next (branch s t th (.bne t th sa sb imm) sa sb imm fun a b => a != b)

/-- BLTU: PC = IMM if S[SA] is unsigned below to S[SB] (R188). -/
def execBltu (t th : Nat) (sa sb : BitVec 4) (imm : Word) (s : State) : Res :=
  .next (branch s t th (.bltu t th sa sb imm) sa sb imm fun a b => a.ult b)

/-- BGEU: PC = IMM if S[SA] is unsigned at or above to S[SB] (R188). -/
def execBgeu (t th : Nat) (sa sb : BitVec 4) (imm : Word) (s : State) : Res :=
  .next (branch s t th (.bgeu t th sa sb imm) sa sb imm fun a b => !a.ult b)

/-- BLT: PC = IMM if S[SA] is signed below to S[SB] (R188). -/
def execBlt (t th : Nat) (sa sb : BitVec 4) (imm : Word) (s : State) : Res :=
  .next (branch s t th (.blt t th sa sb imm) sa sb imm fun a b => a.slt b)

/-- BGE: PC = IMM if S[SA] is signed at or above to S[SB] (R188). -/
def execBge (t th : Nat) (sa sb : BitVec 4) (imm : Word) (s : State) : Res :=
  .next (branch s t th (.bge t th sa sb imm) sa sb imm fun a b => !a.slt b)

/-- NOP: PC + 8 (R188). -/
def execNopInstruction (t th : Nat) (s : State) : Res :=
  .next (scalar s t th (.nopInstruction t th) pcNext id)

/-- HALT: the thread enters HALT (R155, R188, R192). -/
def execHalt (t th : Nat) (s : State) : Res :=
  .next (scalar s t th (.halt t th) pcNext fun c => { c with st := .halt })

/-- RDTR: a word of the tile's own register space, counters as they stood at the end of the previous cycle (R189). -/
def execRdtr (t th : Nat) (sd sa : BitVec 4) (imm : Word) (s : State) : Res :=
  .next (issued s t th (.rdtr t th sd sa imm) fun s =>
    let c := s.ctx t th
    let o := (reg c sa + imm).toNat
    if !pcOk (pcNext c) || o % 4 != 0 || o ≥ 0x10000 then issueFault s t th 2
    else
      let v := tileWord (s.modTile t fun x => { x with ec := x.ecPrev }) t o
      issueOk s t th fun c => { setReg c sd v with pc := pcNext c })

/-- The value of an RDSYS code (R189). -/
def sysValue (s : State) (t th : Nat) (imm : Word) : Option Word :=
  match imm.toNat with
  | 0 => some (BitVec.ofNat 32 t)
  | 1 => some (BitVec.ofNat 32 ((s.tile t).gang.getD 0))
  | 2 => some (BitVec.ofNat 32 s.self)
  | 3 => some (fld s.stg.step 0 32)
  | 4 => some (fld s.stg.step 32 32)
  | 5 => some (BitVec.ofNat 32 th)
  | 6 => some ((s.tile t).tset.setWidth 32)
  | _ => none

/-- RDSYS: a system value (R189); a reserved code faults (R206). -/
def execRdsys (t th : Nat) (sd : BitVec 4) (imm : Word) (s : State) : Res :=
  .next (issued s t th (.rdsys t th sd imm) fun s =>
    match sysValue s t th imm with
    | none => issueFault s t th 1
    | some v =>
      let c := s.ctx t th
      if pcOk (pcNext c) then issueOk s t th fun c => { setReg c sd v with pc := pcNext c } else issueFault s t th 2)

/-- WAIT: the thread waits on EC[CNT] with target S[SA] + IMM (R165, R190). -/
def execWait (t th : Nat) (sa : BitVec 4) (cnt : Byte) (imm : Word) (s : State) : Res :=
  .next (scalar s t th (.wait t th sa cnt imm) pcNext fun c =>
    { c with wtarget := reg c sa + imm, wcnt := cnt, waiting := true })

/-- SIGNAL: EC[CNT] += AMT at the end of the issue cycle; AMT = 0 is reserved (R190, R206). -/
def execSignal (t th : Nat) (cnt amt : Byte) (s : State) : Res :=
  .next (issued s t th (.signal t th cnt amt) fun s =>
    if amt == 0 then issueFault s t th 1
    else if !pcOk (pcNext (s.ctx t th)) then issueFault s t th 2
    else
      let s := issueOk s t th fun c => { c with pc := pcNext c }
      signalLocal s (s.tile t).gang t cnt.toNat amt.toNat)

/-- The open press interval of a tile closes with counter and round, and the next one opens (R102, R104, R191). -/
def closeInterval (x : Tile) (cnt : Byte) (round cyc : Nat) : Tile :=
  let n := (x.press.getLast?.map (·.id + 1)).getD 0
  let close := fun (v : Interval) => if v.closed then v else { v with closed := true, cnt := cnt, round := round, closedAt := cyc }
  { x with press := x.press.map close ++ [({ id := n } : Interval)] }

/-- PRESS_POINT (R191). -/
def execPressPoint (t th : Nat) (cnt : Byte) (round : BitVec 3) (s : State) : Res :=
  .next (issued s t th (.pressPoint t th cnt round) fun s =>
    if !pcOk (pcNext (s.ctx t th)) then issueFault s t th 2
    else
      let s := issueOk s t th fun c => { c with pc := pcNext c }
      s.modTile t fun x => closeInterval x cnt round.toNat s.clk.cycle)

/-- Another thread of the gang stands at a different mark (R192). -/
def markDiffers (s : State) (g : Option Nat) (no : Word) (tset : BitVec 2) : Bool :=
  s.tiles.any fun e => e.2.gang == g &&
    e.2.threads.any fun c => c.2.st == .seam && !(c.2.markNo == no && c.2.markSet == tset)

/-- SEAM: the thread stands at mark SEAMNO with table set TSET, its PC past the mark (R170, R188, R192). -/
def execSeam (t th : Nat) (no : Word) (tset : BitVec 2) (s : State) : Res :=
  .next (issued s t th (.seam t th no tset) fun s =>
    if !pcOk (pcNext (s.ctx t th)) then issueFault s t th 2
    else if markDiffers s (s.tile t).gang no tset then slotFault s t (some th) 4 0xFF s.slotN 0
    else issueOk s t th fun c => { c with pc := pcNext c, st := .seam, markNo := no, markSet := tset })

end Sys2Proof.Machine
end

