-- ==== Sys2Proof/Machine/Num.lean ====
section
/-! DEFINITION. Exact numbers with signed zeros, infinities and NaN; element grids, rounding and the plain and A36
layouts (R31 to R35, R52 to R54, R57, R72). -/

namespace Sys2Proof.Machine

/-- A value: finite with sign and magnitude, infinite, or NaN. -/
inductive Num where
  | fin (neg : Bool) (m : Rat)
  | inf (neg : Bool)
  | nan
  deriving DecidableEq, Repr

def Num.zero : Num := .fin false 0
def Num.one : Num := .fin false 1
def Num.isNan (x : Num) : Bool := x == .nan
def Num.isFin : Num → Bool
  | .fin _ _ => true
  | _ => false
def Num.isInf : Num → Bool
  | .inf _ => true
  | _ => false
def Num.isZero : Num → Bool
  | .fin _ m => m == 0
  | _ => false
/-- Sign bit; a NaN is unsigned. -/
def Num.sgn : Num → Bool
  | .fin n _ => n
  | .inf n => n
  | .nan => false
def Num.neg : Num → Num
  | .fin n m => .fin (!n) m
  | .inf n => .inf (!n)
  | .nan => .nan
def Num.abs : Num → Num
  | .fin _ m => .fin false m
  | .inf _ => .inf false
  | .nan => .nan
/-- Magnitude of a finite value, 0 otherwise. -/
def Num.mag : Num → Rat
  | .fin _ m => m
  | _ => 0
/-- Signed value of a finite value. -/
def Num.val : Num → Rat
  | .fin n m => if n then -m else m
  | _ => 0
def Num.ofRat (q : Rat) : Num := .fin (q < 0) |q|

/-- 2^e. -/
def pow2 : Int → Rat
  | .ofNat n => ((2 ^ n : Nat) : Rat)
  | .negSucc n => 1 / ((2 ^ (n + 1) : Nat) : Rat)

/-- floor(log2 q) of a positive q. -/
def ilog2 (q : Rat) : Int :=
  let e : Int := (Nat.log2 q.num.natAbs : Int) - (Nat.log2 q.den : Int)
  if pow2 e ≤ q then e else e - 1

/-- The rounding modes of KFMT.RMODE; a stochastic one carries n and the n random bits (R42, R54). -/
inductive RMode where
  | rne
  | rtz
  | sr (n r : Nat)
  deriving DecidableEq, Repr

/-- A grid: fraction bits, exponent of the smallest binade, largest finite magnitude (R31 to R35, R61). -/
structure Grid where
  fb : Nat
  emin : Int
  max : Rat

/-- Grid of an element type code (R31). -/
def gridOf (t : Nat) : Grid :=
  match t with
  | 0 => ⟨0, 0, 1⟩
  | 1 => ⟨1, 0, 3 / 2⟩
  | 2 => ⟨1, 0, 6⟩
  | 3 => ⟨2, 2, 7⟩
  | 4 => ⟨2, -2, 28⟩
  | 5 => ⟨3, -6, 448⟩
  | 8 => ⟨7, -126, (2 - pow2 (-7)) * pow2 127⟩
  | 9 => ⟨10, -14, 65504⟩
  | _ => ⟨23, -126, (2 - pow2 (-23)) * pow2 127⟩

/-- Grid of an MX element format (R61; MXINT8's largest magnitude is 127/64, log 19). -/
def mxGrid (m : Nat) : Grid :=
  match m with
  | 1 => ⟨1, 0, 6⟩
  | 2 => ⟨2, -2, 28⟩
  | 3 => ⟨3, 0, 15 / 2⟩
  | 4 => ⟨3, -6, 448⟩
  | 5 => ⟨2, -14, 57344⟩
  | _ => ⟨6, 0, 127 / 64⟩

/-- Step between neighbours at a magnitude, with unbounded exponent upward. -/
def gridStep (g : Grid) (m : Rat) : Rat :=
  pow2 ((if m = 0 then g.emin else max (ilog2 m) g.emin) - g.fb)

/-- A magnitude rounded to the grid with unbounded exponent (R53, R54). -/
def roundMag (g : Grid) (mode : RMode) (m : Rat) : Rat :=
  let st := gridStep g m
  let k := (m / st).floor
  let lo := (k : Rat) * st
  if lo = m then m
  else
    let fr := m / st - (k : Rat)
    let up := match mode with
      | .rne => decide (fr > 1 / 2) || (decide (fr = 1 / 2) && decide (k % 2 = 1))
      | .rtz => false
      | .sr n r => decide (2 ^ n ≤ (fr * ((2 ^ n : Nat) : Rat)).floor.toNat + r)
    if up then lo + st else lo

/-- Round to nearest even as pipeline and bank additions do (R129, R131, R153): a magnitude beyond the largest finite
one becomes infinite (log 20). -/
def roundIeee (t : Nat) : Num → Num
  | .fin n m =>
    let r := roundMag (gridOf t) .rne m
    if (gridOf t).max < r then .inf n else .fin n r
  | x => x

/-- round_a36 (R72). -/
def roundA36 : Num → Num
  | .fin n m =>
    let r := roundMag ⟨25, -510, 0⟩ .rne m
    if pow2 512 ≤ r then .inf n else .fin n r
  | x => x

/-- Exact sum with the rules of R72. -/
def addX (a b : Num) : Num :=
  match a, b with
  | .nan, _ => .nan
  | _, .nan => .nan
  | .inf n, .inf k => if n == k then .inf n else .nan
  | .inf n, _ => .inf n
  | _, .inf n => .inf n
  | .fin n x, .fin k y =>
    if x = 0 ∧ y = 0 then .fin (n && k) 0
    else Num.ofRat (Num.val (.fin n x) + Num.val (.fin k y))

/-- Exact product with the rules of R72. -/
def mulX (a b : Num) : Num :=
  match a, b with
  | .nan, _ => .nan
  | _, .nan => .nan
  | .fin n x, .fin k y => .fin (n ^^ k) (x * y)
  | .inf n, .inf k => .inf (n ^^ k)
  | .inf n, .fin k y => if y = 0 then .nan else .inf (n ^^ k)
  | .fin n x, .inf k => if x = 0 then .nan else .inf (n ^^ k)

/-- Exact quotient with the special values of RECIP (R130). -/
def divX (a b : Num) : Num :=
  match a, b with
  | .nan, _ => .nan
  | _, .nan => .nan
  | .inf _, .inf _ => .nan
  | .inf n, .fin k _ => .inf (n ^^ k)
  | .fin n _, .inf k => .fin (n ^^ k) 0
  | .fin n x, .fin k y => if y = 0 then (if x = 0 then .nan else .inf (n ^^ k)) else .fin (n ^^ k) (x / y)

/-- Order of two values, −0 below +0 (R130 MAX and MIN); false where either is NaN. -/
def ltX (a b : Num) : Bool :=
  match a, b with
  | .nan, _ => false
  | _, .nan => false
  | .inf n, .inf k => n && !k
  | .inf n, _ => n
  | _, .inf k => !k
  | .fin n x, .fin k y =>
    if x = 0 ∧ y = 0 then n && !k else decide (Num.val (.fin n x) < Num.val (.fin k y))

/-- Plain comparison, zeros equal. -/
def ltVal (a b : Num) : Bool := if a.isZero && b.isZero then false else ltX a b

/-- The value of an IEEE-like layout with `eb` exponent and `fb` fraction bits (R34, R35). -/
def ofLayout (eb fb : Nat) (x : Nat) : Num :=
  let s := x / 2 ^ (eb + fb) % 2 == 1
  let e := x / 2 ^ fb % 2 ^ eb
  let f := x % 2 ^ fb
  let bias : Int := (2 ^ (eb - 1) : Nat) - 1
  if e = 2 ^ eb - 1 then (if f = 0 then .inf s else .nan)
  else if e = 0 then .fin s ((f : Rat) * pow2 (1 - bias - fb))
  else .fin s (((2 ^ fb + f : Nat) : Rat) * pow2 (e - bias - fb))

/-- The code of a magnitude on a grid (exponent and fraction fields run on). -/
def codeOf (g : Grid) (m : Rat) : Nat :=
  if m = 0 then 0
  else
    let e := max (ilog2 m) g.emin
    ((e - g.emin) * (2 ^ g.fb : Nat) + (m / pow2 (e - g.fb)).floor).toNat

/-- The bits of a representable value in an IEEE-like layout; NaN is canonical (R34, R35). -/
def toLayout (eb fb : Nat) (x : Num) : Nat :=
  let bias : Int := (2 ^ (eb - 1) : Nat) - 1
  match x with
  | .nan => (2 ^ eb - 1) * 2 ^ fb + 2 ^ (fb - 1)
  | .inf n => n.toNat * 2 ^ (eb + fb) + (2 ^ eb - 1) * 2 ^ fb
  | .fin n m => n.toNat * 2 ^ (eb + fb) + codeOf ⟨fb, 1 - bias, 0⟩ m

/-- Layouts of B16, H16 and S32 by type code, and of A36. -/
def ofPlain (t x : Nat) : Num :=
  match t with
  | 8 => ofLayout 8 7 x
  | 9 => ofLayout 5 10 x
  | _ => ofLayout 8 23 x
def toPlain (t : Nat) (x : Num) : Nat :=
  match t with
  | 8 => toLayout 8 7 x
  | 9 => toLayout 5 10 x
  | _ => toLayout 8 23 x
def ofA36 (x : A36) : Num := ofLayout 10 25 x.toNat
def toA36 (x : Num) : A36 := BitVec.ofNat 36 (toLayout 10 25 x)

/-- rotl of R57. -/
def rotl (x : Word) (r : Nat) : Word := (x <<< r) ||| (x >>> (32 - r))

/-- The mangle generator (R57). -/
def mangle (seed : DWord) (step : Word) (tensor : BitVec 20) (index : BitVec 44) : Word :=
  let ka := fld seed 0 32 ^^^ step
  let kb : Word := fld seed 32 32
  let x0 : Word := fld index 0 32
  let x1 : Word := (tensor.setWidth 32 <<< 12) ||| (fld index 32 12 : BitVec 12).setWidth 32
  let round := fun (p : Word × Word) (ir : Nat × Nat) =>
    let x1 := p.2 ^^^ kb
    let x0 := p.1 + x1 + ka + BitVec.ofNat 32 (ir.1 * 0x9E3779B9)
    (x0, rotl x1 ir.2 ^^^ x0)
  let r := [(0, 7), (1, 16), (2, 11), (3, 24)].foldl round (x0, x1)
  r.1 + r.2

end Sys2Proof.Machine
end

