-- ==== Sys2Proof/Machine/Transc.lean ====
section
/-! DEFINITION. The transcendental functions of R130 to far beyond S32's precision, in fixed point, and the free function values
held to the error bounds the rule states for them (log 9). -/

namespace Sys2Proof.Machine

/-! ## Fixed point with 192 fraction bits -/

def fxOne : Int := 2 ^ 192
def fxMul (a b : Int) : Int := a * b / fxOne
def fxOf (x : Rat) : Int := x.num * fxOne / x.den
def fxRat (x : Int) : Rat := (x : Rat) / (fxOne : Rat)

/-- 1/q + s/(3q³) + s²/(5q⁵) + …, s = 1 or −1: the inverse hyperbolic or circular tangent of 1/q. -/
def fxAtanInv (q : Nat) (s : Int) : Int :=
  ((List.range 70).map fun (i : Nat) => s ^ i * (fxOne / ((2 * i + 1 : Nat) * (q : Int) ^ (2 * i + 1)))).sum

def fxLn2 : Int := 2 * fxAtanInv 3 1
def fxPi : Int := 16 * fxAtanInv 5 (-1) - 4 * fxAtanInv 239 (-1)

/-- e^r for |r| up to 128. -/
def expRat (r : Rat) : Rat :=
  let x := fxOf r
  let k := x / fxLn2
  let t := x - k * fxLn2
  pow2 k * fxRat ((List.range 50).foldr (fun (i : Nat) a => fxOne + fxMul t a / (i + 1 : Nat)) fxOne)

/-- ln m for m > 0. -/
def lnRat (m : Rat) : Rat :=
  let e := ilog2 m
  let m := m / pow2 e
  let z := fxOf ((m - 1) / (m + 1))
  let z2 := fxMul z z
  fxRat (e * fxLn2 + 2 * fxMul z ((List.range 70).foldr (fun (i : Nat) a => fxOne / (2 * i + 1 : Nat) + fxMul z2 a) 0))

/-- The series 1 − x²/((c+1)(c+2)) + …, c = 0 for the cosine and 1 for the sine over its argument. -/
def trigSeries (c : Nat) (x2 : Int) : Int :=
  (List.range 40).foldr (fun (i : Nat) a => fxOne - fxMul x2 a / ((2 * i + c + 1) * (2 * i + c + 2) : Nat)) fxOne

/-- sin r and cos r. -/
def sinRat (r : Rat) : Rat := let t := fxOf r % (2 * fxPi); fxRat (fxMul t (trigSeries 1 (fxMul t t)))
def cosRat (r : Rat) : Rat := let t := fxOf r % (2 * fxPi); fxRat (trigSeries 0 (fxMul t t))

/-- Integer square root by bits from bit `b` − 1 down. -/
def isqrt : Nat → Nat → Nat → Nat
  | 0, _, r => r
  | b + 1, n, r => isqrt b n (if (r + 2 ^ b) * (r + 2 ^ b) ≤ n then r + 2 ^ b else r)

/-- √m for m > 0. -/
def sqrtRat (m : Rat) : Rat :=
  let e := ilog2 m / 2
  let q := m / (pow2 e * pow2 e)
  fxRat (isqrt 195 (q * ((fxOne * fxOne : Int) : Rat)).floor.toNat 0 : Int) * pow2 e

/-- r × Φ(r) for |r| < 8: Φ(r) = 1/2 + φ(r) × (r + r³/3 + r⁵/15 + …). -/
def geluRat (r : Rat) : Rat :=
  let x := fxOf r
  let x2 := fxMul x x
  let s := fxMul x ((List.range 250).foldr (fun (i : Nat) a => fxOne + fxMul x2 a / (2 * i + 3 : Nat)) fxOne)
  let phi := expRat (-(r * r) / 2) / sqrtRat (fxRat (2 * fxPi))
  r * (1 / 2 + phi * fxRat s)

/-! ## Values held to their bounds -/

/-- The fixed function of a transcendental step where the manual gives bounds and no value (log 9). -/
def transcFree (opc : Nat) (r : Num) : Num :=
  ofPlain 10 (Config.transc (BitVec.ofNat 6 opc) (BitVec.ofNat 32 (toPlain 10 r))).toNat

/-- A fixed result within `n` ulp of an exact value: the candidate where it is within, else the rounded value. -/
def within (n : Nat) (exact cand : Num) : Num :=
  if cand.isFin && decide (|cand.val - exact.val| ≤ (n : Rat) * gridStep (gridOf 10) exact.mag) then cand
  else roundIeee 10 exact

/-- The free value of a step, within `n` ulp or `a` absolute, whichever is larger, of its function's value `y`, which is known to
a relative error of 2^-60 and, where `a` is not 0, to an absolute one of 2^-40; else that value rounded. -/
def heldTo (opc : Nat) (r : Num) (n : Nat) (a y : Rat) : Num :=
  let c := transcFree opc r
  let slack := |y| * pow2 (-60) + (if a = 0 then 0 else pow2 (-40))
  if c.isFin && decide (|c.val - y| ≤ max ((n : Rat) * gridStep (gridOf 10) |y|) a + slack) then c
  else roundIeee 10 (Num.ofRat y)

/-- The bounded steps at a finite operand, special values apart (R130). -/
def boundedStep (opc : Nat) (r : Num) : Num :=
  let x := r.val
  let big := decide (64 < |x|)
  match opc with
  | 0x21 => heldTo opc r 1 0 (1 / sqrtRat x)
  | 0x23 => if 128 < x then .inf false else heldTo opc r 2 0 (if x < -128 then 0 else expRat x)
  | 0x24 => if 130 < x then .inf false
      else heldTo opc r 2 0 (if x < -160 then 0 else pow2 x.floor * expRat ((x - x.floor) * fxRat fxLn2))
  | 0x25 => heldTo opc r 2 (pow2 (-23)) (lnRat x)
  | 0x26 => heldTo opc r 2 (pow2 (-23)) (lnRat x / fxRat fxLn2)
  | 0x27 =>
    let e := if big then 0 else expRat (-2 * |x|)
    let y := (1 - e) / (1 + e)
    heldTo opc r 3 (pow2 (-23)) (if x < 0 then -y else y)
  | 0x28 => heldTo opc r 3 (pow2 (-23)) (if big then (if x < 0 then 0 else 1) else 1 / (1 + expRat (-x)))
  | 0x29 => heldTo opc r 4 (pow2 (-22)) (if 8 ≤ |x| then (if x < 0 then 0 else x) else geluRat x)
  | 0x2A => heldTo opc r 0 (pow2 (-22)) (sinRat x)
  | _ => heldTo opc r 0 (pow2 (-22)) (cosRat x)

end Sys2Proof.Machine
end

