-- ==== Sys2Proof/Machine/Krebo.lean ====
section
/-! DEFINITION. Format words, block geometry, decoding, the encoder, conversions with their statistics, and MX import and
export (R36 to R64, R197). -/

namespace Sys2Proof.Machine

/-! ## The format word (R42, R43) -/

def kEtype (k : Word) : Nat := fldN k 0 4
def kBshape (k : Word) : Nat := fldN k 4 3
def kBdir (k : Word) : Bool := bitB k 7
def kPcap (k : Word) : Nat := fldN k 8 3
def kPratio (k : Word) : Nat := fldN k 12 4
def kRmode (k : Word) : Nat := fldN k 16 2
def kSrbits (k : Word) : Nat := fldN k 18 2
def kMx (k : Word) : Nat := fldN k 20 4

def isNarrowType (t : Nat) : Bool := t ≤ 5
def isPlainType (t : Nat) : Bool := t == 8 || t == 9 || t == 10
/-- The tensor is of a narrow Krebo type. -/
def kNarrow (k : Word) : Bool := kMx k == 0 && isNarrowType (kEtype k)

/-- KFMT holds no reserved encoding and keeps R43 and R42; its reserved fields are ignored (R9). -/
def kfmtOk (k : Word) : Bool :=
  (isNarrowType (kEtype k) || isPlainType (kEtype k)) && kBshape k != 7 && kPcap k ≤ 5 && kRmode k != 3 &&
  kSrbits k != 3 && kMx k ≤ 6 &&
  !((kBshape k == 5 || kBshape k == 6) && kBdir k) &&
  (if kMx k != 0 then kBshape k == 0 && kPcap k == 0 && kPratio k == 0
   else isNarrowType (kEtype k) || (kBshape k == 0 && !kBdir k && kPcap k == 0 && kPratio k == 0))

/-- Pool capacity C (R42). -/
def capOf (k : Word) : Nat :=
  if !kNarrow k then 0
  else match kPcap k with
    | 0 => 0
    | 1 => 15
    | 2 => 31
    | 3 => 63
    | 4 => 127
    | _ => 255

/-- Bits of one element (R31, R61). -/
def elemBits (k : Word) : Nat :=
  if kMx k != 0 then (match kMx k with
    | 1 => 4
    | 2 => 6
    | 3 => 6
    | _ => 8)
  else match kEtype k with
    | 0 => 2
    | 1 => 3
    | 2 => 4
    | 3 => 4
    | 4 => 6
    | 5 => 8
    | 8 => 16
    | 9 => 16
    | _ => 32

/-- Rows and columns of one block (R37, R62); 1 × 1 for a plain type. -/
def blockDims (k : Word) : Nat × Nat :=
  let lin := fun n => if kBdir k then (n, 1) else (1, n)
  if kMx k != 0 then lin 32
  else if !kNarrow k then (1, 1)
  else match kBshape k with
    | 0 => lin 8
    | 1 => lin 16
    | 2 => lin 32
    | 3 => lin 64
    | 4 => lin 128
    | 5 => (4, 4)
    | _ => (8, 8)

/-- A tensor in a memory: base address, format, logical shape, its memory of `lim` bytes. -/
structure Tensor where
  mem : SMap Byte
  addr : Nat
  k : Word
  rows : Nat
  cols : Nat

namespace Tensor

def bRows (x : Tensor) : Nat := (blockDims x.k).1
def bCols (x : Tensor) : Nat := (blockDims x.k).2
/-- Blocks across a row of the grid, blocks in all, elements of a block. -/
def gCols (x : Tensor) : Nat := cdiv x.cols x.bCols
def nBlocks (x : Tensor) : Nat := cdiv x.rows x.bRows * x.gCols
def nElems (x : Tensor) : Nat := x.bRows * x.bCols
/-- Bytes of a block's bit string (R39). -/
def blockBytes (x : Tensor) : Nat := x.nElems * elemBits x.k / 8
/-- Ends and starts of the element, scale and patch regions (R39, R62, R197). -/
def elemEnd (x : Tensor) : Nat :=
  x.addr + (if kNarrow x.k || kMx x.k != 0 then x.nBlocks * x.blockBytes else x.rows * x.cols * elemBits x.k / 8)
def scaleAddr (x : Tensor) : Nat := roundUp x.elemEnd 64
def scaleEnd (x : Tensor) : Nat := x.scaleAddr + x.nBlocks * (if kMx x.k != 0 then 1 else 2)
def poolAddr (x : Tensor) : Nat := roundUp x.scaleEnd 64
def nGroups (x : Tensor) : Nat := cdiv (x.nBlocks * x.nElems) 4096
def poolEnd (x : Tensor) : Nat := x.poolAddr + x.nGroups * (capOf x.k + 1) * 4
/-- Blocks of a patch group (R40). -/
def groupBlocks (x : Tensor) : Nat := 4096 / x.nElems

/-- The regions [from, to) of the tensor (R197). -/
def regions (x : Tensor) : List (Nat × Nat) :=
  if kNarrow x.k || kMx x.k != 0 then
    [(x.addr, x.elemEnd), (x.scaleAddr, x.scaleEnd)] ++ (if capOf x.k != 0 then [(x.poolAddr, x.poolEnd)] else [])
  else [(x.addr, x.elemEnd)]

/-- Address aligned, every region below the memory's end, and at most 2^44 elements (R197, R56). -/
def ok (x : Tensor) (lim : Nat) : Bool :=
  x.addr % 64 == 0 && x.regions.all (fun r => r.2 ≤ lim) && x.rows * x.cols ≤ 2 ^ 44

/-- Block and position within the block of element (r, c) (R37). -/
def blockOf (x : Tensor) (r c : Nat) : Nat × Nat :=
  ((r / x.bRows) * x.gCols + c / x.bCols, (r % x.bRows) * x.bCols + c % x.bCols)

/-- Row and column of position `i` of block `b`; none for padding (R38). -/
def posOf (x : Tensor) (b i : Nat) : Option (Nat × Nat) :=
  let r := b / x.gCols * x.bRows + i / x.bCols
  let c := b % x.gCols * x.bCols + i % x.bCols
  if r < x.rows && c < x.cols then some (r, c) else none

/-- Element code of position `i` of block `b` (R39). -/
def code (x : Tensor) (b i : Nat) : Nat :=
  let w := elemBits x.k
  SMap.getNat x.mem (x.addr + b * x.blockBytes + i * w / 8) 2 / 2 ^ (i * w % 8) % 2 ^ w

/-- Scale word of a block (R36). -/
def scaleWord (x : Tensor) (b : Nat) : BitVec 16 := BitVec.ofNat 16 (SMap.getNat x.mem (x.scaleAddr + 2 * b) 2)
def sExp (w : BitVec 16) : Nat := fldN w 8 8
def sFine (w : BitVec 16) : Nat := fldN w 5 3
def sPcount (w : BitVec 16) : Nat := fldN w 2 3
def sFlags (w : BitVec 16) : Nat := fldN w 0 2

/-- Header entry count of a group, and the count taken (R40, R45). -/
def headCount (x : Tensor) (g : Nat) : Nat :=
  if capOf x.k = 0 then 0 else SMap.getNat x.mem (x.poolAddr + g * (capOf x.k + 1) * 4) 1
def avail (x : Tensor) (g : Nat) : Nat := min (x.headCount g) (capOf x.k)
/-- Patch entry `i` of a group (R41). -/
def entry (x : Tensor) (g i : Nat) : Word :=
  BitVec.ofNat 32 (SMap.getNat x.mem (x.poolAddr + g * (capOf x.k + 1) * 4 + 4 * (i + 1)) 4)
/-- Sum of PCOUNT over the blocks of the group before block `b` (R40). -/
def entryBase (x : Tensor) (b : Nat) : Nat :=
  let b0 := b / x.groupBlocks * x.groupBlocks
  ((List.range (b - b0)).map fun j => sPcount (x.scaleWord (b0 + j))).sum

end Tensor

/-- Magnitude of a run-on exponent and fraction code on a grid (R33). -/
def decodeMag (g : Grid) (c : Nat) : Rat :=
  if c < 2 ^ g.fb then (c : Rat) * pow2 (g.emin - g.fb)
  else ((2 ^ g.fb + c % 2 ^ g.fb : Nat) : Rat) * pow2 (g.emin + (c / 2 ^ g.fb - 1 : Nat) - g.fb)

/-- Value of a narrow element code; none for a patch marker (R32, R33). -/
def elemVal (t c : Nat) : Option Num :=
  match t with
  | 0 => if c = 2 then none else some (if c = 3 then .fin true 1 else .fin false (c : Rat))
  | 3 => if c = 8 then none else some (if c < 8 then .fin false (c : Rat) else .fin true ((16 - c : Nat) : Rat))
  | 5 => if c = 0xFF then none else if c = 0x7F then some .nan else if c = 0x80 then some Num.zero
         else some (.fin (c ≥ 128) (decodeMag (gridOf 5) (c % 128)))
  | _ =>
    let h := match t with
      | 1 => 4
      | 2 => 8
      | _ => 32
    if c = h then none else some (.fin (c ≥ h) (decodeMag (gridOf t) (c % h)))

/-- The block scale 2^(e − 127) × (1 + f/8) (R36). -/
def scaleOf (e f : Nat) : Rat := pow2 ((e : Int) - 127) * ((8 + f : Nat) : Rat) / 8

/-- Value times a positive scale. -/
def scaleNum (x : Num) (s : Rat) : Num :=
  match x with
  | .fin n m => .fin n (m * s)
  | y => y

/-- One decoded element: full value, main-path value (R71), and its patch value where it is a valid marker. -/
structure DElem where
  full : Num
  main : Num
  patch : Option Num
  deriving DecidableEq, Repr

namespace Tensor

/-- Is position `i` of block `b` a patch marker of a logical element? A marker code at a padding position is no marker and
takes no entry, while R45's test of a zero block's codes looks at padding codes too (DESIGN CHOICE: R38 says only that
padding is stored as code 0; log 79). -/
def isMarker (x : Tensor) (b i : Nat) : Bool :=
  (x.posOf b i).isSome && (elemVal (kEtype x.k) (x.code b i)).isNone

/-- Element (r, c) decoded (R34, R44, R45, R71). A decoded narrow element is never −0 (R33, R52), a patch of 0x8000 included. -/
def elem (x : Tensor) (r c : Nat) : DElem :=
  let t := kEtype x.k
  if !kNarrow x.k then
    let n := elemBits x.k / 8
    let v := ofPlain t (SMap.getNat x.mem (x.addr + (r * x.cols + c) * n) n)
    ⟨v, v, none⟩
  else
    let (b, i) := x.blockOf r c
    let w := x.scaleWord b
    if sFlags w = 1 then ⟨Num.zero, Num.zero, none⟩
    else
      match elemVal t (x.code b i) with
      | some v =>
        let v := if sExp w = 0xFF then .nan else scaleNum v (scaleOf (sExp w) (sFine w))
        ⟨v, v, none⟩
      | none =>
        let kk := ((List.range i).filter (x.isMarker b)).length
        let idx := x.entryBase b + kk
        let g := b / x.groupBlocks
        let e := x.entry g idx
        if kk < sPcount w && idx < x.avail g && fldN e 0 12 == b % x.groupBlocks * x.nElems + i then
          let v := ofPlain 8 (fldN e 16 16)
          ⟨if v.isZero then Num.zero else v, Num.zero, some v⟩
        else ⟨.nan, .nan, none⟩

/-- A predicate on elements at position `i` of block `b`; a padding position has no element. -/
def atPos (x : Tensor) (p : Nat → Nat → Bool) (b i : Nat) : Bool := (x.posOf b i).any fun rc => p rc.1 rc.2

/-- Some element of block `b` satisfies `p`. -/
def anyIn (x : Tensor) (p : Nat → Nat → Bool) (b : Nat) : Bool := (List.range x.nElems).any fun i => x.atPos p b i

/-- Format faults of a block and NaN elements they give (R45): a marker's fault where its element is in `keep`, the block's own
where one of its elements is; NaN elements among those of `cnt`. -/
def blockFaults (x : Tensor) (keep cnt : Nat → Nat → Bool) (b : Nat) : Nat × Nat :=
  let w := x.scaleWord b
  let live := (List.range x.nElems).filter fun i => (x.posOf b i).isSome
  let own := (x.anyIn keep b).toNat
  if sFlags w = 1 then
    (if sPcount w != 0 || (List.range x.nElems).any (fun i => x.code b i != 0) then own else 0, 0)
  else
    let g := b / x.groupBlocks
    let marks := live.filter (x.isMarker b)
    let bad := (List.range marks.length).map fun kk =>
      let i := marks.getD kk 0
      let idx := x.entryBase b + kk
      let e := x.entry g idx
      let f := (x.atPos keep b i).toNat
      let n := (x.atPos cnt b i).toNat
      if kk ≥ sPcount w then (f, n)
      else if idx ≥ x.avail g then (0, n)
      else if fldN e 0 12 != b % x.groupBlocks * x.nElems + i then (f, n)
      else ((0, 0) : Nat × Nat)
    let broken := sExp w == 0xFF
    let plain := (live.filter fun i => !x.isMarker b i && x.atPos cnt b i).length
    ((bad.map (·.1)).sum + (if broken then own else 0), (bad.map (·.2)).sum + (if broken then plain else 0))

/-- Faults of a patch group's header and entry counts (R45). -/
def groupFaults (x : Tensor) (g : Nat) : Nat :=
  let b0 := g * x.groupBlocks
  let n := min x.groupBlocks (x.nBlocks - b0)
  let total := ((List.range n).map fun j => sPcount (x.scaleWord (b0 + j))).sum
  (if x.headCount g > capOf x.k then 1 else 0) + (if total > x.avail g then 1 else 0)

/-- Some element of group `g` satisfies `p`. -/
def anyInGroup (x : Tensor) (p : Nat → Nat → Bool) (g : Nat) : Bool :=
  (List.range (min x.groupBlocks (x.nBlocks - g * x.groupBlocks))).any fun j => x.anyIn p (g * x.groupBlocks + j)

/-- Faults met in decoding the elements of `keep`, and the NaN elements of `cnt` they give; a plain tensor has none. -/
def faultsOf (x : Tensor) (keep cnt : Nat → Nat → Bool) : Nat × Nat :=
  if !kNarrow x.k then (0, 0)
  else
    let bs := (List.range x.nBlocks).map (x.blockFaults keep cnt)
    let gs := ((List.range x.nGroups).filter (x.anyInGroup keep)).map x.groupFaults
    ((bs.map (·.1)).sum + gs.sum, (bs.map (·.2)).sum)

/-- Faults and NaN elements of the whole tensor. -/
def faults (x : Tensor) : Nat × Nat := x.faultsOf (fun _ _ => true) fun _ _ => true

end Tensor

/-- KFS counts a tensor's format faults (R45, R59). -/
def Kfs.addFaults (k : Kfs) (f : Nat × Nat) : Kfs :=
  if f.1 = 0 then k
  else { k with fmtFault := true, nan := true, fmtCount := sat32 (k.fmtCount + f.1)
                nanCount := sat32 (k.nanCount + f.2) }

/-! ## Conversions (R52) and random bits (R55) -/

/-- Where random bits come from: the job seed, the step, the tensor id (R55). -/
structure Rand where
  seed : DWord
  step : Word
  tid : BitVec 20

/-- The rounding mode of a KFMT for the element of logical index `i` (R42, R54, R55). -/
def modeAt (k : Word) (rd : Rand) (i : Nat) : RMode :=
  match kRmode k with
  | 1 => .rtz
  | 2 =>
    let n := match kSrbits k with
      | 0 => 12
      | 1 => 8
      | _ => 16
    .sr n (mangle rd.seed rd.step rd.tid (BitVec.ofNat 44 i) >>> (32 - n)).toNat
  | _ => .rne

/-- A finite value on a grid, with the saturation and underflow counts of R52. -/
def cvtFin (g : Grid) (mode : RMode) (k : Kfs) (n : Bool) (m : Rat) : Num × Kfs :=
  if m = 0 then (.fin n 0, k)
  else
    let r := roundMag g mode m
    if g.max < r then (.fin n g.max, { k with sat := sat32 (k.sat + 1), ovf := true })
    else if r = 0 then (.fin n 0, { k with unf := sat32 (k.unf + 1) })
    else (.fin n r, k)

/-- Conversion into B16, H16 or S32 (R52). -/
def cvtPlain (t : Nat) (mode : RMode) (k : Kfs) (x : Num) : Num × Kfs :=
  match x with
  | .fin n m => cvtFin (gridOf t) mode k n m
  | .inf n => (.inf n, { k with ovf := true })
  | .nan => (.nan, { k with nanCount := sat32 (k.nanCount + 1), nan := true })

/-- Code of a rounded narrow value: zero is code 0 (R32, R33, R47). -/
def narrowCode (t : Nat) (x : Num) : Nat :=
  match x with
  | .fin n m =>
    if m = 0 then 0
    else match t with
      | 0 => if n then 3 else 1
      | 3 => if n then 16 - m.floor.toNat else m.floor.toNat
      | 1 => (if n then 4 else 0) + codeOf (gridOf 1) m
      | 2 => (if n then 8 else 0) + codeOf (gridOf 2) m
      | 4 => (if n then 32 else 0) + codeOf (gridOf 4) m
      | _ => (if n then 128 else 0) + codeOf (gridOf 5) m
  | _ => 0x7F

/-- Patch marker of a narrow type (R31). -/
def markerOf (t : Nat) : Nat :=
  match t with
  | 0 => 2
  | 1 => 4
  | 2 => 8
  | 3 => 8
  | 4 => 0x20
  | _ => 0xFF

/-- choose_scale (R46) in closed form: exponent, fine mantissa, saturated. -/
def chooseScale (a : Rat) (t : Nat) : Nat × Nat × Bool :=
  if a = 0 then (0x7F, 0, false)
  else
    let target := a / (gridOf t).max
    let e := ilog2 target + 127
    if e < 0 then (0, 0, false)
    else
      let f := ((target / pow2 (e - 127) - 1) * 8).ceil
      let (e, f) := if f = 8 then (e + 1, 0) else (e, f)
      if e > 254 then (0xFE, 7, true) else (e.toNat, f.toNat, false)

/-! ## The encoder (R46 to R51) -/

/-- A live element of a block: logical index, offset in the patch group, position in the block, value. -/
structure LiveEl where
  idx : Nat
  off : Nat
  pos : Nat
  v : Num

/-- Work of one block's outlier search: elements patched, room left, escalated. -/
structure Pick where
  patched : List Nat
  room : Nat
  esc : Bool

/-- The largest magnitude over the positions of `c` and the lowest position that has it. -/
def maxMag (v : Nat → Num) (c : List Nat) : Rat × Nat :=
  c.foldl (fun a i => if a.1 < (v i).mag then ((v i).mag, i) else a) (0, c.headD 0)

/-- The outlier loop of encode_block, `fuel` bounding its at most 7 picks (R46). -/
def pickOutliers (v : Nat → Num) (n t pratio : Nat) : Nat → Pick → Pick
  | 0, p => p
  | fuel + 1, p =>
    let c := (List.range n).filter fun i => (v i).isFin && !(v i).isZero && !p.patched.contains i
    if c.length < 2 then p
    else
      let (a1, i1) := maxMag v c
      let a2 := (maxMag v (c.filter (· != i1))).1
      let (e, f, _) := chooseScale a1 t
      let vanish := decide (roundMag (gridOf t) .rne (a2 / scaleOf e f) = 0)
      let steep := pratio != 0 && decide (((2 ^ pratio : Nat) : Rat) * a2 ≤ a1)
      if !vanish && !steep then p
      else if p.patched.length = 7 then p
      else if p.room = 0 then { p with esc := true }
      else pickOutliers v n t pratio fuel { p with patched := p.patched ++ [i1], room := p.room - 1 }

/-- What encode_block writes: codes by position, scale word, patch entries, room left, escalated. -/
structure BlockOut where
  codes : List (Nat × Nat)
  scale : BitVec 16
  entries : List Word
  room : Nat
  esc : Bool
  kfs : Kfs

/-- encode_block (R46): the live elements of one block. -/
def encodeBlock (els : List LiveEl) (k : Word) (rd : Rand) (room : Nat) (kfs : Kfs) : BlockOut :=
  let t := kEtype k
  let n := els.length
  let v := fun i => (els.getD i ⟨0, 0, 0, Num.zero⟩).v
  let el := fun i => els.getD i ⟨0, 0, 0, Num.zero⟩
  let special := fun i => (v i).isInf || ((v i).isNan && t != 5)
  let nans := ((List.range n).filter fun i => (v i).isNan).length
  let kfs := if nans = 0 then kfs else { kfs with nan := true, nanCount := sat32 (kfs.nanCount + nans) }
  let kfs := if (List.range n).any (fun i => (v i).isInf) then { kfs with ovf := true } else kfs
  let sp := (List.range n).filter special
  let take := if kPcap k = 0 then 0 else min 7 (min room sp.length)
  let lost := sp.drop take
  let p0 : Pick := ⟨sp.take take, room - take, !lost.isEmpty⟩
  let p := if kPcap k = 0 then p0 else pickOutliers v n t (kPratio k) 8 p0
  let rest := (List.range n).filter fun i => (v i).isFin && !p.patched.contains i
  let amax := (maxMag v rest).1
  if amax = 0 && p.patched.isEmpty && lost.isEmpty && nans = 0 then
    { codes := els.map fun e => (e.pos, 0), scale := 1, entries := [], room := p.room, esc := false,
      kfs := { kfs with zblk := sat32 (kfs.zblk + 1) } }
  else
    let (e, f, sat) := chooseScale amax t
    let sc := scaleOf e f
    let quant := fun (a : List (Nat × Nat) × Kfs) (i : Nat) =>
      let x := el i
      let (y, kf) := cvtFin (gridOf t) (modeAt k rd x.idx) a.2 x.v.sgn (x.v.mag / sc)
      (a.1 ++ [(x.pos, narrowCode t y)], kf)
    let (codes, kfs) := rest.foldl quant ([], kfs)
    let patched := p.patched.mergeSort (· ≤ ·)
    let patchB16 := fun (a : List Word × Kfs) (i : Nat) =>
      let x := el i
      let (y, kf) := match x.v with
        | .fin s m => cvtFin (gridOf 8) (modeAt k rd x.idx) a.2 s m
        | y => (y, a.2)
      (a.1 ++ [pack 32 [(0, 12, x.off), (16, 16, toPlain 8 y)]], kf)
    let (entries, kfs) := patched.foldl patchB16 ([], kfs)
    let codes := codes ++ (patched.map fun i => ((el i).pos, markerOf t)) ++ (lost.map fun i => ((el i).pos, 0)) ++
      (((List.range n).filter fun i => (v i).isNan && t == 5).map fun i => ((el i).pos, 0x7F))
    let flags := if p.esc then 3 else if sat then 2 else 0
    let kfs := { kfs with
      patch := sat32 (kfs.patch + patched.length)
      satblk := if flags = 2 then sat32 (kfs.satblk + 1) else kfs.satblk
      escblk := if flags = 3 then sat32 (kfs.escblk + 1) else kfs.escblk
      poolOvf := kfs.poolOvf || p.esc }
    { codes := codes, scale := pack 16 [(8, 8, e), (5, 3, f), (2, 3, patched.length), (0, 2, flags)],
      entries := entries, room := p.room, esc := p.esc, kfs := kfs }

/-- Bytes of a block's bit string from its codes (R39). -/
def blockBits (w bytes : Nat) (codes : List (Nat × Nat)) : List Byte :=
  leBytes bytes ((codes.map fun c => c.2 * 2 ^ (w * c.1)).sum)

/-- State of encoding a narrow tensor. -/
structure EncSt where
  mem : SMap Byte
  kfs : Kfs
  room : Nat
  used : List Word
  /-- blocks escalated so far (R50) -/
  esc : Nat

/-- One block of encode_group, and the pool written after the group's last block (R40, R46). -/
def encodeStep (x : Tensor) (rd : Rand) (val : Nat → Nat → Num) (a : EncSt) (b : Nat) : EncSt :=
  let cap := capOf x.k
  let first := b % x.groupBlocks = 0
  let room := if first then cap else a.room
  let used := if first then [] else a.used
  let els := (List.range x.nElems).filterMap fun i =>
    (x.posOf b i).map fun rc =>
      (⟨rc.1 * x.cols + rc.2, b % x.groupBlocks * x.nElems + i, i, val rc.1 rc.2⟩ : LiveEl)
  let o := encodeBlock els x.k rd room a.kfs
  let mem := SMap.setBytes a.mem (x.addr + b * x.blockBytes) (blockBits (elemBits x.k) x.blockBytes o.codes)
  let mem := SMap.setBytes mem (x.scaleAddr + 2 * b) (leBytes 2 o.scale.toNat)
  let used := used ++ o.entries
  let last := (b + 1) % x.groupBlocks = 0 || b + 1 = x.nBlocks
  let pool := x.poolAddr + b / x.groupBlocks * (cap + 1) * 4
  let mem := if last && cap != 0 then
      SMap.setBytes mem pool (leBytes 4 used.length ++ used.flatMap fun w => leBytes 4 w.toNat)
    else mem
  { mem := mem, kfs := o.kfs, room := o.room, used := used, esc := a.esc + o.esc.toNat }

/-! ## MX export and import (R61 to R64) -/

/-- emax of an MX element format (R64). -/
def mxEmax (m : Nat) : Int :=
  match m with
  | 1 => 2
  | 2 => 4
  | 3 => 2
  | 4 => 8
  | 5 => 15
  | _ => 0

/-- Value of an MX element code (R61; MX v1.0 layouts). An MX negative zero keeps its sign as a value, so that an import to
B16 writes −0 (DESIGN CHOICE: R63 turns it into code 0 for Krebo targets only, and R52's zero row does not name MX inputs;
log 79). -/
def mxVal (m c : Nat) : Num :=
  match m with
  | 6 => if c < 128 then .fin false ((c : Rat) / 64) else .fin true (((256 - c : Nat) : Rat) / 64)
  | 5 =>
    let mag := c % 128
    if mag = 0x7C then .inf (c ≥ 128) else if mag > 0x7C then .nan
    else .fin (c ≥ 128) (decodeMag (mxGrid 5) mag)
  | 4 => if c % 128 = 0x7F then .nan else .fin (c ≥ 128) (decodeMag (mxGrid 4) (c % 128))
  | 1 => .fin (c ≥ 8) (decodeMag (mxGrid 1) (c % 8))
  | _ => .fin (c ≥ 32) (decodeMag (mxGrid m) (c % 32))

/-- Code of a converted MX element (R64): a zero of either sign is code 0 (R52). -/
def mxCode (m : Nat) (x : Num) : Nat :=
  if x.isZero then 0 else
  match m, x with
  | 6, .fin n r => if n && r != 0 then 256 - (r * 64).floor.toNat else (r * 64).floor.toNat
  | 5, .inf n => (if n then 128 else 0) + 0x7C
  | 5, .nan => 0x7E
  | 4, .nan => 0x7F
  | 1, .fin n r => (if n then 8 else 0) + codeOf (mxGrid 1) r
  | 4, .fin n r => (if n then 128 else 0) + codeOf (mxGrid 4) r
  | 5, .fin n r => (if n then 128 else 0) + codeOf (mxGrid 5) r
  | _, .fin n r => (if n then 32 else 0) + codeOf (mxGrid m) r
  | _, _ => 0

/-- One block exported (R64): codes and scale byte. DESIGN CHOICES where R64 is silent (log 79): a NaN whose scale byte becomes
0xFF is written as element code 0; a block without a nonzero finite element that holds a NaN or an infinity has X = −127; an
infinity that becomes the largest finite element counts once in KFS_SAT_COUNT, beside setting OVF. -/
def mxBlock (els : List LiveEl) (k : Word) (rd : Rand) (kfs : Kfs) : List (Nat × Nat) × Nat × Kfs :=
  let m := kMx k
  let nans := (els.filter fun e => e.v.isNan).length
  let kfs := if nans = 0 then kfs else { kfs with nan := true, nanCount := sat32 (kfs.nanCount + nans) }
  let kfs := if els.any fun e => e.v.isInf then { kfs with ovf := true } else kfs
  if els.all (fun e => e.v.isZero) then (els.map fun e => (e.pos, 0), 0x7F, kfs)
  else
    let amax := els.foldl (fun a e => max a e.v.mag) 0
    let xx := if amax = 0 then -127 else max (-127) (min 127 (ilog2 amax - mxEmax m))
    let g := mxGrid m
    let one := fun (a : List (Nat × Nat) × Kfs) (e : LiveEl) =>
      match e.v with
      | .fin n q =>
        let (y, kf) := cvtFin g (modeAt k rd e.idx) a.2 n (q / pow2 xx)
        (a.1 ++ [(e.pos, mxCode m y)], kf)
      | .inf n =>
        if m = 5 then (a.1 ++ [(e.pos, mxCode 5 (.inf n))], a.2)
        else (a.1 ++ [(e.pos, mxCode m (.fin n g.max))], { a.2 with sat := sat32 (a.2.sat + 1) })
      | .nan => (a.1 ++ [(e.pos, if m = 4 || m = 5 then mxCode m .nan else 0)], a.2)
    let (codes, kfs) := els.foldl one ([], kfs)
    let sc := if nans != 0 && m != 4 && m != 5 then 0xFF else (xx + 127).toNat
    (codes, sc, kfs)

/-- One block of an MX tensor written. -/
def mxStep (x : Tensor) (rd : Rand) (val : Nat → Nat → Num) (a : EncSt) (b : Nat) : EncSt :=
  let els := (List.range 32).filterMap fun i =>
    (x.posOf b i).map fun rc => (⟨rc.1 * x.cols + rc.2, i, i, val rc.1 rc.2⟩ : LiveEl)
  let (codes, sc, kfs) := mxBlock els x.k rd a.kfs
  let mem := SMap.setBytes a.mem (x.addr + b * x.blockBytes) (blockBits (elemBits x.k) x.blockBytes codes)
  let mem := SMap.setBytes mem (x.scaleAddr + b) (leBytes 1 sc)
  { a with mem := mem, kfs := kfs }

/-- Element (r, c) of an MX source and whether its block's scale byte is 0xFF (R62, R63). -/
def Tensor.mxElem (x : Tensor) (r c : Nat) : Num × Bool :=
  let (b, i) := x.blockOf r c
  let s := SMap.getNat x.mem (x.scaleAddr + b) 1
  if s = 0xFF then (.nan, true)
  else (scaleNum (mxVal (kMx x.k) (x.code b i)) (pow2 ((s : Int) - 127)), false)

/-- The value of any source element, patches included. -/
def Tensor.value (x : Tensor) (r c : Nat) : Num :=
  if kMx x.k != 0 then (x.mxElem r c).1 else (x.elem r c).full

/-- The decoded source's format faults over the elements of `keep`, their NaN elements among those of `cnt`. -/
def Tensor.sourceFaults (x : Tensor) (keep cnt : Nat → Nat → Bool) : Nat × Nat :=
  if kMx x.k != 0 then (0, 0) else x.faultsOf keep cnt

/-- Padding of MX blocks with scale byte 0xFF that hold an element of `cnt`: R63 counts 32 NaNs for such a block. -/
def Tensor.mxPadding (x : Tensor) (cnt : Nat → Nat → Bool) : Nat :=
  if kMx x.k = 0 then 0
  else
    let ff := (List.range x.nBlocks).filter fun b =>
      SMap.getNat x.mem (x.scaleAddr + b) 1 == 0xFF && x.anyIn cnt b
    (ff.map fun b => ((List.range 32).filter fun i => (x.posOf b i).isNone).length).sum

/-- The Krebo or B16 type an MX format imports to (R61). -/
def mxTarget (m : Nat) : Nat :=
  match m with
  | 1 => 2
  | 2 => 4
  | 3 => 5
  | 4 => 5
  | _ => 8

/-- An MX source, a destination it may be imported to block for block (R63). -/
def mxImportOk (ks kd : Word) : Bool :=
  kMx kd == 0 && kEtype kd == mxTarget (kMx ks) &&
  (kEtype kd == 8 || (kBshape kd == 2 && kBdir kd == kBdir ks))

/-- One block of an import to a Krebo target, copied code for code (R63). A destination with a PCAP other than 0 is admitted, and its
pool headers and patch entries stand as they were (DESIGN CHOICE, log 79). -/
def importStep (src x : Tensor) (a : EncSt) (b : Nat) : EncSt :=
  let m := kMx src.k
  let t := kEtype x.k
  let s := SMap.getNat src.mem (src.scaleAddr + b) 1
  let live := (List.range 32).filter fun i => (x.posOf b i).isSome
  let one := fun i =>
    let c := src.code b i
    if s = 0xFF then (i, if t = 5 then 0x7F else 0)
    else match m with
      | 1 => (i, if c = 8 then 0 else c)
      | 2 => (i, if c = 0x20 then 0 else c)
      | 3 => (i, narrowCode 5 (mxVal 3 c))
      | _ => (i, if c = 0x80 then 0 else if c = 0xFF then 0x7F else c)
  let w : BitVec 16 := if s = 0xFF then pack 16 [(8, 8, 0x7F), (0, 2, if t = 5 then 0 else 3)] else pack 16 [(8, 8, s)]
  let mem := SMap.setBytes a.mem (x.addr + b * x.blockBytes)
    (blockBits (elemBits x.k) x.blockBytes (live.map one))
  let mem := SMap.setBytes mem (x.scaleAddr + 2 * b) (leBytes 2 w.toNat)
  let kfs := if s = 0xFF then
      { a.kfs with nan := true, nanCount := sat32 (a.kfs.nanCount + 32)
                   escblk := if t = 5 then a.kfs.escblk else sat32 (a.kfs.escblk + 1) }
    else a.kfs
  let kfs := if m = 4 && s != 0xFF then
      let n := (live.filter fun i => src.code b i % 128 = 0x7F).length
      if n = 0 then kfs else { kfs with nan := true, nanCount := sat32 (kfs.nanCount + n) }
    else kfs
  { a with mem := mem, kfs := kfs }

/-! ## Writing a tensor -/

/-- Result of writing a tensor: the memory, the statistics, and the number of blocks escalated (R50). -/
structure Wrote where
  mem : SMap Byte
  kfs : Kfs
  esc : Nat

/-- `val` written in the format of `x` (its `mem` is the memory written) (R46, R52, R64). -/
def writeTensor (x : Tensor) (rd : Rand) (kfs : Kfs) (val : Nat → Nat → Num) : Wrote :=
  if kMx x.k != 0 then
    let a := (List.range x.nBlocks).foldl (mxStep x rd val) ⟨x.mem, kfs, 0, [], 0⟩
    ⟨a.mem, a.kfs, 0⟩
  else if kNarrow x.k then
    let a := (List.range x.nBlocks).foldl (encodeStep x rd val) ⟨x.mem, kfs, 0, [], 0⟩
    ⟨a.mem, a.kfs, a.esc⟩
  else
    let t := kEtype x.k
    let n := elemBits x.k / 8
    let one := fun (a : SMap Byte × Kfs) (i : Nat) =>
      let (y, kf) := cvtPlain t (modeAt x.k rd i) a.2 (val (i / x.cols) (i % x.cols))
      (SMap.setBytes a.1 (x.addr + i * n) (leBytes n (toPlain t y)), kf)
    let a := (List.range (x.rows * x.cols)).foldl one (x.mem, kfs)
    ⟨a.1, a.2, 0⟩

end Sys2Proof.Machine
end

