-- ==== Sys2Proof/Machine/Operands.lean ====
section
/-! DEFINITION. Operation descriptors: their fields, offsets and ladder formats, when one is valid, and the cycles in
which its operation uses each resource (R42, R43, R70, R77, R91, R93, R96, R97, R121, R132 to R135, R145, R194, R197 to
R205). -/

namespace Sys2Proof.Machine

/-! ## Offsets (R194) -/

/-- A field of at most 32 bits with an offset added modulo 2^32; none where the sum does not fit the field. -/
def addField (d : Beat) (lo len : Nat) (v : Option Word) : Option Beat :=
  match v with
  | none => some d
  | some w =>
    let n := (fldN d lo len + w.toNat) % 2 ^ 32
    if n < 2 ^ len then some (setFld d lo len n) else none

/-- The enabled offset registers: OX, OY, OZ. -/
def offRegs (c : Ctx) (f : TFields) : Option Word × Option Word × Option Word :=
  let r := fun (i : BitVec 4) (n : Nat) => if bitB f.off n then some c.regs[i.toNat] else none
  (r f.ox 0, r f.oy 1, r f.oz 2)

/-- OX, OY and OZ added to the fields at three places. -/
def addOffsets (d : Beat) (o : Option Word × Option Word × Option Word) (px py pz : Nat × Nat) : Option Beat :=
  (addField d px.1 px.2 o.1).bind fun d => (addField d py.1 py.2 o.2.1).bind fun d => addField d pz.1 pz.2 o.2.2

/-! ## Ladder formats (R95 to R97, R107, R121) -/

/-- Rung of an element type (R95). -/
def rungOf (t : Nat) : Nat :=
  match t with
  | 0 => 0
  | 1 => 1
  | 2 => 2
  | 3 => 2
  | 4 => 3
  | 5 => 4
  | _ => 5

/-- Type of a rung (R95, R96). -/
def typeOf (r : Nat) : Nat :=
  match r with
  | 0 => 0
  | 1 => 1
  | 2 => 2
  | 3 => 4
  | 4 => 5
  | _ => 8

/-- Effective rung of a ladder entry for a tile (R96, R121): a deferred raise does not act yet (R108). -/
def effRung (s : State) (t n : Nat) : Nat :=
  if s.refMode then 5
  else (s.tile t).raises.foldl (fun r e => if e.entry == n && !e.deferred then max r e.rung else r) (s.ladder n).rung

/-- A format at a rung (R96). -/
def atRung (k : Word) (r : Nat) : Word :=
  if r ≥ 5 then setFld (setFld (setFld k 0 4 8) 4 7 0) 12 4 0 else setFld k 0 4 (typeOf r)

/-- The format a descriptor's operand takes: as named, or at its ladder entry's effective rung; none where R97 makes
the descriptor invalid. -/
def laddered (s : State) (t : Nat) (v : Bool) (n : Nat) (k : Word) : Option Word :=
  if !v then some k
  else
    let e := s.ladder n
    if e.valid && some e.gang == (s.tile t).gang && kEtype k != 3 && kMx k == 0 then some (atRung k (effRung s t n))
    else none

/-- In reference mode a narrow tensor is written only under a ladder entry (R121). -/
def refWriteOk (s : State) (v : Bool) (k : Word) : Bool := !s.refMode || v || !kNarrow k

/-! ## Banks -/

/-- Size of a tile's scratchpad and of its hamper in bytes (R152, R217). -/
def spBytes : Nat := 0x200000
def hamperBytes : Nat := 0x100000

/-- Banks that hold a byte of the regions (R152). -/
def banksOf (rs : List (Nat × Nat)) : List Nat :=
  (List.range 16).filter fun b => rs.any fun r => r.1 < r.2 && r.1 < (b + 1) * 0x20000 && b * 0x20000 < r.2

/-- Uses of several resources over one span of cycles. -/
def spanUses (rs : List Nat) (a b : Nat) : List Use := rs.map fun r => ⟨r, a, b⟩

/-- What a valid descriptor gives its operation: the descriptor as it runs, the uses, the last event's cycle, the array
resource of a hazardous start. -/
structure Plan where
  desc : Beat
  uses : List Use
  fin : Nat
  hazard : Option Nat := none

/-! ## Matrix descriptors (R66 to R78, R198) -/

def mAccInit (d : Beat) : Bool := bitB d 8
def mBuf (d : Beat) : Nat := fldN d 9 1
def mTransA (d : Beat) : Bool := bitB d 10
def mTransB (d : Beat) : Bool := bitB d 11
def mPress (d : Beat) : Bool := bitB d 12
def mSrcAV (d : Beat) : Bool := bitB d 13
def mSrcBV (d : Beat) : Bool := bitB d 14
def mGroup (d : Beat) : Nat := fldN d 32 3
def mArray (d : Beat) : Nat := fldN d 35 3
def mXmode (d : Beat) : Nat := fldN d 38 2
def mXzp (d : Beat) : Int := fldI d 40 4
def mKA (d : Beat) : Word := fld d 64 32
def mKB (d : Beat) : Word := fld d 96 32
def mA (d : Beat) : Nat := fldN d 128 32
def mB (d : Beat) : Nat := fldN d 160 32
def mXtable (d : Beat) : Nat := fldN d 192 32
def mK (d : Beat) : Nat := fldN d 224 17
def mM (d : Beat) : Nat := fldN d 241 8
def mN (d : Beat) : Nat := fldN d 249 6
def mBudA (d : Beat) : Nat := fldN d 256 8
def mBudB (d : Beat) : Nat := fldN d 264 8
def mLayer (d : Beat) : Nat := fldN d 272 12
def mOpid (d : Beat) : Nat := fldN d 288 32
def mLadA (d : Beat) : Nat := fldN d 320 12
def mLva (d : Beat) : Bool := bitB d 332
def mLadB (d : Beat) : Nat := fldN d 333 12
def mLvb (d : Beat) : Bool := bitB d 345
def mSrcA (d : Beat) : Nat := fldN d 352 32
def mSrcB (d : Beat) : Nat := fldN d 384 32

/-- GR × GC of a grouping (R74); none where reserved. -/
def groupDims (g : Nat) : Option (Nat × Nat) :=
  match g with
  | 0 => some (1, 8)
  | 1 => some (2, 4)
  | 2 => some (4, 2)
  | 3 => some (8, 1)
  | 4 => some (1, 1)
  | _ => none

/-- Rows and columns of arrays, (1, 1) for a reserved grouping. -/
def gDims (g : Nat) : Nat × Nat := (groupDims g).getD (1, 1)

/-- Member arrays (R74). -/
def members (g arr : Nat) : List Nat := if g = 4 then [arr] else List.range 8

/-- Array, row and column in it of output element (r, c) (R74). -/
def accPlace (g arr r c : Nat) : Nat × Nat × Nat :=
  (if g = 4 then arr else r / 16 * (gDims g).2 + c / 4, r % 16, c % 4)

/-- Key of an accumulator in the tile's map (R65). -/
def accKey (a buf r c : Nat) : Nat := 128 * a + 64 * buf + 4 * r + c

/-- Key of the accumulator of output element (r, c). -/
def outKey (g arr buf r c : Nat) : Nat :=
  let p := accPlace g arr r c
  accKey p.1 buf p.2.1 p.2.2

/-- The stored tensors of A, B and their sources (R78, R106, R197). -/
def aTensor (x : Tile) (d : Beat) : Tensor :=
  if mTransA d then ⟨x.scratch, mA d, mKA d, mK d, mM d⟩ else ⟨x.scratch, mA d, mKA d, mM d, mK d⟩
def bTensor (x : Tile) (d : Beat) : Tensor :=
  if mTransB d then ⟨x.scratch, mB d, mKB d, mN d, mK d⟩ else ⟨x.scratch, mB d, mKB d, mK d, mN d⟩
/-- B16, round to nearest even. -/
def kB16 : Word := 8
def srcATensor (x : Tile) (d : Beat) : Tensor := { aTensor x d with addr := mSrcA d, k := kB16 }
def srcBTensor (x : Tile) (d : Beat) : Tensor := { bTensor x d with addr := mSrcB d, k := kB16 }

/-- Operand class: 0, 1, 2, 3 for 2-, 4-, 8- and 16-bit (R68). -/
def classOfType (t : Nat) : Nat :=
  match t with
  | 0 => 0
  | 1 => 1
  | 2 => 1
  | 3 => 1
  | 4 => 2
  | 5 => 2
  | _ => 3

/-- Half cycles per K-block of a pair of classes (R69). -/
def halfC (a b : Nat) : Nat :=
  match max a b, min a b with
  | 3, 3 => 16
  | 3, _ => 8
  | 2, _ => 4
  | 1, 1 => 2
  | _, _ => 1

def classA (d : Beat) : Nat := classOfType (kEtype (mKA d))
def classB (d : Beat) : Nat :=
  match mXmode d with
  | 1 => 3
  | 2 => 2
  | _ => classOfType (kEtype (mKB d))

/-- J, T and E (R70, R84). -/
def mJ (d : Beat) : Nat := cdiv (mK d) 4
def mT (d : Beat) : Nat := cdiv (mJ d * halfC (classA d) (classB d)) 2
def mE (d : Beat) : Nat := mBudA d + 4 * mBudB d
/-- Offset at which row group `g` is readable (R70). -/
def mReadable (d : Beat) (g : Nat) : Nat := if mE d = 0 then mT d + 3 + g else mT d + mE d + 4 + g

/-- Blocks of a tensor lie along one dimension. -/
def oneD (k : Word) : Bool := kNarrow k && kBshape k ≤ 4

/-- A valid matrix descriptor, formats resolved (R43, R77, R197). -/
def matrixOk (x : Tile) (d : Beat) : Bool :=
  let ka := mKA d
  let kb := mKB d
  let tile := match groupDims (mGroup d) with
    | some (r, c) => decide (1 ≤ mM d) && decide (mM d ≤ 16 * r) && decide (1 ≤ mN d) && decide (mN d ≤ 4 * c)
    | none => false
  kfmtOk ka && kfmtOk kb && kMx ka == 0 && kMx kb == 0 && kEtype ka != 10 && kEtype kb != 10 &&
  !(oneD ka && (kBdir ka != mTransA d)) && !(oneD kb && (kBdir kb == mTransB d)) && tile &&
  decide (1 ≤ mK d) && decide (mK d ≤ 65536) && mXmode d != 3 &&
  (mXmode d == 0 || ((kEtype kb == 0 || kEtype kb == 3) && kPcap kb == 0 && decide (mXtable d + 32 ≤ spBytes))) &&
  mXtable d % 32 == 0 && (aTensor x d).ok spBytes && (bTensor x d).ok spBytes &&
  (!mSrcAV d || (srcATensor x d).ok spBytes) && (!mSrcBV d || (srcBTensor x d).ok spBytes)

/-- The lowest array of the operation whose buffer an earlier operation is still writing at `ts` (R86). -/
def startHazard (x : Tile) (d : Beat) (ts : Nat) : Option Nat :=
  ((members (mGroup d) (mArray d)).find? fun a => x.ops.any fun o =>
    o.kind == .matrix && mBuf o.desc == mBuf d && (members (mGroup o.desc) (mArray o.desc)).contains a &&
    decide (ts < o.fin)).map (· + 16)

/-- Issue of a matrix descriptor: formats, validity and timing; none where invalid. -/
def planMatrix (s : State) (t : Nat) (d : Beat) (ts : Nat) : Option Plan :=
  let x := s.tile t
  (laddered s t (mLva d) (mLadA d) (mKA d)).bind fun ka =>
  (laddered s t (mLvb d) (mLadB d) (mKB d)).bind fun kb =>
  let d' := setFld (setFld d 64 32 ka.toNat) 96 32 kb.toNat
  if !matrixOk x d' || (mLvb d && mXmode d != 0) then none
  else
    let te := mT d' + mE d'
    let banks := banksOf ((aTensor x d').regions ++ (bTensor x d').regions)
    some { desc := d'
           uses := spanUses ((members (mGroup d') (mArray d')).map (· + 16)) ts (ts + te - 1) ++
             spanUses banks ts (ts + mT d' - 1) ++
             (if mXmode d' != 0 then spanUses [mXtable d' / 0x20000] (ts - 1) (ts - 1) else [])
           fin := ts + mReadable d' 3
           hazard := startHazard x d' ts }

/-! ## Matrix-vector descriptors (R91 to R93, R199) -/

def vKW (d : Beat) : Word := fld d 32 32
def vKX (d : Beat) : Word := fld d 64 32
def vKY (d : Beat) : Word := fld d 96 32
def vRows (d : Beat) : Nat := fldN d 224 17
def vCols (d : Beat) : Nat := fldN d 241 17
def vBud (d : Beat) : Nat := fldN d 264 8
def vTid (d : Beat) : BitVec 20 := fld d 272 20
def wTensor (x : Tile) (d : Beat) : Tensor := ⟨x.scratch, fldN d 128 32, vKW d, vRows d, vCols d⟩
def xTensor (x : Tile) (d : Beat) : Tensor := ⟨x.scratch, fldN d 160 32, vKX d, 1, vCols d⟩
def yTensor (x : Tile) (d : Beat) : Tensor := ⟨x.scratch, fldN d 192 32, vKY d, 1, vRows d⟩
/-- H of R92. -/
def vH (d : Beat) : Nat := cdiv (vCols d) 32
/-- Cycles the unit is occupied (R93). -/
def vOcc (d : Beat) : Nat := cdiv (vRows d) 16 * (vH d + vBud d)

def matvecOk (s : State) (x : Tile) (d : Beat) : Bool :=
  let kw := vKW d
  kfmtOk kw && kfmtOk (vKX d) && kfmtOk (vKY d) && kMx kw == 0 && (kEtype kw == 2 || kEtype kw == 5) &&
  !(oneD kw && kBdir kw) && kMx (vKX d) == 0 && kEtype (vKX d) == 8 && kMx (vKY d) == 0 &&
  decide (1 ≤ vRows d) && decide (vRows d ≤ 65536) && decide (1 ≤ vCols d) && decide (vCols d ≤ 65536) &&
  (wTensor x d).ok spBytes && (xTensor x d).ok spBytes && (yTensor x d).ok spBytes && refWriteOk s false (vKY d)

/-- Issue of a matrix-vector descriptor. W and x are read while the unit is occupied, y written from its first row
block's results on (log 22). -/
def planMatvec (s : State) (t : Nat) (d : Beat) (ts : Nat) : Option Plan :=
  let x := s.tile t
  if !matvecOk s x d then none
  else
    some { desc := d
           uses := spanUses [24] ts (ts + vOcc d - 1) ++
             spanUses (banksOf ((wTensor x d).regions ++ (xTensor x d).regions)) ts (ts + vOcc d - 1) ++
             spanUses (banksOf (yTensor x d).regions) (ts + vH d + vBud d + 5) (ts + vOcc d + 5)
           fin := ts + vOcc d + 5 }

/-! ## Vector descriptors (R123 to R145, R200) -/

def eKind (d : Beat) : Nat := fldN d 8 3
def eXsrc (d : Beat) : Bool := bitB d 11
def ePack (d : Beat) : Bool := bitB d 12
def eDacc (d : Beat) : Bool := bitB d 13
def eNanzero (d : Beat) : Bool := bitB d 14
def eKfmt (d : Beat) (i : Nat) : Word := (fld d (32 + 24 * i) 24).setWidth 32
def eKX (d : Beat) : Word := eKfmt d 0
def eKY (d : Beat) : Word := eKfmt d 1
def eKZ (d : Beat) : Word := eKfmt d 2
def eKD (d : Beat) : Word := eKfmt d 3
def eX (d : Beat) : Nat := fldN d 128 24
def eAgroup (d : Beat) : Nat := fldN d 128 3
def eAarray (d : Beat) : Nat := fldN d 131 3
def eAbuf (d : Beat) : Nat := fldN d 134 1
def eY (d : Beat) : Nat := fldN d 152 24
def eZ (d : Beat) : Nat := fldN d 176 24
def eD (d : Beat) : Nat := fldN d 200 24
def eChain (d : Beat) : Nat := fldN d 224 24
def eRB (d : Beat) : Nat := fldN d 248 24
def eCB (d : Beat) : Nat := fldN d 272 24
def eMaddr (d : Beat) : Nat := fldN d 296 24
def eEmap (d : Beat) : Nat := fldN d 320 24
def eRows (d : Beat) : Nat := fldN d 344 17
def eCols (d : Beat) : Nat := fldN d 361 22
def eTidX (d : Beat) : BitVec 20 := fld d 384 20
def eTidD (d : Beat) : BitVec 20 := fld d 404 20
def eMask (d : Beat) : Nat := fldN d 424 2
def eMoff (d : Beat) : Int := fldI d 426 22
def eRedop (d : Beat) : Nat := fldN d 448 4
def eRaxis (d : Beat) : Nat := fldN d 452 2
def eRtap (d : Beat) : Nat := fldN d 454 4
def eHmode (d : Beat) : Bool := bitB d 458
def eHacc (d : Beat) : Bool := bitB d 459
def eHbase (d : Beat) : Int := fldI d 460 8
def eC (d : Beat) : Nat := fldN d 468 6
def eCorder (d : Beat) : Bool := bitB d 474
def eLadder (d : Beat) : Nat := fldN d 476 12
def eLvalid (d : Beat) : Bool := bitB d 488
def eDladder (d : Beat) : Nat := fldN d 489 12
def eDlv (d : Beat) : Bool := bitB d 501

/-- A chain step (R128): operation, second operand, immediate. -/
structure CStep where
  opc : Nat
  sel : Nat
  imm : BitVec 16
  deriving DecidableEq, Repr

/-- The steps a 32 B chain record runs: up to the first END (R128). -/
def chainSteps (m : SMap Byte) (a : Nat) : List CStep :=
  ((List.range 8).map fun j =>
    let w : Word := BitVec.ofNat 32 (SMap.getNat m (a + 4 * j) 4)
    (⟨fldN w 0 6, fldN w 6 3, fld w 16 16⟩ : CStep)).takeWhile fun c => c.opc != 0

/-- The steps of an operation: none for COMBINE (R200). -/
def eSteps (x : Tile) (d : Beat) : List CStep := if eKind d = 2 then [] else chainSteps x.scratch (eChain d)

/-- Steps that take a second operand, steps of the plain class, transcendental steps (R128, R130). -/
def isBinary (o : Nat) : Bool := (1 ≤ o && o ≤ 7) || o == 0x0C || o == 0x2C
def isPlainStep (o : Nat) : Bool := 1 ≤ o && o ≤ 0x0D
def isTransc (o : Nat) : Bool := 0x20 ≤ o && o ≤ 0x2C
/-- Second operands the steps select. -/
def sels (cs : List CStep) : List Nat := (cs.filter fun c => isBinary c.opc).map (·.sel)

/-- The tensors of a vector operation. -/
def eTensor (x : Tile) (d : Beat) (a : Nat) (k : Word) : Tensor := ⟨x.scratch, a, k, eRows d, eCols d⟩

/-- Results of a reduction (R138). -/
def nResults (d : Beat) : Nat :=
  match eRaxis d with
  | 0 => eRows d
  | 1 => 1
  | _ => eCols d
/-- Bytes of one result (R140, R146). -/
def resultBytes (d : Beat) : Nat :=
  if eRedop d = 10 then 160 else if 6 ≤ eRedop d ∧ eRedop d ≤ 8 then 4 else elemBits (eKD d) / 8
/-- The operation makes a reduction of R138. -/
def reduces (d : Beat) : Bool := eKind d == 1 && eRedop d != 0

/-- Regions of the scratchpad the operation reads or writes, but for the chain record. -/
def vectorRegions (x : Tile) (d : Beat) : List (Nat × Nat) :=
  let ss := sels (eSteps x d)
  let cs : Nat := if eKind d = 2 then eC d else 1
  let xs := if eXsrc d && eKind d != 2 then [] else (List.range cs).flatMap fun c =>
    (eTensor x d (eX d + c * eChain d * (if eKind d = 2 then 1 else 0)) (eKX d)).regions
  let emap := if reduces d then nResults d else eRows d
  xs ++ (if ss.contains 2 then (eTensor x d (eY d) (eKY d)).regions else []) ++
  (if ss.contains 3 then (eTensor x d (eZ d) (eKZ d)).regions else []) ++ (eTensor x d (eD d) (eKD d)).regions ++
  (if ss.contains 4 then [(eRB d, eRB d + 4 * eRows d)] else []) ++
  (if ss.contains 5 then [(eCB d, eCB d + 4 * eCols d)] else []) ++
  (if reduces d then [(eRB d, eRB d + nResults d * resultBytes d)] else []) ++
  (if eMask d = 1 then [(eMaddr d, eMaddr d + cdiv (eRows d * eCols d) 8)] else []) ++
  (if eEmap d != 0 && (reduces d || eKind d == 3) then [(eEmap d, eEmap d + cdiv emap 8)] else [])

/-- The X tensors of an operation start on a 64 B boundary (R197). -/
def xAligned (d : Beat) : Bool :=
  (eXsrc d && eKind d != 2) || (eX d % 64 == 0 && (eKind d != 2 || eChain d % 64 == 0))

/-- A reduction result's format (R140). -/
def resultFmtOk (d : Beat) : Bool :=
  let k := eKD d
  let s32 := kMx k == 0 && kEtype k == 10
  if !reduces d || eRedop d = 10 then true
  else if 6 ≤ eRedop d ∧ eRedop d ≤ 8 then s32 else kMx k == 0 && isPlainType (kEtype k)

/-- PACK's conditions (R131, R135). -/
def packOk (d : Beat) (cs : List CStep) : Bool :=
  let ks := [eKX d, eKD d] ++ (if (sels cs).contains 2 then [eKY d] else []) ++
    (if (sels cs).contains 3 then [eKZ d] else [])
  !ePack d || (eKind d ≤ 1 && cs.all (fun c => !isTransc c.opc) && (kEtype (eKX d) == 8 || kEtype (eKX d) == 9) &&
    ks.all fun k => kMx k == 0 && kEtype k == kEtype (eKX d))

/-- An MX X goes to a narrow D only block for block: R63's geometry taken for VECTOR too (DESIGN CHOICE, log 79). -/
def mxStreamOk (d : Beat) : Bool :=
  (eXsrc d && eKind d != 2) || kMx (eKX d) == 0 || !kNarrow (eKD d) ||
    (kBshape (eKD d) == 2 && kBdir (eKD d) == kBdir (eKX d))

/-- A valid vector descriptor, D's format resolved (R135, R200). RTAP above S (R137), and a step that selects RB
(R140), make it invalid only with OPKIND 1 and REDOP not 0 (DESIGN CHOICE, log 82). -/
def vectorOk (s : State) (x : Tile) (d : Beat) : Bool :=
  let cs := eSteps x d
  let ss := sels cs
  let ks := [eKX d, eKD d] ++ (if ss.contains 2 then [eKY d] else []) ++ (if ss.contains 3 then [eKZ d] else [])
  let s32 := kMx (eKD d) == 0 && kEtype (eKD d) == 10
  let comb := eKind d == 2
  eKind d ≤ 3 && eMask d != 3 && eRedop d ≤ 10 && eRaxis d != 3 && ks.all kfmtOk &&
  decide (1 ≤ eRows d) && decide (eRows d ≤ 65536) && decide (1 ≤ eCols d) && decide (eCols d ≤ 2097152) &&
  cs.all (fun c => (isPlainStep c.opc || isTransc c.opc) && !(c.opc == 5 && c.sel == 6) &&
    !(isBinary c.opc && c.sel == 0)) &&
  !(ss.contains 2 && kMx (eKY d) != 0) && !(ss.contains 3 && kMx (eKZ d) != 0) && packOk d cs && mxStreamOk d &&
  (!eXsrc d || (match groupDims (eAgroup d) with
    | some (r, c) => decide (eRows d ≤ 16 * r) && decide (eCols d ≤ 4 * c)
    | none => false)) &&
  (!eDacc d || s32) && (comb || eChain d % 32 == 0) && resultFmtOk d &&
  !(reduces d && (eRedop d == 6 || eRedop d == 7) && eRaxis d == 1 && decide (eRows d * eCols d > 2 ^ 32 - 1)) &&
  (!comb || (decide (2 ≤ eC d) && decide (eC d ≤ 32) && (!eCorder d || [2, 4, 8, 16, 32].contains (eC d)))) &&
  (!eLvalid d || (eRedop d == 10 && eHmode d && (s.ladder (eLadder d)).grad)) &&
  (!reduces d || (decide (eRtap d ≤ cs.length) && !ss.contains 4)) &&
  !(eKind d == 3 && cs.any fun c => isTransc c.opc) &&
  [eY d, eZ d, eD d, eRB d, eCB d, eMaddr d, eEmap d].all (fun a => decide (a < spBytes)) &&
  (comb || decide (eChain d < spBytes)) && ((eXsrc d && !comb) || decide (eX d < spBytes)) &&
  eRB d % 4 == 0 && eCB d % 4 == 0 && eMaddr d % 8 == 0 && eEmap d % 8 == 0 && xAligned d &&
  eD d % 64 == 0 && (!ss.contains 2 || eY d % 64 == 0) && (!ss.contains 3 || eZ d % 64 == 0) &&
  (vectorRegions x d).all (fun r => decide (r.2 ≤ spBytes)) && refWriteOk s (eDlv d) (eKD d)

/-- Columns of a group; groups of a row; groups in all (R124, R131). -/
def eLanes (d : Beat) : Nat := if ePack d then 64 else 32
def eH (d : Beat) : Nat := cdiv (eCols d) (eLanes d)
def eG (d : Beat) : Nat := eRows d * eH d
/-- Cycles per group (R132). -/
def eCyc (d : Beat) (cs : List CStep) : Nat :=
  let n := (cs.filter fun c => isTransc c.opc).length
  if eKind d = 2 then eC d
  else if ePack d then (if eKind d = 1 then 2 else 1)
  else if n = 0 then 1 else 4 * n
/-- Latency L (R133). -/
def eLat (d : Beat) (cs : List CStep) : Nat :=
  if eKind d = 2 then eC d + 6 else 4 + cs.length + 3 * (cs.filter fun c => isTransc c.opc).length
/-- Cycles of one SOFTMAX row (R145). -/
def eRowCyc (d : Beat) : Nat := 9 * eH d + 16

/-- Offsets of the last cycle of the vector engine, of the reduction unit, and of the last event (R133, R145). -/
def eEnds (d : Beat) (cs : List CStep) : Nat × Nat × Nat :=
  let last := (eG d - 1) * eCyc d cs + eLat d cs
  match eKind d with
  | 3 => (eRows d * eRowCyc d - 1, eRows d * eRowCyc d - 1, eRows d * eRowCyc d + 8)
  | 2 => (eG d * eCyc d cs - 1, last, last + 1)
  | 1 => (eG d * eCyc d cs - 1, last + 6, max (eG d * eCyc d cs) (last + 7))
  | _ => (eG d * eCyc d cs - 1, 0, max (eG d * eCyc d cs) last)

/-- Offset at which the accumulators of row `r` are read (R133; R145's first pass, log 23). -/
def eReadAt (d : Beat) (cs : List CStep) (r : Nat) : Nat :=
  if eKind d = 3 then r * eRowCyc d else r * eH d * eCyc d cs

/-- Issue of a vector descriptor (R134: its units, and every bank it reads or writes from its first cycle to its last
event; the chain record's bank at t_s − 1). With a reduction the banks stay owned through the cycle in which the reduction unit is
free (DESIGN CHOICE, log 82). -/
def planVector (s : State) (t : Nat) (d : Beat) (ts : Nat) : Option Plan :=
  let x := s.tile t
  (laddered s t (eDlv d) (eDladder d) (eKD d)).bind fun kd =>
  let d' := setFld d 104 24 kd.toNat
  if !vectorOk s x d' then none
  else
    let cs := eSteps x d'
    let e := eEnds d' cs
    some { desc := d'
           uses := spanUses [25] ts (ts + e.1) ++ (if eKind d' = 0 then [] else spanUses [26] ts (ts + e.2.1)) ++
             spanUses (banksOf (vectorRegions x d')) ts (ts + e.2.2) ++
             (if eKind d' = 2 then [] else spanUses [eChain d' / 0x20000] (ts - 1) (ts - 1))
           fin := ts + e.2.2 }

/-! ## Transfer descriptors (R201 to R204, R252, R254) -/

/-- Size of the memory a local kind names. -/
def kindBytes (k : Nat) : Nat := if k = 1 then hamperBytes else spBytes

/-- The memory a local kind names. -/
def kindMem (x : Tile) (k : Nat) : SMap Byte := if k = 1 then x.hamper else x.scratch

/-- Source and destination of a conversion (R203). -/
def xSrcT (x : Tile) (d : Beat) : Tensor := ⟨kindMem x (xSkind d), xSrc d, xKs d, xNrows d, xNcols d⟩
def xDstT (x : Tile) (d : Beat) : Tensor :=
  if xTrans d then ⟨kindMem x (xDkind d), xDst d, xKd d, xNcols d, xNrows d⟩
  else ⟨kindMem x (xDkind d), xDst d, xKd d, xNrows d, xNcols d⟩

/-- Every row of a local side lies in its memory. -/
def rowsOk (kind base stride len rows : Nat) : Bool :=
  kind == 2 || len == 0 || decide (base + (rows - 1) * stride + len ≤ kindBytes kind)

/-- Formats of a conversion (R43, R63, R64, R203): an MX source goes to its import target, or to another MX format. DESIGN CHOICES
(log 79): TRANS with an MX source and a Krebo target is invalid, since R63 copies block for block; a conversion from one MX
format to another is R64's export from any type, with any direction and TRANS. -/
def convFmtOk (d : Beat) : Bool :=
  let ks := xKs d
  let kd := xKd d
  kfmtOk ks && kfmtOk kd &&
  (kMx ks == 0 || kMx kd != 0 || (mxImportOk ks kd && !(xTrans d && kEtype kd != 8)))

/-- A valid transfer descriptor, the destination's format resolved. -/
def xferOk (s : State) (x : Tile) (d : Beat) : Bool :=
  let sk := xSkind d
  let dk := xDkind d
  sk != 3 && dk != 3 && decide (1 ≤ xNrows d) && decide (xNrows d ≤ 65536) && !(xRsig d && xRamt d == 0) &&
  (if xConv d then
    sk != 2 && dk != 2 && decide (1 ≤ xNcols d) && decide (xNcols d ≤ 2097152) && convFmtOk d &&
    (xSrcT x d).ok (kindBytes sk) && (xDstT x d).ok (kindBytes dk) && refWriteOk s (xDlv d) (xKd d)
  else
    !(sk == 2 && dk == 2) && xSrc d % 64 == 0 && xDst d % 64 == 0 && xLen d % 64 == 0 && xSstride d % 64 == 0 &&
    xDstride d % 64 == 0 && rowsOk sk (xSrc d) (xSstride d) (xLen d) (xNrows d) &&
    rowsOk dk (xDst d) (xDstride d) (xLen d) (xNrows d) &&
    (sk != 2 || decide (xSrc d < 2 ^ 48)) && (dk != 2 || decide (xDst d < 2 ^ 48)))

/-- Bank uses of one row of beats of a scratchpad side, the first in cycle `c`, split where the bank changes (R202). -/
def rowUses (a n c : Nat) : List Use :=
  if n = 0 then []
  else (List.range ((a + 64 * n - 1) / 0x20000 + 1 - a / 0x20000)).map fun i =>
    let b := a / 0x20000 + i
    let lo := if i = 0 then 0 else (b * 0x20000 - a) / 64
    let hi := min (n - 1) (((b + 1) * 0x20000 - a) / 64 - 1)
    ⟨b, c + lo, c + hi⟩

/-- Bank uses of a scratchpad side of a copy, beat i in cycle `c` + i. -/
def sideUses (kind base stride len rows c : Nat) : List Use :=
  if kind != 0 then []
  else (List.range rows).flatMap fun r => rowUses (base + r * stride) (len / 64) (c + r * (len / 64))

/-- Issue of a transfer descriptor. -/
def planXfer (s : State) (t : Nat) (d : Beat) (ts : Nat) : Option Plan :=
  let x := s.tile t
  (laddered s t (xDlv d) (xDladder d) (xKd d)).bind fun kd =>
  let d' := setFld d 296 24 kd.toNat
  if !xferOk s x d' then none
  else
    let ch := 27 + (xChan d').toNat
    if xConv d' then
      let w := xNrows d' * cdiv (xNcols d') 32 + 12
      let rs := (if xSkind d' = 0 then (xSrcT x d').regions else []) ++
        (if xDkind d' = 0 then (xDstT x d').regions else [])
      some { desc := d', uses := spanUses [ch] ts (ts + w - 1) ++ spanUses (banksOf rs) ts (ts + w - 1),
             fin := ts + w - 1 }
    else
      let b := xBeats d'
      let src := sideUses (xSkind d') (xSrc d') (xSstride d') (xLen d') (xNrows d') ts
      let dst := if xRead2 d' then [] else
        sideUses (xDkind d') (xDst d') (xDstride d') (xLen d') (xNrows d') (ts + 2)
      some { desc := d', uses := spanUses [ch] ts (ts + b + 1) ++ src ++ dst,
             fin := if xRead2 d' || xWrite2 d' then ts + 1 else ts + b + 1 }

end Sys2Proof.Machine
end

