-- ==== Sys2Proof/Machine/Units.lean ====
section
/-! DEFINITION. What the units compute: matrix operations with their patch lane, the matrix-vector unit, the press
check's recomputation and comparison (R66, R71, R72, R74, R78, R80 to R86, R92, R93, R106). -/

namespace Sys2Proof.Machine

/-- Random bits of the bound job's tensors (R55). -/
def randOf (s : State) (tid : BitVec 20) : Rand :=
  ⟨(s.job.map (·.seed)).getD 0, s.stg.step.setWidth 32, tid⟩

/-- The exact sum of a list of values, with the rules of R72. -/
def sumX (l : List Num) : Num :=
  match l with
  | [] => Num.zero
  | a :: l => l.foldl addX a

/-- round_a36 of an exact sum of two A36 values. -/
def addA (a b : Num) : Num := roundA36 (addX a b)

/-! ## What an operation has read (R81, R128, R471) -/

/-- Address of the 32 B that an operation reads at t_s − 1: its expander table or its chain record. -/
def preAddr (o : Op) : Option Nat :=
  match o.kind with
  | .matrix => if mXmode o.desc = 0 then none else some (mXtable o.desc)
  | .vector => if eKind o.desc = 2 then none else some (eChain o.desc)
  | _ => none

/-- The tile as an operation has read it within its window, with the 32 B of t_s − 1 in their place. -/
def seenBy (x : Tile) (o : Op) : Tile :=
  let x := match o.seen with
    | some (sp, hp) => { x with scratch := sp, hamper := hp }
    | none => x
  match o.pre, preAddr o with
  | some bs, some a => { x with scratch := SMap.setBytes x.scratch a bs }
  | _, _ => x

/-- The 32 B of t_s − 1 read at the end of that cycle. -/
def readPre (x : Tile) (c : Nat) : Tile :=
  { x with ops := x.ops.map fun o =>
      match preAddr o with
      | some a => if o.ts = c + 1 then { o with pre := some (SMap.getBytes x.scratch a 32) } else o
      | none => o }

/-! ## The expander (R80, R81) -/

/-- An element of an expanded B tensor. -/
def expElem (x : Tile) (d : Beat) (tb : Tensor) (r c : Nat) : DElem :=
  let (b, i) := tb.blockOf r c
  let w := tb.scaleWord b
  let v :=
    if Tensor.sFlags w = 1 then Num.zero
    else if Tensor.sExp w = 0xFF then .nan
    else
      let code := tb.code b i
      let bits := elemBits tb.k
      let e := if mXmode d = 1 then ofPlain 8 (SMap.getNat x.scratch (mXtable d + 2 * code) 2)
        else
          let q : Int := if code ≥ 2 ^ (bits - 1) then (code : Int) - 2 ^ bits else code
          Num.ofRat ((q - mXzp d : Int) : Rat)
      scaleNum e (scaleOf (Tensor.sExp w) (Tensor.sFine w))
  ⟨v, v, none⟩

/-- Format faults of an expanded B tensor: those of its scale words, and NaN elements (R45, R80). -/
def expFaults (tb : Tensor) : Nat × Nat :=
  let one := fun b =>
    let w := tb.scaleWord b
    if Tensor.sFlags w = 1 then
      (if Tensor.sPcount w != 0 || (List.range tb.nElems).any (fun i => tb.code b i != 0) then 1 else 0, 0)
    else if Tensor.sExp w = 0xFF then (1, ((List.range tb.nElems).filter fun i => (tb.posOf b i).isSome).length)
    else ((0, 0) : Nat × Nat)
  let bs := (List.range tb.nBlocks).map one
  ((bs.map (·.1)).sum + ((List.range tb.nGroups).map tb.groupFaults).sum, (bs.map (·.2)).sum)

/-! ## Matrix operations (R71, R82 to R85) -/

/-- Element a[m][k] and b[k][n] as decoded (R78, R80). -/
def aElem (x : Tile) (d : Beat) (m k : Nat) : DElem :=
  let t := aTensor x d
  if mTransA d then t.elem k m else t.elem m k
def bElem (x : Tile) (d : Beat) (k n : Nat) : DElem :=
  let t := bTensor x d
  let (r, c) := if mTransB d then (n, k) else (k, n)
  if mXmode d = 0 then t.elem r c else expElem x d t r c

/-- Rows and columns of member array `a` that lie within M_EXT and N_EXT (R74). -/
def arrayRows (d : Beat) (a : Nat) : List Nat :=
  let r0 := if mGroup d = 4 then 0 else a / (gDims (mGroup d)).2 * 16
  (List.range 16).map (· + r0) |>.filter (· < mM d)
def arrayCols (d : Beat) (a : Nat) : List Nat :=
  let c0 := if mGroup d = 4 then 0 else a % (gDims (mGroup d)).2 * 4
  (List.range 4).map (· + c0) |>.filter (· < mN d)

/-- Patch entries of A and of B that array `a` meets, in the order R85 applies them: (row, k) and (k, column). -/
def aEntries (x : Tile) (d : Beat) (a : Nat) : List (Nat × Nat) :=
  (List.range (mK d)).flatMap fun k =>
    ((arrayRows d a).filter fun m => (aElem x d m k).patch.isSome).map fun m => (m, k)
def bEntries (x : Tile) (d : Beat) (a : Nat) : List (Nat × Nat) :=
  (List.range (mK d)).flatMap fun k =>
    ((arrayCols d a).filter fun n => (bElem x d k n).patch.isSome).map fun n => (k, n)

/-- product_element (R71): the element's start value, and the entries its array applies. -/
def productElement (x : Tile) (d : Beat) (s0 : Num) (ea eb : List (Nat × Nat)) (m n : Nat) : Num :=
  let block := fun j => sumX ((List.range 4).map fun i =>
    let k := 4 * j + i
    if k < mK d then mulX (aElem x d m k).main (bElem x d k n).main else Num.zero)
  let s := (List.range (mJ d)).foldl (fun s j => addA s (roundA36 (block j))) s0
  if mE d = 0 then s
  else
    let atK := fun (p : Num) (k : Nat) =>
      let a := aElem x d m k
      let b := bElem x d k n
      let p := match a.patch with
        | some v => if ea.contains (m, k) then addA p (mulX v b.full) else p
        | none => p
      match b.patch with
      | some v => if eb.contains (k, n) then addA p (mulX a.main v) else p
      | none => p
    addA s ((List.range (mK d)).foldl atK Num.zero)

/-- What a matrix operation leaves: accumulators, statistics, escalation requests of its budget overruns. -/
structure MatrixOut where
  acc : SMap A36
  mxs : Mxs
  kfs : Kfs
  reqs : List EscReq

/-- One member array's outputs. MXS_OVF_COUNT and MXS_NAN_COUNT take the buffer's start value and every decoded element for an
operand, patch values that the budget drops among them (DESIGN CHOICE: R89 does not say what counts as an operand; log 80). -/
def matrixArray (x : Tile) (d : Beat) (o : MatrixOut) (a : Nat) : MatrixOut :=
  let ea := (aEntries x d a).take (mBudA d)
  let eb := (bEntries x d a).take (mBudB d)
  let rows := arrayRows d a
  let cols := arrayCols d a
  let cell := fun (o : MatrixOut) (rc : Nat × Nat) =>
    let key := accKey a (mBuf d) (rc.1 % 16) (rc.2 % 4)
    if rows.contains rc.1 && cols.contains rc.2 then
      let s0 := if mAccInit d then ofA36 (SMap.get 0 x.acc key) else Num.zero
      let v := productElement x d s0 ea eb rc.1 rc.2
      let as := (List.range (mK d)).map fun k => (aElem x d rc.1 k).full
      let bs := (List.range (mK d)).map fun k => (bElem x d k rc.2).full
      let src := s0 :: (as ++ bs)
      let mxs := if v.isInf && src.all Num.isFin then { o.mxs with ovf := sat32 (o.mxs.ovf + 1) }
        else if v.isNan && src.all (fun y => !y.isNan) then { o.mxs with nan := sat32 (o.mxs.nan + 1) }
        else o.mxs
      { o with acc := SMap.set 0 o.acc key (toA36 v), mxs := mxs }
    else if mAccInit d then o
    else { o with acc := SMap.set 0 o.acc key 0 }
  let r0 := if mGroup d = 4 then 0 else a / (gDims (mGroup d)).2 * 16
  let c0 := if mGroup d = 4 then 0 else a % (gDims (mGroup d)).2 * 4
  let o := (List.range 64).foldl (fun o i => cell o (r0 + i / 4, c0 + i % 4)) o
  { o with mxs := { o.mxs with patch := sat32 (o.mxs.patch + ea.length + eb.length) } }

/-- A matrix operation (R71 to R85): accumulators written, faults of its operands and statistics counted; where a budget is
overrun, one request that names the entry of each operand whose budget overran (R85, R107). -/
def runMatrix (x : Tile) (d : Beat) : MatrixOut :=
  let ms := members (mGroup d) (mArray d)
  let kfs := x.kfs.addFaults (aTensor x d).faults
  let kfs := kfs.addFaults (if mXmode d = 0 then (bTensor x d).faults else expFaults (bTensor x d))
  let o := ms.foldl (matrixArray x d) ⟨x.acc, x.mxs, kfs, []⟩
  let overA := ms.any fun a => (aEntries x d a).length > mBudA d
  let overB := ms.any fun a => (bEntries x d a).length > mBudB d
  let named := ((if overA && mLva d then [mLadA d] else []) ++ (if overB && mLvb d then [mLadB d] else [])).eraseDups
  let reqs : List EscReq := if overA || overB then [⟨.budget, named⟩] else []
  { o with mxs := if reqs.isEmpty then o.mxs else { o.mxs with pbudget := sat32 (o.mxs.pbudget + 1) }, reqs := reqs }

/-! ## The matrix-vector unit (R92, R93) -/

/-- Patch entries of W in the row block from `r0`, in ascending column: (row, column). -/
def wEntries (w : Tensor) (r0 : Nat) : List (Nat × Nat) :=
  (List.range w.cols).flatMap fun c =>
    ((List.range 16).map (· + r0) |>.filter fun r => r < w.rows && (w.elem r c).patch.isSome).map fun r => (r, c)

/-- mv_element (R92) with the entries its row block applies. -/
def mvElement (w xt : Tensor) (e : Nat) (es : List (Nat × Nat)) (i : Nat) : Num :=
  let step := fun (s : Num) (h : Nat) =>
    let u := fun b => roundA36 (sumX ((List.range 4).map fun j =>
      let c := 32 * h + 4 * b + j
      if c < w.cols then mulX (w.elem i c).main (xt.elem 0 c).full else Num.zero))
    let v := addA (addA (addA (u 0) (u 1)) (addA (u 2) (u 3))) (addA (addA (u 4) (u 5)) (addA (u 6) (u 7)))
    addA s v
  let s := (List.range (cdiv w.cols 32)).foldl step Num.zero
  if e = 0 then s
  else
    addA s ((es.filter fun rc => rc.1 = i).foldl (fun p rc =>
      match (w.elem i rc.2).patch with
      | some v => addA p (mulX v (xt.elem 0 rc.2).full)
      | none => p) Num.zero)

/-- A matrix-vector operation (R91 to R93) whose operands are those of `r`, the tile as it has read it: scratchpad, statistics,
escalation requests, one for each escalated block of y (R50). -/
def runMatvec (s : State) (r x : Tile) (d : Beat) : Tile × List EscReq :=
  let w := wTensor r d
  let xt := xTensor r d
  let e := vBud d
  let blk := fun i => (wEntries w (i / 16 * 16)).take e
  let ys := (List.range (vRows d)).map fun i => mvElement w xt e (blk i) i
  let xs := (List.range (vCols d)).map fun c => (xt.elem 0 c).full
  let src := fun i => (List.range (vCols d)).map (fun c => (w.elem i c).full) ++ xs
  let blocks := (List.range (cdiv (vRows d) 16)).map (· * 16)
  let ovr := blocks.any fun r0 => (wEntries w r0).length > e
  let cnt := fun (m : Mxs) (iv : Nat × Num) =>
    if iv.2.isInf && (src iv.1).all Num.isFin then { m with ovf := sat32 (m.ovf + 1) }
    else if iv.2.isNan && (src iv.1).all (fun y => !y.isNan) then { m with nan := sat32 (m.nan + 1) }
    else m
  let mxs := (ys.zipIdx.map fun v => (v.2, v.1)).foldl cnt x.mxs
  let mxs := { mxs with patch := sat32 (mxs.patch + (blocks.map fun r0 => ((wEntries w r0).take e).length).sum),
                        pbudget := if ovr then sat32 (mxs.pbudget + 1) else mxs.pbudget }
  let kfs := x.kfs.addFaults w.faults
  let o := writeTensor (yTensor x d) (randOf s (vTid d)) kfs fun _ c => ys.getD c Num.zero
  ({ x with scratch := o.mem, kfs := o.kfs, mxs := mxs },
   List.replicate o.esc ⟨.pool, []⟩ ++ (if ovr then [⟨.budgetMv, []⟩] else []))

/-! ## The press check (R106) -/

/-- Result of a check. -/
inductive Check where
  | pass
  | fail
  | wide
  deriving DecidableEq, Repr

/-- An operand element as the press engine takes it: from the source, or decoded and converted to B16, which counts nothing in KFS
(DESIGN CHOICE: R106 makes the check beside the operation, log 82). -/
def pressA (x : Tile) (d : Beat) (m k : Nat) : Num :=
  if mSrcAV d then
    let t := srcATensor x d
    (if mTransA d then t.elem k m else t.elem m k).full
  else (cvtPlain 8 .rne {} (aElem x d m k).full).1
def pressB (x : Tile) (d : Beat) (k n : Nat) : Num :=
  if mSrcBV d then
    let t := srcBTensor x d
    (if mTransB d then t.elem n k else t.elem k n).full
  else (cvtPlain 8 .rne {} (bElem x d k n).full).1

/-- The recomputation at B16 × B16 of one element, with R71's order and E = 0. -/
def pressElement (x : Tile) (d : Beat) (m n : Nat) : Num :=
  (List.range (mJ d)).foldl (fun s j => addA s (roundA36 (sumX ((List.range 4).map fun i =>
    let k := 4 * j + i
    if k < mK d then mulX (pressA x d m k) (pressB x d k n) else Num.zero)))) Num.zero

/-- Elements of an operation in row-major order. -/
def outElems (d : Beat) : List (Nat × Nat) :=
  (List.range (mM d)).flatMap fun m => (List.range (mN d)).map fun n => (m, n)

/-- press_compare: the verdict and dq where it is recorded. -/
def pressCompare (sh w : List Num) (thresh : Nat) : Check × Option Nat :=
  if w.any fun v => !v.isFin then (.wide, none)
  else if sh.any fun v => !v.isFin then (.fail, none)
  else
    let nmax := w.foldl (fun a v => max a v.mag) 0
    if nmax = 0 then (if sh.all Num.isZero then .pass else .fail, none)
    else
      let ulp := pow2 (ilog2 nmax - 7)
      let d := (sh.zip w).foldl (fun a p => max a |p.1.val - p.2.val|) 0 / ulp
      let dq := min (16 * d).ceil.toNat 0xFFFFFFFF
      (if dq > thresh then .fail else .pass, some dq)

/-- The threshold of a rung; 0xFFFF never fails (R106, R118). -/
def threshOf (s : State) (r : Nat) : Nat :=
  let v := match r with
    | 0 => fldN s.pc.thANow 0 16
    | 1 => fldN s.pc.thANow 16 16
    | 2 => fldN s.pc.thBNow 0 16
    | 3 => fldN s.pc.thBNow 16 16
    | _ => fldN s.pc.thCNow 0 16
  if v = 0xFFFF then 0xFFFFFFFF else v

end Sys2Proof.Machine
end

