-- ==== Sys2Proof/Machine/Vector.lean ====
section
/-! DEFINITION. What the vector engine and the reduction unit compute: chain steps, masks, reductions, combines, softmax,
histograms and their statistics (R123 to R147, R153), and the accumulators a vector operation reads (R86). -/

namespace Sys2Proof.Machine

/-! ## Chain steps (R129, R130) -/

/-- Square root of a positive value, correctly rounded to S32 (R130 SQRT). -/
def sqrtS32 (m : Rat) : Rat :=
  let e := ilog2 m / 2 - 23
  let q := m / (pow2 e * pow2 e)
  let k := isqrt 26 q.floor.toNat 0
  let half : Rat := (k : Rat) + 1 / 2
  (((if half * half < q then k + 1 else k : Nat) : Nat) : Rat) * pow2 e

/-- A positive power of two's exponent. -/
def pow2Exp (m : Rat) : Option Int := if m = pow2 (ilog2 m) then some (ilog2 m) else none

/-- A transcendental step with its special values (R130). -/
def transcStep (opc : Nat) (r b : Num) : Num :=
  match opc, r with
  | _, .nan => .nan
  | 0x20, .fin n m =>
    if m = 0 then .inf n else within 1 (divX Num.one r) (transcFree 0x20 r)
  | 0x20, .inf n => .fin n 0
  | 0x21, .fin n m => if m = 0 then .inf n else if n then .nan else boundedStep 0x21 r
  | 0x21, .inf n => if n then .nan else Num.zero
  | 0x22, .fin n m => if m = 0 then .fin n 0 else if n then .nan else .fin false (sqrtS32 m)
  | 0x22, .inf n => if n then .nan else .inf false
  | 0x23, .fin _ m => if m = 0 then Num.one else boundedStep 0x23 r
  | 0x23, .inf n => if n then Num.zero else .inf false
  | 0x24, .fin n m =>
    if m.den = 1 then
      (if m ≥ 151 then (if n then Num.zero else .inf false)
       else roundIeee 10 (.fin false (pow2 (if n then -m.num else m.num))))
    else boundedStep 0x24 r
  | 0x24, .inf n => if n then Num.zero else .inf false
  | 0x25, .fin n m => if m = 0 then .inf true else if n then .nan else boundedStep 0x25 r
  | 0x25, .inf n => if n then .nan else .inf false
  | 0x26, .fin n m =>
    if m = 0 then .inf true else if n then .nan
    else match pow2Exp m with
      | some e => Num.ofRat (e : Rat)
      | none => boundedStep 0x26 r
  | 0x26, .inf n => if n then .nan else .inf false
  | 0x27, .fin _ _ => boundedStep 0x27 r
  | 0x27, .inf n => .fin n 1
  | 0x28, .fin _ _ => boundedStep 0x28 r
  | 0x28, .inf n => if n then Num.zero else Num.one
  | 0x29, .fin _ _ => boundedStep 0x29 r
  | 0x29, .inf n => if n then .fin true 0 else .inf false
  | 0x2C, .fin _ _ =>
    match divX r b with
    | .fin n m =>
      if b.isInf || m = 0 then .fin n m
      else
        let c := Config.divFn (BitVec.ofNat 32 (toPlain 10 r)) (BitVec.ofNat 32 (toPlain 10 b))
        within 2 (.fin n m) (ofPlain 10 c.toNat)
    | v => v
  | 0x2C, .inf _ => divX r b
  | o, .fin _ m => if m > 2097152 then .nan else boundedStep o r
  | _, .inf _ => .nan

/-- SIN and COS beyond 2^21 (R130). -/
def outOfDomain (opc : Nat) (r : Num) : Bool :=
  (opc == 0x2A || opc == 0x2B) && (r.isInf || (r.isFin && decide (r.mag > 2097152)))

/-- Larger and smaller of two values, NaN if either is NaN (R130). -/
def maxNum (a b : Num) : Num := if a.isNan || b.isNan then .nan else if ltX a b then b else a
def minNum (a b : Num) : Num := if a.isNan || b.isNan then .nan else if ltX b a then b else a

/-- One step's result, rounded to the pipeline type `rt` (R129 to R131). -/
def stepVal (rt opc : Nat) (imm r b : Num) : Num :=
  match opc with
  | 0x01 => roundIeee rt (addX r b)
  | 0x02 => roundIeee rt (addX r b.neg)
  | 0x03 => roundIeee rt (addX b r.neg)
  | 0x04 => roundIeee rt (mulX r b)
  | 0x05 => roundIeee rt (addX (mulX r b) imm)
  | 0x06 => roundIeee rt (maxNum r b)
  | 0x07 => roundIeee rt (minNum r b)
  | 0x08 => roundIeee rt r.abs
  | 0x09 => roundIeee rt r.neg
  | 0x0A => roundIeee rt (maxNum r Num.zero)
  | 0x0B => roundIeee rt (mulX r r)
  | 0x0C => if ltVal b r then Num.one else Num.zero
  | 0x0D => roundIeee rt r
  | o => transcStep o r b

/-- Work of a chain on one element: running value, save latch, taps newest first, elements made NaN, inputs out of
domain. -/
structure ChainSt where
  r : Num
  save : Num
  taps : List Num
  gen : Nat
  dom : Nat

/-- One step of the chain; `b` gives the second operand of a SEL code other than 1, 6 and 7. -/
def chainStep (rt : Nat) (xv : Num) (b : Nat → Num) (a : ChainSt) (c : CStep) : ChainSt :=
  let imm := ofPlain 8 c.imm.toNat
  let sb := match c.sel with
    | 1 => xv
    | 6 => imm
    | 7 => a.save
    | k => b k
  let v := stepVal rt c.opc imm a.r sb
  let ins := if isBinary c.opc then !a.r.isNan && !sb.isNan && !(c.opc == 5 && imm.isNan) else !a.r.isNan
  { r := v, save := if c.opc = 0x0D then v else a.save, taps := v :: a.taps,
    gen := a.gen + (if v.isNan && ins then 1 else 0), dom := a.dom + (if outOfDomain c.opc a.r then 1 else 0) }

/-- The chain on one element (R129). -/
def runChain (rt : Nat) (cs : List CStep) (xv : Num) (b : Nat → Num) : ChainSt :=
  cs.foldl (chainStep rt xv b) ⟨xv, Num.zero, [xv], 0, 0⟩

/-! ## Inputs and masks (R126, R136, R144) -/

/-- An element takes part (R136). -/
def maskKeep (x : Tile) (d : Beat) (i j : Nat) : Bool :=
  match eMask d with
  | 1 =>
    let n := i * eCols d + j
    SMap.getNat x.scratch (eMaddr d + n / 8) 1 / 2 ^ (n % 8) % 2 == 1
  | 2 => decide ((j : Int) ≤ i + eMoff d)
  | _ => true

/-- Positions of a tensor of the operation's shape, row by row. -/
def positions (d : Beat) : List (Nat × Nat) :=
  (List.range (eRows d)).flatMap fun i => (List.range (eCols d)).map fun j => (i, j)

/-- Values converted to S32, those marked counted in KFS (R126). -/
def convS32 (k : Kfs) (vs : List (Num × Bool)) : List Num × Kfs :=
  vs.foldl (fun a v =>
    let (y, k) := cvtPlain 10 .rne a.2 v.1
    (a.1 ++ [y], if v.2 then k else a.2)) ([], k)

/-- X elements of an accumulator: to S32, and under PACK on to the lanes' type, counted like RB's and CB's conversion (R126, R131;
DESIGN CHOICE, log 70). -/
def accStream (rt : Nat) (k : Kfs) (vs : List (Num × Bool)) : List Num × Kfs :=
  let r := convS32 k vs
  if rt = 10 then r
  else (r.1.zip vs).foldl (fun a v =>
    let (y, k) := cvtPlain rt .rne a.2 v.1
    (a.1 ++ [y], if v.2.2 then k else a.2)) ([], r.2)

/-- An input stream: decoded, the format faults of its kept elements counted, converted to S32. An MX block with scale byte 0xFF
that holds an element counted here counts its padding too, as R63's 32 NaNs; one that is masked or replaced counts nothing
(R136, R144; log 79). -/
def loadStream (x : Tile) (d : Beat) (k : Kfs) (a : Nat) (f : Word) (nz : Bool) : List Num × Kfs :=
  let t := eTensor x d a f
  let cnt := fun r c => maskKeep x d r c && !(nz && (t.value r c).isNan)
  let k := k.addFaults (t.sourceFaults (maskKeep x d) cnt)
  let k := { k with nanCount := sat32 (k.nanCount + t.mxPadding cnt) }
  convS32 k ((positions d).map fun p => (t.value p.1 p.2, cnt p.1 p.2))

/-- Broadcast values: `n` words of S32, converted to the packed type under PACK (R131), where each value of the vector counts once in
KFS, masked or not (DESIGN CHOICE, log 82). -/
def broadcast (x : Tile) (a n rt : Nat) (k : Kfs) : List Num × Kfs :=
  (List.range n).foldl (fun st i =>
    let v := ofPlain 10 (SMap.getNat x.scratch (a + 4 * i) 4)
    if rt = 10 then (st.1 ++ [v], st.2)
    else
      let (y, k) := cvtPlain rt .rne st.2 v
      (st.1 ++ [y], k)) ([], k)

/-! ## Reductions (R137 to R141, R146) -/

/-- One level of the pairwise tree. -/
def pairUp (f : Num → Num → Num) : List Num → List Num
  | a :: b :: l => f a b :: pairUp f l
  | l => l

/-- reduce_row (R139): the values of a row, identity where masked, continuing `s`. -/
def reduceRow (f : Num → Num → Num) (idn : Num) (xs : List Num) (s : Num) : Num :=
  (List.range (cdiv xs.length 32)).foldl (fun s g =>
    let v := (List.range 32).map fun l => xs.getD (32 * g + l) idn
    let v := pairUp f (pairUp f (pairUp f (pairUp f (pairUp f v))))
    f s (v.headD idn)) s

/-- A member of a result's set: position, value (none where masked), logical index. -/
structure RMem where
  pos : Nat
  v : Option Num
  idx : Nat

/-- The sets of a reduction, by RAXIS (R138); `v` gives the tapped value of an element. -/
def redSets (d : Beat) (v : Nat → Nat → Option Num) : List (List RMem) :=
  let rows := List.range (eRows d)
  let cols := List.range (eCols d)
  let c := eCols d
  match eRaxis d with
  | 0 => rows.map fun i => cols.map fun j => ⟨j, v i j, i * c + j⟩
  | 1 => [rows.flatMap fun i => cols.map fun j => ⟨i * c + j, v i j, i * c + j⟩]
  | _ => cols.map fun j => rows.map fun i => ⟨i, v i j, i * c + j⟩

/-- Result of a reduction: a value, a number, or a histogram record; with the empty mark. -/
inductive RRes where
  | val (v : Num)
  | num (n : Nat)
  | rec_ (bytes : List Byte)

/-- The running sum of R139 over one set. -/
def accumulate (d : Beat) (ms : List RMem) : Num :=
  let prod := eRedop d == 3
  let idn := if prod then Num.one else Num.zero
  let f := fun a b => roundA36 (if prod then mulX a b else addX a b)
  let term := fun (m : RMem) =>
    match m.v with
    | none => idn
    | some v => if eRedop d = 2 then mulX v v else v
  let vs := ms.map term
  if eRaxis d = 2 then vs.foldl f idn
  else (List.range (cdiv vs.length (eCols d))).foldl
    (fun s r => reduceRow f idn ((vs.drop (r * eCols d)).take (eCols d)) s) idn

/-- Best position for MAX or MIN and their arguments: ties go to the lowest position. -/
def bestOf (lt : Num → Num → Bool) (l : List (Nat × Num)) : Nat × Num :=
  match l with
  | [] => (0, .nan)
  | a :: l => l.foldl (fun b q => if lt b.2 q.2 then q else b) a

/-- The empty result of a REDOP (R138). -/
def emptyRes (op : Nat) : RRes :=
  match op with
  | 3 => .val Num.one
  | 4 => .val (.inf true)
  | 5 => .val (.inf false)
  | 6 => .num 0xFFFFFFFF
  | 7 => .num 0xFFFFFFFF
  | 8 => .num 0
  | 9 => .val .nan
  | _ => .val Num.zero

/-- A reduction's result over one set, and whether it is empty (R138 to R141). -/
def redResult (d : Beat) (ms : List RMem) : RRes × Bool :=
  let kept := ms.filterMap fun m => m.v.map fun v => (m.pos, v)
  let nan := kept.find? fun q => q.2.isNan
  if kept.isEmpty then (emptyRes (eRedop d), true)
  else
    (match eRedop d, nan with
    | 4, some _ => .val .nan
    | 5, some _ => .val .nan
    | 6, some q => .num q.1
    | 7, some q => .num q.1
    | 4, none => .val (bestOf ltX kept).2
    | 5, none => .val (bestOf (fun a b => ltX b a) kept).2
    | 6, none => .num (bestOf ltVal kept).1
    | 7, none => .num (bestOf (fun a b => ltVal b a) kept).1
    | 8, _ => .num kept.length
    | 9, _ => .val (roundA36 (divX (accumulate d ms) (.fin false (kept.length : Rat))))
    | _, _ => .val (accumulate d ms), false)

/-- Exponent of a nonzero finite value. -/
def expOf (v : Num) : Option Int := if v.isFin && !v.isZero then some (ilog2 v.mag) else none

/-- Largest exponent of each block of 32 logical indices, over the kept elements (R146). -/
def blockMax (sets : List (List RMem)) : Nat → Int :=
  let es := sets.flatMap fun ms => ms.filterMap fun m => (m.v.bind expOf).map fun e => (m.idx / 32, e)
  fun b => (es.filter fun e => e.1 == b).foldl (fun a e => max a e.2) (-100000)

/-- This operation's own counts of one set: bins 0 to 31, ZERO, NAN, INF, MASKED (R146). -/
def histCounts (d : Beat) (bmax : Nat → Int) (ms : List RMem) : List Nat :=
  let place := fun (m : RMem) =>
    match m.v with
    | none => 35
    | some v =>
      match v with
      | .nan => 33
      | .inf _ => 34
      | .fin _ q =>
        if q = 0 then 32
        else
          let e := ilog2 q
          if eHmode d then min (bmax (m.idx / 32) - e).toNat 31 else min (e - eHbase d).toNat 31
  let ps := ms.map place
  (List.range 36).map fun i => (ps.filter (· == i)).length

/-- The record of one result, from its counts and the record stored before (R146); SAT says that a sum exceeded 32 bits (DESIGN
CHOICE, log 82). -/
def histRecord (d : Beat) (own : List Nat) (ms : List RMem) (old : List Byte) : List Byte :=
  let es := ms.filterMap fun m => m.v.bind expOf
  let emax : Int := es.foldl max (-2147483648)
  let emin : Int := es.foldl min 2147483647
  let kept := ms.any fun m => m.v.isSome
  let w := fun i => leNat ((old.drop (4 * i)).take 4)
  let sg := fun i => (BitVec.ofNat 32 (w i)).toInt
  let sums := if eHacc d then (List.range 36).map fun i => own.getD i 0 + w i else own
  let emax := if eHacc d then max emax (sg 36) else emax
  let emin := if eHacc d then min emin (sg 37) else emin
  let empty := !kept && (!eHacc d || w 38 % 2 == 1)
  let sat := sums.any (fun n => n > 0xFFFFFFFF) || own.any (fun n => n > 0xFFFFFFFF) || (eHacc d && w 38 / 2 % 2 == 1)
  (sums.flatMap fun n => leBytes 4 (sat32 n)) ++ leBytes 4 (s32 emax) ++ leBytes 4 (s32 emin) ++
    leBytes 4 (bitAt empty 0 + bitAt sat 1) ++ leBytes 4 0

/-! ## Results of the whole operation -/

/-- What a vector operation leaves: tile, escalation requests, the gradient record it adds to. -/
structure VecOut where
  x : Tile
  reqs : List EscReq
  rec_ : Option (Nat × GRec)

/-- A bitmap of empty results at EMAP, and their count (R141); the bits of its last byte past the results are 0 (DESIGN CHOICE, log
82). -/
def writeEmpties (x : Tile) (d : Beat) (es : List Bool) : Tile :=
  let n := (es.filter id).length
  let x := { x with vrs := { x.vrs with empty := sat32 (x.vrs.empty + n) } }
  if eEmap d = 0 then x
  else
    let byte := fun i => (List.range 8).foldl (fun a b => a + bitAt (es.getD (8 * i + b) false) b) 0
    let bs := (List.range (cdiv es.length 8)).map fun i => BitVec.ofNat 8 (byte i)
    { x with scratch := SMap.setBytes x.scratch (eEmap d) bs }

/-- D written through the encoder, or converted under R52 and handed to the bank adders under DACC (R126, R127, R153); `keep`
false leaves an accumulate-store out (R136). With it, the blocks escalated. What came from an MX X goes through the encoder like any
other value (R126), a NaN of an E8M0 0xFF block too (DESIGN CHOICE beside R63, log 79). -/
def writeD (s : State) (x : Tile) (d : Beat) (keep : Nat → Nat → Bool) (v : Nat → Nat → Num) : Tile × Nat :=
  if eDacc d then
    let add := fun (x : Tile) (p : Nat × Nat) =>
      if keep p.1 p.2 then
        let n := p.1 * eCols d + p.2
        let a := eD d + 4 * n
        let (y, k) := cvtPlain 10 (modeAt (eKD d) (randOf s (eTidD d)) n) x.kfs (v p.1 p.2)
        let w := roundIeee 10 (addX (ofPlain 10 (SMap.getNat x.scratch a 4)) y)
        { x with scratch := SMap.setBytes x.scratch a (leBytes 4 (toPlain 10 w)), kfs := k }
      else x
    ((positions d).foldl add x, 0)
  else
    let o := writeTensor (eTensor x d (eD d) (eKD d)) (randOf s (eTidD d)) x.kfs v
    ({ x with scratch := o.mem, kfs := o.kfs }, o.esc)

/-- NaN elements met by the reduction or combine (R143): VRS_NANMAP, NANSEEN and VRS_NAN_FIRST. -/
def noteNans (v : Vrs) (op : Nat) (d : Beat) (map : Word) (idxs : List Nat) : Vrs :=
  let v := { v with nanMap := v.nanMap ||| map }
  match idxs with
  | [] => v
  | i :: l =>
    let v := { v with nanSeen := true }
    let first := match v.firstOp with
      | none => true
      | some n => decide (op < n)
    if first then
      { v with firstOp := some op, nanFirst := pack 64 [(0, 44, l.foldl min i), (44, 20, (eTidX d).toNat)] }
    else v

/-- The record a histogram adds to its ladder entry's current step (R147). -/
def gradAdd (own : List (List Nat)) : GRec :=
  let tot := fun (lo hi : Nat) => (own.map fun c => ((c.drop lo).take (hi - lo)).sum).sum
  ⟨tot 0 32, tot 33 35, tot 18 32, tot 9 32⟩

/-- Reduction results written at RB (R140, R141). -/
def writeResults (s : State) (x : Tile) (d : Beat) (rs : List (RRes × Bool)) : Tile :=
  let kd := eKD d
  let t := kEtype kd
  let n := resultBytes d
  let rd := randOf s (eTidD d + 1)
  let one := fun (x : Tile) (ri : (RRes × Bool) × Nat) =>
    let a := eRB d + ri.2 * n
    match ri.1.1 with
    | .rec_ bs => { x with scratch := SMap.setBytes x.scratch a bs }
    | .num v => { x with scratch := SMap.setBytes x.scratch a (leBytes 4 v) }
    | .val v =>
      if ri.1.2 then { x with scratch := SMap.setBytes x.scratch a (leBytes n (toPlain t v)) }
      else
        let (y, k) := cvtPlain t (modeAt kd rd ri.2) x.kfs v
        { x with scratch := SMap.setBytes x.scratch a (leBytes n (toPlain t y)), kfs := k }
  writeEmpties (rs.zipIdx.foldl one x) d (rs.map (·.2))

/-- CHAIN, CHAIN_REDUCE and SOFTMAX: the chain on every kept element of the tile as the operation has read it. Taps of element
n, oldest first, none where masked; statistics. -/
def chainAll (x : Tile) (d : Beat) (xacc : List A36) : List (Option (List Num)) × Kfs × Vrs :=
  let cs := eSteps x d
  let ss := sels cs
  let rt := if ePack d then kEtype (eKX d) else 10
  let nz := eNanzero d && reduces d && eRtap d == 0
  let ps := positions d
  let (xs, k) :=
    if eXsrc d then
      accStream rt x.kfs ((ps.zip xacc).map fun p =>
        let v := ofA36 p.2
        (v, maskKeep x d p.1.1 p.1.2 && !(nz && v.isNan)))
    else loadStream x d x.kfs (eX d) (eKX d) nz
  let (ys, k) := if ss.contains 2 then loadStream x d k (eY d) (eKY d) false else ([], k)
  let (zs, k) := if ss.contains 3 then loadStream x d k (eZ d) (eKZ d) false else ([], k)
  let (rb, k) := if ss.contains 4 then broadcast x (eRB d) (eRows d) rt k else ([], k)
  let (cb, k) := if ss.contains 5 then broadcast x (eCB d) (eCols d) rt k else ([], k)
  let one := fun (a : List (Option (List Num)) × Vrs) (pn : (Nat × Nat) × Nat) =>
    let (p, n) := pn
    if !maskKeep x d p.1 p.2 then (a.1 ++ [none], a.2)
    else
      let b := fun sel => match sel with
        | 2 => ys.getD n Num.zero
        | 3 => zs.getD n Num.zero
        | 4 => rb.getD p.1 Num.zero
        | _ => cb.getD p.2 Num.zero
      let c := runChain rt cs (xs.getD n Num.zero) b
      (a.1 ++ [some c.taps.reverse],
       { a.2 with nanGen := sat32 (a.2.nanGen + c.gen), domain := sat32 (a.2.domain + c.dom) })
  let (taps, vrs) := ps.zipIdx.foldl one ([], x.vrs)
  (taps, k, vrs)

/-- Softmax of one row (R145): outputs and whether the row is empty; `x` none where masked. -/
def softmaxRow (xs : List (Option Num)) : List Num × Bool :=
  let kept := xs.filterMap id
  if kept.all fun v => v == .inf true then (xs.map fun _ => Num.zero, true)
  else if kept.any fun v => v.isNan || v == .inf false then
    (xs.map fun v => if v.isSome then .nan else Num.zero, false)
  else
    let m := kept.foldl maxNum (.inf true)
    let es := xs.map fun v => v.map fun v => stepVal 10 0x23 Num.zero (roundIeee 10 (addX v m.neg)) Num.zero
    let sum := roundIeee 10 (reduceRow addA Num.zero (es.map fun e => e.getD Num.zero) Num.zero)
    let rc := roundIeee 10 (divX Num.one sum)
    (es.map fun e =>
      match e with
      | some e => roundIeee 10 (mulX e rc)
      | none => Num.zero, false)

/-- Contributors of one element added in order, or pairwise by index (R142). -/
def combineAdd (pairs : Bool) (vs : List Num) : Num :=
  if pairs then (pairUp addA (pairUp addA (pairUp addA (pairUp addA (pairUp addA vs))))).headD Num.zero
  else match vs with
    | [] => Num.zero
    | v :: l => l.foldl addA v

/-- Escalation requests of a vector operation whose D has `n` escalated blocks (R50, R107). -/
def poolReqs (d : Beat) (n : Nat) : List EscReq := List.replicate n ⟨.pool, if eDlv d then [eDladder d] else []⟩

/-- COMBINE (R142 to R144). -/
def runCombine (s : State) (x : Tile) (o : Op) : VecOut :=
  let d := o.desc
  let nz := eNanzero d
  let r := seenBy x o
  let load := fun (a : List (List Num) × Kfs) (c : Nat) =>
    let (v, k) := loadStream r d a.2 (eX d + c * eChain d) (eKX d) nz
    (a.1 ++ [v], k)
  let (xs, k) := (List.range (eC d)).foldl load ([], x.kfs)
  let at_ := fun c n => (xs.getD c []).getD n Num.zero
  let kept := (positions d).zipIdx.filter fun p => maskKeep r d p.1.1 p.1.2
  let bad := fun n => (List.range (eC d)).filter fun c => (at_ c n).isNan
  let nans := kept.filter fun p => !(bad p.2).isEmpty
  let map := (List.range (eC d)).foldl (fun (m : Word) c =>
    if kept.any fun p => (at_ c p.2).isNan then m ||| BitVec.ofNat 32 (2 ^ c) else m) 0
  let cnt := (nans.map fun p => (bad p.2).length).sum
  let vrs := noteNans x.vrs o.id d map (nans.map (·.2))
  let vrs := if nz then { vrs with nanZero := sat32 (vrs.nanZero + cnt) } else vrs
  let val := fun n => combineAdd (eCorder d) ((List.range (eC d)).map fun c =>
    let v := at_ c n
    if nz && v.isNan then Num.zero else v)
  let v := fun i j => if maskKeep r d i j then val (i * eCols d + j) else Num.zero
  let (x, n) := writeD s { x with kfs := k, vrs := vrs } d (maskKeep r d) v
  ⟨x, poolReqs d n, none⟩

/-- CHAIN, CHAIN_REDUCE and SOFTMAX (R123 to R147). A NaN that the chain hands to SOFTMAX counts as NaN input to a reduction (R143;
DESIGN CHOICE, log 82). -/
def runChained (s : State) (x : Tile) (o : Op) : VecOut :=
  let d := o.desc
  let cols := eCols d
  let r := seenBy x o
  let (taps, k, vrs) := chainAll r d o.xacc
  let x := { x with kfs := k, vrs := vrs }
  let lastOf := fun n => (taps.getD n none).map fun l => l.getLastD Num.zero
  let keep := fun i j => (taps.getD (i * cols + j) none).isSome
  let (x, v) : Tile × (Nat → Nat → Num) :=
    if eKind d = 3 then
      let rows := (List.range (eRows d)).map fun i => softmaxRow ((List.range cols).map fun j => lastOf (i * cols + j))
      let nans := (List.range (eRows d * cols)).filter fun n => (lastOf n).any Num.isNan
      let x := writeEmpties { x with vrs := noteNans x.vrs o.id d 0 nans } d (rows.map (·.2))
      (x, fun i j => ((rows.getD i ([], false)).1).getD j Num.zero)
    else (x, fun i j => (lastOf (i * cols + j)).getD Num.zero)
  let (x, rec_) :=
    if reduces d then
      let tap := fun n => (taps.getD n none).map fun l => l.getD (eRtap d) Num.zero
      let nans := (List.range (eRows d * cols)).filter fun n => (tap n).any Num.isNan
      let vrs := noteNans x.vrs o.id d 0 nans
      let vrs := if eNanzero d then { vrs with nanZero := sat32 (vrs.nanZero + nans.length) } else vrs
      let x := { x with vrs := vrs }
      let val := fun i j => (tap (i * cols + j)).map fun v => if eNanzero d && v.isNan then Num.zero else v
      let sets := redSets d val
      let bmax := blockMax sets
      if eRedop d = 10 then
        let own := sets.map (histCounts d bmax)
        let rs := (sets.zip own).zipIdx.map fun so =>
          let old := SMap.getBytes r.scratch (eRB d + 160 * so.2) 160
          ((RRes.rec_ (histRecord d so.1.2 so.1.1 old)), so.1.1.all fun m => m.v.isNone)
        (writeResults s x d rs, if eLvalid d then some (eLadder d, gradAdd own) else none)
      else (writeResults s x d (sets.map (redResult d)), none)
    else (x, none)
  let (x, n) := writeD s x d keep v
  ⟨x, poolReqs d n, rec_⟩

/-- A vector operation of any kind. -/
def runVector (s : State) (x : Tile) (o : Op) : VecOut :=
  if eKind o.desc = 2 then runCombine s x o else runChained s x o

/-! ## Accumulators a vector operation reads (R86, R125) -/

/-- A hazardous group read noted: one for each cycle, with the lowest array (R86). -/
def addHz (hz : List (Nat × Nat)) (c a : Nat) : List (Nat × Nat) :=
  if hz.any (fun h => h.1 == c) then hz.map fun h => if h.1 == c then (c, min h.2 a) else h
  else (hz.filter fun h => h.1 < c) ++ (c, a) :: hz.filter fun h => h.1 > c

/-- Matrix operation `m` writes buffer `buf` of array `a` and row group `rg` is not readable in cycle `c`. -/
def unreadable (m : Op) (buf a rg c : Nat) : Bool :=
  m.kind == .matrix && m.started && mBuf m.desc == buf && (members (mGroup m.desc) (mArray m.desc)).contains a &&
  decide (m.ts ≤ c) && decide (c < m.ts + mReadable m.desc rg)

/-- The accumulators as operation `v` reads them, among matrix operations started so far: the elements that `sel`
picks are taken afresh, the others kept; the chain record is the one read at t_s − 1. -/
def captureAcc (x : Tile) (v : Op) (sel : Nat → Nat → Bool) : Op :=
  let d := v.desc
  let cs := eSteps (seenBy x v) d
  let one := fun (o : Op × List A36) (pn : (Nat × Nat) × Nat) =>
    let (p, n) := pn
    let (a, r, c) := accPlace (eAgroup d) (eAarray d) p.1 p.2
    let at_ := v.ts + eReadAt d cs p.1
    if !sel a at_ then (o.1, o.2 ++ [v.xacc.getD n 0])
    else if x.ops.any fun m => unreadable m (eAbuf d) a (r / 4) at_ then
      ({ o.1 with hz := addHz o.1.hz at_ a }, o.2 ++ [toA36 .nan])
    else (o.1, o.2 ++ [SMap.get 0 x.acc (accKey a (eAbuf d) r c)])
  let r := (positions d).zipIdx.foldl one (v, [])
  { r.1 with xacc := r.2 }

/-- A vector operation reads accumulators. -/
def readsAcc (o : Op) : Bool := o.kind == .vector && eXsrc o.desc && eKind o.desc != 2

/-- Matrix operation `m` has just written its results: vector operations in flight see them in the reads from cycle `now` on. -/
def recapture (x : Tile) (m : Op) (now : Nat) : Tile :=
  let ms := members (mGroup m.desc) (mArray m.desc)
  { x with ops := x.ops.map fun v =>
      if readsAcc v && v.started && eAbuf v.desc == mBuf m.desc then
        captureAcc x v fun a c => ms.contains a && decide (m.ts ≤ c) && decide (now ≤ c)
      else v }

end Sys2Proof.Machine
end

