-- ==== Sys2Proof/Machine/Issue.lean ====
section
/-! DEFINITION. Issue of unit operations, transfers, descriptor loads, sends and receives, with the checks of R195 and
the sampling of the press check (R99 to R101, R162, R193 to R206, R254). -/

namespace Sys2Proof.Machine

/-- The descriptor an issue takes: check 1's PC target, then check 2 of R195 on the group's latch as it stood at the
end of the previous cycle (R193); a reason code where it fails. -/
def latchDesc (s : State) (t th : Nat) (dl : Bool) (optype : Nat) : Except Nat Beat :=
  if !pcOk (pcNext (s.ctx t th)) then .error 2
  else match SMap.get none (s.tile t).dlPrev (2 * (th / 64) + dl.toNat) with
    | none => .error 3
    | some d => if fldN d 0 8 = optype then .ok d else .error 4

/-- Issue of an operation whose descriptor, offsets applied, is planned by `plan`. -/
def issueOp (s : State) (t th : Nat) (i : Instr) (f : TFields) (optype : Nat) (kind : OpKind)
    (off : Beat → Option Word × Option Word × Option Word → Option Beat)
    (plan : State → Nat → Beat → Nat → Option Plan) (after : State → Nat → Beat → State) : State :=
  issued s t th i fun s =>
    match latchDesc s t th f.dl optype with
    | .error r => issueFault s t th r
    | .ok d =>
      let ts := startCycle s f.phase
      match (off d (offRegs (s.ctx t th) f)).bind fun d => plan s t d ts with
      | none => issueFault s t th 5
      | some p =>
        let n := (s.tile t).nextOp
        let s' := launch s t th ts p.uses p.hazard fun id =>
          { id := id, kind := kind, thread := th, desc := p.desc, ts := ts, fin := p.fin, uses := p.uses }
        if (s'.tile t).nextOp = n then s' else after s' n p.desc

/-- Eligible for the press check (R99). -/
def eligible (s : State) (d : Beat) : Bool :=
  mPress d && !mAccInit d && bitB s.pc.ctrlNow 0 && !s.refMode &&
  decide (min (rungOf (kEtype (mKA d))) (rungOf (kEtype (mKB d))) < 5)

/-- Sampled, where eligible (R100). -/
def sampledOp (s : State) (d : Beat) : Bool :=
  let k := fldN s.pc.ctrlNow 1 5
  let r := randOf s 0xFFFFF
  let m := mangle r.seed r.step r.tid (BitVec.ofNat 44 (mLayer d * 2 ^ 32 + mOpid d))
  m.toNat / 2 ^ (32 - k) == 0

/-- `n` sampled operations of an interval are dropped or discarded (R101, R102). -/
def countSkipped (s : State) (n : Nat) : State :=
  if n = 0 then s else s.modPc fun p => { p with skipped := sat32 (p.skipped + n), skippedFlag := true }

/-- Key order of captured operations. -/
def entLt (a b : PressEnt) : Bool := a.layer < b.layer || (a.layer == b.layer && a.opid < b.opid)

/-- A sampled operation joins the open interval, which keeps the 8 smallest keys (R101). -/
def capture (x : Tile) (op : Nat) (d : Beat) : Tile × Nat :=
  let e : PressEnt := ⟨mLayer d, mOpid d, op, d, none, false⟩
  let add := fun (v : Interval) =>
    if v.closed then v
    else
      let l := (v.ents.filter fun a => !entLt e a) ++ e :: v.ents.filter fun a => entLt e a
      { v with ents := l.take 8, pend := v.pend + 1, skipped := v.skipped + (l.length - 8) }
  let over8 := x.press.any fun v => !v.closed && v.ents.length ≥ 8
  ({ x with press := x.press.map add }, if over8 then 1 else 0)

/-- The open interval's number. -/
def openInterval (x : Tile) : Nat := (x.press.getLast?.map (·.id)).getD 0

/-- A matrix operation has issued: it is sampled where it should be (R99 to R101). -/
def afterMatrix (t : Nat) (s : State) (n : Nat) (d : Beat) : State :=
  if eligible s d && sampledOp s d then
    let v := openInterval (s.tile t)
    let s := s.modOp t n fun o => { o with sampled := true, interval := v }
    let (x, k) := capture (s.tile t) n d
    countSkipped ((s.setTile t x).modPc fun p => { p with sampled := sat32 (p.sampled + 1) }) k
  else s

/-- MATRIX (R75, R194, R195, R198). -/
def execMatrix (t th : Nat) (f : TFields) (s : State) : Res :=
  .next (issueOp s t th (.matrix t th f) f 1 .matrix (fun d o => addOffsets d o (128, 32) (160, 32) (288, 32))
    planMatrix (afterMatrix t))

/-- MATVEC (R91, R194, R199). -/
def execMatvec (t th : Nat) (f : TFields) (s : State) : Res :=
  .next (issueOp s t th (.matvec t th f) f 2 .matvec (fun d o => addOffsets d o (128, 32) (160, 32) (192, 32))
    planMatvec fun s _ _ => s)

/-- VECTOR: OX to X, OY to D, OZ to Y (R194, R200). -/
def execVector (t th : Nat) (f : TFields) (s : State) : Res :=
  .next (issueOp s t th (.vector t th f) f 3 .vector (fun d o => addOffsets d o (128, 24) (200, 24) (152, 24))
    planVector fun s _ _ => s)

/-- XFER's offsets: zero-extended, modulo 2^64 (R194). -/
def xferOffsets (d : Beat) (o : Option Word × Option Word × Option Word) : Option Beat :=
  let add := fun (d : Beat) (lo : Nat) (v : Option Word) =>
    match v with
    | some w => setFld d lo 64 (fldN d lo 64 + w.toNat)
    | none => d
  some (add (add d 32 o.1) 96 o.2.1)

/-- A transfer's issue: validity, then the channel's free credits (R254). -/
def xferCredits (s : State) (t : Nat) (d : Beat) : Bool :=
  !xWrite2 d || decide (xBeats d + outUsed (s.tile t) (xChan d) ≤ 512)

/-- XFER (R194, R201 to R204, R254). OZ is reserved (R194), and a write-direction transfer takes its credits at issue. -/
def execXfer (t th : Nat) (f : TFields) (s : State) : Res :=
  let i := Instr.xfer t th f
  let take := fun (s : State) (_ : Nat) (d : Beat) =>
    if xWrite2 d then s.modTile t fun x => setOut x (xChan d) (outUsed x (xChan d) + xBeats d) else s
  .next (
    if bitB f.off 2 then issued s t th i fun s => issueFault s t th 1
    else
      let refused := fun (s : State) =>
        match latchDesc s t th f.dl 4 with
        | .error _ => false
        | .ok d =>
          match (xferOffsets d (offRegs (s.ctx t th) f)).bind fun d => planXfer s t d (startCycle s f.phase) with
          | some p => !xferCredits s t p.desc
          | none => false
      if refused s then issued s t th i fun s => issueFault s t th 8
      else issueOp s t th i f 4 .xfer xferOffsets planXfer take)

/-- An address of `n` beats in the scratchpad (R193, R205, R206). -/
def beatsOk (a n : Nat) : Bool := a % 64 == 0 && decide (a + 64 * n ≤ spBytes)

/-- DLOAD: one read of the bank that holds the descriptor, in cycle t_s (R193). -/
def execDload (t th : Nat) (f : DFields) (s : State) : Res :=
  .next (issued s t th (.dload t th f) fun s =>
    let a := (reg (s.ctx t th) f.sa + f.imm.setWidth 32).toNat
    if !pcOk (pcNext (s.ctx t th)) || !beatsOk a 1 then issueFault s t th 2
    else
      let ts := startCycle s f.phase
      let us : List Use := [⟨a / 0x20000, ts, ts⟩]
      launch s t th ts us none fun id =>
        { id := id, kind := .dload, thread := th, ts := ts, fin := ts, uses := us, addr := a, cnt := f.cnt, dl := f.dl })

/-- A send or a receive of NFLIT + 1 flits from S[SA] upward (R205). -/
def issueNet (s : State) (t th : Nat) (i : Instr) (f : NFields) (kind : OpKind) (port : Nat) : State :=
  issued s t th i fun s =>
    let a := (reg (s.ctx t th) f.sa).toNat
    let n := f.nflit.toNat
    if !pcOk (pcNext (s.ctx t th)) || !beatsOk a (n + 1) then issueFault s t th 2
    else
      let ts := startCycle s f.phase
      let us := (⟨port + f.port.toNat, ts, ts + n⟩ : Use) :: rowUses a (n + 1) ts
      launch s t th ts us none fun id =>
        { id := id, kind := kind, thread := th, ts := ts, fin := ts + n, uses := us, addr := a, cnt := f.cnt,
          port := f.port, nflit := n }

/-- SEND (R205): outbound ports are resources 29 to 32. -/
def execSend (t th : Nat) (f : NFields) (s : State) : Res := .next (issueNet s t th (.send t th f) f .send 29)

/-- RECV (R205): inbound ports have no slot table. -/
def execRecv (t th : Nat) (f : NFields) (s : State) : Res := .next (issueNet s t th (.recv t th f) f .recv 33)

end Sys2Proof.Machine
end

