-- ==== Sys2Proof/Machine/UnitEvents.lean ====
section
/-! DEFINITION. Unit events: operation start, completions, flits of the on-die network and instruction fills (R158, R162,
R164, R166, R175, R193, R202 to R205, R218). -/

namespace Sys2Proof.Machine

/-! ## What completions share -/

/-- Requests attached to the tile's open press interval, their entries named in this step (R107, R113). -/
def attachReqs (s : State) (t : Nat) (rs : List EscReq) : State :=
  if rs.isEmpty then s
  else
    let s := s.modTile t fun x =>
      { x with press := x.press.map fun v => if v.closed then v else { v with reqs := v.reqs ++ rs } }
    s.modPc fun p => { p with named := (p.named ++ rs.flatMap (·.entries)).eraseDups }

/-- The completion signal of a unit operation (R166). -/
def opSignal (s : State) (t : Nat) (o : Op) : State := signalLocal s (s.tile t).gang t (dCnt o.desc) (dAmt o.desc)

/-- The operation `op` of kind `k`, started and past the last event of its timing table. -/
def completable (s : State) (t op : Nat) (k : OpKind) : Option Op :=
  (s.op? t op).filter fun o => o.kind == k && o.started && decide (o.fin ≤ s.clk.cycle)

/-! ## Hazardous reads (R86) -/

/-- Hazardous group reads of one operation that have come: each counts, the operation's first is a slot fault. -/
def hazardOp (t : Nat) (s : State) (o : Op) : State :=
  let c := s.clk.cycle
  match o.hz.filter fun h => h.1 ≤ c with
  | [] => s
  | h :: l =>
    let s := s.modOp t o.id fun o => { o with hz := o.hz.filter (fun h => h.1 > c), hazarded := true }
    let s := s.modTile t fun x => { x with mxs := { x.mxs with hazard := sat32 (x.mxs.hazard + l.length + 1) } }
    if o.hazarded then s else slotFault s t (some o.thread) 3 (16 + h.2) (s.slotAt h.1) 0

def hazardDue (s : State) (t : Nat) : State := (s.tile t).ops.foldl (hazardOp t) s

/-! ## The on-die network (R164, R175, R205) -/

/-- The adjacent tile behind an outbound port and its inbound port: ports 0 N, 1 E, 2 S, 3 W, rows rising southward and
columns eastward (PRESUMED; log 45). -/
def neighbour (t port : Nat) : Option (Nat × Nat) :=
  match port with
  | 0 => if t % 512 / 32 = 0 then none else some (t - 32, 2)
  | 1 => if t % 32 = 31 then none else some (t + 1, 3)
  | 2 => if t % 512 / 32 = 15 then none else some (t + 32, 0)
  | _ => if t % 32 = 0 then none else some (t - 1, 1)

/-- A bridge channel: the dies it joins, from and to, and the cycles a flit takes. C0 (die 0) meets C1 (die 1) and L0 (die 2), C1
meets L1 (die 3) (R18, R176); the order in which the channels stand in the section is the model's (log 78). -/
def channelEnds (ch : Nat) : Nat × Nat × Nat :=
  if ch < 84 then (0, 1, 6) else if ch < 168 then (1, 0, 6) else if ch < 210 then (0, 2, 4) else if ch < 252 then (2, 0, 4)
  else if ch < 294 then (1, 3, 4) else (3, 1, 4)

/-- The lowest channel from the tile's die that carries its row's W or E edge port in cycle `c` (R176). -/
def edgeChannel (s : State) (t port c : Nat) : Option Nat :=
  (List.range 336).find? fun ch =>
    (channelEnds ch).1 == t / 512 && channelSender s ch c == 0x1000 + t % 512 / 32 + (if port = 1 then 16 else 0)

/-- A flit leaves a port in cycle `c` and arrives at `c` + 2 (R175); at an edge it enters the bridge channel whose slot is its
own (R176), or leaves the die and is carried by none. -/
def leavePort (s : State) (t port c : Nat) (f : Beat) : State :=
  match neighbour t port with
  | some (u, q) => { s with wires := s.wires ++ [⟨u, q, c + 2, f⟩] }
  | none =>
    match if port % 2 = 1 then edgeChannel s t port c else none with
    | some ch =>
      let (_, die, n) := channelEnds ch
      { s with crossing := s.crossing ++ [⟨die, ch, c + n, f⟩] }
    | none => { s with edgeOut := s.edgeOut ++ [⟨t, port, c, f⟩] }

/-- The lowest outbound port whose entry forwards inbound port `port` in this cycle (R160, R164). -/
def forwardPort (s : State) (t port : Nat) : Option Nat :=
  (List.range 4).find? fun q => owner s t (29 + q) s.clk.cycle == 0x44 + port

/-- The receive in flight whose cycle this is, its flit of this cycle still to come. -/
def receiver (s : State) (t port : Nat) : Option Op :=
  let c := s.clk.cycle
  (s.tile t).ops.find? fun o => o.kind == .recv && o.port.toNat == port && decide (o.ts ≤ c) && decide (c ≤ o.fin) &&
    decide (o.got ≤ c - o.ts)

/-- A flit arrives on an inbound port (R164): forwarded, taken by a receive, or discarded with a slot fault. -/
def takeFlit (s : State) (t port : Nat) (f : Beat) : State :=
  let c := s.clk.cycle
  match forwardPort s t port with
  | some q => leavePort s t q c f
  | none =>
    match receiver s t port with
    | some o =>
      let s := if o.bad then s
        else s.modTile t fun x => { x with scratch := SMap.setBeat x.scratch (o.addr + 64 * (c - o.ts)) f }
      s.modOp t o.id fun o => { o with got := c - o.ts + 1 }
    | none => slotFault s t none 5 0xFF s.slotN 0

/-- A flit that no tile of the die has sent can arrive on an inbound port, one in a cycle: the port behind it drained a boundary
buffer or a bridge in the cycle in which the flit left it (DRAIN, R160); a row's own edge port drains a bridge in this cycle
(R176; log 46). -/
def drainsTo (s : State) (t port : Nat) : Bool :=
  !(s.tile t).slotUsed.contains (33 + port) &&
  match neighbour t port with
  | some (u, q) => decide (2 ≤ s.clk.cycle) && owner s u (29 + q) (s.clk.cycle - 2) == 0x42
  | none => port % 2 == 1 && owner s t (29 + port) s.clk.cycle == 0x42

/-- The port's DRAIN slot of this cycle is used. -/
def useDrain (s : State) (t port : Nat) : State := s.modTile t fun x => { x with slotUsed := (33 + port) :: x.slotUsed }

/-- The flit leaves the bridge: of those that have reached the tile's die, the oldest that it equals (R176). One that equals none
comes from a boundary buffer (R160). -/
def leaveBridge (s : State) (t : Nat) (f : Beat) : State :=
  match s.crossing.find? fun b => b.die == t / 512 && decide (b.at_ ≤ s.clk.cycle) && b.flit == f with
  | some b => { s with crossing := s.crossing.erase b }
  | none => s

/-- INBOUND_FLIT (R164): a flit on its way that is due on this port, or, with none due, one from a bridge or a boundary buffer in
a cycle that drains it. -/
def execInboundFlit (t : Nat) (port : BitVec 2) (f : Beat) (s : State) : Res :=
  let p := port.toNat
  .next (
    if !tilesRun s || idleNow s || (s.tile t).gang.isNone then s
    else match s.wires.find? fun w => w.tile == t && w.port == p && decide (w.at_ ≤ s.clk.cycle) with
      | some w => if w.flit == f then takeFlit { s with wires := s.wires.erase w } t p f else s
      | none => if drainsTo s t p then takeFlit (leaveBridge (useDrain s t p) t f) t p f else s)

/-! ## The local side of a transfer, beat by beat (R202, R204, R218) -/

/-- The memory of a kind replaced. -/
def setKindMem (x : Tile) (k : Nat) (m : SMap Byte) : Tile :=
  if k = 1 then { x with hamper := m } else { x with scratch := m }

/-- Words of the hamper read uncorrectable: free values stand in their place (R218, log 3). -/
def spoiled (s : State) (m : SMap Byte) (ue : List Nat) : SMap Byte :=
  ue.zipIdx.foldl (fun m e => SMap.setBytes m (e.1 / 8 * 8) (leBytes 8 (Config.freeBits (s.free + e.2)).toNat)) m

/-- Hamper errors met by a transfer that reads it (R218). -/
def hamperErrors (s : State) (t ce : Nat) (ue : List Nat) : State :=
  let s := s.modStg fun g => { g with ce := sat32 (g.ce + ce) }
  ue.foldl (fun s a =>
    let loc : Word := pack 32 [(0, 20, a), (20, 10, t), (31, 1, 1)]
    let s := (setLocal s 6).modStg fun g =>
      { g with ue := sat32 (g.ue + 1), ueLoc := if bitB g.ueLoc 31 then g.ueLoc else loc }
    ledger { s with free := s.free + 1 } 2 1 0x0104 t loc.toNat) s

/-- The high-water mark of a hamper written up to `e` (R235). -/
def noteHwm (s : State) (k e : Nat) : State :=
  if k = 1 then s.modStg fun g => { g with hwm := max g.hwm e } else s

/-- The beat at `a` of a transfer's local source as read, its hamper errors counted. -/
def readLocal (s : State) (t : Nat) (o : Op) (a : Nat) : Beat × State :=
  let m := kindMem (s.tile t) (xSkind o.desc)
  if xSkind o.desc = 1 then
    let at_ := fun (ws : List Nat) => ws.filter fun w => w / 64 == a / 64
    (SMap.getBeat (spoiled s m (at_ o.ueWords)) a, hamperErrors s t (at_ o.ceWords).length (at_ o.ueWords))
  else (SMap.getBeat m a, s)

/-- The next beat of a local source is read into the operation's buffer. -/
def readNext (s : State) (t id : Nat) : State :=
  match s.op? t id with
  | none => s
  | some o =>
    if xSkind o.desc = 2 || o.stopped || xBeats o.desc ≤ o.reqd then s
    else
      let (b, s) := readLocal s t o (xSrcAt o.desc o.reqd)
      s.modOp t id fun o => { o with buf := o.buf ++ [(o.reqd, xDstAt o.desc o.reqd, b, false)], reqd := o.reqd + 1 }

/-- The oldest beat read of a copy between kinds 0 and 1 is written to its destination. -/
def writeNext (s : State) (t id : Nat) : State :=
  match s.op? t id with
  | none => s
  | some o =>
    match o.buf with
    | [] => s
    | (_, a, b, _) :: l =>
      if xKind2 o then s
      else
        let s := s.modTile t fun x => setKindMem x (xDkind o.desc) (SMap.setBeat (kindMem x (xDkind o.desc)) a b)
        noteHwm (s.modOp t id fun o => { o with buf := l, done := o.done + 1 }) (xDkind o.desc) (a + 64)

/-- What a started transfer moves in the cycle in progress: beat i is read in t_s + i and written in t_s + i + 2 (R202,
R204). -/
def xferCycle (t : Nat) (s : State) (o : Op) : State :=
  let c := s.clk.cycle
  if o.kind != .xfer || !o.started || xConv o.desc then s
  else
    let s := if o.ts + o.reqd ≤ c then readNext s t o.id else s
    if o.ts + o.done + 2 ≤ c then writeNext s t o.id else s

/-- Words of the hamper that an operation's further reads find corrected and uncorrectable (R218). -/
def foundWords (s : State) (t id : Nat) (ce ue : List Nat) : State :=
  s.modOp t id fun o => { o with ceWords := o.ceWords ++ ce, ueWords := o.ueWords ++ ue }

/-- The beats of a copy between kinds 0 and 1 that are still to be moved at its end, each written two reads behind. -/
def copyRest (s : State) (t : Nat) (o : Op) : State :=
  (List.range (xBeats o.desc + 2)).foldl (fun s _ =>
    let s := readNext s t o.id
    match s.op? t o.id with
    | some p => if p.done + 3 ≤ p.reqd || xBeats p.desc ≤ p.reqd then writeNext s t o.id else s
    | none => s) s

/-- The next flit of a send, read in t_s + i and leaving in that cycle (R205). -/
def sendNext (s : State) (t id : Nat) : State :=
  match s.op? t id with
  | none => s
  | some o =>
    if o.nflit < o.got then s
    else
      let f := SMap.getBeat (s.tile t).scratch (o.addr + 64 * o.got)
      leavePort (s.modOp t id fun o => { o with got := o.got + 1 }) t o.port.toNat (o.ts + o.got) f

/-- The flit of a send whose cycle this is. -/
def sendCycle (t : Nat) (s : State) (o : Op) : State :=
  if o.kind == .send && o.started && decide (o.ts + o.got ≤ s.clk.cycle) then sendNext s t o.id else s

/-- The flits of a send that are still to leave at its end. -/
def sendRest (s : State) (t : Nat) (o : Op) : State :=
  (List.range (o.nflit + 1 - o.got)).foldl (fun s _ => sendNext s t o.id) s

/-! ## Operation start (R162) -/

/-- A transfer starts: requests of a read direction (R252). A conversion reads its source, a hamper with the errors it finds
(R203, R218). -/
def startXfer (s : State) (t : Nat) (o : Op) : State :=
  if xConv o.desc then
    let x := s.tile t
    let rs := (xSrcT x o.desc).regions
    let own := fun (ws : List Nat) => if xSkind o.desc = 1 then ws.filter fun w => rs.any fun r => r.1 ≤ w && w < r.2 else []
    let ue := own o.ueWords
    let s' := s.modOp t o.id fun o => { o with seen := some (x.scratch, spoiled s x.hamper ue) }
    hamperErrors s' t (own o.ceWords).length ue
  else if xRead2 o.desc then requestAll s t o.id
  else s

/-- A descriptor load: the latch is written and full, and its counter rises (R193). -/
def loadLatch (s : State) (t : Nat) (o : Op) : State :=
  let k := 2 * (o.thread / 64) + o.dl.toNat
  let s := s.modTile t fun x => { x with dl := SMap.set none x.dl k (some (SMap.getBeat x.scratch o.addr)) }
  signalLocal (s.dropOp t o.id) (s.tile t).gang t o.cnt.toNat 1

/-- A matrix operation's results, read by vector operations in flight from now on (R71, R86). All counts of its operands and
results but MXS_OP_COUNT rise here, at its start (DESIGN CHOICE: R89 gives no cycle for them; log 80). -/
def startMatrix (s : State) (t : Nat) (o : Op) : State :=
  let r := runMatrix (seenBy (s.tile t) o) o.desc
  let s := s.modTile t fun x => { x with acc := r.acc, mxs := r.mxs, kfs := r.kfs }
  let s := s.modOp t o.id fun o => { o with reqs := r.reqs }
  s.modTile t fun x => recapture x o s.clk.cycle

/-- A vector operation's streams and accumulator reads (R86, R125, R471). -/
def startVector (s : State) (t : Nat) (o : Op) : State :=
  let x := s.tile t
  let o := { o with seen := some (x.scratch, []) }
  let v := if readsAcc o then captureAcc x o fun _ _ => true else o
  s.modOp t o.id fun _ => v

/-- The operation leaves its start latches and begins (R162). -/
def beginOp (s : State) (t : Nat) (o : Op) : State :=
  let s := s.modOp t o.id fun _ => o
  match o.kind with
  | .matrix => startMatrix s t o
  | .matvec => s.modOp t o.id fun o => { o with seen := some ((s.tile t).scratch, []) }
  | .vector => startVector s t o
  | .xfer => startXfer s t o
  | .dload => loadLatch s t o
  | .send => s
  | .recv => s

/-- OPERATION_START: the operation's first cycle has come (R162, R193 to R205, R252). -/
def execOperationStart (t : Nat) (op : OpStart) (s : State) : Res :=
  .next (
    match s.op? t op.op with
    | some o =>
      if !o.started && decide (o.ts ≤ s.clk.cycle) && tilesRun s && !idleNow s then
        beginOp s t { o with started := true, ceWords := op.ce, ueWords := op.ue }
      else s
    | none => s)

/-! ## Completions -/

/-- The snapshot of a sampled operation over its elements, and one fewer completion for its interval to wait for
(R101). -/
def pressCapture (x : Tile) (o : Op) : Tile :=
  let snap := (outElems o.desc).map fun e =>
    SMap.get 0 x.acc (outKey (mGroup o.desc) (mArray o.desc) (mBuf o.desc) e.1 e.2)
  let ent := fun (e : PressEnt) => if e.op = o.id then { e with snap := some snap } else e
  { x with press := x.press.map fun v =>
      if v.id = o.interval then { v with pend := v.pend - 1, ents := v.ents.map ent } else v }

/-- MATRIX_COMPLETE (R70, R89, R101, R107). -/
def execMatrixComplete (t op : Nat) (s : State) : Res :=
  .next (
    match completable s t op .matrix with
    | none => s
    | some o =>
      let s := s.modTile t fun x => { x with mxs := { x.mxs with ops := sat32 (x.mxs.ops + 1) } }
      let s := if o.sampled then s.modTile t fun x => pressCapture x o else s
      opSignal (attachReqs (s.dropOp t op) t o.reqs) t o)

/-- MATVEC_COMPLETE (R91 to R93, R107). -/
def execMatvecComplete (t op : Nat) (s : State) : Res :=
  .next (
    match completable s t op .matvec with
    | none => s
    | some o =>
      let (x, rs) := runMatvec s (seenBy (s.tile t) o) (s.tile t) o.desc
      let s := s.setTile t { x with mxs := { x.mxs with ops := sat32 (x.mxs.ops + 1) } }
      opSignal (attachReqs (s.dropOp t op) t rs) t o)

/-- A histogram's sums joined to a ladder entry's record of the step (R114, R147); the gradient-format policy does not run in
reference mode (R121). A sum stops at 0xFFFF_FFFF (DESIGN CHOICE, log 82). -/
def addRecord (s : State) (n : Nat) (g : GRec) : State :=
  if s.refMode then s
  else s.modPc fun p => { p with grec := SMap.upd {} p.grec n fun r =>
    { nz := sat32 (r.nz + g.nz), ovf := sat32 (r.ovf + g.ovf), unf8 := sat32 (r.unf8 + g.unf8)
      unf6 := sat32 (r.unf6 + g.unf6) } }

/-- VECTOR_COMPLETE (R133 to R147, R107). -/
def execVectorComplete (t op : Nat) (s : State) : Res :=
  .next (
    match completable s t op .vector with
    | none => s
    | some o =>
      let r := runVector s (s.tile t) o
      let s := s.setTile t { r.x with vrs := { r.x.vrs with ops := sat32 (r.x.vrs.ops + 1) } }
      let s := match r.rec_ with
        | some (n, g) => addRecord s n g
        | none => s
      opSignal (attachReqs (s.dropOp t op) t r.reqs) t o)

/-- A conversion (R203, R61 to R64) of the source as `r` holds it: what it writes. An import to B16 counts 32 NaNs for a block
with scale byte 0xFF, its padding among them (R63). -/
def convert (s : State) (r x : Tile) (d : Beat) : Wrote :=
  let all := fun _ _ => true
  let st := xSrcT r d
  let dt := xDstT x d
  let val := fun r c => if xTrans d then st.value c r else st.value r c
  let kfs := x.kfs.addFaults (st.sourceFaults all all)
  if kMx st.k != 0 && kMx dt.k = 0 then
    if kEtype dt.k = 8 then
      writeTensor dt (randOf s (xTid d)) { kfs with nanCount := sat32 (kfs.nanCount + st.mxPadding all) } val
    else
      let a := (List.range dt.nBlocks).foldl (importStep st dt) ⟨dt.mem, kfs, 0, [], 0⟩
      ⟨a.mem, a.kfs, 0⟩
  else writeTensor dt (randOf s (xTid d)) kfs val

/-- A conversion carried out on the tile. -/
def runConvert (s : State) (t : Nat) (op : Op) : State :=
  let d := op.desc
  let o := convert s (seenBy (s.tile t) op) (s.tile t) d
  let s := s.modTile t fun x => { setKindMem x (xDkind d) o.mem with kfs := o.kfs }
  let e := ((xDstT (s.tile t) d).regions.map (·.2)).foldl max 0
  let s := noteHwm s (xDkind d) e
  attachReqs s t (List.replicate o.esc ⟨.pool, if xDlv d then [xDladder d] else []⟩)

/-- XFER_COMPLETE (R202 to R204, R253): a conversion writes its destination, a copy between kinds 0 and 1 the beats that are due
by now, and the transfer signals. `ce` and `ue` are the words of the hamper that the reads still to be made find corrected and
uncorrectable, beside those told at its start (R218). -/
def execXferComplete (t op : Nat) (ce ue : List Nat) (s : State) : Res :=
  .next (
    match completable s t op .xfer with
    | none => s
    | some o =>
      if xKind2 o then (if xferDone s t o then finishXfer s t o else s)
      else finishXfer (if xConv o.desc then runConvert s t o else copyRest (foundWords s t op ce ue) t o) t o)

/-- SEND_COMPLETE (R205), the flits due by now leaving first. -/
def execSendComplete (t op : Nat) (s : State) : Res :=
  .next (
    match completable s t op .send with
    | none => s
    | some o => signalLocal ((sendRest s t o).dropOp t op) (s.tile t).gang t o.cnt.toNat 1)

/-- RECV_COMPLETE (R205): a receive that has faulted applies no signal. -/
def execRecvComplete (t op : Nat) (s : State) : Res :=
  .next (
    match completable s t op .recv with
    | none => s
    | some o =>
      let s' := s.dropOp t op
      if o.bad then s'
      else if o.got = o.nflit + 1 then signalLocal s' (s.tile t).gang t o.cnt.toNat 1
      else s)

/-! ## Instruction fills (R158) -/

/-- The bank's slot of this cycle serves engine `code` and has not been used (R160). -/
def bankSlot (s : State) (t bank code : Nat) : Bool :=
  tilesRun s && !idleNow s && owner s t bank s.clk.cycle == code && !(s.tile t).slotUsed.contains bank

/-- FETCH_FILL: the bank's oldest request raised before this cycle is served (R158). -/
def execFetchFill (t bank : Nat) (s : State) : Res :=
  .next (
    if !bankSlot s t bank 0x43 then s
    else match (s.tile t).fills.find? fun f => f.1 / 0x20000 == bank && decide (f.2 < s.clk.cycle) with
      | none => s
      | some f =>
        s.modTile t fun x =>
          let pc : Word := BitVec.ofNat 32 f.1
          { x with fills := x.fills.erase f, slotUsed := bank :: x.slotUsed
                   fetch := SMap.set none x.fetch (lineIdx pc) (some ⟨lineTag pc, SMap.getBeat x.scratch f.1⟩) })

end Sys2Proof.Machine
end

