-- ==== Sys2Proof/Machine/Seam.lean ====
section
/-! DEFINITION. Seams and what holds a gang at one, press checks and verdicts (R101 to R110, R120, R170 to R173, R178,
R216, R226). -/

namespace Sys2Proof.Machine

/-! ## Holds (R172) -/

/-- No operation, transfer or mover descriptor of the gang is in flight and no start latch is full (R170, R172); a
transfer or descriptor that a fault holds does not count where `heldOk` is true. -/
def gangQuiet (s : State) (g : Nat) (heldOk : Bool) : Bool :=
  s.tiles.all (fun e => e.2.gang != some g || e.2.ops.all fun o => heldOk && o.held.isSome) &&
  s.movers.all fun m => m.2.queue.all fun q => q.gang != g || (heldOk && m.2.held.isSome)

/-- The gang takes no further part in the step in progress (R172, R216). -/
def outOfStep (s : State) (g : Nat) : Bool :=
  s.stg.st != .running || !bitB s.stg.gangs g || bitB s.stg.gangDone g

/-- A gang quiescent at EC[0] (R172). -/
def quiescent (s : State) (g : Nat) : Bool :=
  outOfStep s g && gangQuiet s g false &&
  s.tiles.all fun e => e.2.gang != some g || e.2.threads.all fun c =>
    c.2.st == .empty || c.2.st == .halt || (c.2.st == .run && c.2.waiting && c.2.wcnt == 0)

/-- The gang has taken its seam and the events that hold it there are examined: from t0 + 2 on (R171). -/
def seamExamined (s : State) (g : Nat) : Bool := (s.gang g).seamAt.any fun t0 => t0 + 2 ≤ s.clk.cycle

/-- The gang is held at its seam, or quiescent at EC[0], or was so when the hold now due began: it has issued nothing since, even
if EC[0] has risen or a step has named it meanwhile (R172). -/
def gangStopped (s : State) (g : Nat) : Bool := seamExamined s g || (s.gang g).heldQuiet || quiescent s g

/-- Every gang is held at its seam, or quiescent at EC[0] (R172). -/
def allHeld (s : State) : Bool := s.gangList.all (gangStopped s)

/-- A hold other than a snapshot's: pre-emption, Rest and darning leave fetch buffers and descriptor latches empty (R174,
R207). -/
def carryDue (s : State) : Bool := holdDue { s with flt := { s.flt with snapPend := none } }

/-- Fetch buffer and descriptor latches emptied. -/
def emptyTile (x : Tile) : Tile := { x with fetch := [], fills := [], dl := [], dlPrev := [] }

/-- A gang quiescent at EC[0] is held: it issues nothing from the cycle in which its hold begins (R172). -/
def holdGang (s : State) (g : Nat) : State :=
  if (s.gang g).seamAt.isSome || !((s.gang g).heldQuiet || quiescent s g) then s
  else
    let s := s.modGang g fun x => { x with heldQuiet := true }
    if carryDue s then (s.gangTiles g).foldl (fun s t => s.modTile t emptyTile) s else s

/-- The quiescent gangs are held from now until the hold ends (R172). -/
def beginHold (s : State) : State := s.gangList.foldl holdGang s
def endHold (s : State) : State := s.gangList.foldl (fun s g => s.modGang g fun x => { x with heldQuiet := false }) s

/-! ## The seam (R170, R171) -/

/-- The mark at which the gang's threads stand. -/
def gangMark (s : State) (g : Nat) : Option (Word × BitVec 2) :=
  s.tiles.findSome? fun e =>
    if e.2.gang == some g then e.2.threads.findSome? fun c => if c.2.st == .seam then some (c.2.markNo, c.2.markSet) else none
    else none

/-- The gang can take its seam in this cycle (R168, R170). -/
def canTake (s : State) (g : Nat) : Bool :=
  tilesRun s && !(s.gang g).frozen && (s.gang g).seamAt.isNone && gangArrived s g && gangQuiet s g false

/-- Each raised entry of the gang takes the largest raised rung of the gang's lists `rs` (R110). -/
def applyRaises (s : State) (g : Nat) (rs : List Raise) : State :=
  let s := (s.pc.ladder.filter fun e => e.2.valid && e.2.gang == g).foldl
    (fun s e => s.modLadder e.1 fun l => { l with raised := false }) s
  rs.foldl (fun s r => s.modLadder r.entry fun l =>
    { l with rung := max l.rung (min r.rung l.ceil), raised := true, clean := 0, records := 0 }) s

/-- The intervals of a tile at its seam (R102, R110, R120): entries discarded, requests left unresolved, verdict counters raised,
the PCT registers cleared. -/
def closePress (t : Nat) (s : State) : State :=
  let x := s.tile t
  let s := countSkipped s ((x.press.map fun v => v.ents.length).sum)
  let s := (x.press.flatMap (·.reqs)).foldl (fun s _ => escFail s) s
  let s := (x.press.filter (·.closed)).foldl (fun s v => signalLocal s x.gang t v.cnt.toNat 1) s
  let n := (x.press.getLast?.map (·.id + 1)).getD 0
  s.modTile t fun x =>
    { x with press := [({ id := n } : Interval)], pressCycles := 0, pressOn := none, raises := [], pctVerdict := 0 }

/-- What a tile's seam does at t0: its number recorded, fetch buffer and descriptor latches emptied (R158, R171, R181, R193). -/
def seamTile (no : Word) (x : Tile) : Tile := { emptyTile x with ts := { x.ts with seam := no } }

/-- A step seam ends a named gang's step; the last one completes the module's part (R216, R226). -/
def stepSeam (s : State) (g : Nat) (no : Word) : State :=
  if bitB no 31 && s.stg.st == .running && bitB s.stg.gangs g then
    let s := s.modStg fun x => { x with gangDone := x.gangDone ||| BitVec.ofNat 64 (2 ^ g) }
    if s.stg.gangDone &&& s.stg.gangs == s.stg.gangs then localComplete s else s
  else s

/-- The next actions of a gang at its seam (R171): at t0 + 1 its intervals are closed and its raises applied, at t0 + 2 the table
set named at the mark becomes active. -/
def seamCycle (s : State) (g : Nat) : State :=
  match (s.gang g).seamAt with
  | none => s
  | some t0 =>
    if s.clk.cycle = t0 + 1 then
      let rs := (s.tiles.filter fun e => e.2.gang == some g).flatMap fun e => e.2.raises
      applyRaises ((s.gangTiles g).foldl (fun s t => closePress t s) s) g rs
    else if s.clk.cycle = t0 + 2 then
      (s.gangTiles g).foldl (fun s t => s.modTile t fun x => { x with tset := (s.gang g).markSet }) s
    else s

/-- What every gang does as a cycle begins: the seam's timetable, and holds of quiescent gangs that begin or end (R171, R172). -/
def gangCycle (s : State) : State :=
  let s := s.gangList.foldl seamCycle s
  if holdDue s then beginHold s else endHold s

/-- SEAM_TAKE: what R171 gives t0; a step seam ends the gang's step in that cycle (R216). -/
def execSeamTake (g : Nat) (s : State) : Res :=
  .next (
    match gangMark s g with
    | none => s
    | some (no, ts) =>
      if !canTake s g then s
      else
        let s := s.modGang g fun x => { x with seamAt := some s.clk.cycle, markSet := ts }
        let s := (s.gangTiles g).foldl (fun s t => s.modTile t (seamTile no)) s
        stepSeam s g no)

/-- Threads run on past their mark, ring position reset (R157, R171). -/
def leaveTile (x : Tile) : Tile :=
  { x with last := x.ring.length - 1, breaches := 0
           threads := x.threads.map fun c =>
             if c.2.st == .seam then (c.1, { c.2 with st := .run }) else c }

/-- The gang leaves its seam; each breach it received is a slot fault (R171, R173). -/
def leaveSeam (s : State) (g : Nat) : State :=
  let ts := s.gangTiles g
  let br := ts.flatMap fun t => List.replicate (s.tile t).breaches t
  let s := s.modGang g fun x => { x with seamAt := none }
  let s := s.modFlt fun f => { f with darnHold := f.darnHold.erase g }
  let s := ts.foldl (fun s t => s.modTile t leaveTile) s
  br.foldl (fun s t => slotFault s t none 6 0xFF s.slotN 0) s

/-- SEAM_LEAVE: the first cycle with slot index 0 at or after t0 + 8, once nothing holds the gang (R171, R172). -/
def execSeamLeave (g : Nat) (s : State) : Res :=
  .next (
    match (s.gang g).seamAt with
    | none => s
    | some t0 =>
      if tilesRun s && !idleNow s && s.slotN == 0 && decide (t0 + 8 ≤ s.clk.cycle) && !holdDue s then leaveSeam s g
      else s)

/-! ## Press checks (R103 to R106) -/

/-- The check that has had press-owned cycles and is not over. -/
def startedCheck (x : Tile) : Option (Interval × PressEnt) :=
  x.pressOn.bind fun p => (x.press.find? fun v => v.id == p.1).bind fun v =>
    (v.ents.find? fun e => e.op == p.2.1 && !e.checked).map fun e => (v, e)

/-- The check the press engine is on: the one under way; else the lowest key not yet checked of the oldest closed interval whose
operations are complete (the model starts no check before its press point, R103). -/
def currentCheck (x : Tile) : Option (Interval × PressEnt) :=
  (startedCheck x).orElse fun _ =>
    (x.press.find? fun v => v.closed && v.pend == 0 && v.ents.any fun e => !e.checked).bind fun v =>
      (v.ents.find? fun e => !e.checked).map fun e => (v, e)

/-- Banks a check reads: its operands or their sources, and the expander table (R103). -/
def checkBanks (x : Tile) (d : Beat) : List Nat :=
  let a := if mSrcAV d then (srcATensor x d).regions else (aTensor x d).regions
  let b := if mSrcBV d then (srcBTensor x d).regions else (bTensor x d).regions
  let xt := if mXmode d == 0 || mSrcBV d then [] else [(mXtable d, mXtable d + 32)]
  banksOf (a ++ b ++ xt)

/-- Press-owned cycles that the check of entry `e` has had. -/
def checkCycles (x : Tile) (v : Interval) (e : PressEnt) : Nat :=
  if x.pressOn.any fun p => p.1 == v.id && p.2.1 == e.op then x.pressCycles else 0

/-- This cycle is press-owned for the check under way (R103): its arrays, and the banks it reads in this cycle. Every byte is read
in the first product cycle (DESIGN CHOICE: R103 does not state which product cycle reads a given byte; log 80). -/
def pressOwned (s : State) (t : Nat) : Bool :=
  let x := s.tile t
  match currentCheck x with
  | none => false
  | some (v, e) =>
    let own := fun r => owner s t r s.clk.cycle == 0x41
    (members (mGroup e.desc) (mArray e.desc)).all (fun a => own (16 + a)) &&
      (checkCycles x v e != 0 || (checkBanks x e.desc).all own)

/-- The check under way has a press-owned cycle: its first, a product cycle, reads the operand and source bytes (R103, R105). -/
def pressCycle (s : State) (t : Nat) : State :=
  if !pressOwned s t then s
  else s.modTile t fun x =>
    match currentCheck x with
    | none => x
    | some (v, e) =>
      let n := checkCycles x v e
      { x with pressCycles := n + 1
               pressOn := if n = 0 then some (v.id, e.op, x.scratch) else x.pressOn }

/-- The operation's rung: the lower of its operands' (R106). -/
def opRung (d : Beat) : Nat := min (rungOf (kEtype (mKA d))) (rungOf (kEtype (mKB d)))

/-- The rung of an entry with any raise the tile holds, deferred ones too (R109). -/
def heldRung (s : State) (x : Tile) (n : Nat) : Nat :=
  x.raises.foldl (fun r e => if e.entry == n then max r e.rung else r) (s.ladder n).rung

/-- Operand entries a failed check names: those below CEIL at the lowest effective rung among them (R107). -/
def checkEntries (s : State) (t : Nat) (d : Beat) : List Nat :=
  let es := ((if mLva d then [mLadA d] else []) ++ (if mLvb d then [mLadB d] else [])).eraseDups
  let es := es.filter fun n => decide (heldRung s (s.tile t) n < (s.ladder n).ceil)
  es.filter fun n => es.all fun m => decide (heldRung s (s.tile t) n ≤ heldRung s (s.tile t) m)

/-- A check's outcome in its interval and the PC block, its inputs as its product cycles read them (R105 to R107, R118). -/
def finishCheck (s : State) (t : Nat) (v : Interval) (e : PressEnt) : State :=
  let x := s.tile t
  let d := e.desc
  let r := match x.pressOn with
    | some p => { x with scratch := p.2.2 }
    | none => x
  let w := (outElems d).map fun p => pressElement r d p.1 p.2
  let (c, dq) := pressCompare ((e.snap.getD []).map ofA36) w (threshOf s (opRung d))
  let req : List EscReq := if c = .fail then [⟨.check, checkEntries s t d⟩] else []
  let done := fun (a : PressEnt) => if a.op = e.op then { a with checked := true } else a
  let upd := fun (i : Interval) =>
    if i.id = v.id then { i with ents := i.ents.map done, checks := i.checks + 1, reqs := i.reqs ++ req
                                 failed := i.failed || c == .fail }
    else i
  let s := s.modTile t fun x => { x with press := x.press.map upd, pressCycles := 0, pressOn := none }
  s.modPc fun p =>
    { p with checked := sat32 (p.checked + 1), maxDq := max p.maxDq (dq.getD 0)
             fail := if c = .fail then sat32 (p.fail + 1) else p.fail
             wide := if c = .wide then sat32 (p.wide + 1) else p.wide
             wideFlag := p.wideFlag || c == .wide
             named := (p.named ++ req.flatMap (·.entries)).eraseDups }

/-- PRESS_CHECK_COMPLETE: the check under way has had its 8J + 24 press-owned cycles (R103, R106). -/
def execPressCheckComplete (t : Nat) (s : State) : Res :=
  .next (
    match currentCheck (s.tile t) with
    | some (v, e) =>
      if e.snap.isSome && decide (8 * mJ e.desc + 24 ≤ checkCycles (s.tile t) v e) then finishCheck s t v e else s
    | none => s)

/-! ## Verdicts (R104, R107 to R109, R112, R120) -/

/-- Progress of a resolution: state, entries to raise, raises made, ESC_FAIL cases met. -/
structure Resol where
  s : State
  want : List Nat
  made : Nat
  fails : Nat

/-- A case of R109. -/
def failCase (r : Resol) : Resol := { r with s := escFail r.s, fails := r.fails + 1 }

/-- A request against a JOBWIDE entry: ESC_FAIL, and the entry is marked (R112). -/
def markEntry (r : Resol) (n : Nat) : Resol :=
  let r := failCase r
  { r with s := r.s.modPc fun p =>
      { p with jobwideMark := true, marks := if p.marks.contains n then p.marks else p.marks ++ [n] } }

/-- An entry joins those to raise, each once and in ascending order. -/
def wantEntry (r : Resol) (n : Nat) : Resol :=
  { r with want := (r.want.filter fun k => k < n) ++ n :: r.want.filter fun k => n < k }

/-- One request against its entries (R107 to R109, R112, R121). -/
def resolveReq (t round : Nat) (r : Resol) (q : EscReq) : Resol :=
  let ref := r.s.refMode
  let r := if q.src == .check && !ref && decide (fldN r.s.pc.ctrlNow 6 3 ≤ round) then failCase r else r
  if q.entries.isEmpty then failCase r
  else if ref then r
  else
    let r := (q.entries.filter fun n => (r.s.ladder n).jobwide).foldl markEntry r
    let own := q.entries.filter fun n => !(r.s.ladder n).jobwide
    let low := own.filter fun n => decide (heldRung r.s (r.s.tile t) n < (r.s.ladder n).ceil)
    if !own.isEmpty && low.isEmpty then failCase r else low.foldl wantEntry r

/-- An entry is raised by one rung, in the tile's list of at most 8 (R108); entries are taken in ascending order. -/
def raiseEntry (t : Nat) (r : Resol) (n : Nat) : Resol :=
  let l := r.s.ladder n
  let x := r.s.tile t
  let put := fun (rs : List Raise) =>
    { r with made := r.made + 1
             s := (r.s.modTile t fun x => { x with raises := rs }).modPc fun p => { p with raise := sat32 (p.raise + 1) } }
  if x.raises.any fun e => e.entry == n then
    put (x.raises.map fun e => if e.entry == n then { e with rung := e.rung + 1 } else e)
  else if x.raises.length ≥ 8 then failCase r
  else put (x.raises ++ [⟨n, l.rung + 1, l.scope⟩])

/-- The verdict of the oldest closed interval (R104, R120). -/
def deliverVerdict (s : State) (t : Nat) (v : Interval) : State :=
  let r := v.reqs.foldl (resolveReq t v.round) ⟨s, [], 0, 0⟩
  let r := r.want.foldl (raiseEntry t) r
  let word : Word := pack 32 [(0, 1, 1), (1, 1, (r.made != 0).toNat), (2, 1, (r.fails != 0).toNat),
    (4, 4, v.checks), (8, 4, min 15 v.skipped)]
  let s := r.s.modTile t fun x => { x with pctVerdict := word, press := x.press.filter fun i => i.id != v.id }
  signalLocal s (s.tile t).gang t v.cnt.toNat 1

/-- PRESS_VERDICT: no earlier than the cycle after the press point (R104). -/
def execPressVerdict (t : Nat) (s : State) : Res :=
  .next (
    match (s.tile t).press with
    | v :: _ =>
      if v.closed && v.pend == 0 && v.ents.all (·.checked) && decide (v.closedAt + 1 ≤ s.clk.cycle) then
        deliverVerdict s t v
      else s
    | [] => s)

end Sys2Proof.Machine
end

