-- ==== Sys2Proof/Machine/StepGuard.lean ====
section
/-! DEFINITION. The step guard's own events: the EC[0] signal, the deadline and rewind; how a tile is loaded from the kept
image; lost members and queries (R161, R215, R228 to R230, R325, R437). -/

namespace Sys2Proof.Machine

/-! ## Loading a tile (R161, R183, R230) -/

/-- The image's sections of a tile. -/
def imgTile (img : Image) (t : Nat) : ImgTile :=
  match img.tiles.find? fun e => e.1 == t with
  | some e => e.2
  | none => ⟨[], [], [], [], []⟩

/-- The table sets of an image's tile in one map. -/
def imgSets (i : ImgTile) : SMap Byte :=
  i.sets.foldl (fun m s => s.2.foldl (fun m e => SMap.set 0x40 m (8448 * s.1 + e.1) e.2) m) []

/-- Contexts, ring, table sets, the bytes SCRATCH_INIT names and counters loaded; set 0 active; fetch buffer, start
latches and descriptor latches empty (R161, R230). -/
def loadTile (i : ImgTile) (x : Tile) : Tile :=
  { x with threads := i.contexts, ring := i.ring, last := i.ring.length - 1, sets := imgSets i, tset := 0
           scratch := i.scratch.foldl (fun m e => SMap.setBytes m e.1 e.2) x.scratch
           ec := i.counters, ecPrev := i.counters, fetch := [], fills := [], dl := [], dlPrev := [], ops := []
           breaches := 0, pressCycles := 0, pressOn := none, outUsed0 := 0, outUsed1 := 0 }

/-- The image as its bytes at KEEP give it (R367): the copy that State holds, where they stand as they were loaded. -/
def keptNow (s : State) (k : Kept) : Kept :=
  let raw := rangeGet s k.keep k.size
  if raw == k.img.raw then k else { k with img := imageOf raw }

/-- Every used tile reloaded from the kept image, its gang running again (R230). -/
def reloadTiles (s : State) : State :=
  match s.image with
  | none => s
  | some k =>
    let k := keptNow s k
    let s := countReads s k.keep k.size
    let s := s.usedTiles.foldl (fun s t => s.modTile t (loadTile (imgTile k.img t))) s
    { s with gangs := [], wires := [], crossing := [] }

/-! ## STEP_START_SIGNAL (R215, R228) -/

/-- EC[0] + 1 on every tile of every named gang, and the deadline timer starts: in the first cycle with slot index 255
that ends after t0 + 1 µs. -/
def execStepStartSignal (s : State) : Res :=
  .next (
    match s.stg.startAt with
    | none => s
    | some t0 =>
      if tilesRun s && !idleNow s && s.slotN == 255 && s.stg.st == .running && s.endsAfter (t0 + 1000) then
        let named := s.usedTiles.filter fun t =>
          match (s.tile t).gang with
          | some g => bitB s.stg.gangs g
          | none => false
        let s := named.foldl (fun s t => signalLocal s none t 0 1) s
        s.modStg fun g => { g with startAt := none, timer := some s.ns, excluded := 0, exclFrom := none }
      else s)

/-! ## DEADLINE_CHECK (R228) -/

/-- The module is still RUNNING after its deadline has passed: DEADLINE, and the step is abandoned. -/
def execDeadlineCheck (s : State) : Res :=
  .next (
    if s.stg.st == .running && s.stg.deadlineNow != 0 && decide (1000 * s.stg.deadlineNow < stepNs s) then
      abandonStep (setLocal s 7)
    else s)

/-! ## REWIND (R229, R230) -/

/-- The verdict round has resolved the abandoned step as discarded and no unit is busy: tiles reloaded, the module IDLE,
the step reported. -/
def execRewind (s : State) : Res :=
  .next (
    if s.stg.st == .abandoned && s.stg.rewindDue && s.tiles.all (fun e => e.2.ops.all fun o => !o.started) then
      let s := reloadTiles s
      let s := s.modStg fun g => { g with st := .idle, rewindDue := false, startAt := none }
      reportStep s true false
    else s)

/-! ## Lost members (R295, R299, R323, R325, R437) -/

/-- The peer of port `p` is lost to this module (R437): counted and recorded; a vote still awaited from it is MISSING, and
an orphan asks its peers (R323, R325). -/
def memberLost (s : State) (mod : Nat) : State :=
  let s := s.modFlt fun f => { f with lostCount := sat32 (f.lostCount + 1), lostLast := mod }
  let s := ledger s 2 7 0x0703 noUnit mod
  tryVote (orphanQuery s)

end Sys2Proof.Machine
end

