-- ==== Sys2Proof/Machine/Rounds.lean ====
section
/-! DEFINITION. The messages of the verdict round and the two-phase commit, and their timeouts (R315, R322 to R329). Each
row is the receipt of a message that port `p` holds. -/

namespace Sys2Proof.Machine

/-- A round's message taken from its port where it is for step `step`; one for another step is discarded (R322). -/
def roundRow (s : State) (p opc : Nat) (m : Msg) (step : Nat) (act : State → State) : State :=
  match takeMsg s p opc m with
  | none => s
  | some s => if mArg m == step then act s else s

/-- STG_STEP[31:0]. -/
def stepArg (s : State) : Nat := s.stg.step.toNat % 2 ^ 32

/-- TALLY: held until this module is locally complete, then compared (R315). -/
def execTally (p : Nat) (m : Msg) (s : State) : Res :=
  .next (roundRow s p 0x28 m (stepArg s) fun s =>
    let s := s.modCm fun c => { c with tallies := c.tallies ++ [(p, BitVec.ofNat 64 (mOp0 m), mOp1 m)] }
    tryVote (compareTallies s))

/-- VOTE of a child's subtree (R323). -/
def execVote (p : Nat) (m : Msg) (s : State) : Res :=
  .next (roundRow s p 0x29 m (stepArg s) fun s =>
    if !(children s).contains p || s.cm.childVotes.any (fun v => v.1 == p) then s
    else
      let a := aggOf m
      tryVote (s.modCm fun c => { c with childVotes := c.childVotes ++ [(p, a)], votes := sat32 (c.votes + a.count) }))

/-- A commit token for a step already flipped is acknowledged again and changes nothing (R232, R328). -/
def repeatAck (s : State) (commit : Bool) : State :=
  if commit && s.cm.ackSent then
    let n := 1 + (s.cm.childAcks.map (·.2.1)).sum
    let rolled := s.cm.queried || s.cm.childAcks.any (·.2.2)
    sendDirect s s.cm.parent (roundMsg s 0x2B (roundStep s) (n % 65536 * 2 ^ 32 + rolled.toNat) 0 [])
  else s

/-- RESULT (R324, R325, R231): from another port than the parent's it was obtained by QUERY. -/
def execResult (p : Nat) (m : Msg) (s : State) : Res :=
  .next (roundRow s p 0x2A m (roundStep s) fun s =>
    if s.stg.st == .committing then repeatAck s (resultCommit m)
    else if (s.stg.st == .localDone || s.stg.st == .abandoned) && !s.stg.rewindDue then
      let s := if p != s.cm.parent then s.modCm fun c => { c with queried := true } else s
      takeResult s (aggOf m) (resultCommit m)
    else s)

/-- FLIP_ACK of a child's subtree (R327, R329). -/
def execFlipAck (p : Nat) (m : Msg) (s : State) : Res :=
  .next (roundRow s p 0x2B m (roundStep s) fun s =>
    if s.stg.st != .committing || !(children s).contains p || s.cm.childAcks.any (fun a => a.1 == p) then s
    else
      let n := fldN m.hdr 224 16
      tryAck (s.modCm fun c => { c with childAcks := c.childAcks ++ [(p, n, bitB m.hdr 192)], acks := sat32 (c.acks + n) }))

/-- RELEASE (R231, R327): a second one changes nothing. -/
def execRelease (p : Nat) (m : Msg) (s : State) : Res :=
  .next (roundRow s p 0x2C m (roundStep s) fun s =>
    if s.stg.st == .committing && s.cm.flippedAt.isSome then doRelease s (bitB m.hdr 192) else s)

/-- QUERY (R325): what is held for the step is answered at once; the querier is remembered for what is still to come. -/
def execQuery (p : Nat) (m : Msg) (s : State) : Res :=
  .next (
    match takeMsg s p 0x2D m with
    | none => s
    | some s =>
      let step : Word := BitVec.ofNat 32 (mArg m)
      let res := s.cm.results.find? fun r => r.step == step
      let rel := s.cm.releases.find? fun r => r.1 == step
      let s := match res with
        | some r => sendDirect s p r.msg
        | none => s
      let s := match rel with
        | some r => sendDirect s p (roundMsg s 0x2C (mArg m) r.2.toNat 0 [])
        | none => s
      let settled := rel.isSome || (res.map fun r => !resultCommit r.msg).getD false
      if settled then s else s.modCm fun c => { c with queriers := c.queriers ++ [(p, step)] })

/-- ABANDON (R229, R315, R326): in every state it ends the wait for tallies of its step. -/
def execAbandon (p : Nat) (m : Msg) (s : State) : Res :=
  .next (roundRow s p 0x2E m (stepArg s) fun s =>
    match s.stg.st with
    | .running => abandonStep (s.modCm fun c => { c with abandonSeen := true })
    | .preempted => abandonCause (s.modCm fun c => { c with abandonSeen := true })
    | .localDone => tryVote (s.modCm fun c => { c with abandonSeen := true })
    | _ => s.modCm fun c => { c with abandonSeen := true })

/-- ROUND_TIMEOUT (R325, R328): the module has waited for RESULT longer than CM_ROUND_TIMEOUT_US since its vote. -/
def execRoundTimeout (s : State) : Res :=
  .next (
    match s.cm.votedAt with
    | some v =>
      if waitsResult s && !s.cm.stalled && decide (v + 1000 * s.cm.roundTimeout.toNat < s.ns) then
        sendQueries (s.modCm fun c => { c with stalled := true })
      else s
    | none => s)

/-- COMMIT_HOLD_TIMEOUT (R329): still in COMMITTING after CM_ROUND_TIMEOUT_US from the flip. -/
def execCommitHoldTimeout (s : State) : Res :=
  .next (
    match s.cm.flippedAt with
    | some f =>
      if s.stg.st == .committing && !s.cm.held && decide (f + 1000 * s.cm.roundTimeout.toNat < s.ns) then
        let s := s.modCm fun c => { c with held := true, heldCount := sat32 (c.heldCount + 1) }
        ledger s 2 7 0x0702 noUnit (s.stg.step - 1).toNat
      else s
    | none => s)

end Sys2Proof.Machine
end

