-- ==== Sys2Proof/Machine/Links.lean ====
section
/-! DEFINITION. Fabric links: frames, replay, credits, encryption, lane swap, port failure, detours and return (R269 to
R277, R284, R291 to R298). -/

namespace Sys2Proof.Machine

/-! ## Link encryption (R291, R426) -/

/-- The key of a direction of port `p`: sender's module and port, receiver's, epoch. -/
def linkKey (s : State) (p : Nat) (send : Bool) : Beat :=
  let c := s.portCfg p
  let me := leBytes 2 s.self ++ leBytes 1 p
  let peer := leBytes 2 c.peerMod ++ leBytes 1 c.peerPort
  kdf 256 (s.trust.fabricKey.getD 0) ((if send then me ++ peer else peer ++ me) ++ leBytes 4 (s.port p).epoch)
    "ZT-B4480 LINK"

/-- 32 zero bits and the 64-bit count of messages previously sent on the direction in the epoch. -/
def linkNonce (n : Nat) : List Byte := leBytes 4 0 ++ leBytes 8 n

/-- Header bits [191:0] and [383:320]. -/
def msgAad (h : Beat) : List Byte := leBytes 24 (fldN h 0 192) ++ leBytes 8 (fldN h 320 64)

/-- The flits of message number `n` on port `p`, encrypted and tagged. -/
def sealMsg (s : State) (p n : Nat) (m : Msg) : List Beat :=
  let pt := leBytes 16 (fldN m.hdr 192 128) ++ m.data.flatMap beatBytes
  let (ct, tag) := gcmSeal (linkKey s p true) (linkNonce n) (msgAad m.hdr) pt
  setFld (setFld m.hdr 192 128 (leNat (ct.take 16))) 384 128 (leNat (tag.take 16)) ::
    (List.range m.data.length).map fun i => beatOf (ct.drop (16 + 64 * i))

/-- The message that flits received on port `p` as message number `n` carry; none where its ICV fails. -/
def openMsg (s : State) (p n : Nat) (fs : List Beat) : Option Msg :=
  match fs with
  | [] => none
  | h :: ds =>
    let ct := leBytes 16 (fldN h 192 128) ++ ds.flatMap beatBytes
    (gcmOpen (linkKey s p false) (linkNonce n) (msgAad h) ct (leBytes 16 (fldN h 384 128))).map fun pt =>
      { hdr := setFld (setFld h 192 128 (leNat (pt.take 16))) 384 128 0,
        data := (List.range ds.length).map fun i => beatOf (pt.drop (16 + 64 * i)) }

/-! ## Sending (R270, R275 to R277) -/

/-- Credits owed that one frame returns: one channel, in the order they fell due, at most 63. -/
def creditRun (owed : List Nat) : Nat × Nat :=
  match owed with
  | [] => (0, 0)
  | c :: _ => (c, min 63 (owed.takeWhile (· == c)).length)

/-- A frame with its CRC-32C and its parity (R269). -/
def frameOf (h : DWord) (flit : Beat) : SentFrame :=
  let bs := leBytes 8 h.toNat ++ beatBytes flit
  let c := crc32c bs
  ⟨h, flit, c, Config.rsParity (bs ++ leBytes 4 c.toNat)⟩

/-- The 80 bytes of a frame in order (R269). -/
def frameBytes (f : SentFrame) : List Byte :=
  leBytes 8 f.hdr.toNat ++ beatBytes f.flit ++ leBytes 4 f.crc.toNat ++ leBytes 4 f.parity.toNat

/-- PAM4 level of a symbol of two bits: 00, 01, 11, 10 are levels 0 to 3 (R269). -/
def grayLevel (sym : Nat) : Nat :=
  match sym with
  | 0 => 0
  | 1 => 1
  | 3 => 2
  | _ => 3

/-- The physical lane of logical lane `i`: the `i`-th that has not failed, in ascending order (R269, R292). -/
def laneMap (failed : BitVec 9) (i : Nat) : Nat := ((List.range 9).filter fun l => !bitB failed l).getD i 8

/-- The failed lanes of the transmit map in force: a lane that fails is left out from the frame on that LANE_ACK names (R292). -/
def txFailed (x : Port) : BitVec 9 := if x.txMapDue then 0 else x.lanesTx

/-- PAM4 levels that a frame puts on physical lane `l`, byte by byte, each byte least significant bit first; the lane that
carries no byte of it is the spare, or a failed one (R269, R292). -/
def laneLevels (x : Port) (f : SentFrame) (l : Nat) : List Nat :=
  match (List.range 8).find? fun i => laneMap (txFailed x) i == l with
  | some i => ((frameBytes f).zipIdx.filter fun b => b.2 % 8 == i).flatMap fun b =>
      (List.range 4).map fun k => grayLevel (fldN b.1 (2 * k) 2)
  | none => []

/-- The next frame of a direction, kept for replay. -/
def emitFrame (s : State) (p : Nat) (token fk vc : Nat) (flit : Beat) : State :=
  let x := s.port p
  let (cv, n) := if portUp s p then creditRun x.owed else (0, 0)
  let h : DWord := pack 64 [(0, 16, x.fsn.toNat), (16, 1, token), (17, 2, fk), (19, 4, vc), (23, 1, x.nak.toNat),
    (24, 16, x.ackRx.toNat), (40, 4, cv), (44, 6, n), (50, 12, x.slot)]
  (noteEvents s 16 (bitAt (token == 1 || fk == 2) 0)).modPort p fun x =>
    { x with kept := (frameOf h flit :: x.kept).take 8192, lastOut := some (frameOf h flit), fsn := x.fsn + 1, owed := x.owed.drop n
             crOut := sat64 (x.crOut + n), txMapDue := x.txMapDue && x.txMapFrom != some x.fsn }

/-- Channels on which a message is leaving. -/
def leaving (x : Port) : Nat := (x.outCur.filter fun e => e.2.isSome).length

/-- The next flit of the message leaving on channel `vc` of port `p`: a credit is spent; with its last flit the message
has been sent. -/
def sendFlit (s : State) (p vc : Nat) (det : Bool) : State :=
  match SMap.get [] (s.port p).outFlits vc with
  | [] => s
  | f :: rest =>
    let m := SMap.get none (s.port p).outCur vc
    let first := match m with
      | some m => rest.length == m.data.length
      | none => false
    let s := emitFrame s p 1 (if first then 0 else 1) vc f
    let s := if det then s else s.modGov fun g => { g with linkUsed := g.linkUsed + 1 }
    s.modPort p fun x =>
      let x := { x with credit := SMap.upd 0 x.credit vc fun c => c - 1, txFlit := sat64 (x.txFlit + 1)
                        txUp := sat64 (x.txUp + 1), outFlits := SMap.set [] x.outFlits vc rest
                        detFlit := if det then sat64 (x.detFlit + 1) else x.detFlit
                        txMsg := if first then sat64 (x.txMsg + 1) else x.txMsg }
      let x := if first && (m.map fun m => fldN m.hdr 0 8 == 0x25).getD false then
          { x with timeTx1 := x.timeTx, timeTx := fld s.tm.now 16 64, timeTxK := s.lace.k }
        else x
      if rest.isEmpty then
        { x with outCur := SMap.set none x.outCur vc none, sentLog := m.toList ++ x.sentLog
                 detVc := if x.detVc == some vc then none else x.detVc }
      else x

/-- Message `m` begins to leave on channel `vc`. -/
def startMsg (s : State) (p vc : Nat) (m : Msg) : State :=
  let x := s.port p
  let fs := sealMsg s p (x.sentLog.length + leaving x) m
  s.modPort p fun x => { x with outFlits := SMap.set [] x.outFlits vc fs, outCur := SMap.set none x.outCur vc (some m) }

/-- The channel holds credits for the whole message. -/
def creditsFor (s : State) (p vc : Nat) (m : Msg) : Bool := decide (1 + m.data.length ≤ portCredit (s.port p) vc)

/-- A frame without a flit. -/
def plainFrame (s : State) (p : Nat) : State := emitFrame s p 0 0 0 0

/-- The links limiter has let as many flits go as the window's grant allows (R387). -/
def linkLimited (s : State) : Bool := s.gov.linkLim.any fun n => n ≤ s.gov.linkUsed

/-- A slot of KIND 1 (R276); the links limiter makes it go with TOKEN 0 (R387). -/
def tokenSlot (s : State) (p vc : Nat) : State :=
  let x := s.port p
  if !portUp s p then plainFrame s p
  else if linkLimited s then
    plainFrame (if (SMap.get [] x.outFlits vc).isEmpty && !x.outq.any (fun e => e.1 == vc) then s
      else s.modGov fun g => { g with heldFlit := g.heldFlit + 1 }) p
  else if x.detVc == some vc then plainFrame s p
  else if !(SMap.get [] x.outFlits vc).isEmpty then sendFlit s p vc false
  else match x.outq.find? fun e => e.1 == vc with
    | some e =>
      if creditsFor s p vc e.2 then
        sendFlit (startMsg (s.modPort p fun x => { x with outq := x.outq.erase e }) p vc e.2) p vc false
      else plainFrame s p
    | none => plainFrame s p

/-- LANE_SWAP for physical lane `lane` (R284). -/
def laneSwapFlit (lane : Nat) : Beat := pack 512 [(0, 8, 2), (8, 8, lane)]

/-- The link control frame a detour slot carries: the oldest that waits, else a LANE_SWAP that is not answered, which goes in
every detour slot, 16 frames apart (R277, R292). -/
def ctlNext (x : Port) : Option (Beat × List Beat) :=
  match x.ctlq with
  | c :: rest => some (c, rest)
  | [] => x.swapAsked.map fun l => (laneSwapFlit l, [])

/-- A detour slot: a link control frame first, then the detour queue under the gating of R276 (R277). -/
def detourSlot (s : State) (p : Nat) : State :=
  let x := s.port p
  match ctlNext x with
  | some (c, rest) => emitFrame (s.modPort p fun x => { x with ctlq := rest }) p 0 2 0 c
  | none =>
    if !portUp s p then plainFrame s p
    else match x.detVc with
      | some vc => sendFlit s p vc true
      | none =>
        match x.detq with
        | (vc, m) :: rest =>
          if (SMap.get [] x.outFlits vc).isEmpty && creditsFor s p vc m then
            sendFlit (startMsg (s.modPort p fun x => { x with detq := rest, detVc := some vc }) p vc m) p vc true
          else plainFrame s p
        | [] => plainFrame s p

/-- KIND and VC of the schedule entry at the port's slot (R275); without a job every slot is plain. -/
def slotEntry (s : State) (p : Nat) : Nat :=
  let i := (s.port p).slot
  match s.fabCfg with
  | some f => SMap.get (if i % 16 = 15 then 0x2000 else 0) f.sched (4096 * p + i)
  | none => if i % 16 = 15 then 0x2000 else 0

/-- The port's transmitter sends frames: trained, and not in the electrical idle of a failed port (R295, R297, R298). -/
def transmits (s : State) (p : Nat) : Bool :=
  let x := s.port p
  s.pins.mainOn && (x.st == .wait || x.st == .up || x.st == .swap ||
    (x.st == .detoured && x.retrOut) || ((x.st == .detoured || x.st == .off) && !x.ctlq.isEmpty))

/-- What a frame time puts on the link: a frame of a replay, or the schedule's next frame (R271, R275 to R277). -/
def sendFrame (s : State) (p : Nat) : State :=
  match (s.port p).replay with
  | f :: rest => s.modPort p fun x => { x with replay := rest, lastOut := some f }
  | [] =>
    let e := slotEntry s p
    let s := if e / 0x1000 = 2 then detourSlot s p else if e / 0x1000 = 1 then tokenSlot s p (e % 16) else plainFrame s p
    s.modPort p fun x => { x with slot := (x.slot + 1) % 4096 }

/-! ## Port failure (R293, R295) -/

/-- A port that carries a job fails: DETOURED, DOWN sent, partly received messages discarded, RESYNC sent to the peer by
detour; a port that carries none is OFF. The flits of a discarded message leave the buffer as any do: their credits fall due, so
that each channel's balance stands as it did (R274, R295). -/
def portFail (s : State) (p cause : Nat) : State :=
  let x := s.port p
  let down := fun (st : PortState) (x : Port) =>
    { x with st := st, downCount := sat32 (x.downCount + 1), ctlq := [pack 512 [(0, 8, 4), (8, 8, cause)]]
             replay := [], nak := false, nakRun := 0, failAt := some s.ns, resynced := false, retrIn := false
             frozen := if st == .detoured then some (heldCredits x) else none
             retrOut := false, retrSaid := false, returning := false, swapAsked := none, inFlits := [], icvTo := none, icvBad := none, inCtl := []
             hello := none, owed := x.owed ++ x.inFlits.flatMap fun e => List.replicate e.2.length e.1
             buffered := x.inFlits.foldl (fun b e => SMap.upd 0 b e.1 fun n => n - e.2.length) x.buffered }
  if x.st == .up || x.st == .swap || (x.st == .wait && s.bound && (s.portCfg p).role != 0) then
    let s := s.modPort p (down .detoured)
    sendDirect s p (mkMsg s 0x21 0 0 0 0 (s.port p).sentLog.length 0 [])
  else if x.st == .wait then s.modPort p (down .off)
  else if x.st == .detoured then
    s.modPort p fun x => { x with retrOut := false, retrSaid := false, retrIn := false, returning := false }
  else s

/-- A receiver declares lane `lane` failing (R292): LANE_SWAP goes in the next detour slot; a direction whose spare is in
service, or a second lane at once, fails the port. -/
def laneFailing (s : State) (p lane : Nat) : State :=
  let x := s.port p
  if x.st == .off || x.st == .lost || x.st == .detoured || bitB x.lanesRx lane || x.swapAsked == some lane then s
  else if x.lanesRx != 0 || x.swapAsked.isSome then portFail s p 1
  else s.modPort p fun x => { x with swapAsked := some lane, st := if x.st == .up then .swap else x.st }

/-- Corrected bytes counted by lane within windows of 1 ms (log 70); each begins with the first corrected byte after the end of
the one before. -/
def countLanes (x : Port) (ns : Nat) (lanes : List Nat) : Port :=
  let x := if x.laneWin + 1000000 ≤ ns then { x with laneCorr := [], laneWin := ns } else x
  { x with laneCorr := lanes.foldl (fun m l => SMap.upd 0 m l fun n => n + 1) x.laneCorr }

/-- The corrected bytes of a lane exceed FAB_LANE_LIMIT within the window in progress (R292). -/
def laneOver (s : State) (p lane : Nat) : Bool :=
  let x := s.port p
  decide (s.ns < x.laneWin + 1000000) && decide (s.fab.laneLimit.toNat < SMap.get 0 x.laneCorr lane)

/-- The lanes of a frame's corrected bytes counted; one that exceeds its limit is declared failing (R271, R292). -/
def correctedIn (s : State) (p : Nat) (lanes : List Nat) : State :=
  if lanes.isEmpty then s
  else
    let s := s.modPort p fun x => countLanes { x with fecCorr := sat32 (x.fecCorr + 1) } s.ns lanes
    lanes.foldl (fun s l => if l < 9 && laneOver s p l then laneFailing s p l else s) s

/-! ## Receiving (R271 to R274, R283, R291) -/

/-- The port of this module toward a peer, for a message that came by detour: a DETOURED one first (R294). -/
def peerPortOf (s : State) (mod p : Nat) : Nat :=
  let ps := (s.rolePorts.filter fun q => (s.portCfg q).peerMod == mod)
  match ps.find? fun q => (s.port q).st == .detoured with
  | some q => q
  | none => ps.headD p

/-- A whole message accepted from port `p` on channel `vc` (R278 to R283, R294, R299). -/
def acceptMsg (s : State) (p vc : Nat) (m : Msg) : State :=
  let s := s.modPort p fun x => { x with rxMsg := sat64 (x.rxMsg + 1), accepted := x.accepted + 1 }
  let n := 1 + m.data.length
  let keep := fun (s : State) => s.modPort p fun x =>
    { x with inMsgs := x.inMsgs ++ [(vc, m)]
             stamps := if mOpc m == 0x25 then ((x.ackRx, fld s.tm.now 16 64) :: x.stamps).take 16 else x.stamps }
  if s.fab.departed.contains (mSrc m) then oweCredits s p vc n
  else if mDetour m then transit s p vc m
  else match classOf (mOpc m) with
    | none => discard (oweCredits s p vc n)
    | some c =>
      if c ≥ 2 then
        if vc ≥ 14 then
          (if mDst m == s.self || c == 2 then keep s else discard (oweCredits s p vc n))
        else
          let q := peerPortOf s (mSrc m) p
          (oweCredits s p vc n).modPort q fun x => { x with inMsgs := x.inMsgs ++ [(16, m)] }
      else if mDst m == s.self then keep s
      else transit s p vc m

/-- A message that fails its ICV is a CRC failure of its header frame; a second failure fails the port (R291). -/
def icvFailure (s : State) (p vc : Nat) : State :=
  let x := s.port p
  let hf := SMap.get 0 x.inFsn vc
  let s := s.modPort p fun x => { x with icvFail := sat32 (x.icvFail + 1) }
  if x.icvBad == some (BitVec.ofNat 16 hf) then portFail s p 3
  else
    let n := (SMap.get [] x.inFlits vc).length
    s.modPort p fun x =>
      { x with icvBad := some (BitVec.ofNat 16 hf), icvTo := some (vc, SMap.get 0 x.inIdx vc, x.ackRx.toNat)
               ackRx := BitVec.ofNat 16 hf - 1, nak := true, nakRun := 0, replays := sat32 (x.replays + 1)
               inFlits := SMap.set [] x.inFlits vc [], rxFlit := x.rxFlit - n
               buffered := SMap.upd 0 x.buffered vc fun b => b - n }

/-- Number of the message whose header arrives on channel `vc`: headers received before it in the epoch; that of a
message being received again is kept. -/
def headerIdx (x : Port) (vc : Nat) : Nat :=
  match x.icvTo with
  | some i => if i.1 = vc then i.2.1 else x.accepted + x.inFlits.length
  | none => x.accepted + x.inFlits.length

/-- A flit of a message placed in the inbound buffer of its channel; with its last flit the message is checked and
accepted. -/
def takeFlitIn (s : State) (p vc fsn : Nat) (flit : Beat) : State :=
  let x := s.port p
  let old := SMap.get [] x.inFlits vc
  let fs := old ++ [flit]
  let idx := if old.isEmpty then headerIdx x vc else SMap.get 0 x.inIdx vc
  let s := s.modPort p fun x =>
    { x with rxFlit := sat64 (x.rxFlit + 1), buffered := SMap.upd 0 x.buffered vc fun b => b + 1
             inFlits := SMap.set [] x.inFlits vc fs, inIdx := SMap.set 0 x.inIdx vc idx
             inFsn := if old.isEmpty then SMap.set 0 x.inFsn vc fsn else x.inFsn }
  if fs.length < 1 + fldN (fs.headD 0) 8 5 then s
  else match openMsg s p idx fs with
    | none => icvFailure s p vc
    | some m =>
      let s := s.modPort p fun x =>
        { x with inFlits := SMap.set [] x.inFlits vc []
                 icvBad := if x.icvBad == some (BitVec.ofNat 16 (SMap.get 0 x.inFsn vc)) then none else x.icvBad }
      acceptMsg s p vc m

/-- A good frame in its turn: credits, replay request, flit or link control (R270, R271, R274, R284). A frame processed
before an ICV failure gives only the failed message's flits again. -/
def goodFrame (s : State) (p : Nat) (h : DWord) (flit : Beat) : State :=
  let x := s.port p
  let fsn := fldN h 0 16
  let vc := fldN h 19 4
  let again := x.icvTo.isSome
  let s := (noteEvents s 16 (bitAt (bitB h 16 || fldN h 17 2 == 2) 0)).modPort p fun x =>
    { x with ackRx := BitVec.ofNat 16 fsn, nak := false, nakRun := 0
             rxMapFrom := if x.rxMapFrom == some (BitVec.ofNat 16 fsn) then none else x.rxMapFrom }
  let s := if !again && portUp s p then
      s.modPort p fun x => { x with credit := SMap.upd 0 x.credit (fldN h 40 4) fun c => c + fldN h 44 6
                                    crIn := sat64 (x.crIn + fldN h 44 6) }
    else s
  let s := if !again && bitB h 23 && x.replay.isEmpty then
      s.modPort p fun x => { x with replay := (x.kept.takeWhile fun k => fld k.hdr 0 16 != fld h 24 16).reverse }
    else s
  let s := if bitB h 16 then
      (if portUp s p && (!again || (x.icvTo.map fun i => i.1 == vc).getD false) then takeFlitIn s p vc fsn flit else s)
    else if fldN h 17 2 == 2 && !again then s.modPort p fun x => { x with inCtl := x.inCtl ++ [flit] }
    else s
  s.modPort p fun x =>
    match x.icvTo with
    | some i => if again && i.2.2 = fsn then { x with icvTo := none } else x
    | none => x

/-- A frame that fails its CRC, or a gap in the sequence: NAK, and after 16 failed replays of one frame the port fails
(R271, R293). -/
def badFrame (s : State) (p : Nat) (next : Bool) : State :=
  let x := s.port p
  if !x.nak then s.modPort p fun x => { x with nak := true, nakRun := 0, replays := sat32 (x.replays + 1) }
  else if !next then s
  else if x.nakRun + 1 ≥ 16 then portFail s p 2
  else s.modPort p fun x => { x with nakRun := x.nakRun + 1, replays := sat32 (x.replays + 1) }

/-- FRAME_RECEIVE (R271): corrected bytes counted, CRC checked, later frames dropped until the replay arrives. -/
def execFrameReceive (p : Nat) (f : Frame) (s : State) : Res :=
  .next (
    let x := s.port p
    if !s.pins.mainOn || x.st == .off || x.st == .lost || (x.st == .detoured && !x.retrOut) then s
    else
      let s := correctedIn s p f.corrected
      let next := fld f.hdr 0 16 == x.ackRx + 1
      if crc32c (leBytes 8 f.hdr.toNat ++ beatBytes f.flit) != f.crc then
        badFrame (s.modPort p fun x => { x with crcFail := sat32 (x.crcFail + 1) }) p next
      else if next then goodFrame s p f.hdr f.flit
      else if !x.nak && decide ((fld f.hdr 0 16 - (x.ackRx + 1)).toNat < 2 ^ 15) then badFrame s p next
      else s)

/-! ## The bridges between the link dies (R18, R176, R283) -/

/-- Flits that boundary block `p` may send to the other link die in cycle `c`: the matching slots of the three bridges, each
reached as the one before is left (R176). -/
def bridgeWays (s : State) (p c : Nat) : Nat :=
  let named := fun (lo n c : Nat) => ((List.range n).filter fun i => channelSender s (lo + i) c == 0x3000 + p).length
  if portOnL1 p then min (named 294 42 c) (min (named 84 84 (c + 4)) (named 168 42 (c + 10)))
  else min (named 210 42 c) (min (named 0 84 (c + 4)) (named 252 42 (c + 10)))

/-- In cycle `c`, the first message of boundary block `p` still to cross sends as many flits as it may; its buffer is free once the
last one has gone, and it is on the far link die 14 cycles later. -/
def bridgeSend (c : Nat) (s : State) (p : Nat) : State :=
  match s.fab.bridged.find? fun b => b.src == p && b.left != 0 with
  | none => s
  | some b =>
    let k := b.left - bridgeWays s p c
    let b' := { b with left := k, at_ := if k = 0 then some (c + 14) else none }
    let s := s.modFab fun f => { f with bridged := f.bridged.map fun e => if e = b then b' else e }
    if k = 0 then oweCredits s p b.vc (1 + b.msg.data.length) else s

/-- The bridges between the link dies in the cycle in progress: messages that have crossed go on to their ports, others send. -/
def bridgeCycle (s : State) : State :=
  if s.fab.bridged.isEmpty then s
  else
    let c := s.clk.cycle
    let crossed := fun (b : Bridged) => b.at_.any fun t => t ≤ c
    let come := s.fab.bridged.filter crossed
    let s := s.modFab fun f => { f with bridged := f.bridged.filter fun b => !crossed b }
    let s := come.foldl (fun s b => transitOut s b.dst b.det b.msg) s
    (List.range 18).foldl (bridgeSend c) s

/-! ## Link control (R284, R292, R297, R298) -/

/-- A link control flit of type `ty` taken from those received on port `p`. -/
def takeCtl (s : State) (p ty : Nat) (flit : Beat) : Option State :=
  if fldN flit 0 8 = ty && (s.port p).inCtl.contains flit then
    some (s.modPort p fun x => { x with inCtl := x.inCtl.erase flit })
  else none

/-- A link control flit queued for the next detour slot. -/
def sendCtl (s : State) (p : Nat) (flit : Beat) : State := s.modPort p fun x => { x with ctlq := x.ctlq ++ [flit] }

/-- The job's identity digest (R298, R368). -/
def jobDigest (s : State) : BitVec 256 := (s.job.map (·.jobid)).getD 0

/-- This module's HELLO with READY = 1 (R284, R298). -/
def helloFlit (s : State) (p : Nat) : Beat :=
  pack 512 [(0, 8, 1), (8, 16, s.self), (24, 8, p), (32, 256, (jobDigest s).toNat), (288, 8, 1)]

/-- Credits of each channel at the receiver's allotment (R274). -/
def fullCredits (s : State) (p : Nat) : SMap Nat :=
  (List.range 16).foldl (fun m v => SMap.set 0 m v ((s.portCfg p).allot.getD v 0)) []

/-- The port enters UP: full credits, fresh epoch, its audit counts start (R298, R454). -/
def enterUp (s : State) (p : Nat) (epoch : Nat) : State :=
  s.modPort p fun x =>
    { x with st := .up, credit := fullCredits s p, epoch := epoch, sentLog := [], accepted := 0, crIn := 0, crOut := 0
             txUp := 0, owed := [], failAt := none, frozen := none, matched := true, returning := false }

/-- The port's last HELLO matched against the FABRIC section and the job: UP, or in WAIT with a mismatch reported
(R298). -/
def matchHello (s : State) (p : Nat) : State :=
  let x := s.port p
  let c := s.portCfg p
  match x.hello with
  | some h =>
    if x.st == .wait && s.bound && c.role != 0 then
      if fldN h 8 16 == c.peerMod && fldN h 24 8 == c.peerPort && fld h 32 256 == jobDigest s then
        (if fldN h 288 8 == 1 then enterUp s p (x.epoch + 1) else s)
      else
        let s := s.modPort p fun x => { x with helloBad := true }
        ledger s 2 3 0x0306 p (fldN h 8 16 + fldN h 24 8 * 2 ^ 16)
    else s
  | none => s

/-- HELLO (R298). -/
def execHello (p : Nat) (flit : Beat) (s : State) : Res :=
  .next (
    match takeCtl s p 1 flit with
    | none => s
    | some s =>
      matchHello (s.modPort p fun x =>
        { x with hello := some flit, peerMod := fldN flit 8 16 % 2 ^ 15, peerPort := fldN flit 24 8 % 32
                 helloBad := false }) p)

/-- LANE_LOCK_LOSS (R292, R293). -/
def execLaneLockLoss (p lane : Nat) (s : State) : Res := .next (if lane < 9 then laneFailing s p lane else s)

/-- LANE_ERROR_WINDOW: the `bytes` corrected on a lane within 1 ms exceed FAB_LANE_LIMIT (R292), the limit lowered since they
came or the declaration still to be made. -/
def execLaneErrorWindow (p lane bytes : Nat) (s : State) : Res :=
  .next (
    if lane < 9 && bytes == SMap.get 0 (s.port p).laneCorr lane && laneOver s p lane then laneFailing s p lane else s)

/-- Frames between LANE_ACK and the first frame on the new map. -/
def swapLead : BitVec 16 := 32

/-- A lane swap noted: board record, count, ledger entry (R292, R440). Whether the flash write fails is a free value (R418; log
39). -/
def noteSwap (s : State) (p lane : Nat) (rx : Bool) : State :=
  let s := s.modFab fun f => { f with laneSwaps := sat32 (f.laneSwaps + 1) }
  let bit : BitVec 9 := BitVec.ofNat 9 (2 ^ lane)
  let s := s.modPort p fun x =>
    if rx then { x with lanesRx := x.lanesRx ||| bit } else { x with lanesTx := x.lanesTx ||| bit }
  let (w, s) := s.draw
  let s := boardSet s (w.getLsbD 0) fun b =>
    if rx then { b with laneRx := SMap.upd 0 b.laneRx p fun v => v ||| bit }
    else { b with laneTx := SMap.upd 0 b.laneTx p fun v => v ||| bit }
  ledger s 1 3 0x0301 p (lane + bitAt rx 8)

/-- LANE_SWAP (R292): the peer's receive lane fails; the answer names the first frame sent on the new map. -/
def execLaneSwap (p : Nat) (flit : Beat) (s : State) : Res :=
  .next (
    match takeCtl s p 2 flit with
    | none => s
    | some s =>
      let lane := fldN flit 8 8
      let x := s.port p
      let ans := fun (s : State) (f : BitVec 16) => sendCtl s p (pack 512 [(0, 8, 3), (8, 8, lane), (16, 16, f.toNat)])
      if lane ≥ 9 then s
      else if bitB x.lanesTx lane then
        match x.txMapFrom with
        | some f => ans s f
        | none => s
      else if x.lanesTx != 0 then portFail s p 1
      else
        let f := x.fsn + swapLead
        ans (noteSwap (s.modPort p fun x => { x with txMapFrom := some f, txMapDue := true }) p lane false) f)

/-- The failed lanes of the receive map in force: frames are decoded on the new map from the one that LANE_ACK named (R292). -/
def rxFailed (x : Port) : BitVec 9 := if x.rxMapFrom.isSome then 0 else x.lanesRx

/-- LANE_ACK (R292): the receiver decodes on the new map from the frame named. -/
def execLaneAck (p : Nat) (flit : Beat) (s : State) : Res :=
  .next (
    match takeCtl s p 3 flit with
    | none => s
    | some s =>
      let lane := fldN flit 8 8
      if (s.port p).swapAsked == some lane then
        let s := s.modPort p fun x =>
          { x with swapAsked := none, rxMapFrom := some (fld flit 16 16), st := if x.st == .swap then .up else x.st }
        noteSwap s p lane true
      else s)

/-- DOWN (R293): the peer has failed the port. -/
def execDown (p : Nat) (flit : Beat) (s : State) : Res :=
  .next (
    match takeCtl s p 4 flit with
    | none => s
    | some s => portFail s p 5)

/-- LINK_SILENCE: no frame for 1 µs (R293). -/
def execLinkSilence (p : Nat) (s : State) : Res := .next (portFail s p 4)

/-- This end's inbound buffer is empty: nothing buffered, nothing waiting (R297). -/
def inboundEmpty (s : State) (p : Nat) : Bool :=
  (s.port p).inMsgs.all (fun e => e.1 ≥ 16) && (s.port p).buffered.all fun e => e.2 == 0

/-- RETRAINED goes out once the port has retrained and its inbound buffer is empty (DESIGN CHOICE: so each end knows of both
buffers; log 66). With the peer's received too, each channel's credits stand at their allotment while the port is still DETOURED
(R297). -/
def resetCredits (s : State) (p : Nat) : State :=
  let x := s.port p
  if x.st != .detoured || !x.retrOut || !inboundEmpty s p then s
  else
    let s := if x.retrSaid then s
      else sendCtl (s.modPort p fun x => { x with retrSaid := true }) p (pack 512 [(0, 8, 5), (8, 32, x.epoch)])
    if x.retrIn then s.modPort p fun x => { x with credit := fullCredits s p, owed := [], buffered := [] } else s

/-- Failed ports whose inbound buffers have emptied (R297). -/
def settlePorts (s : State) : State :=
  (s.ports.filter fun e => e.2.st == .detoured && e.2.retrOut).foldl (fun s e => resetCredits s e.1) s

/-- RETRAINED (R297): the peer's new epoch; the higher of the two ends' holds. -/
def execRetrained (p : Nat) (flit : Beat) (s : State) : Res :=
  .next (
    match takeCtl s p 5 flit with
    | none => s
    | some s =>
      if (s.port p).st == .detoured then
        resetCredits (s.modPort p fun x => { x with retrIn := true, epoch := max x.epoch (fldN flit 8 32) }) p
      else s)

/-- The frame sequence of a direction starts afresh when the port trains (log 14). -/
def freshLink (x : Port) : Port :=
  { x with fsn := 0, ackRx := 0xFFFF, nak := false, nakRun := 0, kept := [], replay := [], slot := 0, ctlq := []
           inCtl := [], txMapFrom := none, txMapDue := false, rxMapFrom := none }

/-- PORT_TRAINED (R297, R298, R376): an untrained port is in WAIT and, with a job bound, says HELLO; a failed port has
retrained in the background, its epoch incremented. A waiting PORT_CONFIG completes in its own row. -/
def portTrain (s : State) (p : Nat) : State :=
  let x := s.port p
  if !s.pins.mainOn || !s.trust.phyOk then s
  else match x.st with
    | .off =>
      let s := s.modPort p fun x => { freshLink x with st := .wait, failAt := none }
      if s.bound && (s.portCfg p).role != 0 then sendCtl s p (helloFlit s p) else s
    | .detoured =>
      if x.retrOut then s
      else
        resetCredits (s.modPort p fun x => { freshLink x with retrOut := true, epoch := x.epoch + 1 }) p
    | _ => s

/-- The module is IDLE or UNBOUND (R297). -/
def restful (s : State) : Bool := s.stg.st == .idle || s.stg.st == .unbound

/-- Messages held at failed ports for want of a detour pair take one now in service (R294, R296). -/
def carryHeld (s : State) : State :=
  (s.rolePorts.filter fun q => (s.port q).st == .detoured && (s.port q).resynced).foldl
    (fun s q =>
      let held := (s.port q).outq
      let det := (s.port q).detq
      let s := held.foldl (fun s e => enqPort s q e.2) (s.modPort q fun x => { x with outq := [], detq := [] })
      det.foldl (fun s e => enqDetour s q e.2) s) s

/-- The failed port may go back into service as far as this end knows: retrained at both ends, its buffer empty, the module IDLE
or UNBOUND (R297). -/
def returnReady (s : State) (p : Nat) : Bool :=
  let x := s.port p
  x.st == .detoured && x.retrIn && x.retrOut && x.retrSaid && x.resynced && inboundEmpty s p && restful s

/-- The port is back in service, with what is still held in its queues; one that was never matched waits for HELLO (R297, R298). -/
def portBack (s : State) (p : Nat) : State :=
  let x := s.port p
  let s := s.modPort p fun x => { x with retrIn := false, retrOut := false, retrSaid := false, returning := false }
  if x.matched then carryHeld (enterUp s p x.epoch)
  else sendCtl (s.modPort p fun x => { x with st := .wait, failAt := none }) p (helloFlit s p)

/-- PORT_RETURN (R297): retrained at both ends, both inbound buffers empty, both modules IDLE or UNBOUND: the swap back begins
with a RESYNC, as R295 lays down, and ends with its reply. -/
def execPortReturn (p : Nat) (peerIdle : Bool) (s : State) : Res :=
  .next (
    if returnReady s p && peerIdle && !(s.port p).returning then
      let s := resetCredits s p
      let s := s.modPort p fun x => { x with returning := true, failAt := some s.ns }
      sendDirect s p (mkMsg s 0x21 0 0 0 0 (s.port p).sentLog.length 0 [])
    else s)

end Sys2Proof.Machine
end

