-- ==== Sys2Proof/Machine/Movers.lean ====
section
/-! DEFINITION. Bulk movers: enqueueing, copies, atomics, collective and permutation descriptors (R255, R256, R287, R306 to
R308, R318), and the host window's cipher (R427). A mover works beat by beat through the descriptor at the head of its
queue and stops where it must wait. -/

namespace Sys2Proof.Machine

/-! ## The host window's cipher (R426, R427) -/

/-- The session key K_S. -/
def sessionKey (s : State) : Beat := (s.trust.session.map (·.2.1)).getD 0
def keyWx (s : State) : Beat := kdf 512 (sessionKey s) [] "ZT-B4480 WINDOW"
def keyWt (s : State) : Beat := kdf 256 (sessionKey s) [] "ZT-B4480 WTAG"

/-- Plaintext of the line at window offset `off`: data unit a granule, tweak its number (R427). -/
def winOpen (s : State) (off : Nat) (ct : Beat) : Beat :=
  beatOf (xtsDec (keyWx s) (off / 512) (off % 512 / 16) (beatBytes ct))

/-- Ciphertext of the line at window offset `off`. -/
def winSeal (s : State) (off : Nat) (pt : Beat) : Beat :=
  beatOf (xtsEnc (keyWx s) (off / 512) (off % 512 / 16) (beatBytes pt))

/-- Host address of a window granule's tag (R351, R427). -/
def wtagAddr (s : State) (granule : Nat) : Nat := hwinAddr s (0xF800000000 + 16 * granule)

/-- The tag of a window granule over its ciphertext (R427). -/
def winTag (s : State) (g : Nat) (ct : List Byte) : BitVec 128 :=
  (kdf 128 (keyWt s) (leBytes 8 g ++ ct) "ZT-B4480 WTAG").setWidth 128

/-- The line of ciphertext that host memory holds at window offset `off` (log 7). -/
def hostLine (s : State) (off : Nat) : Beat :=
  beatOf ((List.range 8).flatMap fun i => leBytes 8 (hostRead s (hwinAddr s off + 8 * i)).toNat)

/-- The ciphertext of window granule `g` in host memory. -/
def hostGranule (s : State) (g : Nat) : List Byte :=
  (List.range 8).flatMap fun i => beatBytes (hostLine s (512 * g + 64 * i))

/-- The tag of window granule `g` in host memory matches its ciphertext there (R427). -/
def hostTagOk (s : State) (g : Nat) : Bool :=
  (hostRead s (wtagAddr s g + 8)) ++ (hostRead s (wtagAddr s g)) == winTag s g (hostGranule s g)

/-- A window line read where no operand of a row carries it: its plaintext, and whether its granule's tag fails (R427). -/
def hostFetch (s : State) (off : Nat) : Beat × Bool := (winOpen s off (hostLine s off), !hostTagOk s (off / 512))

/-- Bytes that the device writes to host memory at an address, as 64-bit words (log 7). -/
def hostPut (s : State) (addr : Nat) (bs : List Byte) : State :=
  s.modHost fun h =>
    { h with hostMem := (List.range (bs.length / 8)).foldl (fun m i =>
        SMap.set none m (addr / 8 + i) (some (BitVec.ofNat 64 (leNat ((bs.drop (8 * i)).take 8))))) h.hostMem }

/-- A line of ciphertext written through the window. -/
def windowPut (s : State) (off : Nat) (ct : Beat) : State :=
  let s := hwtFill s off
  hostPut (hostSend s (.window off (hwinAddr s off) ct) false) (hwinAddr s off) (beatBytes ct)

/-- The tag of a granule whose ciphertext is `ct` written through the window (R427). -/
def wtagPut (s : State) (g : Nat) (ct : List Byte) : State :=
  let t := winTag s g ct
  hostPut (hostSend s (.wtag g (wtagAddr s g) t) false) (wtagAddr s g) (leBytes 16 t.toNat)

/-- A line written through the window: the rest of its granule is read from host memory, and the granule's new tag covers both
(R427). -/
def hostWinWrite (s : State) (off : Nat) (d : Beat) : State :=
  let s := windowPut s off (winSeal s off d)
  wtagPut s (off / 512) (hostGranule s (off / 512))

/-! ## Beats of a mover's work -/

/-- What a fetch gives: the state, the data where it is at hand, and the window lines not yet used. -/
structure Got where
  s : State
  data : Option (Beat × Bool)
  win : List (Beat × Bool)

/-- The beat at `va`, number `b` of the descriptor's work: read here, taken from the window lines the row carries, asked of
another module, or awaited from a DRAIN cycle of a scratchpad's bank (R241, R249, R252, R256). -/
def fetch (s : State) (m b va : Nat) (win : List (Beat × Bool)) : Got :=
  let v := s.mover m
  match v.got with
  | some d => ⟨s.modMover m fun v => { v with got := none }, some d, win⟩
  | none =>
    if v.asking then ⟨s, none, win⟩
    else match reach s (dieOfMover m) va false false with
      | .error (c, ga) => ⟨holdMover s m c ga va b false, none, win⟩
      | .ok ga =>
        let s' := tlbNote s (dieOfMover m) va
        if gaMod ga == s.self then
          match placeOf (gaOff ga) with
          | .scratch t a => ⟨(drainPush s' t a true 0 (.mover m)).modMover m fun v => { v with asking := true }, none, win⟩
          | .hwin o =>
            match win with
            | w :: rest => ⟨hwtFill s' o, some (winOpen s o w.1, !w.2), rest⟩
            | [] => ⟨s, none, []⟩
          | _ =>
            let (d, p, s) := placeRead s' (gaOff ga)
            ⟨s, some (d, p), win⟩
        else match sendReq s' none m b 1 true (mkMsg s 2 (gaMod ga) 0 ga 1 0 0 []) with
          | some s => ⟨s.modMover m fun v => { v with asking := true }, none, win⟩
          | none => ⟨s, none, win⟩

/-- A descriptor put into the queue of job mover `m` on behalf of a tile and gang (R255). -/
def mvPut (s : State) (m : Nat) (e : MvEnt) : State := s.modMover m fun v => { v with queue := v.queue ++ [e] }

/-- The beat kept for another try. -/
def keepBeat (s : State) (m : Nat) (d : Beat) (p : Bool) : State := s.modMover m fun v => { v with got := some (d, p) }

/-- The beat written to `va`, in a scratchpad in a DRAIN cycle of its bank (R241); false where it meets a fault or waits for a
tag, the data kept. -/
def storeTo (s : State) (m b va : Nat) (d : Beat) (p : Bool) : State × Bool :=
  match reach s (dieOfMover m) va true false with
  | .error (c, ga) => (holdMover (keepBeat s m d p) m c ga va b true, false)
  | .ok ga =>
    let s' := tlbNote s (dieOfMover m) va
    if gaMod ga == s.self then
      match placeOf (gaOff ga) with
      | .scratch t a => (drainPush s' t a false d (.mover m), true)
      | .hwin o => (hostWinWrite s' o d, true)
      | .mover m' _ =>
        match (s.mover m).queue with
        | e :: _ => (mvPut s' m' { e with desc := d }, true)
        | [] => (s', true)
      | _ => (placeWrite s' (gaOff ga) d, true)
    else match sendReq s' none m b 1 false (mkMsg s 1 (gaMod ga) 0 ga 0 0 0 [d]) with
      | some s => (s, true)
      | none => (keepBeat s m d p, false)

/-- The mover's place in its work. -/
def atPos (s : State) (m n : Nat) : State := s.modMover m fun v => { v with pos := n, sub := 0, ent := none, part := [] }

/-! ## Copies (R256) -/

def mvSrc (d : Beat) : Nat := fldN d 32 48
def mvDst (d : Beat) : Nat := fldN d 80 48
def mvLen (d : Beat) : Nat := fldN d 128 32
def mvRows (d : Beat) : Nat := fldN d 160 17
def mvSstride (d : Beat) : Nat := fldN d 256 64
def mvDstride (d : Beat) : Nat := fldN d 320 64
def mvBeats (d : Beat) : Nat := mvRows d * mvLen d / 64
def mvSrcAt (d : Beat) (b : Nat) : Nat := beatAddr (mvSrc d) (mvSstride d) (mvLen d) b
def mvDstAt (d : Beat) (b : Nat) : Nat := beatAddr (mvDst d) (mvDstride d) (mvLen d) b

def copyValid (d : Beat) : Bool :=
  mvType d == 5 && dAmt d != 0 && mvSrc d % 64 == 0 && mvDst d % 64 == 0 && mvLen d % 64 == 0 && mvSstride d % 64 == 0 &&
  mvDstride d % 64 == 0 && decide (1 ≤ mvRows d) && decide (mvRows d ≤ 65536)

/-- Beats copied in order until one must wait. -/
def copyRun : Nat → State → Nat → Beat → List (Beat × Bool) → State
  | 0, s, _, _, _ => s
  | fuel + 1, s, m, d, win =>
    let b := (s.mover m).pos
    if b ≥ mvBeats d then s
    else
      let g := fetch s m b (mvSrcAt d b) win
      match g.data with
      | none => g.s
      | some (x, p) =>
        let (s, ok) := storeTo (noteData g.s p) m b (mvDstAt d b) x p
        if ok then copyRun fuel (atPos s m (b + 1)) m d g.win else s

/-! ## Atomics (R287) -/

def aOp (d : Beat) : Nat := fldN d 9 4
def aW64 (d : Beat) : Bool := bitB d 13
def aRet (d : Beat) : Bool := bitB d 14
def aTarget (d : Beat) : Nat := fldN d 32 48
def aResult (d : Beat) : Nat := fldN d 80 48
def aOp0 (d : Beat) : Nat := fldN d 128 64
def aOp1 (d : Beat) : Nat := fldN d 192 64

def atomicValid (d : Beat) : Bool :=
  dAmt d != 0 && decide (aOp d < 8) && aTarget d % (if aW64 d then 8 else 4) == 0 && aResult d % 64 == 0

/-- The new value of an operand `m` of `w` bits. -/
def atomicNew (aop w m o0 o1 : Nat) : Nat :=
  let o0 := o0 % 2 ^ w
  match aop with
  | 0 => (m + o0) % 2 ^ w
  | 1 => m &&& o0
  | 2 => m ||| o0
  | 3 => m ^^^ o0
  | 4 => max m o0
  | 5 => min m o0
  | 6 => o0
  | _ => if m = o0 then o1 % 2 ^ w else m

/-- One read-modify-write at a near- or far-tier offset: old value, poisoned, state. A partial write leaves a poisoned
beat poisoned (R265). -/
def atomicDo (s : State) (off aop : Nat) (w64 : Bool) (o0 o1 : Nat) : Nat × Bool × State :=
  let n := if w64 then 8 else 4
  let (d, p, s) := dramRead s (off / 64 * 64)
  let old := fldN d (8 * (off % 64)) 64 % 2 ^ (8 * n)
  (old, p, dramWriteBytes s off (leBytes n (atomicNew aop (8 * n) old o0 o1)))

/-- The tier offset an atomic may address: near or far tier. -/
def atomicPlace (off : Nat) : Bool :=
  match placeOf off with
  | .near _ => true
  | .far _ _ => true
  | _ => false

/-- The operation at its target: position 1 once the old value is at hand. -/
def atomicTarget (s : State) (m : Nat) (d : Beat) : State :=
  let v := s.mover m
  if v.got.isSome then atPos s m 1
  else if v.asking then s
  else match reach s (dieOfMover m) (aTarget d) true false with
    | .error (c, ga) => holdMover s m c ga (aTarget d) 0 true
    | .ok ga =>
      let s := tlbNote s (dieOfMover m) (aTarget d)
      if gaMod ga == s.self then
        if atomicPlace (gaOff ga) then
          let (o, p, s) := atomicDo s (gaOff ga) (aOp d) (aW64 d) (aOp0 d) (aOp1 d)
          atPos (keepBeat (noteData s p) m (BitVec.ofNat 512 o) p) m 1
        else holdMover s m fAddress ga (aTarget d) 0 true
      else
        match sendReq s none m 0 1 true (mSet (mkMsg s 3 (gaMod ga) (aOp d) ga 0 (aOp0 d) (aOp1 d) []) 84 1 (aW64 d).toNat) with
        | some s => s.modMover m fun v => { v with asking := true }
        | none => s

def atomicRun (s : State) (m : Nat) (d : Beat) : State :=
  let s := if (s.mover m).pos = 0 then atomicTarget s m d else s
  if (s.mover m).pos != 1 then s
  else match (s.mover m).got with
    | none => s
    | some (x, p) =>
      let s := s.modMover m fun v => { v with got := none }
      if aRet d then
        let (s, ok) := storeTo s m 1 (aResult d) x p
        if ok then atPos s m 2 else s
      else atPos s m 2

/-! ## Collective descriptors (R307, R308, R313, R314, R316) -/

def cGather (d : Beat) : Bool := bitB d 8
def cGpass (d : Beat) : Bool := bitB d 9
def cGend (d : Beat) : Bool := bitB d 10
def cRsig (d : Beat) : Bool := bitB d 11
def cCid (d : Beat) : Nat := fldN d 160 16
def cGkey (d : Beat) : Nat := fldN d 176 12
def cRtile (d : Beat) : Nat := fldN d 198 10
def cRcnt (d : Beat) : Nat := fldN d 208 8
def cRamt (d : Beat) : Nat := fldN d 216 8
def cSoff (d : Beat) : Nat := fldN d 224 32

def collValid (d : Beat) : Bool :=
  mvSrc d % 64 == 0 && mvDst d % 64 == 0 && mvLen d % 64 == 0 && mvLen d != 0 && (!cRsig d || cRamt d != 0)

/-- Data flits of a descriptor. -/
def collFlits (d : Beat) : Nat := mvLen d / 64

/-- The port joined to module `mod`, in state UP or DETOURED (R308). -/
def collPort (s : State) (mod : Nat) : Option Nat :=
  s.rolePorts.find? fun p => (s.portCfg p).peerMod == mod && (portUp s p || (s.port p).st == .detoured)

/-- The message of the descriptor whose first flit is number `b` (R306): sent, numbered in its stream and added to the transmit
tally. -/
def collSend (s : State) (p b ga : Nat) (d : Beat) (data : List Beat) : State :=
  let key := 65536 * p + cCid d
  let last := b + data.length = collFlits d
  let h : Beat := pack 512 [(0, 8, 0x10), (8, 5, data.length), (32, 15, s.self), (48, 15, gaMod ga), (96, 64, ga),
    (160, 16, cCid d), (176, 8, cRcnt d), (184, 8, cRamt d), (192, 32, SMap.get 0 s.cm.txSeq key),
    (224, 1, (last && cRsig d).toNat), (225, 1, (cGather d).toNat), (226, 1, (cGpass d).toNat),
    (227, 1, (last && cGend d).toNat), (228, 12, cGkey d), (240, 10, cRtile d), (256, 32, cSoff d + b),
    (288, 32, (s.stg.step - 1).toNat % 2 ^ 32)]
  let s := s.modCm fun c =>
    { c with txSeq := SMap.upd 0 c.txSeq key fun n => n + 1
             txTally := SMap.upd 0 c.txTally p fun t =>
               digestWords t c.key (cCid d) (ga / 8 % 2 ^ 39) (data.flatMap beatWords)
             txBytes := SMap.upd 0 c.txBytes p fun n => n + 64 * data.length }
  let s := if last && cRsig d then s.modFlt fun f => { f with sigSent := sat64 (f.sigSent + cRamt d) } else s
  sendDirect s p ⟨h, data⟩

/-- Where flit `b` of a collective descriptor goes: port and global address, or a fault (R308). -/
def collDest (s : State) (m b : Nat) (d : Beat) : Except (Nat × Nat) (Nat × Nat) :=
  match reach s (dieOfMover m) (mvDst d + 64 * b) true false with
  | .error e => .error e
  | .ok ga =>
    match (if gaMod ga == s.self then none else collPort s (gaMod ga)) with
    | none => .error (fAddress, ga)
    | some p => .ok (p, ga)

/-- Flits from number `b` on, at most `n`, that one message can carry: each goes to the same port, at the address after the one
before it (DESIGN CHOICE: a message ends where its destination does not go on; log 30). -/
def collSpan (s : State) (m b : Nat) (d : Beat) (n p ga : Nat) : Nat :=
  ((List.range n).takeWhile fun j => match collDest s m (b + j) d with
    | .ok r => r.1 == p && r.2 == ga + 64 * j
    | .error _ => false).length

/-- Flits of the descriptor gathered and sent in messages of 16 until one must wait; a flit whose destination faults holds the
mover, those before it having been sent (R258, R308). -/
def collRun : Nat → State → Nat → Beat → List (Beat × Bool) → State
  | 0, s, _, _, _ => s
  | fuel + 1, s, m, d, win =>
    let v := s.mover m
    let b := v.pos
    if b ≥ collFlits d then s
    else
      let n := min (16 - b % 16) (collFlits d - b)
      if v.part.length < n then
        let i := b + v.part.length
        let g := fetch s m i (mvSrc d + 64 * i) win
        match g.data with
        | none => g.s
        | some (x, p) =>
          collRun fuel ((noteData g.s p).modMover m fun v => { v with part := v.part ++ [x] }) m d g.win
      else match collDest s m b d with
        | .error (c, ga) => holdMover s m c ga (mvDst d + 64 * b) b true
        | .ok (p, ga) =>
          let k := max 1 (collSpan s m b d n p ga)
          let sent := (gaMod ga, cCid d, SMap.get 0 s.cm.txSeq (65536 * p + cCid d))
          let s := collSend (tlbNote s (dieOfMover m) (mvDst d + 64 * b)) p b ga d (v.part.take k)
          collRun fuel (s.modMover m fun v => { v with pos := b + k, part := v.part.drop k, cputs := sent :: v.cputs }) m d win

/-- A message of the collective descriptor in progress on mover `m` is still to be sent on its link (R308). -/
def collPending (s : State) (m : Nat) : Bool :=
  let mine := fun (c : Msg) => mOpc c == 0x10 && mSrc c == s.self &&
    (s.mover m).cputs.contains (mDst c, fldN c.hdr 160 16, fldN c.hdr 192 32)
  s.ports.any fun x => x.2.outq.any (fun e => mine e.2) || x.2.detq.any (fun e => mine e.2) ||
    x.2.outCur.any fun e => (e.2.map mine).getD false

/-! ## Permutation descriptors (R318) -/

def pDir (d : Beat) : Bool := bitB d 9
def pTable (d : Beat) : Nat := fldN d 32 48
def pNent (d : Beat) : Nat := fldN d 80 32
def permValid (d : Beat) : Bool := dAmt d != 0 && pTable d % 64 == 0 && pNent d != 0

/-- Fields of a table entry. -/
def peSrc (e : BitVec 256) : Nat := fldN e 0 64
def peDst (e : BitVec 256) : Nat := fldN e 64 64
def peLen (e : BitVec 256) : Nat := fldN e 128 32
def peTid (e : BitVec 256) : Nat := fldN e 160 20
def peLogical (e : BitVec 256) : Nat := fldN e 192 64

/-- Position of beat `j` of an entry in the digest. -/
def pePos (e : BitVec 256) (j : Nat) : Nat := peTid e * 2 ^ 44 + peLogical e / 8 + 8 * j

/-- A beat added to the digest and byte count of its direction. -/
def permAdd (s : State) (dir : Bool) (e : BitVec 256) (j : Nat) (x : Beat) : State :=
  s.modCm fun c =>
    if dir then { c with permInDig := digestWords c.permInDig c.key 0 (pePos e j) (beatWords x)
                         permInBytes := c.permInBytes + 64 }
    else { c with permOutDig := digestWords c.permOutDig c.key 0 (pePos e j) (beatWords x)
                  permOutBytes := c.permOutBytes + 64 }

/-- Beats of the entry in progress, until one must wait: state, window lines left, entry finished. -/
def permBeats : Nat → State → Nat → Bool → BitVec 256 → List (Beat × Bool) → State × List (Beat × Bool) × Bool
  | 0, s, m, _, e, win => (s, win, decide (peLen e / 64 ≤ (s.mover m).sub))
  | fuel + 1, s, m, dir, e, win =>
    let j := (s.mover m).sub
    if j ≥ peLen e / 64 then (s, win, true)
    else
      let g := fetch s m j (peSrc e + 64 * j) win
      match g.data with
      | none => (g.s, g.win, false)
      | some (x, p) =>
        let s := noteData g.s p
        let (s, ok) := if dir then storeTo s m j (peDst e + 64 * j) x p else (s, true)
        if ok then
          permBeats fuel ((permAdd s dir e j x).modMover m fun v => { v with sub := j + 1 }) m dir e g.win
        else (s, g.win, false)

/-- Entries of the table in order, until one must wait. -/
def permRun : Nat → State → Nat → Beat → List (Beat × Bool) → State
  | 0, s, _, _, _ => s
  | fuel + 1, s, m, d, win =>
    let v := s.mover m
    if v.pos ≥ pNent d then s
    else match v.ent with
      | some e =>
        match permBeats (peLen e / 64) s m (pDir d) e win with
        | (s, win, true) => permRun fuel (atPos s m (v.pos + 1)) m d win
        | (s, _, false) => s
      | none =>
        let g := fetch s m (v.pos / 2) (pTable d + v.pos / 2 * 64) win
        match g.data with
        | none => g.s
        | some (x, p) =>
          permRun fuel ((noteData g.s p).modMover m fun v => { v with ent := some (fld x (256 * (v.pos % 2)) 256) }) m d g.win

/-! ## A mover's descriptor -/

/-- The descriptor at the head of the queue has nothing left to do or to wait for (R204, R241, R256, R260, R308). -/
def moverOver (s : State) (m : Nat) (d : Beat) : Bool :=
  let v := s.mover m
  v.held.isNone && (mvOut s m).isEmpty && !mvDrains s m &&
  (v.ended || match mvType d with
    | 6 => v.pos == 2
    | 7 => decide (collFlits d ≤ v.pos) && !collPending s m
    | 8 => decide (pNent d ≤ v.pos)
    | _ => decide (mvBeats d ≤ v.pos))

/-- Movers 12 to 15 of each die serve firmware (R255). -/
def fwMover (m : Nat) : Bool := decide (12 ≤ m % 16)

/-- A job mover's descriptor ends once it is over: its signal is applied. -/
def moverSettle (s : State) (m : Nat) : State :=
  match (s.mover m).queue with
  | e :: _ => if !fwMover m && (s.mover m).busy && moverOver s m e.desc then moverDone s m else s
  | [] => s

/-- The descriptor in progress worked on as far as it goes. -/
def moverRun (s : State) (m : Nat) (win : List (Beat × Bool)) : State :=
  match (s.mover m).queue with
  | [] => s
  | e :: _ =>
    let v := s.mover m
    if fwMover m || !v.busy || v.held.isSome then s
    else if v.ended then moverSettle s m
    else
      let d := e.desc
      let s := match mvType d with
        | 6 => atomicRun s m d
        | 7 => collRun (2 * collFlits d + 1) s m d win
        | 8 => permRun (2 * pNent d + 1) s m d win
        | _ => copyRun (mvBeats d + 1) s m d win
      moverSettle s m

/-- The descriptor is one its mover may run (R256, R287, R307, R318). -/
def descValid (d : Beat) : Bool :=
  match mvType d with
  | 6 => atomicValid d
  | 7 => collValid d
  | 8 => permValid d
  | _ => copyValid d

/-- Mover `m` takes the first descriptor of its queue, of the row's type, or goes on with it: an invalid one is
discarded (R256). In Rest no mover takes one (R399). -/
def moverTake (s : State) (m : Nat) (row : Nat → Bool) (win : List (Beat × Bool)) : State :=
  match (s.mover m).queue with
  | [] => s
  | e :: _ =>
    if fwMover m || !row (mvType e.desc) || s.rest.st == .resting || s.rest.st == .waking || !s.pins.mainOn then s
    else if (s.mover m).busy then moverRun s m win
    else if descValid e.desc then moverRun (s.modMover m fun v => { v with busy := true }) m win
    else
      let s := (moverNext s m).modMem fun x => { x with mvInvalid := sat32 (x.mvInvalid + 1) }
      ledger s 1 2 0x0206 noUnit m

/-- MOVER_COPY: a descriptor of OPTYPE 0x05, or of none the movers know (R256). -/
def execMoverCopy (m : Nat) (win : List (Beat × Bool)) (s : State) : Res :=
  .next (moverTake s m (fun t => t != 6 && t != 7 && t != 8) win)

/-- ATOMIC_DESCRIPTOR: OPTYPE 0x06 (R287). -/
def execAtomicDescriptor (m : Nat) (s : State) : Res := .next (moverTake s m (· == 6) [])

/-- COLLECTIVE_DESCRIPTOR: OPTYPE 0x07 (R307, R308). -/
def execCollectiveDescriptor (m : Nat) (win : List (Beat × Bool)) (s : State) : Res := .next (moverTake s m (· == 7) win)

/-- PERMUTATION_DESCRIPTOR: OPTYPE 0x08 (R318). -/
def execPermutationDescriptor (m : Nat) (win : List (Beat × Bool)) (s : State) : Res := .next (moverTake s m (· == 8) win)

/-- Every mover looks whether its descriptor is over. -/
def settleMovers (s : State) : State := (s.movers.map (·.1)).foldl moverSettle s

/-- FRAME_SEND (R270, R271, R275 to R277): a frame leaves port `p`; a collective descriptor whose last message has been
sent ends (R308). -/
def execFrameSend (p : Nat) (s : State) : Res := .next (if transmits s p then settleMovers (sendFrame s p) else s)

/-! ## MV_ENQ (R254, R255) -/

/-- The lowest beat in the outbound buffer of a write-direction transfer. -/
def lowBeat (o : Op) : Option (Nat × Nat × Beat × Bool) :=
  o.buf.foldl (fun a b => match a with
    | some x => if b.1 < x.1 then some b else a
    | none => some b) none

/-- The beat has left the outbound buffer: its credit returns (R254). -/
def beatLeaves (s : State) (t : Nat) (o : Op) (b : Nat) : State :=
  let s := s.modOp t o.id fun o => { o with buf := o.buf.filter (fun e => e.1 != b), done := o.done + 1 }
  returnCredits s t (xChan o.desc) 1

/-- MV_ENQ: the next beat of operation `op` of tile `t`, which its translation takes to the enqueue offset of mover `m`,
enters its queue as the descriptor `d`; a refused one faults (R255, R257). -/
def execMvEnq (t op m : Nat) (d : Beat) (s : State) : Res :=
  .next (
    match s.op? t op with
    | none => s
    | some o =>
      match (if xKind2 o && xWrite2 o.desc && o.started && o.held.isNone && tilesRun s then lowBeat o else none) with
      | none => s
      | some (b, va, x, _) =>
        match translate s (dieOfTile t) va true false with
        | .error _ => s
        | .ok ga =>
          if s.stg.st == .abandoned then s
          else if gaMod ga != s.self || placeOf (gaOff ga) != .mover m (gaOff ga % 0x1000) || x != d then s
          else match gaFault s ga true with
            | some c => holdXfer s t op c ga b true
            | none =>
              let g := ((s.tile t).gang).getD 0
              beatLeaves (mvPut s m ⟨d, t, g⟩) t o b)

end Sys2Proof.Machine
end

