-- ==== Sys2Proof/Machine/Copies.lean ====
section
/-! DEFINITION. The copies a command makes: COPY_IN, COPY_OUT and WRITE_INLINE run on firmware movers, beat by beat, until
done or held (R255, R363, R371, R372, R427 to R429). -/

namespace Sys2Proof.Machine

/-- The firmware mover that makes the copies of queue `q`: movers 12 to 15 of the dies in turn (R255; DESIGN CHOICE, log 50). -/
def copyMover (q : Nat) : Nat := 16 * (q / 4 % 2) + 12 + q % 4

/-- The descriptor firmware queues for the copy of entry `e` (R255, R256). -/
def copyDesc (e : BitVec 2048) : Beat :=
  pack 512 [(0, 8, 5), (80, 48, entParam e 0x28 64), (128, 32, entParam e 0x30 64), (160, 17, 1)]

/-- The copy of queue `q` is the one its mover works on. -/
def copyHead (s : State) (q : Nat) : Bool := (s.mover (copyMover q)).queue.head?.any fun e => e.tile == q

/-- An access of queue `q`'s command meets a fault at beat `b` (R257, R259). -/
def cmdFault (s : State) (q code ga va b : Nat) (wr : Bool) : State :=
  if (faultsOf s true (copyMover q) q).any fun f => f.code == code && f.beat == b then s
  else (addFault s code wr true false (copyMover q) q 0 b va ga 0 1024).2

/-- A copy meets a fault at beat `b`: its mover is held (R258, R372). -/
def holdCopy (s : State) (q code ga va b : Nat) (wr : Bool) : State :=
  let s := cmdFault s q code ga va b wr
  s.modMover (copyMover q) fun v => { v with held := (lowFault (faultsOf s true (copyMover q) q)).map (·.n) }

/-- A fault of queue `q`'s command is held. -/
def cmdHeld (s : State) (q : Nat) : Bool := !(faultsOf s true (copyMover q) q).isEmpty

/-- The copy of queue `q` is over: its faults and responses are dropped, and its mover goes on to the next. -/
def copyClear (s : State) (q : Nat) : State :=
  let s := retryGone ((faultsOf s true (copyMover q) q).foldl (fun s f => dropFault s f.n) s) true (copyMover q) q
  if copyHead s q then
    (moverNext (killMover s (copyMover q) 0) (copyMover q)).modMover (copyMover q) fun v => { v with done := sat32 (v.done + 1) }
  else s.modMover (copyMover q) fun v => { v with queue := v.queue.filter fun e => e.tile != q }

/-- Job memory at `va` read for a command: none where it waits or is held. -/
def copyFetch (s : State) (q b va : Nat) : State × Option (Beat × Bool) :=
  let m := copyMover q
  let v := s.mover m
  match v.got with
  | some d => (s.modMover m fun v => { v with got := none }, some d)
  | none =>
    if v.asking then (s, none)
    else match reach s (dieOfMover m) va false true with
      | .error (c, ga) => (holdCopy s q c ga va b false, none)
      | .ok ga =>
        let s := tlbNote s (dieOfMover m) va
        if gaMod ga == s.self then
          match placeOf (gaOff ga) with
          | .scratch t a => ((drainPush s t a true 0 (.mover m)).modMover m fun v => { v with asking := true }, none)
          | .hwin o => let s := hwtFill s o; (s, some (hostFetch s o))
          | _ => let (d, p, s) := placeRead s (gaOff ga); (s, some (d, p))
        else match sendReq s none m b 1 true (mkMsg s 2 (gaMod ga) 0 ga 1 0 0 []) with
          | some s => (s.modMover m fun v => { v with asking := true }, none)
          | none => (s, none)

/-- Job memory at `va` written for a command; false where it waits or is held. -/
def copyStore (s : State) (q b va : Nat) (d : Beat) : State × Bool :=
  match reach s (dieOfMover (copyMover q)) va true true with
  | .error (c, ga) => (holdCopy s q c ga va b true, false)
  | .ok ga =>
    let s := tlbNote s (dieOfMover (copyMover q)) va
    if gaMod ga == s.self then
      match placeOf (gaOff ga) with
      | .scratch t a => (drainPush s t a false d (.mover (copyMover q)), true)
      | .hwin o => (hostWinWrite s o d, true)
      | .mover m' _ => (mvPut s m' ⟨d, 1024, 64⟩, true)
      | _ => (placeWrite s (gaOff ga) d, true)
    else match sendReq s none (copyMover q) b 1 false (mkMsg s 1 (gaMod ga) 0 ga 0 0 0 [d]) with
      | some s => (s, true)
      | none => (s, false)

/-- A fault of the window extent of a command carries the window offset (log 50). -/
def winFault (s : State) (q b off : Nat) (wr : Bool) : State :=
  let n := s.mem.nextFault
  let s := cmdFault s q fHwin (gAddr s.self ((0x3F000000000 + off) % 2 ^ 42)) off b wr
  let mark := fun (f : FaultRec) => if f.n = n then { f with win := true } else f
  hwinRefresh (s.modMem fun m => { m with faults := m.faults.map mark })

/-- Beat `b` of the window extent at `woff` is served (R351 to R353): false where it is held. -/
def winReady (s : State) (q b off : Nat) (wr : Bool) : State × Bool :=
  if hwinOk s off wr then (hwtFill s off, true)
  else
    let s := winFault s q b off wr
    (s.modMover (copyMover q) fun v => { v with held := (lowFault (faultsOf s true (copyMover q) q)).map (·.n) }, false)

/-- Bytes a copy has completed. -/
def addBytes (s : State) (q n : Nat) : State :=
  s.modSq q fun x => { x with cur := x.cur.map fun k => { k with bytes := k.bytes + n } }

/-- Plaintext bytes of queue `q`'s copy so far. -/
def copyBytes (s : State) (q : Nat) : Nat := ((s.sq q).cur.map (·.bytes)).getD 0

/-- A copy ends: its working state is gone and the command completes with the bytes done (R364). -/
def copyEnd (s : State) (q st : Nat) : State := complete (copyClear s q) q st (copyBytes s q) 0

/-- The signal of a SIG word (R363). -/
def sigWord (s : State) (w : Nat) : State :=
  if w / 2 ^ 26 % 2 = 1 then signalRemote s (w % 1024) (w / 2 ^ 10 % 256) (w / 2 ^ 18 % 256) else s

/-- Beats of a copy still without response or DRAIN cycle. -/
def copyWaits (s : State) (q : Nat) : Bool := !(mvOut s (copyMover q)).isEmpty || mvDrains s (copyMover q)

/-- COPY_IN's beats in order (R428), each window line decrypted under K_WX at the boundary (R24, R427): `lim` is the first
granule whose tag fails in the write pass. -/
def copyInRun : Nat → State → Nat → Nat → Nat → List Beat → Option Nat → State × Bool
  | 0, s, _, _, _, _, _ => (s, false)
  | fuel + 1, s, q, woff, va, lines, lim =>
    let n := copyBytes s q
    let stop := match lim with
      | some g => decide (g ≤ (woff + n) / 512 - woff / 512)
      | none => false
    match lines[n / 64]? with
    | none => (s, true)
    | some d =>
      if stop then (s, true)
      else
        let (s, ok) := winReady s q (n / 64) (woff + n) false
        if !ok then (s, false)
        else
          let (s, ok) := copyStore s q (n / 64) (va + n) (winOpen s (woff + n) d)
          if ok then copyInRun fuel (addBytes s q 64) q woff va lines lim else (s, false)

/-- The granule gathered in `part`, first line at window offset `off`, written through the window with its tag: a whole
granule's tag covers its ciphertext (R427). -/
def flushGranule (s : State) (off : Nat) (part : List Beat) : State :=
  if part.length = 8 then
    let g := off / 512
    let ct := part.zipIdx.map fun b => winSeal s (off + 64 * b.2) b.1
    let s := ct.zipIdx.foldl (fun s b => windowPut s (off + 64 * b.2) b.1) s
    wtagPut s g (ct.flatMap beatBytes)
  else part.zipIdx.foldl (fun s b => hostWinWrite s (off + 64 * b.2) b.1) s

/-- COPY_OUT's beats in order, granule by granule. -/
def copyOutRun : Nat → State → Nat → Nat → Nat → Nat → State × Bool
  | 0, s, _, _, _, _ => (s, false)
  | fuel + 1, s, q, woff, va, len =>
    let m := copyMover q
    let part := (s.mover m).part
    let n := copyBytes s q + 64 * part.length
    let at_ := woff + copyBytes s q
    if n < len && (part.isEmpty || (woff + n) % 512 != 0) then
      let (s, d) := copyFetch s q (n / 64) (va + n)
      match d with
      | none => (s, false)
      | some (x, p) =>
        let s := s.modMover m fun v => { v with part := v.part ++ [x] }
        let s := if p then s.modSq q fun x => { x with cur := x.cur.map fun k => { k with poison := true } } else s
        copyOutRun fuel s q woff va len
    else if part.isEmpty then (s, true)
    else
      let (s, ok) := winReady s q (n / 64) at_ true
      if !ok then (s, false)
      else
        let s := flushGranule s at_ part
        let s := addBytes (s.modMover m fun v => { v with part := [] }) q (64 * part.length)
        copyOutRun fuel s q woff va len

/-- Bytes `bs` placed at offset `i` of a beat. -/
def mergeBytes (old : Beat) (i : Nat) (bs : List Byte) : Beat :=
  let o := beatBytes old
  beatOf (o.take i ++ bs ++ o.drop (i + bs.length))

/-- A WRITE_INLINE's bytes from `n` on, beat by beat: part of a beat of this module's tiers keeps the beat's poison; part of
another module's beat is read, merged and written (R372; log 49). -/
def inlineRun : Nat → State → Nat → Nat → List Byte → State × Bool
  | 0, s, _, _, _ => (s, false)
  | fuel + 1, s, q, va, bs =>
    let n := copyBytes s q
    if bs.length ≤ n then (s, true)
    else
      let a := va + n
      let k := min (64 - a % 64) (bs.length - n)
      let seg := (bs.drop n).take k
      let base := a / 64 * 64
      let b := a / 64 - va / 64
      let next := fun (s : State) => inlineRun fuel (addBytes s q k) q va bs
      match (if k = 64 then none else some (reach s (dieOfMover (copyMover q)) base true true)) with
      | none =>
        let (s, ok) := copyStore s q b base (beatOf seg)
        if ok then next s else (s, false)
      | some (.error (c, ga)) => (holdCopy s q c ga base b true, false)
      | some (.ok ga) =>
        let tier := gaMod ga == s.self && atomicPlace (gaOff ga)
        if tier then next (dramWriteBytes s (gaOff ga + a % 64) seg)
        else
          let (s, d) := copyFetch s q b base
          match d with
          | none => (s, false)
          | some (x, p) =>
            let r := copyStore s q b base (mergeBytes x (a % 64) seg)
            if r.2 then next r.1 else (keepBeat r.1 (copyMover q) x p, false)

/-- Key, nonce and additional data of an inline payload (R429). -/
def inlinePlain (s : State) (e : BitVec 2048) : Option (List Byte) :=
  match s.trust.session with
  | some (h, k, _, n) =>
    let key := kdf 256 k [] "ZT-B4480 INLINE"
    let pl := entPayload e
    let ct := pl.take (entPlen e - 16)
    gcmOpen key (leBytes 4 1 ++ leBytes 8 n) (leBytes 4 h ++ leBytes 8 (entParam e 0x20 64) ++ leBytes 2 (entPlen e)) ct
      (pl.drop (entPlen e - 16))
  | none => none

/-- The copy of queue `q` works on as far as it goes; when every byte is visible the command completes (R363, R364,
R372). -/
def copyGo (s : State) (q : Nat) : State :=
  match (s.sq q).cur with
  | none => s
  | some k =>
    if k.waiting || !copyHead s q || (s.mover (copyMover q)).held.isSome || s.rest.st == .resting || s.rest.st == .waking then s
    else match k.cmd with
      | .copyIn _ e lines tags =>
        let lim := match tags with
          | .failWrite g => some g
          | _ => none
        let (s, fin_) := copyInRun (lines.length + 1) s q (entParam e 0x20 64) (entParam e 0x28 64) lines lim
        if !fin_ || copyWaits s q then s
        else if lim.isSome && decide (copyBytes s q < 64 * lines.length) then copyEnd s q 0x0202
        else copyEnd (sigWord s (entParam e 0x38 32)) q 0
      | .copyOut _ e =>
        let len := entParam e 0x30 64
        let (s, fin_) := copyOutRun (len / 32 + 2) s q (entParam e 0x20 64) (entParam e 0x28 64) len
        let bad := ((s.sq q).cur.map (·.poison)).getD false
        if fin_ then copyEnd s q (if bad then 0x0105 else 0) else s
      | .writeInline _ e =>
        let n := entPlen e - 16
        let (s, fin_) := inlineRun (n + 1) s q (entParam e 0x20 64) k.body
        if fin_ && !copyWaits s q then copyEnd (sigWord s (entParam e 0x28 32)) q 0 else s
      | _ => s

/-- The copy of entry `e` joins the queue of its mover (R255). -/
def copyStart (s : State) (q : Nat) (e : BitVec 2048) : State :=
  copyGo ((mvPut s (copyMover q) ⟨copyDesc e, q, 64⟩).modMover (copyMover q) fun v => { v with busy := true }) q

/-- Bytes of a copy before the beat at which fault `f` lies: what it has completed before the error (R364, R372). -/
def bytesTo (s : State) (q : Nat) (f : FaultRec) : Nat :=
  match (s.sq q).cur with
  | some k =>
    if f.win then k.bytes
    else min k.bytes (f.va - entParam k.entry (if entOpcode k.entry == 0x0302 then 0x20 else 0x28) 64)
  | none => 0

/-- A copy whose access ends with ERROR (R260, R372): what a COPY_OUT has gathered before the fault is written; bytes past the
failing beat are not counted. -/
def copyFail (s : State) (q : Nat) (f : FaultRec) : State :=
  let part := (s.mover (copyMover q)).part
  match (s.sq q).cur with
  | none => copyClear s q
  | some k =>
    let at_ := entParam k.entry 0x20 64 + k.bytes
    let s :=
      if entOpcode k.entry == 0x0301 && !f.win && !part.isEmpty && hwinOk s at_ true then
        addBytes (flushGranule s at_ part) q (64 * part.length)
      else s
    let n := bytesTo s q f
    copyEnd (s.modSq q fun x => { x with cur := x.cur.map fun k => { k with bytes := n } }) q 0x0104

/-- Every copy goes on. -/
def copiesGo (s : State) : State := (List.range 16).foldl copyGo s

end Sys2Proof.Machine
end

