-- ==== Sys2Proof/Machine/Remote.lean ====
section
/-! DEFINITION. Requests and responses of other modules, their signals, members that leave, and recovery of a failed port by
detour (R229, R237, R280, R285 to R288, R295, R299, R401). -/

namespace Sys2Proof.Machine

/-! ## Rest and the boundary (R301, R399 to R401) -/

/-- A wake event: a module in Rest, not held there by an unattainable cap, starts its wake (R400, R401). -/
def wakeUp (s : State) : State :=
  if s.rest.st == .resting && !s.rest.forced then { s with rest := { s.rest with st := .waking, wakeAt := some s.ns } } else s

/-! ## Requests (R229, R237, R280, R285) -/

/-- The far-tier port a request's address names, where that port is not in service (R285). -/
def farDown (s : State) (m : Msg) : Option Nat :=
  match placeOf (gaOff (mAddr m)) with
  | .far p _ => if farReady s p || remoteRefused s (mAddr m) false then none else some p
  | _ => none

/-- A request of this module's abandoned step is refused with CODE 4 (R229). -/
def refuseAbandoned (s : State) (m : Msg) : State :=
  let s := respond s m 0x84 4 0 []
  if mOpc m != 4 then s
  else
    let s := s.modFab fun f => { f with sigDrop := sat32 (f.sigDrop + 1) }
    s.modFlt fun f => { f with sigDropped := sat64 (f.sigDropped + mArg m % 256) }

/-- A request held for a far-tier port: it keeps its place in the inbound buffer (R285). -/
def holdReq (s : State) (p far : Nat) (m : Msg) : State :=
  if s.mem.heldReqs.any fun h => h.port == p && h.msg == m then s
  else
    let s := s.modFab fun f => { f with reqRecv := sat64 (f.reqRecv + 1) }
    s.modMem fun x => { x with heldReqs := x.heldReqs ++ [⟨x.nextFault, p, m, far, s.ns⟩], nextFault := x.nextFault + 1 }

/-- A held request leaves the list of those held for a far-tier port (R285). -/
def unhold (s : State) (p : Nat) (m : Msg) : State :=
  s.modMem fun x => { x with heldReqs := x.heldReqs.filter fun q => !(q.port == p && q.msg == m) }

/-- Receipt of a request: held in the buffer while the boundary is closed (in Rest it wakes the module) or its far-tier
port is down; refused while the step is abandoned; otherwise performed by `act`. A request held before counts no second time. -/
def reqRow (s : State) (p opc : Nat) (m : Msg) (act : State → State) : State :=
  if !peekMsg s p opc m || s.fab.sigHeld.contains (p, m) then s
  else if !boundaryOpen s then wakeUp s
  else
    let old := s.mem.heldReqs.any fun h => h.port == p && h.msg == m
    let go := fun (f : State → State) => match takeMsg s p opc m with
      | none => s
      | some s => f ((unhold s p m).modFab fun f => { f with reqRecv := if old then f.reqRecv else sat64 (f.reqRecv + 1) })
    if s.stg.st == .abandoned then go fun s => refuseAbandoned s m
    else match (if opc == 4 then none else farDown s m) with
      | some far => holdReq s p far m
      | none => go act

/-- Beats of a request's address range, each with its offset. -/
def reqBeats (m : Msg) (n : Nat) : List Nat := (List.range n).map fun i => mAddr m / 64 * 64 + 64 * i

/-- Data of a WRITE or CPUT: near and far tier at once; scratchpad beats wait for their DRAIN cycles, `after` following the
last (R241, R286). -/
def writeBeats (s : State) (m : Msg) (after : DrainAfter) : State × Bool :=
  let g := s.fab.nextGrp
  let bs := (reqBeats m m.data.length).zip m.data
  let ent := fun (b : Nat × Beat) => match placeOf (gaOff b.1) with
    | .scratch t a => [(⟨g, t, a, false, false, b.2, after⟩ : DrainEnt)]
    | _ => []
  let ds := bs.flatMap ent
  let s := bs.foldl (fun s b => match placeOf (gaOff b.1) with
    | .scratch _ _ => s
    | _ => placeWrite s (gaOff b.1) b.2) s
  if ds.isEmpty then (s, true)
  else (s.modFab fun f => { f with drain := f.drain ++ ds, nextGrp := g + 1 }, false)

/-- A WRITE performed (R286). -/
def doWrite (s : State) (p : Nat) (m : Msg) : State :=
  if (reqBeats m m.data.length).any fun a => remoteRefused s a true then respond s m 0x84 1 0 []
  else
    let (s, done) := writeBeats s m (.write p m)
    if done then respond s m 0x81 0 0 [] else s

/-- WRITE (R280, R285, R286). -/
def execWrite (p : Nat) (m : Msg) (s : State) : Res := .next (reqRow s p 1 m fun s => doWrite s p m)

/-- The scratchpad beats among those of a READ, as entries for DRAIN cycles (R241). -/
def readEnts (s : State) (p n : Nat) (m : Msg) : List DrainEnt :=
  (reqBeats m n).flatMap fun a => match placeOf (gaOff a) with
    | .scratch t o => [(⟨s.fab.nextGrp, t, o, true, false, 0, .read p m⟩ : DrainEnt)]
    | _ => []

/-- A READ performed once: 1 to 16 flits, CODE 1 where a beat is poisoned (R264, R286); the beats of a scratchpad are read in DRAIN
cycles, and the answer follows the last (R241). -/
def doRead (s : State) (p : Nat) (m : Msg) : State :=
  let n := mArg m % 32
  let ds := readEnts s p n m
  if n = 0 || 16 < n || (reqBeats m n).any fun a => remoteRefused s a false then respond s m 0x84 1 0 []
  else if !ds.isEmpty then s.modFab fun f => { f with drain := f.drain ++ ds, nextGrp := f.nextGrp + 1 }
  else
    let r := (reqBeats m n).foldl (fun (r : List Beat × Bool × State) a =>
      let (d, p, s) := placeRead r.2.2 (gaOff a)
      (r.1 ++ [d], r.2.1 || p, s)) ([], false, s)
    respond r.2.2 m 0x82 r.2.1.toNat 0 r.1

/-- READ. -/
def execRead (p : Nat) (m : Msg) (s : State) : Res := .next (reqRow s p 2 m fun s => doRead s p m)

/-- An ATOMIC performed on its granule; near and far tier only (R285, R287). -/
def doAtomic (s : State) (m : Msg) : State :=
  let a := mAddr m
  if remoteRefused s a true || !atomicPlace (gaOff a) || a % (if mW64 m then 8 else 4) != 0 || 8 ≤ mCode m then
    respond s m 0x84 1 0 []
  else
    let (old, _, s) := atomicDo s (gaOff a) (mCode m) (mW64 m) (mOp0 m) (mOp1 m)
    respond s m 0x83 0 old []

/-- ATOMIC. -/
def execAtomic (p : Nat) (m : Msg) (s : State) : Res := .next (reqRow s p 3 m fun s => doAtomic s m)

/-- Tile and counter an aperture offset names (R180, R242). -/
def ecOf (ga : Nat) : Option (Nat × Nat) :=
  match placeOf (gaOff ga) with
  | .reg o =>
    if o < 0x4000000 && decide (0x800 ≤ o % 0x10000) && decide (o % 0x10000 < 0xC00) && o % 4 == 0 then
      some (o / 0x10000, (o % 0x10000 - 0x800) / 4)
    else none
  | _ => none

/-- A SIGNAL performed: applied, held or dropped, and acknowledged (R288). -/
def doSignal (s : State) (m : Msg) : State :=
  match (if mAddr m / 2 ^ 57 != 64 || gaMod (mAddr m) != s.self then none else ecOf (mAddr m)) with
  | none => respond s m 0x84 1 0 []
  | some (t, c) =>
    let s := if (s.tile t).gang.isSome then s.modFab fun f => { f with sigApplied := sat64 (f.sigApplied + 1) } else s
    respond (signalRemote s t c (mArg m % 256)) m 0x81 0 0 []

/-- A SIGNAL names a used tile whose gang's context is saved (R173). -/
def signalSaved (s : State) (m : Msg) : Bool :=
  contextSaved s && mAddr m / 2 ^ 57 == 64 && gaMod (mAddr m) == s.self &&
  (ecOf (mAddr m)).any fun r => (s.tile r.1).gang.isSome

/-- A SIGNAL held for a saved gang is accepted and answered, and stays in the inbound buffer with its credit unreturned (R173,
R288, R452). -/
def holdSignal (s : State) (p : Nat) (m : Msg) : State :=
  let s := s.modFlt fun f => { f with sigRemote := sat64 (f.sigRemote + mArg m % 256) }
  let s := s.modFab fun f => { f with reqRecv := sat64 (f.reqRecv + 1), sigApplied := sat64 (f.sigApplied + 1), sigHeld := f.sigHeld ++ [(p, m)] }
  respond s m 0x81 0 0 []

/-- REMOTE_SIGNAL: the SIGNAL message. -/
def execRemoteSignal (p : Nat) (m : Msg) (s : State) : Res :=
  .next (
    if signalSaved s m && peekMsg s p 4 m && boundaryOpen s && !s.fab.sigHeld.contains (p, m) && s.stg.st != .abandoned then
      holdSignal s p m
    else reqRow s p 4 m fun s => doSignal s m)

/-- A message whose signal was held leaves its buffer, its credits returned; the amount of a SIGNAL is applied now, that of a
CPUT with those its stream holds (R173). -/
def applySignalMsg (s : State) (h : Nat × Msg) : State :=
  let s := s.modFab fun f => { f with sigHeld := f.sigHeld.erase h }
  match takeMsg s h.1 (mOpc h.2) h.2, (if mOpc h.2 == 4 then ecOf (mAddr h.2) else none) with
  | some s, some (t, c) => applySignal s none t c (mArg h.2 % 256)
  | some s, none => s
  | none, _ => s

/-- A request that was held for its far-tier port is performed, its credit returned (R285). -/
def serveHeld (s : State) (h : HeldReq) : State :=
  let s := s.modMem fun x => { x with heldReqs := x.heldReqs.filter fun q => q.n != h.n }
  match takeMsg s h.port (mOpc h.msg) h.msg with
  | none => s
  | some s =>
    if s.stg.st == .abandoned then refuseAbandoned s h.msg
    else if mOpc h.msg == 1 then doWrite s h.port h.msg
    else if mOpc h.msg == 2 then doRead s h.port h.msg
    else doAtomic s h.msg

/-! ## Responses (R279, R280) -/

/-- What waited for a free tag goes on: signals, transfers, movers (R280). -/
def resumeAll (s : State) : State :=
  let s := resumeRequests s
  copiesGo ((s.movers.map (·.1)).foldl (fun s m => moverRun s m []) s)

/-- A response taken in, where the boundary drains inbound traffic (R301). -/
def takeResponse (s : State) (p opc : Nat) (m : Msg) : Option State := if boundaryOpen s then takeMsg s p opc m else none

/-- Receipt of a response: its tag is freed, `act` uses it; one whose tag names no outstanding request is discarded. -/
def rspRow (s : State) (p opc : Nat) (m : Msg) (act : OutReq → State → State) : State :=
  match takeResponse s p opc m with
  | none => s
  | some s =>
    match takeRsp s m with
    | none => discard s
    | some (r, s) => resumeAll (if r.dead then s else act r s)

/-- ACK: the written beat is visible; a transfer's completion is its own step, a mover's descriptor may end (R253). -/
def execAck (p : Nat) (m : Msg) (s : State) : Res := .next (rspRow s p 0x81 m fun _ s => s)

/-- Data for a mover. -/
def moverGot (s : State) (m : Nat) (d : Beat) (p : Bool) : State :=
  s.modMover m fun v => { v with asking := false, got := some (d, p) }

/-- READ_RESP (R252, R264, R279). -/
def execReadResp (p : Nat) (m : Msg) (s : State) : Res :=
  .next (rspRow s p 0x82 m fun r s =>
    match r.op with
    | some (t, id) =>
      (m.data.zipIdx.take r.nbeats).foldl (fun s d => match s.op? t id with
        | some o => beatArrive s t o (r.beat + d.2) d.1 (mCode m == 1)
        | none => s) s
    | none => if r.mover == noMover then s else moverGot s r.mover (m.data.headD 0) (mCode m == 1))

/-- ATOMIC_RESP (R287). -/
def execAtomicResp (p : Nat) (m : Msg) (s : State) : Res :=
  .next (rspRow s p 0x83 m fun r s =>
    if r.mover == noMover then s else moverGot s r.mover (BitVec.ofNat 512 (mOp0 m)) false)

/-- Virtual address of step `b` of a mover's descriptor. -/
def mvVa (v : Mover) (d : Beat) (b : Nat) (rd : Bool) : Nat :=
  match mvType d with
  | 6 => if b = 0 then aTarget d else aResult d
  | 7 => mvSrc d + 64 * b
  | 8 =>
    match v.ent with
    | some e => (if rd then peSrc e else peDst e) + 64 * b
    | none => pTable d + 64 * b
  | _ => if rd then mvSrcAt d b else mvDstAt d b

/-- The global address a virtual address translates to, 0 where it does not. -/
def gaOrZero (s : State) (die va : Nat) (wr : Bool) : Nat :=
  match translate s die va wr false with
  | .ok ga => ga
  | .error _ => 0

/-- Address of the first beat of queue `q`'s copy. -/
def copyVa (s : State) (q : Nat) : Nat :=
  match (s.sq q).cur with
  | some k => entParam k.entry (if entOpcode k.entry == 0x0302 then 0x20 else 0x28) 64 / 64 * 64
  | none => 0

/-- An ERROR response is an ADDRESS fault of the transfer or descriptor (R257, R279). -/
def errorFault (s : State) (r : OutReq) : State :=
  match r.op with
  | some (t, id) =>
    match s.op? t id with
    | some o =>
      let va := if r.rd then xSrcAt o.desc r.beat else xDstAt o.desc r.beat
      holdXfer s t id fAddress (gaOrZero s (dieOfTile t) va (!r.rd)) r.beat (!r.rd)
    | none => s
  | none =>
    if r.mover == noMover then s
    else match (s.mover r.mover).queue with
      | [] => s
      | e :: _ =>
        let s := s.modMover r.mover fun v => { v with asking := if r.rd then false else v.asking }
        let die := dieOfMover r.mover
        if fwMover r.mover then
          let va := copyVa s e.tile + 64 * r.beat
          holdCopy s e.tile fAddress (gaOrZero s die va (!r.rd)) va r.beat (!r.rd)
        else if (s.mover r.mover).ended then s
        else
          let va := mvVa (s.mover r.mover) e.desc r.beat r.rd
          holdMover s r.mover fAddress (gaOrZero s die va (!r.rd)) va r.beat (!r.rd)

/-- ERROR (R279, R280). -/
def execError (p : Nat) (m : Msg) (s : State) : Res :=
  .next (
    match takeResponse s p 0x84 m with
    | none => s
    | some s =>
      match takeRsp s m with
      | none => discard s
      | some (r, s) =>
        let s := s.modFab fun f => { f with errRsp := sat32 (f.errRsp + 1) }
        resumeAll (if r.dead then s else errorFault s r))

/-! ## Members that leave (R299) -/

/-- Every outstanding request to a module ends with ERROR CODE 2. -/
def failRequests (s : State) (mod : Nat) : State :=
  (s.fab.outstanding.filter fun r => r.dst == mod).foldl
    (fun s r => loopErr s (mSet (mkMsg s 1 mod 0 0 0 0 0 []) 64 16 r.tag) 2) s

/-- Ports to a module that has left are LOST at once. -/
def portsLost (s : State) (mod : Nat) : State :=
  (s.rolePorts.filter fun p => (s.portCfg p).peerMod == mod && (s.port p).st != .off).foldl
    (fun s p => s.modPort p fun x => { x with st := .lost }) s

/-- A request addressed to module `mod`. -/
def reqFor (mod : Nat) (m : Msg) : Bool := classOf (mOpc m) == some 0 && mDst m == mod

/-- Requests of other modules to a departed one that wait in this module, in a port's queues or before the bridges, are answered
with CODE 2; this module's own leave the queues, their answers being `failRequests`' (R299). -/
def purgeRequests (s : State) (mod : Nat) : State :=
  let held := (s.ports.flatMap fun e => ((e.2.outq ++ e.2.detq).map (·.2)).filter (reqFor mod)) ++
    (s.fab.bridged.filter fun b => reqFor mod b.msg && b.left == 1 + b.msg.data.length).map (·.msg)
  let crossing := s.fab.bridged.filter fun b => reqFor mod b.msg && b.left == 1 + b.msg.data.length
  let s := { s with ports := SMap.remap ({} : Port) (fun _ (x : Port) =>
    { x with outq := x.outq.filter (fun e => !reqFor mod e.2)
             detq := x.detq.filter (fun e => !reqFor mod e.2) }) s.ports }
  let s := s.modFab fun f => { f with bridged := f.bridged.filter fun b => !crossing.contains b }
  let s := crossing.foldl (fun s b => oweCredits s b.src b.vc (1 + b.msg.data.length)) s
  (held.filter fun m => mSrc m != s.self).foldl (fun s m => respond s m 0x84 2 0 []) s

/-- LEAVE (R299, R437). -/
def execLeave (p : Nat) (m : Msg) (s : State) : Res :=
  .next (
    match takeMsg s p 0x20 m with
    | none => s
    | some s =>
      let mod := mSrc m
      if s.fab.departed.contains mod then s
      else
        let s := s.modFab fun f => { f with departed := f.departed ++ [mod] }
        memberLost (purgeRequests (portsLost (failRequests s mod) mod) mod) mod)

/-- The port sends on by its schedule until the LEAVE at the head of channel 15 has left in one of its slots, on its credit, or
no frame of the given number is left (R275, R276). -/
def leaveRun : Nat → State → Nat → State
  | 0, s, _ => s
  | fuel + 1, s, p =>
    let x := s.port p
    if x.outq.any (fun e => mOpc e.2 == 0x20) then leaveRun fuel (sendFrame s p) p else s

/-- LEAVE sent on every port that is UP, ahead of what else waits for its channel, then ports in WAIT without credits (R299, R301):
the frames of a replay and of two passes of the schedule go out meanwhile, the links limiter granting them (DESIGN CHOICE; log
63). -/
def leaveJob (s : State) : State :=
  let lim := s.gov.linkLim
  let s := s.rolePorts.foldl (fun s p =>
    if portUp s p then
      let m := mSet (mSet (mkMsg s 0x20 0 0 0 0 0 0 []) 48 15 (s.portCfg p).peerMod) 13 3 1
      let n := 8192 + (s.port p).replay.length
      (leaveRun n (s.modPort p fun x => { x with outq := (15, m) :: x.outq }) p).modPort p fun x => { x with st := .wait }
    else if (s.port p).st == .off then s
    else s.modPort p fun x => { x with st := .wait }) (s.modGov fun g => { g with linkLim := none })
  s.modGov fun g => { g with linkLim := lim }

/-! ## Recovery by detour (R295) -/

/-- A PORT_CONFIG that takes port `p` out of service, or returns it, completes with FP_STATUS (R364, R376). -/
def portCfgDone (s : State) (p opcodeAction : Nat) : State :=
  (List.range 16).foldl (fun s q =>
    match (s.sq q).cur with
    | some k =>
      if k.waiting && entOpcode k.entry == 0x0700 && entParam k.entry 0x20 8 == p && entParam k.entry 0x21 8 == opcodeAction then
        complete s q 0 (fpStatus s p) 0
      else s
    | none => s) s

/-- RESYNC: the peer has failed the port; this end fails it too and names how many messages it has accepted (R295). At a port that
has retrained at both ends it is the peer's swap back, which this end answers and follows (R297). -/
def execResync (p : Nat) (m : Msg) (s : State) : Res :=
  .next (
    match takeMsg s p 0x21 m with
    | none => s
    | some s =>
      let s := if portUp s p then portFail s p 5 else s
      let back := returnReady s p
      let s := sendDirect s p (mkMsg s 0x22 0 0 0 0 (s.port p).accepted 0 [])
      if back then portBack s p else s)

/-- A message of a failed port re-sent by detour: one already on a detour takes another pair of the port it detours. -/
def resend (p : Nat) (s : State) (m : Msg) : State :=
  let q := if mDetour m then
      (s.rolePorts.find? fun q => (s.portCfg q).peerMod == mVia m && (s.port q).st == .detoured).getD p
    else p
  enqPort s q m

/-- RESYNC_REPLY: what was sent and not accepted, and what was frozen in the queues, is re-sent by detour (R295, R315). -/
def execResyncReply (p : Nat) (m : Msg) (s : State) : Res :=
  .next (
    match takeMsg s p 0x22 m with
    | none => s
    | some s =>
      let x := s.port p
      if x.st == .detoured && x.returning then portBack s p
      else if x.st != .detoured || x.resynced then s
      else
        let lost := (x.sentLog.reverse.drop (mOp0 m)) ++ x.outCur.filterMap (·.2) ++ x.outq.map (·.2) ++ x.detq.map (·.2)
        let s := s.modPort p fun x =>
          { x with outq := [], outCur := [], outFlits := [], detq := [], detVc := none, sentLog := [], resynced := true
                   resent := sat32 (x.resent + lost.length) }
        let s := lost.foldl (resend p) s
        let s := s.modFab fun f => { f with detours := sat32 (f.detours + 1) }
        let s := ledger s 1 3 0x0302 p (s.portCfg p).peerMod
        let s := if s.stg.st == .localDone && !s.cm.compared.contains p && (tallyPorts s).contains p then sendTally s p
          else s
        portCfgDone s p 0)

/-- RESYNC_TIMEOUT: 100 µs without RESYNC_REPLY: the port is LOST (R295, R297, R437). -/
def execResyncTimeout (p : Nat) (s : State) : Res :=
  .next (
    let x := s.port p
    if x.st == .detoured && (!x.resynced || x.returning) && decide ((x.failAt.getD s.ns) + 100000 ≤ s.ns) then
      let mod := (s.portCfg p).peerMod
      let s := s.modPort p fun x => { x with st := .lost }
      portCfgDone (memberLost (ledger s 2 3 0x0303 p mod) mod) p 0
    else s)

end Sys2Proof.Machine
end

