-- ==== Sys2Proof/Machine/Collect.lean ====
section
/-! DEFINITION. Receipt of collective messages: data, tallies, shard versions and digests, signals in stream order (R306,
R309, R314, R316, R317). -/

namespace Sys2Proof.Machine

/-- Fields of a CPUT header (R306). -/
def pCid (m : Msg) : Nat := fldN m.hdr 160 16
def pRcnt (m : Msg) : Nat := fldN m.hdr 176 8
def pRamt (m : Msg) : Nat := fldN m.hdr 184 8
def pSeq (m : Msg) : Nat := fldN m.hdr 192 32
def pLast (m : Msg) : Bool := bitB m.hdr 224
def pGather (m : Msg) : Bool := bitB m.hdr 225
def pGpass (m : Msg) : Bool := bitB m.hdr 226
def pGend (m : Msg) : Bool := bitB m.hdr 227
def pGkey (m : Msg) : Nat := fldN m.hdr 228 12
def pRtile (m : Msg) : Nat := fldN m.hdr 240 10
def pSoff (m : Msg) : Nat := fldN m.hdr 256 32
def pVersion (m : Msg) : Word := fld m.hdr 288 32

/-- A receive stream, empty where none is known. -/
def streamOf (s : State) (p cid : Nat) : Stream :=
  match s.cm.streams.find? fun r => r.port == p && r.cid == cid with
  | some r => r
  | none => ⟨p, cid, [], [], []⟩

def setStream (s : State) (r : Stream) : State :=
  s.modCm fun c => { c with streams := r :: c.streams.filter fun q => !(q.port == r.port && q.cid == r.cid) }

/-- Every message of the stream up to `n` has been accepted. -/
def seqDone (r : Stream) (n : Nat) : Bool := (List.range (n + 1)).all fun i => r.seqs.contains i

/-- The data words join the receive tally of the port (R314). -/
def tallyIn (s : State) (p : Nat) (m : Msg) : State :=
  s.modCm fun c =>
    { c with rxTally := SMap.upd 0 c.rxTally p fun t =>
               digestWords t c.key (pCid m) (mAddr m / 8 % 2 ^ 39) (m.data.flatMap beatWords)
             rxBytes := SMap.upd 0 c.rxBytes p fun n => n + 64 * m.data.length }

/-- A gather message's words join the digest of its pass (R317). -/
def shardAdd (k : DWord) (m : Msg) (r : Shard) : Shard :=
  let ws := m.data.flatMap beatWords
  let r := if r.seen then r else { r with seen := true, version := pVersion m }
  if pGpass m then { r with d1 := digestWords r.d1 k (pGkey m) (8 * pSoff m) ws }
  else { r with d0 := digestWords r.d0 k (pGkey m) (8 * pSoff m) ws }

/-- A gather message's shard record, and its VERSION compared with this module's (R316, R317). -/
def shardIn (s : State) (m : Msg) : State :=
  if !pGather m then s
  else
    let s := s.modCm fun c => { c with shards := SMap.upd {} c.shards (pGkey m) (shardAdd c.key m) }
    if pVersion m == (s.stg.step - 1).setWidth 32 then s
    else shardFail (s.modCm fun c => { c with shards := SMap.upd {} c.shards (pGkey m) fun r => { r with mismatch := true } })

/-- The end of a pass: pass 1 compares the two digests (R317). -/
def passEnd (s : State) (key : Nat) (pass : Bool) : State :=
  let r := SMap.get {} s.cm.shards key
  let put := fun (r : Shard) => s.modCm fun c => { c with shards := SMap.set {} c.shards key r }
  if !pass then put { r with p0End := true }
  else if r.p0End && r.d0 == r.d1 then put { r with p1End := true }
  else shardFail (put { r with p1End := true, mismatch := true })

/-- An item put into its place by SEQ. -/
def insSeq {α : Type} (n : Nat) (v : α) : List (Nat × α) → List (Nat × α)
  | [] => [(n, v)]
  | e :: l => if n < e.1 then (n, v) :: e :: l else e :: insSeq n v l

/-- Signals and pass ends, in SEQ order, of a stream whose messages up to their own have all been accepted (R309, R317). -/
def streamSettle (s : State) (r : Stream) : State :=
  let s := setStream s { r with sigs := r.sigs.filter (fun g => !seqDone r g.1), ends := r.ends.filter (fun e => !seqDone r e.1) }
  let s := (r.ends.filter fun e => seqDone r e.1).foldl (fun s e => passEnd s e.2.1 e.2.2) s
  (r.sigs.filter fun g => seqDone r g.1).foldl (fun s g => signalRemote s g.2.1 g.2.2.1 g.2.2.2) s

/-- A message accepted, its data visible: its place in the stream, its shard record, the signals now due. -/
def acceptCput (s : State) (p : Nat) (m : Msg) : State :=
  let r := streamOf s p (pCid m)
  let r := { r with seqs := pSeq m :: r.seqs
                    sigs := if pLast m then insSeq (pSeq m) (pRtile m, pRcnt m, pRamt m) r.sigs else r.sigs
                    ends := if pGend m then insSeq (pSeq m) (pGkey m, pGpass m) r.ends else r.ends }
  streamSettle (shardIn s m) r

/-- An address a collective message may write: this module's near tier, or its open scratchpads (R309). -/
def cputOk (s : State) (ga : Nat) : Bool :=
  ga / 2 ^ 57 == 64 && gaMod ga == s.self &&
  match placeOf (gaOff ga) with
  | .near o => !(inReserve o || (s.mem.nearTags && inTags o))
  | .scratch t _ => tileOpen s t
  | _ => false

/-- A CPUT whose signal names a used tile of a gang that is saved (R173). -/
def cputSaved (s : State) (m : Msg) : Bool :=
  contextSaved s && pLast m && pRamt m != 0 && (s.tile (pRtile m)).gang.isSome

/-- CPUT (R229, R309, R314): refused, or written, tallied and accepted; its data is dropped while the step is
abandoned, and it wakes a module in Rest. One whose signal is held for a saved gang keeps its place in the inbound buffer (R173). -/
def execCput (p : Nat) (m : Msg) (s : State) : Res :=
  .next (
    if !peekMsg s p 0x10 m || s.fab.sigHeld.contains (p, m) then s
    else if !boundaryOpen s then wakeUp s
    else match takeMsg s p 0x10 m with
      | none => s
      | some taken =>
        if s.stg.st == .abandoned then taken
        else
          let ok := mDst m == s.self && (reqBeats m m.data.length).all (cputOk s)
          let held := s.modFab fun f => { f with sigHeld := f.sigHeld ++ [(p, m)] }
          let s := tallyIn (if ok && cputSaved s m then held else taken) p m
          if !ok then
            let s := (setLocal s 6).modCm fun c => { c with collDrop := sat32 (c.collDrop + 1) }
            ledger s 2 3 0x0308 p (mAddr m)
          else
            let (s, done) := writeBeats s m (.cput p m)
            if done then acceptCput s p m else s)

end Sys2Proof.Machine
end

