-- ==== Sys2Proof/Machine/Tables.lean ====
section
/-! DEFINITION. Building the translation tables: one copy in each half's reserve, table entries, page sizes, flip deltas, and the
entry of a DEMAND page that is supplied (R239, R246 to R249). -/

namespace Sys2Proof.Machine

/-- A table entry from its fields (R248). -/
def mkPte (v leaf w fp fpsel dz : Bool) (fpidx out : Nat) : DWord :=
  pack 64 [(0, 1, v.toNat), (1, 1, leaf.toNat), (2, 1, w.toNat), (3, 1, fp.toNat), (4, 1, fpsel.toNat), (5, 1, dz.toNat),
    (8, 12, fpidx), (20, 41, out)]

/-- A leaf that a region asks for: virtual address, level, entry. -/
structure Leaf where
  va : Nat
  lvl : Nat
  pte : DWord
  deriving DecidableEq, Repr

/-- Level of the largest page that divides every number given (R246). -/
def pageLevel (xs : List Nat) : Nat :=
  if xs.all fun x => x % 2 ^ 30 == 0 then 1 else if xs.all fun x => x % 2 ^ 21 == 0 then 2 else 3

/-- The leaves that map `size` bytes from `va` to `ga` at a level; `f` makes the entry of an output page. -/
def rangeLeaves (lvl va ga size : Nat) (f : Nat → DWord) : List Leaf :=
  let n := 2 ^ lvlShift lvl
  (List.range (size / n)).map fun i => ⟨va + i * n, lvl, f ((ga + i * n) % 2 ^ 57 / 2 ^ 16)⟩

/-- The leaves of a region, `me` this module and `idx` the number of its flip pair (R244, R246, R248). Both views of a flip pair
map to P0. -/
def regionLeaves (me : Nat) (r : Region) (idx : Nat) : List Leaf :=
  let g := fun (a : Nat) (self : Bool) => if self then a - a / 2 ^ 42 % 2 ^ 15 * 2 ^ 42 + me * 2 ^ 42 else a
  let p0 := g r.gpa0 r.self0
  match r.kind with
  | 2 =>
    let lvl := pageLevel [r.va0, r.va1, p0, g r.gpa1 r.self1, r.size]
    rangeLeaves lvl r.va0 p0 r.size (mkPte true true false true false false idx) ++
      rangeLeaves lvl r.va1 p0 r.size (mkPte true true true true true false idx)
  | 4 => []
  | 5 => rangeLeaves 3 r.va0 0 r.size fun _ => mkPte false false true false false true 0 0
  | _ => rangeLeaves (pageLevel [r.va0, p0, r.size]) r.va0 p0 r.size (mkPte true true (regionWr r false) false false false 0)

/-- Tables under construction: their words and the offset of the next free byte. -/
structure Tables where
  words : SMap DWord
  next : Nat
  deriving DecidableEq, Repr

/-- A leaf put into the tables: from the table at `t` of level `lvl` down, missing tables being added. -/
def putLeaf : Nat → Nat → Nat → Leaf → Tables → Tables
  | 0, _, _, _, b => b
  | n + 1, lvl, t, l, b =>
    let a := t + 8 * lvlIndex l.va lvl
    if lvl == l.lvl then { b with words := SMap.set 0 b.words (a / 8) l.pte }
    else
      let e := SMap.get 0 b.words (a / 8)
      if pteV e then putLeaf n (lvl + 1) (pteOut e % 2 ^ 30 * 256) l b
      else
        let size := if lvl + 1 < 3 then 4096 else 256
        let t' := roundUp b.next size
        putLeaf n (lvl + 1) t' l
          { words := SMap.set 0 b.words (a / 8) (mkPte true false false false false false 0 (t' / 256)), next := t' + size }

/-- The flip pairs of a list of regions with their numbers, in order. -/
def numberFlips : Nat → List Region → List (Region × Nat)
  | _, [] => []
  | n, r :: rs => (r, n) :: numberFlips (if r.kind == 2 then n + 1 else n) rs

/-- One die's copy of the tables added to the words of the reserves. -/
def dieTables (me : Nat) (rs : List Region) (words : SMap DWord) (die : Nat) : SMap DWord :=
  (((numberFlips 0 rs).flatMap fun r => regionLeaves me r.1 r.2).foldl (fun b l => putLeaf 4 0 (tableRoot die) l b)
    ⟨words, tableRoot die + 4096⟩).words

/-- P1 − P0 of each flip pair in 42 bits (R249). -/
def flipDeltas (rs : List Region) : SMap Nat :=
  ((numberFlips 0 rs).filter fun r => r.1.kind == 2).foldl
    (fun m r => SMap.set 0 m r.2 ((r.1.gpa1 % 2 ^ 42 + 2 ^ 42 - r.1.gpa0 % 2 ^ 42) % 2 ^ 42)) []

/-- The tables of every region, a copy in each half's reserve (R246); the fault queues and spare pages are not tables. -/
def buildTables (s : State) (me : Nat) (rs : List Region) : State :=
  s.modMem fun m => { m with reserve := [0, 1].foldl (dieTables me rs) [], flipDelta := flipDeltas rs, tlb := [] }

/-- The entry that a die's copy holds for a DEMAND page, replaced by one that maps the page supplied (R246). -/
def demandPte (s : State) (va pg die : Nat) : State :=
  let (lvl, a, e) := lookup s die va
  if lvl == 3 && !pteV e && pteDz e then
    s.modMem fun m =>
      { m with reserve := SMap.set 0 m.reserve (a / 8) (mkPte true true true false false false 0 (pg % 2 ^ 41)) }
  else s

end Sys2Proof.Machine
end

