-- ==== Sys2Proof/Machine/Transfers.lean ====
section
/-! DEFINITION. Beats of kind-2 transfers, faults and their outcomes, far-tier ports, page retirement (R240, R241, R246,
R252 to R260, R264, R265, R285). -/

namespace Sys2Proof.Machine

/-! ## MEMORY_BEAT_RETURN (R252, R264, R265, R427) -/

/-- A corrected error counts for the physical channel of a near-tier offset in the hour that runs (R443; log 81). -/
def noteChanCe (s : State) (off : Nat) : State :=
  let ch := physChan s (chanKey off)
  if 3600000000000 ≤ s.ns - s.flt.chanHour then
    s.modFlt fun f => { f with chanHour := s.ns, chanCe := SMap.set 0 [] ch 1 }
  else s.modFlt fun f => { f with chanCe := SMap.upd 0 f.chanCe ch fun n => n + 1 }

/-- A corrected (`ce`) or uncorrectable (`ue`) error that the device reports with a read of a tier: counted for its page,
which falls due for retirement at its limit or first uncorrectable error (R264, R265), and for its channel (R443). -/
def memErrors (s : State) (off : Nat) (ce ue : Bool) : State :=
  let near := decide (off < 0x10000000000)
  let pg := off / 0x10000
  let s := if ce && near then
      (noteChanCe s off).modMem fun m => { m with nearCe := sat32 (m.nearCe + 1), pageCe := SMap.upd 0 m.pageCe pg fun n => n + 1 }
    else s
  let s := if ue then s.modMem fun m => { m with poison := SMap.set false m.poison (off / 64) true } else s
  if near && (ue || (ce && decide (s.mem.retireCe.toNat ≤ SMap.get 0 s.mem.pageCe pg))) && !s.mem.retireDue.contains pg then
    s.modMem fun m => { m with retireDue := m.retireDue ++ [pg] }
  else s

/-- The bank's slot of this cycle is used. -/
def useSlot (s : State) (t bank : Nat) : State := s.modTile t fun x => { x with slotUsed := bank :: x.slotUsed }

/-- Bits of a beat that its device returns wrong and does not report stand wrong from now on: only an integrity tag can tell
(R264). -/
def corrupt (s : State) (off : Nat) (bad : Beat) : State :=
  if bad == 0 then s
  else
    let a := memOff s off
    s.modMem fun m => { m with dram := SMap.setBeat m.dram a (SMap.getBeat m.dram a ^^^ bad) }

/-- The limiter of the tier at a local offset lets no beat of a transfer through in this window (R387). -/
def limited (s : State) (off : Nat) : Bool :=
  match placeOf off with
  | .near _ => memFull s
  | .far _ _ => farFull s
  | _ => false

/-- A beat is held back to a later window, as demand of its domain (R386, R387). -/
def heldBack (s : State) (off : Nat) : State :=
  match placeOf off with
  | .near _ => s.modGov fun g => { g with heldBeat := g.heldBeat + 1 }
  | _ => s.modGov fun g => { g with heldFar := g.heldFar + 1 }

/-- MEMORY_BEAT_RETURN: beat `beat` of a read-direction transfer returns; `win` is the window line read, `winOk` its
granule's tag; `ce` and `ue` are what the device of a tier corrects, reports uncorrectable, or returns wrong unreported. With
`t` = 1024 the errors meet the tier beat at local offset 64 · `beat`, whoever reads it next: a mover, a command, a peer (R264). -/
def execMemoryBeatReturn (t op beat : Nat) (win : Beat) (winOk ce : Bool) (ue : BeatErr) (s : State) : Res :=
  .next (
    if t = 1024 then
      (if !s.pins.mainOn then s
       else match placeOf (64 * beat) with
        | .near _ => memErrors (corrupt s (64 * beat) ue.bad) (64 * beat) ce ue.ue
        | .far _ _ => memErrors (corrupt s (64 * beat) ue.bad) (64 * beat) ce ue.ue
        | _ => s)
    else match s.op? t op with
    | none => s
    | some o =>
      match o.asked.find? fun a => a.1 == beat with
      | none => s
      | some (_, ga) =>
        let off := gaOff ga
        let got := fun (s : State) (d : Beat) (p : Bool) =>
          beatArrive (s.modOp t op fun o => { o with asked := o.asked.filter (fun a => a.1 != beat) }) t o beat d p
        let tier := fun (s : State) =>
          if limited s off then heldBack s off
          else
            let (d, p, s) := dramRead (memErrors (corrupt s off ue.bad) off ce ue.ue) off
            got s d p
        match placeOf off with
        | .hwin w => if hwinOk s w false then got (hwtFill s w) (winOpen s w win) (!winOk) else holdXfer s t op fHwin ga beat false
        | .scratch t' a =>
          if bankSlot s t' (a / 0x20000) 0x42 then got (useSlot s t' (a / 0x20000)) (scratchRead s t' a) false else s
        | .near _ => tier s
        | .far p _ => if farReady s p then tier s else holdXfer s t op fFarMiss ga beat false
        | _ =>
          let (d, p, s) := placeRead s off
          got s d p)

/-! ## INBOUND_DRAIN (R241, R252, R272, R286, R309) -/

/-- The operation and beat that a DRAIN slot of the bank serves: the oldest operation's first waiting beat. -/
def drainOwn (s : State) (t bank : Nat) : Option (Op × Nat × Nat × Beat) :=
  (s.tile t).ops.findSome? fun o =>
    if xKind2 o && xRead2 o.desc && xDkind o.desc == 0 then
      (o.buf.find? fun b => b.2.1 / 0x20000 == bank).map fun b => (o, b.1, b.2.1, b.2.2.1)
    else none

/-- A mover whose beat has had its DRAIN cycle goes on (R255, R256). -/
def moverWake (s : State) (m : Nat) : State :=
  if fwMover m then
    (match (s.mover m).queue with
     | e :: _ => copyGo s e.tile
     | [] => s)
  else moverRun s m []

/-- What follows the last beat of a group that has been written (R256, R286, R309). -/
def drainAfter (s : State) (e : DrainEnt) : State :=
  if s.fab.drain.any fun d => d.grp == e.grp then s
  else match e.after with
    | .write _ req => respond s req 0x81 0 0 []
    | .cput p m => acceptCput s p m
    | .mover m => moverWake s m
    | _ => s

/-- A beat of a scratchpad has been read in its DRAIN cycle: it joins the answer to a READ, which goes out with its last beat
(R241, R286), goes to its mover, or to the outbound buffer of a restored transfer (R261). -/
def drainRead (s : State) (e : DrainEnt) (d : Beat) : State :=
  let gone := s.modFab fun f => { f with drain := f.drain.erase e }
  match e.after with
  | .read _ req =>
    let s := s.modFab fun f => { f with drain := f.drain.map fun x => if x == e then { x with done := true, data := d } else x }
    let g := s.fab.drain.filter fun x => x.grp == e.grp
    if g.all (·.done) then
      respond (s.modFab fun f => { f with drain := f.drain.filter fun x => x.grp != e.grp }) req 0x82 0 0 (g.map (·.data))
    else s
  | .mover m => moverWake (moverGot gone m d false) m
  | .refill t id b => gone.modOp t id fun o => { o with buf := o.buf ++ [(b, xDstAt o.desc b, d, false)] }
  | _ => gone

/-- INBOUND_DRAIN: one beat in the bank's DRAIN slot of this cycle. -/
def execInboundDrain (t bank : Nat) (s : State) : Res :=
  .next (
    if !bankSlot s t bank 0x42 then s
    else match drainOwn s t bank with
      | some (o, b, a, d) =>
        let s := scratchWrite (useSlot s t bank) t a d
        s.modOp t o.id fun o => { o with buf := o.buf.filter (fun e => e.1 != b), done := o.done + 1 }
      | none =>
        match s.fab.drain.find? fun e => e.tile == t && e.addr / 0x20000 == bank && !e.done with
        | some e =>
          if e.rd then drainRead (useSlot s t bank) e (scratchRead s t e.addr)
          else
          let s := scratchWrite (useSlot s t bank) t e.addr e.data
          drainAfter (s.modFab fun f => { f with drain := f.drain.erase e }) e
        | none => s)

/-! ## OUTBOUND_BEAT_DRAIN (R252 to R254) -/

/-- The write-direction transfer of a channel whose beats leave next: the oldest started one that no fault holds. -/
def drainOut (s : State) (t : Nat) (chan : Bool) : Option Op :=
  (s.tile t).ops.find? fun o => xKind2 o && xWrite2 o.desc && o.started && o.held.isNone && xChan o.desc == chan &&
    !o.buf.isEmpty

/-- OUTBOUND_BEAT_DRAIN: the lowest beat is translated and handed on; its credit returns. A beat for a mover window leaves
by MV_ENQ. -/
def execOutboundBeatDrain (t : Nat) (chan : Bool) (s : State) : Res :=
  .next (
    match (if s.pins.mainOn then drainOut s t chan else none) with
    | none => s
    | some o =>
      match lowBeat o with
      | none => s
      | some (b, va, d, _) =>
        match reach s (dieOfTile t) va true false with
        | .error (c, ga) => holdXfer s t o.id c ga b true
        | .ok ga =>
          let s := tlbNote s (dieOfTile t) va
          let out := fun (s : State) => beatLeaves (spillWr s va) t o b
          if gaMod ga == s.self then
            match placeOf (gaOff ga) with
            | .mover _ _ => s
            | .hwin w => out (hostWinWrite s w d)
            | .scratch t' a =>
              if bankSlot s t' (a / 0x20000) 0x42 then out (scratchWrite (useSlot s t' (a / 0x20000)) t' a d) else s
            | _ => if limited s (gaOff ga) then heldBack s (gaOff ga) else out (placeWrite s (gaOff ga) d)
          else match sendReq s (some (t, o.id)) noMover b 1 false (mkMsg s 1 (gaMod ga) 0 ga 0 0 0 [d]) with
            | some s => out s
            | none => s)

/-! ## Outcomes of faults (R246, R257, R260, R372) -/

/-- Free 64 KiB pages of the DEMAND pool that backs `va`. -/
def freePages (s : State) (va : Nat) : List Nat :=
  match findRegion s va with
  | some (r, _, _) =>
    let base := selfGpa s r.gpa0 r.self0 / 0x10000
    ((List.range (r.size / 0x10000)).map (base + ·)).filter fun p => !s.mem.demand.any fun e => e.2 == p
  | none => []

/-- Firmware supplies a zeroed page for `va`: which free page is left to it (R246; log 3). -/
def demandFill (s : State) (va : Nat) : State :=
  let fs := freePages s va
  match fs[Config.pickPage s.free % fs.length]? with
  | none => s
  | some pg =>
    let off := gaOff (pg * 0x10000)
    let s := [0, 1].foldl (fun s die => demandPte s va pg die) s
    (fwDone { s with free := s.free + 1 } (off / 2 ^ 37 % 2)).modMem fun m =>
      { m with demand := SMap.set 0 m.demand (va / 0x10000) pg
               dram := SMap.dropRange m.dram (memOff s off) (memOff s off + 0x10000)
               tags := SMap.dropRange m.tags (tagOff s off / 8) (tagOff s off / 8 + 128)
               poison := SMap.dropRange m.poison (off / 64) ((off + 0x10000) / 64) }

/-- The beat that faulted is now served. -/
def retryOk (s : State) (f : FaultRec) : Bool :=
  if f.win then hwinOk s (faultWoff f) f.dir
  else match reach s (if f.mover then dieOfMover f.unit else dieOfTile f.unit) f.va f.dir (ofCopy f) with
    | .ok _ => true
    | .error (c, _) => c != f.code

/-- What a fault held goes on (R260), as far as no other fault holds it. -/
def faultResume (s : State) (f : FaultRec) : State :=
  let s := (dropFault s f.n).modMem fun m => { m with retried := m.retried ++ [f] }
  let next := (lowFault (faultsOf s f.mover f.unit f.op)).map (·.n)
  if ofCopy f then
    (if copyHead s f.op then copyGo (s.modMover f.unit fun v => { v with held := next }) f.op else s)
  else if f.mover then moverRun (s.modMover f.unit fun v => { v with held := next }) f.unit []
  else requestAll (s.modOp f.unit f.op fun o => { o with held := next }) f.unit f.op

/-- RETRY of fault `f` (R257, R260): a beat that faults again with the same code is the same fault. -/
def retryFault (s : State) (f : FaultRec) : State :=
  if f.saved || !(f.code == fDemand || f.code == fFarMiss || f.code == fHwin) then s
  else
    let s := if f.code == fDemand && !retryOk s f then demandFill s f.va else s
    if retryOk s f then faultResume s f else s

/-- ERROR of fault `f` (R260, R372): a command's copy completes, a transfer or descriptor drops the rest. Of several faults of
one transfer firmware ends the one at the lowest beat first (DESIGN CHOICE; log 21). -/
def errorOut (s : State) (f : FaultRec) : State :=
  if (lowFault (faultsOf s f.mover f.unit f.op)).any fun x => x.n != f.n then s
  else if ofCopy f then copyFail s f.op f
  else if f.mover then errorMover s f.unit f.beat
  else errorXfer s f.unit f.op f.beat

/-- The held fault of number `n`. -/
def faultOf (s : State) (n : Nat) : Option FaultRec := s.mem.faults.find? fun f => f.n == n && !f.saved

/-- FAULT_RETRY. -/
def execFaultRetry (n : Nat) (s : State) : Res :=
  .next (
    match faultOf s n with
    | some f => retryFault s f
    | none => s)

/-- FAULT_ERROR: the codes that firmware ends with ERROR at once; DEMAND only where the pool is empty (R257). -/
def execFaultError (n : Nat) (s : State) : Res :=
  .next (
    match faultOf s n with
    | some f =>
      if f.code == fFarMiss || f.code == fHwin || (f.code == fDemand && !(freePages s f.va).isEmpty) then s else errorOut s f
    | none => s)

/-- A global address lies in this module's far tier. -/
def isFar (s : State) (ga : Nat) : Bool :=
  gaMod ga == s.self &&
  match placeOf (gaOff ga) with
  | .far _ _ => true
  | _ => false

/-- No CXL.mem response to a transfer's beat: one it has asked for, or the write beat that leaves next (R257). -/
def farTimeoutXfer (s : State) (t op beat : Nat) : State :=
  match s.op? t op with
  | none => s
  | some o =>
    match o.asked.find? fun a => a.1 == beat with
    | some (_, ga) => if isFar s ga then holdXfer s t op fFarMiss ga beat false else s
    | none =>
      match (if xKind2 o && xWrite2 o.desc && o.held.isNone then lowBeat o else none) with
      | some (b, va, _) =>
        let ga := gaOrZero s (dieOfTile t) va true
        if b = beat && isFar s ga then holdXfer s t op fFarMiss ga b true else s
      | none => s

/-- Number, virtual address and direction of the access a job mover makes next. -/
def mvNext (v : Mover) (d : Beat) : Nat × Nat × Bool :=
  let rd := v.got.isNone
  match mvType d with
  | 6 => if v.pos = 0 then (0, aTarget d, true) else (1, aResult d, true)
  | 7 => (v.pos + v.part.length, mvSrc d + 64 * (v.pos + v.part.length), false)
  | 8 =>
    match v.ent with
    | some e => (v.sub, (if rd then peSrc e else peDst e) + 64 * v.sub, !rd)
    | none => (v.pos / 2, pTable d + v.pos / 2 * 64, false)
  | _ => (v.pos, if rd then mvSrcAt d v.pos else mvDstAt d v.pos, !rd)

/-- The same for a command's copy: its next access to job memory. -/
def copyNext (s : State) (q : Nat) : Nat × Nat × Bool :=
  match (s.sq q).cur with
  | some k =>
    let out := entOpcode k.entry == 0x0301
    let n := k.bytes + (if out then 64 * (s.mover (copyMover q)).part.length else 0)
    let va := entParam k.entry (if entOpcode k.entry == 0x0302 then 0x20 else 0x28) 64
    ((va + n) / 64 - va / 64, (va + n) / 64 * 64, !out)
  | none => (0, 0, false)

/-- No CXL.mem response to the access that a mover makes next (R257): the descriptor, or the copy, is held. -/
def farTimeoutMover (s : State) (m : Nat) : State :=
  match (s.mover m).queue with
  | [] => s
  | e :: _ =>
    if (s.mover m).held.isSome || (s.mover m).ended || (!fwMover m && !descValid e.desc) then s
    else
      let (b, va, wr) := if fwMover m then copyNext s e.tile else mvNext (s.mover m) e.desc
      let ga := gaOrZero s (dieOfMover m) va (wr && !fwMover m)
      if !isFar s ga then s
      else if fwMover m then holdCopy s e.tile fFarMiss ga va b wr
      else holdMover (s.modMover m fun v => { v with busy := true }) m fFarMiss ga va b wr

/-- No CXL.mem response to the remote request that waits next at port `p`: it is held (R285). -/
def farTimeoutReq (s : State) (p : Nat) : State :=
  match (s.port p).inMsgs.find? fun e => !msgHeld s p e.2 with
  | some e =>
    if classOf (mOpc e.2) == some 0 && mOpc e.2 != 4 && isFar s (mAddr e.2) && !remoteRefused s (mAddr e.2) false then
      holdReq s p ((gaOff (mAddr e.2) - 0x10000000000) / 0x8000000000) e.2
    else s
  | none => s

/-- FAR_RESPONSE_TIMEOUT: no response for a far-tier beat within 100 µs (R257, R285): of transfer `op` of tile `t`, of mover
`t` − 1024, or of the request that waits at fabric port `t` − 1056. -/
def execFarResponseTimeout (t op beat : Nat) (s : State) : Res :=
  .next (
    if t < 1024 then farTimeoutXfer s t op beat
    else if t < 1056 then farTimeoutMover s (t - 1024)
    else farTimeoutReq s (t - 1056))

/-- FAR_MISS_LIMIT: a FAR_MISS unresolved after MEM_FAR_LIMIT_US ends with ERROR (R257). -/
def execFarMissLimit (n : Nat) (s : State) : Res :=
  .next (
    match faultOf s n with
    | some f => if f.code == fFarMiss && decide (f.at_ + 1000 * s.mem.farLimit.toNat ≤ s.ns) then errorOut s f else s
    | none => s)

/-- HWIN_LIMIT: an HWIN fault unresolved after MEM_HWIN_LIMIT_US ends with ERROR (R257, R353). -/
def execHwinLimit (n : Nat) (s : State) : Res :=
  .next (
    match faultOf s n with
    | some f => if f.code == fHwin && decide (f.at_ + 1000 * s.mem.hwinLimit.toNat ≤ s.ns) then errorOut s f else s
    | none => s)

/-! ## Far-tier ports (R240, R257, R285) -/

/-- FAR_REQUEST_TIMEOUT: a request held longer than MEM_FAR_LIMIT_US is answered with ERROR CODE 1 (R285). -/
def execFarRequestTimeout (n : Nat) (s : State) : Res :=
  .next (
    match s.mem.heldReqs.find? fun h => h.n == n with
    | some h =>
      if decide (h.at_ + 1000 * s.mem.farLimit.toNat ≤ s.ns) then
        let s := s.modMem fun x => { x with heldReqs := x.heldReqs.filter fun q => q.n != n }
        match takeMsg s h.port (mOpc h.msg) h.msg with
        | some s => respond s h.msg 0x84 1 0 []
        | none => s
      else s
    | none => s)

/-- The first beat that a transfer has asked of far-tier port `p`. -/
def farAsked (o : Op) (p : Nat) : Option (Nat × Nat) :=
  (o.asked.filter fun a => match placeOf (gaOff a.2) with
    | .far q _ => q == p
    | _ => false).head?

/-- FAR_PORT_DOWN: beats asked of the port miss (R257). -/
def execFarPortDown (p : Nat) (s : State) : Res :=
  .next (
    if p ≥ 4 then s
    else
      let s := s.modMem fun m => { m with farUp := SMap.set false m.farUp p false }
      s.tiles.foldl (fun s e => e.2.ops.foldl (fun s o => match farAsked o p with
        | some (b, ga) => holdXfer s e.1 o.id fFarMiss ga b false
        | none => s) s) s)

/-- FAR_PORT_UP: the port is in service again; held requests are served and FAR_MISS faults retried (R260, R285). -/
def execFarPortUp (p : Nat) (s : State) : Res :=
  .next (
    if p ≥ 4 || SMap.get 0 s.mem.farCap p == 0 then s
    else
      let s := s.modMem fun m => { m with farUp := SMap.set false m.farUp p true }
      let s := (s.mem.heldReqs.filter fun h => h.far == p).foldl serveHeld s
      (s.mem.faults.filter fun f => f.code == fFarMiss).foldl (fun s f => match faultOf s f.n with
        | some f => retryFault s f
        | none => s) s)

/-- FAR_PORT_ENUMERATED: an expander enumerates: its capacity, at most 512 GiB, is in service from now (R240, R432,
R467). With a job bound a port that had no capacity stays out of the job's map until the next JOB_BIND. -/
def execFarPortEnumerated (p cap : Nat) (ide : Bool) (s : State) : Res :=
  .next (
    if p ≥ 4 || !s.pins.mainOn then s
    else s.modMem fun m =>
      { m with farCap := SMap.set 0 m.farCap p (min cap 512), farUp := SMap.set false m.farUp p (cap != 0)
               farIde := SMap.set false m.farIde p (ide && farSlotOk s p cap) })

/-! ## PAGE_RETIRE (R265, R418) -/

/-- Spare pages used in the half of near page `pg`: the highest number a remap of the half has taken. -/
def remapsUsed (s : State) (pg : Nat) : Nat :=
  (s.trust.board.remap.filter fun e => e.1 / 0x200000 == pg / 0x200000).foldl (fun a e => max a e.2) 0

/-- A 64 KiB page of near-tier bytes copied (R265). -/
def copyPage (m : SMap Byte) (from_ to_ : Nat) : SMap Byte :=
  (m.filter fun e => from_ ≤ e.1 && e.1 < from_ + 0x10000).foldl (fun a e => SMap.set 0 a (to_ + (e.1 - from_)) e.2)
    (SMap.dropRange m to_ (to_ + 0x10000))

/-- PAGE_RETIRE: while IDLE or UNBOUND a page due is remapped to the half's next spare page, copied and recorded; a half whose
remaps are all used refuses. Whether the flash write of the record fails is a free value (R418; log 39). -/
def execPageRetire (page : Nat) (s : State) : Res :=
  .next (
    if !restful s || !s.mem.retireDue.contains page then s
    else
      let s := s.modMem fun m =>
        { m with retireDue := m.retireDue.erase page, pageCe := SMap.set 0 m.pageCe page 0 }
      let die := page / 0x200000
      let n := remapsUsed s page
      if n ≥ 4096 then pldm (ledger s 2 2 0x0204 noUnit die) (.remapsExhausted die)
      else
        let s := fwDone (countReads s (page * 0x10000) 0x10000) (die % 2)
        let (w, s) := s.draw
        let old := memOff s (page * 0x10000)
        let new := if SMap.get 0 s.trust.board.remap page = 0 then 1 else 0
        let s := s.modMem fun m =>
          { m with retired := m.retired + new, dram := copyPage m.dram old (spareBase die + n * 0x10000) }
        let s := boardSet s (w.getLsbD 0) fun b => { b with remap := SMap.set 0 b.remap page (n + 1) }
        ledger s 1 2 0x0203 noUnit (page * 0x10000))

end Sys2Proof.Machine
end

