-- ==== Sys2Proof/Machine/Preempt.lean ====
section
/-! DEFINITION. Pre-emption: saving the context, its end, and the restore (R87, R172, R174, R261, R262, R370). -/

namespace Sys2Proof.Machine

/-- The gang is held for a pre-emption: at its seam once its events are examined, quiescent, or at its mark with only work in
flight that a fault holds (R171, R172). -/
def preHeld (s : State) (g : Nat) : Bool :=
  gangStopped s g || (gangArrived s g && gangFault s g && gangQuiet s g true)

/-- Accumulators are lost and read +0 (R87). -/
def dropAcc (s : State) : State := s.usedTiles.foldl (fun s t => s.modTile t fun x => { x with acc := [] }) s

/-- Held faults are saved with the context; the buffer space of held write beats is freed and their credits stay reserved (R261). -/
def saveFaults (s : State) : State :=
  let s := s.modMem fun m => { m with faults := m.faults.map fun f => if ofCopy f then f else { f with saved := true } }
  let keep := fun (o : Op) =>
    if o.held.isSome && xKind2 o && xWrite2 o.desc then
      { o with keeps := o.buf.length + (xBeats o.desc - o.reqd), buf := [], reqd := xBeats o.desc }
    else o
  s.usedTiles.foldl (fun s t => s.modTile t fun x => { x with ops := x.ops.map keep }) s

/-- Write beat `b` of a restored transfer is read again from its source: in a DRAIN cycle of its bank, or from the hamper (R261). -/
def refillBeat (t id : Nat) (s : State) (b : Nat) : State :=
  match s.op? t id with
  | none => s
  | some o =>
    let a := xSrcAt o.desc b
    if xSkind o.desc = 1 then
      let (d, s) := readLocal s t o a
      s.modOp t id fun o => { o with buf := o.buf ++ [(b, xDstAt o.desc b, d, false)] }
    else drainPush s t a true 0 (.refill t id b)

/-- The held write beats of a restored transfer re-enter its outbound buffer on the credits reserved to them (R261). -/
def refillOp (t : Nat) (s : State) (o : Op) : State :=
  if o.keeps = 0 then s
  else
    let n := xBeats o.desc
    let s := s.modOp t o.id fun o => { o with keeps := 0 }
    ((List.range o.keeps).map (n - o.keeps + ·)).foldl (refillBeat t o.id) s

/-! ## The SAVE regions (R262) -/

/-- Bytes of a saved context: 3,394 KiB for each used tile (R262). -/
def saveBytes (s : State) : Nat := 3394 * 1024 * s.usedTiles.length

/-- Near-tier offset of the SAVE region of half `h`: the first of that half. -/
def saveRegion (s : State) (h : Nat) : Nat :=
  match s.regions.find? fun r => r.kind == 4 && gaOff r.gpa0 / 2 ^ 37 == h with
  | some r => gaOff r.gpa0
  | none => h * 2 ^ 37

/-- Where used tile `t` is saved: its die's tiles in ascending order (DESIGN CHOICE: the order of a context in its region, and of
what it holds; log 24). -/
def saveAt (s : State) (t : Nat) : Nat :=
  saveRegion s (dieOfTile t) + 0x350800 * (s.usedTiles.filter fun u => dieOfTile u == dieOfTile t && decide (u < t)).length

/-- STATE of a thread as a code (R155). -/
def tstateCode (t : TState) : Nat :=
  match t with
  | .empty => 0
  | .run => 1
  | .seam => 2
  | .halt => 3
  | .fault => 4

/-- The 80 bytes of a context (R154). -/
def ctxBytes (c : Ctx) : List Byte :=
  (c.regs.toList.flatMap fun r => leBytes 4 r.toNat) ++ leBytes 4 c.pc.toNat ++ leBytes 4 c.wtarget.toNat ++
    leBytes 2 (c.wcnt.toNat + bitAt c.waiting 8) ++ leBytes 1 (tstateCode c.st) ++ [0] ++ leBytes 4 c.finfo.toNat

/-- Lists of bytes laid one after another into a sparse block, each at its offset. -/
def layBytes (l : List (Nat × List Byte)) : SMap Byte := l.foldl (fun m e => SMap.setBytes m e.1 e.2) []

/-- Registers of a tile that are saved with it: TS, KFS, MXS, VRS and PCT (R180). -/
def tileRegs (s : State) (t : Nat) : List (Nat × List Byte) :=
  ([(0, 0x100, 64), (0x100, 0x100, 9), (0x200, 0x200, 7), (0x280, 0x300, 10), (0x300, 0x400, 9)] : List (Nat × Nat × Nat)).map
    fun b => (b.1, (List.range b.2.2).flatMap fun i => leBytes 4 (tileWord s t ((b.2.1 / 0x100 - 1) * 0x100 + 4 * i)).toNat)

/-- A used tile's state written into the SAVE region of its half (R262). -/
def saveTile (s : State) (t : Nat) : State :=
  let x := s.tile t
  let a := saveAt s t
  let s := rangePut s a 0x200000 x.scratch
  let s := rangePut s (a + 0x200000) 0x100000 x.hamper
  let s := rangePut s (a + 0x300000) 0x50000 (layBytes (x.threads.map fun e => (80 * e.1, ctxBytes e.2)))
  let s := rangePut s (a + 0x350000) 0x400 (layBytes (x.ec.map fun e => (4 * e.1, leBytes 4 e.2.toNat)))
  rangePut s (a + 0x350400) 0x400 (layBytes (tileRegs s t))

/-- The module's press, ladder and step state, in C0's half behind its tiles: the PC and STG registers, the ladder words, the
records of PC_GSUM and those of the step (R116, R262). -/
def saveModule (s : State) : State :=
  let a := saveRegion s 0 + 0x350800 * (s.usedTiles.filter fun u => dieOfTile u == 0).length
  let words := fun (n : Nat) (f : Nat → Word) => (List.range n).flatMap fun i => leBytes 4 (f (4 * i)).toNat
  let rec_ := fun (r : GRec) => [r.nz, r.ovf, r.unf8, r.unf6].flatMap (leBytes 4)
  rangePut s a 0x60000 (layBytes ([(0, words 16 (pcWord s)), (0x1000, words 28 (blkWord (stgBlk s)))] ++
    s.pc.ladder.map (fun e => (0x2000 + 8 * e.1, leBytes 8 (ladderWord s e.2))) ++
    s.pc.gsum.map (fun e => (0x10000 + 64 * e.1, e.2.flatMap rec_)) ++ s.pc.grec.map fun e => (0x50000 + 16 * e.1, rec_ e.2)))

def saveContext (s : State) : State := saveModule (s.usedTiles.foldl saveTile s)

/-- A used tile's memories, contexts and counters read back from the SAVE region (R262). -/
def restoreTile (s : State) (t : Nat) : State :=
  let a := saveAt s t
  let s := countReads s a 0x350800
  let cs := rangeGet s (a + 0x300000) 0x50000
  let es := rangeGet s (a + 0x350000) 0x400
  s.modTile t fun x =>
    let ths : List Nat := ((x.threads.map (·.1)) ++ cs.map fun (e : Nat × Byte) => e.1 / 80).eraseDups
    { x with scratch := rangeGet s a 0x200000, hamper := rangeGet s (a + 0x200000) 0x100000
             threads := ths.foldl (fun m k => SMap.set Ctx.empty m k (ctxOf (SMap.getBytes cs (80 * k) 80) (x.ctx k))) []
             ec := ((es.map fun (e : Nat × Byte) => e.1 / 4) : List Nat).eraseDups.foldl (fun m c => SMap.set 0 m c (BitVec.ofNat 32 (SMap.getNat es (4 * c) 4))) [] }

/-- PREEMPT_SAVE: every gang is held; a RUNNING module becomes PREEMPTED and its STEP_RUN completes with 0x0301 (R370). A
darning due at the same seam comes first. -/
def execPreemptSave (s : State) : Res :=
  .next (
    match s.pre.pending with
    | none => s
    | some q =>
      if (s.stg.st == .running || s.stg.st == .idle) && !darnPending s && s.flt.darning.isNone &&
          s.gangList.all (preHeld s) then
        let s := saveContext (saveFaults (dropAcc (beginHold s)))
        let s := { s with pre := { s.pre with pending := none, saving := true, saved := true, saveQ := some q } }
        if s.stg.st == .running then
          let s := match s.stg.reporter with
            | some r => complete s r 0x0301 (stepInfo s) s.stg.step.toNat
            | none => s
          s.modStg fun g => { g with st := .preempted, midStep := true, reporter := none, lastStatus := 0x0301 }
        else s
      else s)

/-- SAVE_COMPLETE: PREEMPT completes with the bytes saved (R364, R370). -/
def execSaveComplete (s : State) : Res :=
  .next (
    match s.pre.saveQ with
    | some q =>
      if s.pre.saving then
        complete { s with pre := { s.pre with saving := false, saveQ := none } } q 0 (saveBytes s) 0
      else s
    | none => s)

/-- Signals held for the saved context are applied, and counted as breaches where the gang is at its seam (R173). -/
def applyHeld (s : State) : State :=
  let s := s.fab.sigHeld.foldl applySignalMsg s
  let hs := s.fab.heldSigs
  hs.foldl (fun s h => applySignal s none h.1 h.2.1 h.2.2) (s.modFab fun f => { f with heldSigs := [] })

/-- RESTORE_COMPLETE: the context is back, saved faults are raised again, a step in progress goes on and RESUME reports it;
an abandonment recorded meanwhile is acted on before the gangs leave their seams (R229, R261, R370). -/
def execRestoreComplete (s : State) : Res :=
  .next (
    match s.pre.restoring with
    | none => s
    | some q =>
      let s := endHold { s.usedTiles.foldl restoreTile s with pre := {} }
      let s := s.modMem fun m => { m with faults := m.faults.map fun f => { f with saved := false } }
      let s := s.usedTiles.foldl (fun s t => (s.tile t).ops.foldl (refillOp t) s) s
      let s := applyHeld (hwinRefresh s)
      if s.stg.st == .preempted then
        let s := s.modStg fun g => { g with st := .running, reporter := some q }
        if s.stg.loc &&& 0x198 != 0 then abandonStep s else s
      else complete s q 0 0 0)

end Sys2Proof.Machine
end

