-- ==== Sys2Proof/Machine/Job.lean ====
section
/-! DEFINITION. Checking an image and a job configuration, binding a job, and leaving one (R13, R119, R176, R182 to R184,
R219, R244, R245, R266, R300, R301, R304, R305, R320, R321, R323, R367 to R369, R422, R426, R430). -/

namespace Sys2Proof.Machine

/-! ## Measurements (R422) -/

/-- MEAS[j] extended with a digest. -/
def extend (s : State) (j : Nat) (d : Beat) : State :=
  s.modTrust fun t => { t with meas := SMap.upd 0 t.meas j fun m => Config.shake256 (beatBytes m ++ beatBytes d) }

def clearMeas (s : State) (j : Nat) : State := s.modTrust fun t => { t with meas := SMap.set 0 t.meas j 0 }

/-! ## The image (R182 to R184, R430) -/

/-- Plaintext of `size` window bytes from offset `woff` on, whose ciphertext is `bytes` (R24, R427). -/
def winPlain (s : State) (woff size : Nat) (bytes : SMap Byte) : SMap Byte :=
  let lines := (List.range (cdiv size 64)).map fun i =>
    (64 * i, beatBytes (winOpen s (woff + 64 * i) (SMap.getBeat bytes (64 * i))))
  slice (layBytes lines) 0 size

/-- Two byte ranges meet. -/
def rangesMeet (a b : Nat × Nat) : Bool := decide (a.1 < b.1 + b.2) && decide (b.1 < a.1 + a.2)

/-- No two ranges of the list meet. -/
def disjoint : List (Nat × Nat) → Bool
  | [] => true
  | r :: rs => rs.all (fun q => !rangesMeet r q) && disjoint rs

/-- A slot code is allowed in a resource's table (R160). -/
def slotAllowed (res code : Nat) : Bool :=
  decide (code ≤ 0x40) || (code == 0x41 && decide (res < 24)) || (code == 0x42 && (decide (res < 16) || decide (29 ≤ res))) ||
  (code == 0x43 && decide (res < 16)) || (decide (0x44 ≤ code) && decide (code ≤ 0x47) && decide (29 ≤ res))

/-- A bank has a FETCH slot in every one of the tile's table sets. -/
def hasFetch (i : ImgTile) (bank : Nat) : Bool :=
  !i.sets.isEmpty && i.sets.all fun s => (List.range 256).any fun k => SMap.get 0x40 s.2 (256 * bank + k) == 0x43

/-- PCs to which the instruction word at `pc` of a tile's loaded bytes may go on: what follows it, its branch target, or both
(R187, R188). Where JR goes the image does not say (log 6). -/
def codeNext (m : SMap Byte) (pc : Nat) : List Nat :=
  let w : DWord := BitVec.ofNat 64 (SMap.getNat m pc 8)
  let op := fldN w 0 8
  let imm := fldN w 20 32
  if op = 0x20 then [imm]
  else if op = 0x21 || (decide (0x23 ≤ op) && decide (op ≤ 0x28)) then [imm, pc + 8]
  else if op = 0x22 || op = 0x2F then []
  else if (decide (1 ≤ op) && decide (op ≤ 0xB)) || (decide (0x10 ≤ op) && decide (op ≤ 0x13)) || op = 0x2E ||
      (decide (0x30 ≤ op) && decide (op ≤ 0x33)) || (decide (0x40 ≤ op) && decide (op ≤ 0x46)) then [pc + 8]
  else []

/-- PCs reached from those of a list, beside those already seen. -/
def codeWalk (m : SMap Byte) : Nat → List Nat → List Nat → List Nat
  | 0, _, seen => seen
  | _, [], seen => seen
  | n + 1, pc :: rest, seen =>
    if seen.contains pc || pc % 8 != 0 || decide (0x1FFFF8 < pc) then codeWalk m n rest seen
    else codeWalk m n (codeNext m pc ++ rest) (pc :: seen)

/-- Banks that hold code: those of every PC that a context reaches from its own (R184; DEDUCED, log 6). -/
def codeBanks (i : ImgTile) : List Nat :=
  let m := i.scratch.foldl (fun m e => SMap.setBytes m e.1 e.2) ([] : SMap Byte)
  let start := (i.contexts.filter fun c => c.2.st != .empty).map fun c => c.2.pc.toNat
  ((codeWalk m (3 * 0x40000 + start.length) start []).map (· / 0x20000)).eraseDups

/-- One tile's sections: table sets 0 to 3, codes allowed, a ring that names no EMPTY context, and a FETCH slot in each bank that
holds code, in each set (R184). -/
def imgTileOk (i : ImgTile) : Bool :=
  i.sets.all (fun s => decide (s.1 ≤ 3) && s.2.all fun e => decide (e.1 < 8448) && slotAllowed (e.1 / 256) e.2.toNat) &&
  !i.ring.isEmpty && i.ring.all (fun r => decide (r < 4096) && (SMap.get Ctx.empty i.contexts r).st != .empty) &&
  (codeBanks i).all (hasFetch i)

/-- A bridge entry is not reserved (R176). -/
def bridgeOk (e : Nat) : Bool :=
  let k := e / 0x1000
  let i := e % 0x1000
  k == 0 || (k == 1 && decide (i < 32)) || (k == 2 && decide (i < 16)) ||
  (k == 3 && (decide (i < 18) || (decide (0x20 ≤ i) && decide (i ≤ 0x23)) || i == 0x28 || i == 0x30))

/-- Tiles the tile map assigns to a gang. -/
def mappedTiles (img : Image) : List Nat := (List.range 1024).filter fun t => SMap.get 0xFF img.tileMap t != 0xFF

/-- The checks of R184. -/
def imageOk (img : Image) (size : Nat) : Bool :=
  img.magic == 0x4D49535A && img.fmtVer == 1 && img.stepping == 0xA1 && decide (1 ≤ img.nsect) && decide (img.nsect ≤ 4096) &&
  img.dir.length == img.nsect && decide (500 ≤ img.seamUs) && decide (img.seamUs ≤ 10000) && decide (img.imageSize ≤ size) &&
  decide (1 ≤ img.ngang) && decide (img.ngang ≤ 64) &&
  img.dir.all (fun e => decide (1 ≤ e.type) && decide (e.type ≤ 0xB) && e.offset % 64 == 0 &&
    decide (0x100 + 32 * img.nsect ≤ e.offset) && decide (e.offset + e.size ≤ img.imageSize)) &&
  disjoint (img.dir.map fun e => (e.offset, e.size)) &&
  (List.range 1024).all (fun t => img.tilesUsed.contains t == (SMap.get 0xFF img.tileMap t != 0xFF)) &&
  img.tileMap.all (fun e => decide (e.2 ≤ 63) || e.2 == 0xFF) &&
  img.tiles.all (fun e => img.tilesUsed.contains e.1) && (mappedTiles img).all (fun t => imgTileOk (imgTile img t)) &&
  img.bridge.all (fun e => bridgeOk e.2) && img.digest == Config.shake256 (blobBytes (slice img.raw 0x100 (img.imageSize - 0x100)) (img.imageSize - 0x100))

/-- The image's bytes with DIGEST and the authenticator as zero (R430). -/
def imageAuthBytes (img : Image) : List Byte :=
  blobBytes ((img.dir.filter fun e => e.type == 0xB).foldl (fun m e => zeroed m e.offset 64) (zeroed img.raw 0xC0 64)) img.imageSize

/-- The SIGNATURE section verifies under K_IMG. -/
def imageAuthOk (s : State) (img : Image) : Bool :=
  match s.trust.session with
  | some (_, _, js, _) =>
    kdf 512 (kdf 256 js [] "ZT-B4480 IMAGE") (imageAuthBytes img) "ZT-B4480 IMAGE" == img.auth
  | none => false

/-! ## Checks of JOB_BIND -/

/-- A ladder control word (R119): RAISED ignored, RECORDS taken as 0 (R368). -/
def ladderOf (w : Nat) : LadderEnt :=
  let w : DWord := BitVec.ofNat 64 w
  { valid := bitB w 0, base := fldN w 1 3, ceil := fldN w 4 3, scope := bitB w 7, jobwide := bitB w 8, grad := bitB w 9,
    gang := fldN w 10 6, relax := fldN w 16 8, rung := fldN w 32 3, raised := false, clean := fldN w 40 8, records := 0 }

/-- A ladder word of the image: the rung of a GRAD entry starts at 5, no job configuration naming another (R114). -/
def gradStart (w : Nat) : Nat := if w / 2 ^ 9 % 2 = 1 then w - w / 2 ^ 32 % 8 * 2 ^ 32 + 5 * 2 ^ 32 else w

/-- The ladder words in use: those of the configuration, else the image's (R368). -/
def ladderWords (img : Image) (c : JobCfg) : SMap Nat :=
  if c.nladder == 0 then img.ladder.map fun e => (e.1, gradStart e.2) else c.ladder

/-- R119, R114, R323. -/
def ladderOk (l : List LadderEnt) : Bool :=
  l.all (fun e => !e.valid || (decide (e.base ≤ e.rung) && decide (e.rung ≤ e.ceil) && decide (e.ceil ≤ 5) &&
    (!e.grad || (e.jobwide && decide (3 ≤ e.base))))) &&
  decide ((l.filter fun e => e.valid && e.jobwide).length ≤ 256)

/-- A field of PORT[p] and its allotments (R274, R300). -/
def portOk (f : FabCfg) (c : PortCfg) (used : List Nat) : Bool :=
  let role := fun q => ((f.ports[q]?).map (·.role)).getD 0
  decide (c.role ≤ 3) && decide (c.peerPort < 18) && decide (c.detours.length ≤ 8) &&
  c.detours.all (fun d => decide (d.1 < 18) && role d.1 != 0 && decide (d.2 < 32768)) && decide (c.peerMod < 32768) &&
  decide (c.allot.sum ≤ 8192) && used.all fun v => decide (17 ≤ c.allot.getD v 0)

/-- The FABRIC section (R275, R277, R300): schedule entries in place of the plain ones. -/
def fabricOk (f : FabCfg) : Bool :=
  let ok := fun (e : Nat × Nat) =>
    let i := e.1 % 4096
    let k := e.2 / 0x1000
    decide (e.1 < 18 * 4096) && decide (k ≤ 2) && ((k == 2) == (i % 16 == 15)) && e.2 / 16 % 256 == 0
  let used := fun p => (f.sched.filter fun e => e.1 / 4096 == p && e.2 / 0x1000 == 1).map (·.2 % 16)
  f.fieldsOk && f.sched.all ok && f.ports.length == 18 && f.ports.zipIdx.all (fun c => portOk f c.1 (used c.2)) &&
  f.route.all fun r => r.2 == 0xFF || (decide (r.2 < 18) && ((f.ports[r.2]?).map (·.role)).getD 0 != 0)

/-- Node number of a module. -/
def nodeOf (m : Nat) : Nat := m / 8

/-- A set record: its fields in range, and, for a set that includes this module, members of the job with the ports that
the reduction order and gather ring need (R304, R305, R368). -/
def setOk (f : FabCfg) (c : JobCfg) (r : SetRec) : Bool :=
  let port := fun (m : Nat) => f.ports.any fun p => p.role != 0 && p.peerMod == m
  let me := c.modnum
  let n := r.nodes.length
  let asc := (r.nodes.zip (r.nodes.drop 1)).all fun e => decide (e.1 < e.2)
  let fields := (r.width == 1 || r.width == 2 || r.width == 4 || r.width == 8) && r.runBase % r.width == 0 &&
    decide (r.runBase + r.width ≤ 8) && decide (1 ≤ n) && decide (n ≤ 4096) && asc && r.nodes.all fun d => decide (d ≤ 4095)
  let inRun := decide (r.runBase ≤ me % 8) && decide (me % 8 < r.runBase + r.width)
  let mem := r.nodes.all fun d => (List.range r.width).all fun i => c.members.contains (8 * d + r.runBase + i)
  let mates := (List.range r.width).all fun i =>
    let m := 8 * nodeOf me + r.runBase + i
    m == me || port m
  let at_ := fun (i : Nat) => 8 * r.nodes.getD (i % n) 0 + me % 8
  let pos := r.nodes.idxOf (nodeOf me)
  fields && (!(inRun && r.nodes.contains (nodeOf me)) ||
    (mem && mates && (decide (n < 2) || port (at_ (pos + 1))) && (decide (n < 3) || port (at_ (pos + n - 1)))))

/-- Global ranges of a region with SELF resolved for module `me`. -/
def regionPhys (me : Nat) (r : Region) : List (Nat × Nat) :=
  let g := fun (a : Nat) (self : Bool) => if self then a - gaMod a * 2 ^ 42 + me * 2 ^ 42 else a
  (g r.gpa0 r.self0, r.size) :: (if r.kind == 2 then [(g r.gpa1 r.self1, r.size)] else [])

/-- Virtual ranges of a region. -/
def regionVirt (r : Region) : List (Nat × Nat) :=
  if r.kind == 4 then [] else (r.va0, r.size) :: (if r.kind == 2 then [(r.va1, r.size)] else [])

/-- The range lies in a near tier outside reserves, and outside tag ranges while tags are on (R239). -/
def nearRange (tags : Bool) (o n : Nat) : Bool :=
  decide (o + n ≤ 0x4000000000) && o / 0x2000000000 == (o + n - 1) / 0x2000000000 &&
  decide ((o + n - 1) % 0x2000000000 < (if tags then 0x1F40000000 else 0x1FC0000000))

/-- A MAP region may run from one half into the other only through no reserve, so it lies in one half. -/
def physOk (s : State) (img : Image) (c : JobCfg) (r : Region) (a : Nat × Nat) : Bool :=
  let o := gaOff a.1
  let n := a.2
  let mine := gaMod a.1 == c.modnum
  let near := nearRange img.nearTags o n
  let far := match placeOf o with
    | .far p x => decide (x + n ≤ (if mine then farSpan s p else 0x7E00000000))
    | _ => false
  let scr := decide (0x30000000000 ≤ o) && decide (o + n ≤ 0x30080000000)
  a.1 / 2 ^ 57 == 64 &&
  match r.kind with
  | 1 => near || far || scr
  | 2 => near || far
  | 3 => mine && near
  | 4 => mine && near
  | 5 => mine && near
  | 6 => decide (0x3F000000000 ≤ o) && decide (o + n ≤ 0x40000000000)
  | 7 => decide (0x31004110000 ≤ o) && decide (o + n ≤ 0x31004130000)
  | _ => decide (0x31000000000 ≤ o) && decide (o + n ≤ 0x31100000000)

/-- Fields of a region entry (R244, R245). -/
def regionFields (r : Region) : Bool :=
  decide (1 ≤ r.kind) && decide (r.kind ≤ 8) && r.reservedOk && r.size != 0 && r.size % 0x10000 == 0 && r.va0 % 0x10000 == 0 &&
  r.gpa0 % 0x10000 == 0 && (r.kind != 2 || (r.va1 % 0x10000 == 0 && r.gpa1 % 0x10000 == 0)) &&
  (regionVirt r).all fun v => decide (v.1 + v.2 ≤ 2 ^ 48)

/-- The physical ranges of `b` and of another region meet. -/
def physMeet (me : Nat) (a b : Region) : Bool := (regionPhys me a).any fun x => (regionPhys me b).any (rangesMeet x)

/-- A pair of different regions whose ranges meet in a way R245 and R219 forbid: a DEMAND pool with any, the spill region
with a flip pair. -/
def pairOk (me : Nat) (a b : Region) : Bool :=
  !((a.kind == 5 || b.kind == 5 || (a.kind == 3 && b.kind == 2) || (a.kind == 2 && b.kind == 3)) && physMeet me a b)

def pairsOk (me : Nat) : List Region → Bool
  | [] => true
  | r :: rs => rs.all (pairOk me r) && pairsOk me rs

/-- Bytes of the regions that lie in one tier of this module (R320). -/
def tierBytes (me : Nat) (rs : List Region) (far : Bool) : Nat :=
  ((rs.flatMap (regionPhys me)).filter fun a => gaMod a.1 == me && (if far then decide (0x10000000000 ≤ gaOff a.1 ∧
    gaOff a.1 < 0x30000000000) else decide (gaOff a.1 < 0x4000000000))).map (·.2) |>.sum

/-- Half of the near tier in which the first byte of a region lies. -/
def regionHalf (me : Nat) (r : Region) : Nat := (regionPhys me r).foldl (fun _ a => gaOff a.1 / 0x2000000000) 0

/-- A SAVE region on each half, and each one large enough and within one half (R245). -/
def saveOk (me : Nat) (rs : List Region) : Bool :=
  let saves := rs.filter fun r => r.kind == 4
  saves.all (fun r => decide (1705 * 2 ^ 20 ≤ r.size) &&
    (regionPhys me r).all fun a => gaOff a.1 / 0x2000000000 == (gaOff a.1 + a.2 - 1) / 0x2000000000) &&
  [0, 1].all fun h => saves.any fun r => regionHalf me r == h

/-- The MEMMAP section (R219, R244, R245, R320, R367). -/
def memmapOk (s : State) (k : Kept) (c : JobCfg) : Bool :=
  let img := k.img
  let rs := img.regions
  let me := c.modnum
  let flips := rs.filter fun r => r.kind == 2
  let kept : Nat × Nat := (gAddr me k.keep, roundUp k.size 0x10000)
  img.memmapOk && decide (1 ≤ rs.length) && decide (rs.length ≤ 65536) && rs.all regionFields &&
  disjoint (rs.flatMap regionVirt) && rs.all (fun r => (regionPhys me r).all (physOk s img c r)) &&
  flips.all (fun r => match regionPhys me r with
    | [a, b] => gaMod a.1 == gaMod b.1 && !rangesMeet a b
    | _ => false) && decide (flips.length ≤ 4096) && saveOk me rs && pairsOk me rs &&
  (rs.flatMap (regionPhys me)).all (fun a => !rangesMeet a kept) &&
  decide (tierBytes me rs false ≤ c.nearQuota) && decide (tierBytes me rs true ≤ c.farQuota)

/-- Fields of the job configuration (R118, R320, R321, R368). -/
def cfgFields (f : FabCfg) (c : JobCfg) (size : Nat) : Bool :=
  let role := fun q => ((f.ports[q]?).map (·.role)).getD 0
  c.magic == 0x4746434A && c.reservedOk && decide (c.bytes.length ≤ size) && c.modnum == f.selfmod && decide (c.modnum < 32768) &&
  c.members.contains c.modnum && decide (1 ≤ c.jobSize) && decide (c.jobSize ≤ 32768) && c.jobSize == c.members.length &&
  (c.parent == 0x1F || (decide (c.parent < 18) && role c.parent != 0)) && decide (c.child < 2 ^ 18) &&
  (List.range 18).all (fun p => c.child / 2 ^ p % 2 == 0 || role p != 0) &&
  decide (c.seqBase + c.seqLen ≤ 2097152) && decide (c.nladder ≤ 4096) && decide (c.sets.length ≤ 256) &&
  decide (1 ≤ fldN c.grad 0 6) && decide (fldN c.grad 0 6 ≤ 30) && decide (fldN c.pcCtrl 1 5 ≤ 16)

/-- Every check of JOB_BIND on what was read (R179, R368). -/
def bindOk (s : State) (k : Kept) (c : JobCfg) (size : Nat) : Bool :=
  cfgFields k.img.fabric c size && fabricOk k.img.fabric && c.sets.all (setOk k.img.fabric c) && memmapOk s k c &&
  ladderOk ((ladderWords k.img c).map fun e => ladderOf e.2) && (mappedTiles k.img).all fun t => !s.flt.unavail.contains t

/-! ## Binding -/

/-- The tally key: the first of the derived values that is neither 0 nor 1 (R426). -/
def tallyKey (kf : Beat) : DWord :=
  (((List.range 256).map fun c => (kdf 64 kf (leBytes 1 c) "ZT-B4480 TALLY").setWidth 64).find?
    fun (k : DWord) => k != 0 && k != 1).getD 2

/-- Tiles of the tile map loaded, others empty; their blocks cleared (R60, R90, R148, R161, R169, R181). -/
def bindTiles (s : State) (img : Image) : State :=
  let one := fun (m : SMap Tile) t =>
    let old := s.tile t
    SMap.set {} m t { loadTile (imgTile img t) {} with
      gang := some (SMap.get 0 img.tileMap t), press := [{ id := 0 }], failing := old.failing, hardFail := old.hardFail }
  let unused := s.tiles.filterMap fun e =>
    if e.2.failing || e.2.hardFail then some (e.1, ({ failing := e.2.failing, hardFail := e.2.hardFail } : Tile)) else none
  { s with tiles := (mappedTiles img).foldl one unused, gangs := [], wires := [], crossing := [] }

/-- The job's part of a port (R302): counts of the job cleared. -/
def bindPort (x : Port) : Port :=
  { x with txMsg := 0, rxMsg := 0, txFlit := 0, rxFlit := 0, detFlit := 0, resent := 0, matched := false, returning := false }

def bindPorts (m : SMap Port) : SMap Port := SMap.remap {} (fun _ x => bindPort x) m

/-- Each port of role other than 0 that is trained says HELLO, and its peer's last HELLO is matched (R298). -/
def sayHello (s : State) : State :=
  s.rolePorts.foldl (fun s p =>
    if (s.port p).st == .wait then matchHello (sendCtl s p (helloFlit s p)) p else s) s

/-- Job movers start empty; a firmware mover goes on, its count cleared (R255). -/
def bindMovers (m : SMap Mover) : SMap Mover :=
  SMap.remap {} (fun k x => if k % 16 < 12 then ({} : Mover) else { x with done := 0 }) m

/-- The ladder the control words give. -/
def bindLadder (w : SMap Nat) : SMap LadderEnt := w.foldl (fun m e => SMap.set {} m e.1 (ladderOf e.2)) []

/-- JOB_BIND's effect once every check has passed. -/
def doBind (s : State) (k : Kept) (c : JobCfg) : State :=
  let img := k.img
  let js := match s.trust.session with
    | some (_, _, js, _) => js
    | none => 0
  let kf := kdf 256 js (leBytes 32 c.jobid.toNat) "ZT-B4480 FABRIC"
  let s := bindTiles s img
  let ctl : Word := (c.pcCtrl &&& 0x1FF) ||| placeB 32 9 c.refmode
  let th := fun i => c.thresh.getD i 0
  let s := { s with job := some c, pre := {}, stg := {
    st := .idle, step := c.step, parity := c.parity, deadlineUs := BitVec.ofNat 32 c.deadlineUs, deadlineNow := c.deadlineUs
    lastStatus := s.stg.lastStatus, verdict := s.stg.verdict, lastUs := s.stg.lastUs } }
  let s := s.modPc fun p =>
    { maxDq := p.maxDq, ctrl := ctl, ctrlNow := ctl, thA := th 0, thB := th 1, thC := th 2 &&& 0xFFFF, thANow := th 0, thBNow := th 1,
      thCNow := th 2 &&& 0xFFFF, grad := c.grad &&& 0x3F
      ladder := bindLadder (ladderWords img c) }
  let s := s.modMem fun m =>
    { m with nearTags := img.nearTags, faultCount := 0, mvInvalid := 0, faults := [], retried := [], demand := []
             heldReqs := [], farWritten := [], tags := devTags s, frq := [], farCapBound := m.farCap }
  let s := buildTables s c.modnum img.regions
  let s := { s with movers := bindMovers s.movers, ports := bindPorts s.ports }
  let s := s.modFab fun f =>
    { laneLimit := f.laneLimit, nextTag := f.nextTag, laneSwaps := 0, nextGrp := f.nextGrp }
  let s := s.modCm fun m =>
    { parent := c.parent, child := BitVec.ofNat 18 c.child, jobSize := c.jobSize, roundTimeout := m.roundTimeout
      key := tallyKey kf }
  let s := s.modFlt fun f =>
    { f with rebind := false, jobDataLost := false, sigLocal := 0, sigRemote := 0, sigSent := 0, sigDropped := 0, sigHeldLast := 0 }
  let s := s.modTrust fun t => { t with jobKeys := some t.draws, draws := t.draws + 4, fabricKey := some kf }
  let s := { s with tm := { s.tm with incr := jobIncr s.tm.incr } }
  sayHello (extend s 5 (Config.shake256 c.bytes))

/-- Ports UP as a mask (R364). -/
def portsUp (s : State) : Nat := (((List.range 18).filter (portUp s)).map fun p => 2 ^ p).sum

/-! ## Leaving a job (R87, R116, R149, R174, R207, R234, R266, R299, R301, R331, R357, R369) -/

/-- A port without a job: in WAIT without credits, its queues empty; the link goes on. -/
def leavePort' (x : Port) : Port :=
  { x with st := if x.st == .off then .off else .wait, credit := [], buffered := [], owed := [], outq := [], outFlits := []
           outCur := [], detq := [], detVc := none, inFlits := [], inMsgs := [], sentLog := [], accepted := 0, icvTo := none
           icvBad := none, retrIn := false, retrOut := false, resynced := false, failAt := none, swapAsked := none
           detNext := 0, hello := none, matched := false, returning := false }

/-- A tile without a job: the contexts, memories and registers of the job are gone; KFS, MXS and PCT_VERDICT stay until the next
JOB_BIND. -/
def leaveTileJob (x : Tile) : Tile :=
  { failing := x.failing, hardFail := x.hardFail, kfs := x.kfs, mxs := x.mxs, pctVerdict := x.pctVerdict, nextOp := x.nextOp }

def leaveTiles (m : SMap Tile) : SMap Tile := SMap.remap {} (fun _ x => leaveTileJob x) m

/-- Job movers drop every descriptor; MV_DONE stays until the next JOB_BIND; firmware movers go on. -/
def leaveMovers (m : SMap Mover) : SMap Mover :=
  SMap.remap {} (fun k x => if k % 16 < 12 then ({ done := x.done } : Mover) else x) m

def leavePorts (m : SMap Port) : SMap Port := SMap.remap {} (fun _ x => leavePort' x) m

/-- The job unbound: LEAVE sent, keys erased, state UNBOUND, the scrub started. -/
def unbind (s : State) : State :=
  if !s.bound then s
  else
    let s := leaveJob s
    let s := { s with tiles := leaveTiles s.tiles, gangs := [], wires := [], crossing := [], pre := {}, movers := leaveMovers s.movers
                      ports := leavePorts s.ports }
    let s := s.modStg fun g =>
      { g with st := .unbound, step := 0, parity := false, deadlineUs := 0, loc := 0, gangs := 0, gangDone := 0, timer := none, exclFrom := none
               excluded := 0, startAt := none, reporter := none, rewindDue := false, midStep := false }
    let s := s.modPc fun p => ({ maxDq := p.maxDq, ctrl := p.ctrl &&& 0x1FF, ctrlNow := p.ctrl &&& 0x1FF, thA := p.thA, thB := p.thB, thC := p.thC,
                                         thANow := p.thA, thBNow := p.thB, thCNow := p.thC, grad := p.grad } : PcBlk)
    let s := s.modMem fun m =>
      { m with faults := [], retried := [], demand := [], tlb := [], reserve := [], flipDelta := [], tags := devTags s, heldReqs := []
               farWritten := [], scrub := true }
    let s := s.modFlt fun f => { f with sigHeldLast := sigHeld s }
    let s := s.modFab fun f =>
      { f with outstanding := f.outstanding.map (fun r => { r with dead := true }), departed := [], loopback := [], drain := []
               heldSigs := [], sigHeld := [], sigWait := [], bridged := [] }
    let s := s.modCm fun c =>
      { c with txTally := [], rxTally := [], txBytes := [], rxBytes := [], shards := [], txSeq := [], streams := [], tallies := []
               compared := [], childVotes := [], votedAt := none, childAcks := [], flippedAt := none, ackSent := false
               results := [], releases := [], queriers := [], abandonSent := false, abandonSeen := false, key := 0
               parent := 0, child := 0, jobSize := 0 }
    let s := s.modTrust fun t => { t with jobKeys := none, fabricKey := none }
    let s := leaveRound { s with job := none }
    hwinRefresh (clearMeas s 5)

/-- SCRUB's effect: every job range of the near tier holds zeros (R266); the reserves and the kept image are no job ranges. -/
def scrubbed (s : State) : State :=
  let stays := fun (a : Nat) => 0x4000000000 ≤ a || inReserve (logOff s a) || inKept s (logOff s a)
  (fwDone (fwDone s 0) 1).modMem fun m =>
    { m with scrub := false, dram := m.dram.filter fun e => stays e.1
             poison := m.poison.filter fun e => stays (64 * e.1) }

end Sys2Proof.Machine
end

