-- ==== Sys2Proof/Machine/Power.lean ====
section
/-! DEFINITION. Levels, band voltages, the power estimate, the cap and its division, calibration, alerts, heat and droop
(R378 to R389, R395 to R398, R442). -/

namespace Sys2Proof.Machine

/-! ## Levels and voltages (R378 to R380) -/

/-- The voltage ceiling of an operating point, mV. -/
def opCeil (op : Nat) : Nat :=
  ([520, 540, 560, 580, 600, 620, 640, 660, 680, 700, 720, 740, 760, 770, 790, 800] : List Nat).getD op 800

/-- Operating point and active duty, in eighths, of a level. -/
def levelOp (l : Nat) : Nat := l - 7
def levelDuty (l : Nat) : Nat := if l < 7 then l + 1 else 8

/-- The module's current level: at OP0 its duty, elsewhere the operating point, whose duty the local loop may lower. -/
def curLevel (s : State) : Nat := if s.gov.op = 0 then s.gov.duty - 1 else 7 + s.gov.op

/-- The voltage band `b` needs for an operating point: its base table and the margin called for. -/
def bandNeed (s : State) (b op : Nat) : Nat := Config.vbase b op + SMap.get 0 s.gov.margin b

/-- The trim of band `b` at an operating point: never below 0.45 V nor above the ceiling. -/
def bandTrim (s : State) (b op : Nat) : Nat := min (opCeil op) (max 450 (bandNeed s b op))

/-- Every band at its trim for the current operating point. -/
def setTrims (s : State) : State :=
  (List.range 8).foldl (fun s b => s.modGov fun g => { g with vband := SMap.set 0 g.vband b (bandTrim s b s.gov.op) }) s

/-- Every operating point from `op` up is withdrawn (R380, R442). With OP0 itself gone the module has no other to run at: it stays
there, and the withdrawal is logged and reported once (log 36). Whether the flash write fails is a free value (R418; log 39). -/
def withdrawOp (s : State) (op : Nat) : State :=
  if (if op = 0 then s.gov.op0Out else decide (s.gov.maxOpAvail < op)) then s
  else
    let s := s.modGov fun g => { g with maxOpAvail := op - 1, op0Out := g.op0Out || op == 0 }
    let (w, s) := s.draw
    let s := boardSet s (w.getLsbD 0) fun b => { b with maxOp := op - 1 }
    pldm (ledger s 2 4 0x0406 noUnit op) (.opWithdrawn op)

/-- The lowest operating point that some band cannot meet within its ceiling, at the margins `m` called for, is withdrawn
with every higher one. -/
def checkTrims (s : State) (m : Nat → Nat) : State :=
  match (List.range 16).find? fun op => (List.range 8).any fun b => opCeil op < Config.vbase b op + m b with
  | some op => withdrawOp s op
  | none => s

/-- A switch of the operating point: every band's trim takes on the margin called for (R380). -/
def switchOp (s : State) (op : Nat) : State :=
  let s := if op = s.gov.op then s else s.modGov fun g => { g with op := op, margin := g.need }
  setTrims s

/-- The alert operating point (R395). -/
def alertOp (s : State) : Nat := fldN s.gov.ctrl 3 4

/-- The lowest of the alert and thermal ceilings. -/
def hardCeil (s : State) : Nat := min (s.gov.alertCeil.getD 22) (s.gov.thermalCeil.getD 22)

/-- The level agreed, under the ceilings. -/
def agreedLevel (s : State) : Nat := min s.gov.set (hardCeil s)

/-- Highest active duty of the local loop: the agreed level's at its own operating point (R379, R388). -/
def maxDuty (s : State) : Nat := if s.gov.op = 0 && agreedLevel s < 7 then agreedLevel s + 1 else 8

/-- The duty that a switch to level `l` gives: the level's, but no more than what distrust has lowered it to, and while a droop holds
it, that (R383, R398); at an unchanged level the local loop's stays. `was` is the level agreed before. -/
def switchDuty (s : State) (was l : Nat) : Nat :=
  if s.gov.droopHold.isSome then s.gov.duty
  else if s.gov.distrust then min s.gov.duty (levelDuty l)
  else if l == was && levelOp l == s.gov.op && !s.gov.loc then s.gov.duty
  else levelDuty l

/-- The operating point and duty of a level taken on, at their trims (R393); a local descent ends. -/
def setLevel (s : State) (was l : Nat) : State :=
  let d := switchDuty s was l
  let s := switchOp (s.modGov fun g =>
    { g with duty := d, loc := false, overRun := 0, droopDuty := if l == was then g.droopDuty else levelDuty l }) (levelOp l)
  checkTrims s fun b => SMap.get 0 s.gov.margin b

/-- The level ceiling (R388). -/
def levelCeil (s : State) : Nat := min (hardCeil s) (min (7 + fldN s.gov.ctrl 7 4) (7 + s.gov.maxOpAvail))

/-! ## The estimate (R381) -/

/-- (V / 0.70 V) to a power. -/
def vRel (mv n : Nat) : Rat := ((mv : Rat) / 700) ^ n

/-- 2^((T − 60 °C) / 20 °C) in units of 2^-32, cut to a whole number, for T − 60 °C in 1/16 °C: the largest `k` whose 320th power does
not exceed 2^(32 · 320 + n). -/
def exp2Leak (n : Int) : Nat :=
  if n < -10240 then 0
  else (List.range 140).reverse.foldl (fun k i => if (k + 2 ^ i) ^ 320 ≤ 2 ^ (10240 + n).toNat then k + 2 ^ i else k) 0

/-- Static power of band `b` at a voltage, mW. -/
def leakAt (s : State) (b mv : Nat) : Rat :=
  (Config.leak b : Rat) * vRel mv 3 * (exp2Leak (SMap.get 0 s.gov.temp b - 960) : Rat) / 2 ^ 32

/-- Weight of event `i` in the window in progress. -/
def weightNow (s : State) (i : Nat) : Nat := weightReset i ^^^ (SMap.get 0 s.gov.weightsNow i).toNat

/-- The count of event `i`, of band `b` for compute, in the window: instructions issued and tier beats as State shows them, fabric
flits with the CXL flits reported, the others as reported; in idle slots no compute event counts (R381; log 10). -/
def eventCount (s : State) (w : Window) (b i : Nat) : Nat :=
  if i = 13 then SMap.get 0 s.gov.events (32 * b + 13)
  else if i < 13 then (if s.gov.active = 0 then 0 else SMap.get 0 w.counts (32 * b + i))
  else if i = 14 || i = 15 then SMap.get 0 s.gov.events i
  else if i = 16 then SMap.get 0 s.gov.events 16 + SMap.get 0 w.counts 16
  else SMap.get 0 w.counts i

/-- Dynamic energy of the compute events in the window of the tiles whose `tileBand` is `b` (R16), fJ, by the weights. -/
def bandDyn (s : State) (w : Window) (b : Nat) : Rat :=
  (((List.range 14).map fun i => weightNow s i * eventCount s w b i).sum : Nat) * vRel (SMap.get 0 s.gov.vband b) 2

/-- Energy of the events of a domain other than compute, fJ. -/
def domDyn (s : State) (w : Window) (es : List Nat) : Nat := (es.map fun i => weightNow s i * eventCount s w 0 i).sum

/-- Gain of a domain. -/
def gainOf (s : State) (d : Nat) : Rat := ((s.gov.gains.getD d 0x10000 : Nat) : Rat) / 65536

/-- Estimates of links, memory, compute for a 1 µs window, fJ, cut to whole fJ. -/
def estimates (s : State) (w : Window) : List Nat :=
  let cut := fun (r : Rat) => r.floor.toNat
  let comp := ((List.range 8).map fun b => bandDyn s w b + leakAt s b (SMap.get 0 s.gov.vband b) * 1000000).sum
  [cut (gainOf s 0 * ((domDyn s w [15, 16, 17] + Config.staticPower 0 * 1000000 : Nat) : Rat)),
   cut (gainOf s 1 * ((domDyn s w [14] + Config.staticPower 1 * 1000000 : Nat) : Rat)), cut (gainOf s 2 * comp)]

/-- The estimate of what the links and the memory limiter have held back in the window, mW (R386). -/
def heldLinks (s : State) : Nat :=
  (gainOf s 0 * ((weightNow s 16 * s.gov.heldFlit + weightNow s 15 * s.gov.heldFar : Nat) : Rat) / 1000000).floor.toNat
def heldMem (s : State) : Nat := (gainOf s 1 * ((weightNow s 14 * s.gov.heldBeat : Nat) : Rat) / 1000000).floor.toNat

/-- Projected compute power at an operating point and duty, mW (R388): dynamic energy scaled by frequency × duty × V²,
leakage at the new voltage. -/
def projection (s : State) (w : Window) (op duty : Nat) : Rat :=
  let now : Rat := (opMHz s.gov.op * s.gov.duty : Nat)
  let new : Rat := (opMHz op * duty : Nat)
  gainOf s 2 * ((List.range 8).map fun b =>
    let v := SMap.get 0 s.gov.vband b
    let v' := bandTrim s b op
    bandDyn s w b / 1000000 * (new / now) * (((v' : Rat) / v) ^ 2) + leakAt s b v').sum

def projLevel (s : State) (w : Window) (l : Nat) : Rat := projection s w (levelOp l) (levelDuty l)

/-! ## The cap and its division (R385, R386) -/

/-- The cap in force that the settings give (R385). -/
def capInForce (s : State) : Nat := min (min s.gov.cap.toNat s.gov.bmcCap.toNat) 2000000

/-- Floors of links, memory, compute, mW. -/
def floors : List Nat := [60000, 40000, 80000]

/-- The priority orders: 0 links, 1 memory, 2 compute. -/
def orderOf (code : Nat) : List Nat :=
  ([[0, 1, 2], [0, 2, 1], [1, 0, 2], [1, 2, 0], [2, 0, 1], [2, 1, 0]] : List (List Nat)).getD code [0, 1, 2]

/-- The division of the cap among the domains (R386). -/
def share (cap : Nat) (order demand : List Nat) : List Nat :=
  let step := fun (a : List Nat × Nat) (d : Nat) =>
    let extra := min (demand.getD d 0 - floors.getD d 0) a.2
    (a.1.set d (floors.getD d 0 + extra), a.2 - extra)
  let (g, rem) := order.foldl step (floors, cap - floors.sum)
  let last := order.getD 2 2
  g.set last (g.getD last 0 + rem)

/-! ## Audits in hardware (R452, R453) -/

/-- Credits of port `p` as audit 0 adds them. -/
def creditsAgree (s : State) (p : Nat) : Bool :=
  let x := s.port p
  let held := x.frozen.getD (heldCredits x)
  held + x.txUp == (s.portCfg p).allot.sum + x.crIn

/-- Ports whose direction audit 0 checks: UP, or failed since. -/
def auditPorts (s : State) : List Nat :=
  s.rolePorts.filter fun p => portUp s p || (s.port p).st == .detoured || (s.port p).st == .lost

/-- The module checks that fail, by bit (R452). A DMA outbound buffer's credits are what its occupancy leaves of its 512 beats, so
check 1 fails where the occupancy is above them; the signal check counts from JOB_BIND, while a job is bound. -/
def auditMask (s : State) : BitVec 5 :=
  let bad0 := (auditPorts s).any fun p => !creditsAgree s p
  let bad1 := s.tiles.any fun e => decide (512 < e.2.outUsed0) || decide (512 < e.2.outUsed1)
  let bad2 := s.bound && (s.tiles.map fun e => e.2.ts.sigIn).sum + sigHeld s != s.flt.sigLocal + s.flt.sigRemote
  let bad3 := s.cm.tallyFail != 0 || s.cm.shardFail != 0
  let bad4 := s.gov.grants.sum != max s.gov.effCap floors.sum
  pack 5 [(0, 1, bad0.toNat), (1, 1, bad1.toNat), (2, 1, bad2.toNat), (3, 1, bad3.toNat), (4, 1, bad4.toNat)]

/-- A ledger entry to which the manual gives no event code: SEV below fatal, CODE, UNIT and DATA are free values (log 3). -/
def ledgerOpen (s : State) (src : Nat) : State :=
  let (a, s) := s.draw
  let (d, s) := s.draw
  ledger s (fldN a 0 8 % 3) src (fldN a 16 16) (fldN a 32 16) d.toNat

/-- The checks evaluated: each one newly failing is a violation, counted with a ledger entry (R453). -/
def auditRun (s : State) : State :=
  let m := auditMask s
  let fresh := (List.range 5).filter fun i => bitB m i && !bitB s.flt.hwMask i
  let s := s.modFlt fun f =>
    { f with audMask := m, hwMask := m, viol := sat32 (f.viol + fresh.length), pwrWindows := sat64 (f.pwrWindows + 1)
             pwrBad := if bitB m 4 then sat32 (f.pwrBad + 1) else f.pwrBad
             bndBad := if fresh.contains 1 then sat32 (f.bndBad + 1) else f.bndBad
             crBad := if fresh.contains 0 then sat32 (f.crBad + 1) else f.crBad }
  fresh.foldl (fun s _ => ledgerOpen s 8) s

/-! ## GOV_WINDOW (R381, R385 to R389) -/

/-- A local descent to the alert operating point at 1/8 duty (R388): CCLK moves at the next slot-frame boundary, as R395 moves it
(log 36). -/
def descend (s : State) : State :=
  ledger (s.modGov fun g => { g with duty := 1, loc := true, overRun := 0, alertDue := true }) 1 4 0x0404 noUnit 0

/-- The compute actuator acts on the window `w` with compute estimate `e` mW under grant `g` mW (R388). -/
def actCompute (s : State) (w : Window) (e g : Nat) : State :=
  let held := s.gov.droopHold.isSome
  let low := s.gov.duty == 1 && decide (g < e)
  let s := s.modGov fun v => { v with overRun := if low then v.overRun + 1 else 0 }
  if 10 ≤ s.gov.overRun && alertOp s < s.gov.op && !s.gov.alertDue then descend s
  else if g < e then s.modGov fun v => { v with duty := max 1 (v.duty - 1) }
  else if decide (10 * e < 9 * g) && decide (s.gov.duty < maxDuty s) && !held &&
      decide (projection s w s.gov.op (s.gov.duty + 1) ≤ g) then
    s.modGov fun v => { v with duty := v.duty + 1 }
  else s

/-- The highest level whose projection fits the grant in this window. -/
def fitOf (s : State) (w : Window) (g : Nat) : Nat :=
  (((List.range 23).reverse.find? fun l => decide (projLevel s w l ≤ g))).getD 0

/-- The cap's record: since when it has stood below 180,000 mW, and UNATTAINABLE gone once it reaches that again; a forced
Rest then wakes (R389, R400). -/
def capNoted (s : State) : State :=
  if s.gov.effCap < 180000 then
    (if s.gov.lowSince.isSome then s else s.modGov fun g => { g with lowSince := some s.ns })
  else
    let s := s.modGov fun g => { g with lowSince := none, unattainable := false }
    if s.rest.forced then
      let s := { s with rest := { s.rest with forced := false, st := if s.rest.st == .pending && s.rest.queue.isNone
                                    then .awake else s.rest.st } }
      wakeUp s
    else s

/-- No detector has fired for 1 µs: the duty is again what droop cut, up to the agreed level (R398). -/
def droopOver (s : State) : State :=
  match s.gov.droopHold with
  | some t => if t + 1000 ≤ s.ns then s.modGov fun g => { g with droopHold := none, duty := min g.droopDuty (maxDuty s) } else s
  | none => s

/-- The memory limiter's allowance from its grant, halved while a GDDR7 device is hot (R387, R397). -/
def memAllow (s : State) (mem : Nat) : Nat := if s.gov.memHalf then Config.memLimit mem / 2 else Config.memLimit mem

/-- The limiters' allowances for the next window, and its counts from 0 (R387); in distrust they hold their last values (R383). -/
def setLimits (s : State) (links mem : Nat) : State :=
  let keep := s.gov.distrust
  s.modGov fun g =>
    { g with linkUsed := 0, events := [], active := 0, heldFlit := 0, heldBeat := 0, heldFar := 0
             linkLim := if keep then g.linkLim else some (Config.linkLimit links)
             farLim := if keep then g.farLim else some (Config.farLimit links)
             memLim := if keep then g.memLim else some (memAllow s mem) }

/-- What GOV_WINDOW does: estimates, the cap's division, the duty, and the module checks. In distrust the 1 µs loop is off (R383);
in Rest no duty moves. -/
def govWindow (w : Window) (s : State) : State :=
  let s := capNoted (droopOver (s.modGov fun g => { g with effCap := capInForce s }))
  let e := estimates s w
  let mw := e.map (· / 1000000)
  let comp := (projLevel s w 22).floor.toNat
  let demand := [mw.getD 0 0 + heldLinks s, mw.getD 1 0 + heldMem s, comp]
  let gr := share s.gov.effCap (orderOf (fldN s.gov.ctrl 0 3)) demand
  let s := s.modGov fun g =>
    { g with est := e.sum / 1000000, estD := mw, grants := gr, acc := (g.acc.zip e).map fun p => p.1 + p.2
             fit := min g.fit (fitOf s w (gr.getD 2 0)), weightsNow := g.weights }
  let s := if s.gov.distrust || s.rest.st == .resting || s.rest.st == .waking then s
    else actCompute s w (mw.getD 2 0) (gr.getD 2 0)
  auditRun (setLimits s (gr.getD 0 0) (gr.getD 1 0))

/-! ## GOV_CALIBRATE (R382, R383) -/

/-- A gain after a window: one eighth of the way to the gain that would have matched, truncated toward zero. -/
def newGain (g meas est : Nat) : Nat :=
  if est = 0 then g
  else
    let d : Rat := ((g : Rat) * meas / est - g) / 8
    let t : Int := if d < 0 then -(-d).floor else d.floor
    (min 0x20000 (max 0x8000 ((g : Int) + t))).toNat

/-- The estimator's trust after a window of energies `e` estimated and `m` measured, µJ (R383). -/
def checkTrust (s : State) (e m : Nat) : State :=
  let off := decide (3 * m < 20 * (if e < m then m - e else e - m))
  let s := s.modGov fun g =>
    { g with badRun := if off then g.badRun + 1 else 0, goodRun := if off then 0 else g.goodRun + 1 }
  if !s.gov.distrust && 3 ≤ s.gov.badRun then
    ledger (s.modGov fun g => { g with distrust := true, distrusts := sat32 (g.distrusts + 1), goodRun := 0 }) 1 4 0x0401
      noUnit 1
  else if s.gov.distrust && 64 ≤ s.gov.goodRun then
    ledger (s.modGov fun g => { g with distrust := false, badRun := 0 }) 1 4 0x0401 noUnit 0
  else s

/-- The duty in distrust, once per window (R383). -/
def distrustDuty (s : State) : State :=
  let m := s.gov.mMod
  let c := s.gov.effCap
  if !s.gov.distrust || s.rest.st == .resting || s.rest.st == .waking then s
  else if 92 * c < 100 * m then s.modGov fun g => { g with duty := max 1 (g.duty - 1) }
  else if decide (100 * m < 85 * c) && s.gov.droopHold.isNone then
    s.modGov fun g => { g with duty := min (maxDuty s) (g.duty + 1) }
  else s

/-- GOV_CALIBRATE: estimates against the rail sensors; with a sensor failed the gains are frozen and the governor runs on the
estimate alone (R384). -/
def execGovCalibrate (m : Meas) (s : State) : Res :=
  .next (
    if !s.pins.mainOn then s
    else
      let est := s.gov.acc.map (· / 1000000000)
      let mod := m.links + m.mem + m.comp
      let s := s.modGov fun g =>
        { g with meas := m.module, energy := sat64 (g.energy + m.module), acc := [0, 0, 0], mMod := if g.sensorFault then est.sum else mod
                 memHalf := g.memHalf && decide (1520 ≤ m.gddr7), coolIn := m.coolIn, coolOut := m.coolOut
                 temp := (m.temps.take 8).zipIdx.foldl (fun t e => SMap.set 0 t e.2 e.1) g.temp }
      let s := if s.gov.frozenGains then s
        else (checkTrust s est.sum mod).modGov fun g =>
          { g with gains := [newGain (g.gains.getD 0 0) m.links (est.getD 0 0), newGain (g.gains.getD 1 0) m.mem (est.getD 1 0),
                             newGain (g.gains.getD 2 0) m.comp (est.getD 2 0)] }
      distrustDuty s)

/-! ## Caps (R385, R389) -/

/-- CAP_UNATTAINABLE: 10 ms below 180,000 mW: reported, and Rest is forced (R389). -/
def execCapUnattainable (s : State) : Res :=
  .next (
    match s.gov.lowSince with
    | some t =>
      if decide (t + 10000000 ≤ s.ns) && !s.gov.unattainable then
        let s := s.modGov fun g => { g with unattainable := true, unatt := sat32 (g.unatt + 1) }
        let s := pldm (ledger s 2 4 0x0403 noUnit s.gov.effCap) (.capUnattainable s.gov.effCap)
        { s with rest := { s.rest with forced := true, st := if s.rest.st == .awake then .pending else s.rest.st } }
      else s
    | none => s)

/-- BMC_CAP_SET: in force from the next window (R385). -/
def execBmcCapSet (mw : Nat) (s : State) : Res :=
  .next (if s.pins.phase == .up then s.modGov fun g => { g with bmcCap := BitVec.ofNat 32 mw } else s)

/-! ## Alerts (R395, R396) -/

/-- The alert ceiling, and the move to the alert PLL where the operating point lies above it. -/
def alertDown (s : State) : State :=
  s.modGov fun g =>
    { g with alertCeil := some (7 + alertOp s), alertLift := none, alertDue := g.alertDue || decide (alertOp s < g.op) }

/-- An asserted PALERT_N is recognised (R395). -/
def alertSeen (s : State) : State := alertDown (s.modGov fun g => { g with alert := true, alerts := sat32 (g.alerts + 1) })

/-- PALERT_ASSERT: recognised 100 ns after the assertion. -/
def execPalertAssert (s : State) : Res :=
  .next (
    if s.pins.palert then s
    else
      let s := { s with pins := { s.pins with palert := true } }
      if s.pins.mainOn then alertSeen s else s)

/-- ALERT_CLOCK_SWITCH: at the first slot-frame boundary CCLK moves to the alert PLL; the duty is kept. -/
def execAlertClockSwitch (s : State) : Res :=
  .next (
    if s.gov.alertDue && s.slotN == 0 then
      let op := min s.gov.op (alertOp s)
      let s := s.modGov fun g => { g with alertDue := false }
      if s.rest.st == .resting || s.rest.st == .waking then s else switchOp s op
    else s)

/-- PALERT_DEASSERT: the ceiling is lifted at the first lacing instant at least 1 ms later. -/
def execPalertDeassert (s : State) : Res :=
  .next (
    if !s.pins.palert then s
    else
      let s := { s with pins := { s.pins with palert := false } }
      if s.gov.alert then s.modGov fun g => { g with alert := false, alertLift := some (s.ns + 1000000) } else s)

/-! ## Heat (R397) -/

/-- A band's temperature, 1/16 °C. -/
def noteTemp (s : State) (b : Nat) (t : Int) : State := s.modGov fun g => { g with temp := SMap.set 0 g.temp b t }

/-- Some band is at or above a temperature. -/
def bandsAt (s : State) (t : Int) : Bool := (List.range 8).any fun b => decide (t ≤ SMap.get 0 s.gov.temp b)

/-- BAND_HOT: a band at or above 95 °C: THERMAL; its ceiling is set at each lacing instant. -/
def execBandHot (b : Nat) (temp : Int) (s : State) : Res :=
  .next (
    let s := noteTemp s b temp
    if 1520 ≤ temp then s.modGov fun g => { g with thermal := true } else s)

/-- BAND_THERMAL_DESCENT: a band at or above 105 °C: local descent to the alert level, where the module lies above it. -/
def execBandThermalDescent (b : Nat) (temp : Int) (s : State) : Res :=
  .next (
    let s := noteTemp s b temp
    if decide (1680 ≤ temp) && s.pins.mainOn then
      let above := decide (alertOp s < s.gov.op)
      let s := s.modGov fun g => { g with thermal := true, loc := g.loc || above, alertDue := g.alertDue || above }
      ledger s 1 4 0x0404 b 1
    else s)

/-- GDDR7_HOT: a device at or above 95 °C: the memory limit is halved, until GOV_CALIBRATE finds every device below (R397). -/
def execGddr7Hot (s : State) : Res :=
  .next (s.modGov fun g => { g with memHalf := true, memLim := if g.memHalf then g.memLim else g.memLim.map (· / 2) })

/-! ## Droop (R398) -/

/-- DROOP_DETECT: the stretch begins, or lasts 64 cycles from this detection. -/
def execDroopDetect (_b : Nat) (s : State) : Res :=
  .next (
    let s := if s.clk.stretch = 0 then s.modGov fun g => { g with droops := sat32 (g.droops + 1) } else s
    let s := s.modGov fun g => { g with droopHold := g.droopHold.map fun _ => s.ns }
    { s with clk := { s.clk with stretch := 64 } })

/-- DROOP_STRETCH_END: the normal period returns; with a detector still firing the duty falls to 1/8 and ten offers lie one
level lower. -/
def execDroopStretchEnd (b : Nat) (firing : Bool) (s : State) : Res :=
  .next (
    if s.clk.stretch != 1 then s
    else
      let s := { s with clk := { s.clk with stretch := 0 } }
      if firing then
        let s := s.modGov fun g =>
          { g with duty := 1, droopDuty := if g.droopHold.isSome then g.droopDuty else g.duty, droopHold := some s.ns, droopLong := sat32 (g.droopLong + 1), droopRounds := 10 }
        ledger s 1 4 0x0405 b b
      else s)

/-! ## Sensors, phases, trim (R380, R384, R442) -/

/-- RAIL_SENSOR_FAULT: gains frozen; in distrust the module descends as for PALERT_N. -/
def execRailSensorFault (rail : Nat) (s : State) : Res :=
  .next (
    let s := s.modGov fun g => { g with frozenGains := true, sensorFault := true }
    let s := pldm (ledger s 2 4 0x0402 noUnit rail) (.sensorFault rail)
    if s.gov.distrust then (alertDown s).modGov fun g => { g with sensorCeil := true } else s)

/-- SENSOR_RECOVERY: the gains move again, and the ceiling a sensor fault set is lifted where no alert holds it. -/
def execSensorRecovery (s : State) : Res :=
  .next (
    if !s.gov.sensorFault then s
    else s.modGov fun g =>
      { g with frozenGains := false, sensorFault := false, sensorCeil := false
               alertCeil := if g.alert || g.alertLift.isSome then g.alertCeil else none })

/-- Phases of a rail that has one phase more than it needs, 0 for any other, by the model's number of the rail (R459; log 81): 0 VIB,
1 VPKG, 2 to 9 VBAND, 10 VLINK, 11 VSER_L, 12 VSER_H, 13 and 14 VDD_G, 15 and 16 VDDQ_G, 17 and 18 VPP_G of the compute dies. -/
def railPhases (rail : Nat) : Nat :=
  if rail = 0 then 7 else if rail = 1 then 5 else if rail < 10 then 17 else if rail = 10 then 4 else if rail < 13 then 3
  else if rail < 17 then 5 else if rail < 19 then 2 else 0

/-- REGULATOR_PHASE_FAIL: the first failure of a rail is carried by its other phases; a second, of another phase, withdraws every
operating point above `maxOp`, the highest that the rail still supplies (R442). -/
def execRegulatorPhaseFail (rail phase maxOp : Nat) (s : State) : Res :=
  .next (
    if railPhases rail ≤ phase || s.gov.phaseLost.contains (rail, phase) || !s.pins.mainOn then s
    else
      let second := s.gov.phaseLost.any fun e => e.1 == rail
      let s := ledger s 1 4 0x0407 noUnit (rail + phase * 2 ^ 32)
      let s := s.modGov fun g => { g with phaseLost := g.phaseLost ++ [(rail, phase)] }
      if second then pldm (withdrawOp s (maxOp + 1)) (.phaseFailed rail) else s)

/-- TRIM_UPDATE, once per second: each band's margin moves by at most one step of 5 mV toward what its monitors call for, `need` in
mV. -/
def execTrimUpdate (need : List Nat) (s : State) : Res :=
  .next (
    let want := fun b => roundUp (need.getD b 0) 5
    let move := fun (m n : Nat) => if m < n then m + 5 else if n < m then m - 5 else m
    let s := s.modGov fun g =>
      { g with need := (List.range 8).foldl (fun m b => SMap.set 0 m b (want b)) []
               margin := (List.range 8).foldl (fun m b => SMap.upd 0 m b fun v => move v (want b)) g.margin }
    checkTrims (if s.rest.st == .awake || s.rest.st == .pending then setTrims s else s) want)

end Sys2Proof.Machine
end

