-- ==== Sys2Proof/Machine/Lacing.lean ====
section
/-! DEFINITION. Lacing rounds and the switch, the time counter's disciplines: node reference and PTP (R390 to R394, R403 to
R406). -/

namespace Sys2Proof.Machine

/-! ## Lacing (R390 to R394) -/

/-- This module is the root of its lacing tree; without a job it laces with itself. -/
def laceRoot (s : State) : Bool := !s.bound || s.cm.parent == 0x1F

/-- Child ports of the lacing tree. -/
def laceKids (s : State) : List Nat := if s.bound then children s else []

/-- L_k of the round in progress, ns. -/
def laceAt (s : State) : Nat := s.lace.k * 100000

/-- The offer before droop's reduction (R383, R388, R389, R394). -/
def offerBase (s : State) : Nat :=
  if s.rest.st == .resting || s.rest.st == .waking then 22
  else if s.gov.effCap < 180000 then 0
  else if s.gov.distrust then min (levelCeil s) (if 92 * s.gov.effCap < 100 * s.gov.mMod then curLevel s - 1 else curLevel s)
  else min (levelCeil s) s.gov.fit

/-- The module's offer (R388, R398). -/
def offerOf (s : State) : Nat :=
  if s.gov.droopRounds = 0 || s.rest.st == .resting || s.rest.st == .waking then offerBase s
  else min (offerBase s) (curLevel s - 1)

/-- OPND0 of OFFER and SET. -/
def laceOp (level : Nat) (missing : Bool) (count : Nat) : Nat := level + bitAt missing 5 + count % 65536 * 2 ^ 32

/-- A lacing message on port `p`. -/
def laceSend (s : State) (opc p op0 : Nat) : State := sendDirect s p (mkMsg s opc 0 0 0 (s.lace.k % 2 ^ 32) op0 0 [])

/-- The level agreed in this round, forwarded to the children. -/
def laceSet (s : State) (level : Nat) (op0 : Nat) : State :=
  let s := { s with lace := { s.lace with level := some level } }
  (laceKids s).foldl (fun s p => laceSend s 0x24 p op0) s

/-- The subtree's offer goes up, or at the root SET goes down (R392). -/
def laceUp (s : State) : State :=
  let os := s.lace.offers
  let level := os.foldl (fun m o => min m o.2.1) s.lace.own
  let missing := os.any (·.2.2.1) || (laceKids s).any fun p => !os.any fun o => o.1 == p
  let count := 1 + (os.map (·.2.2.2)).sum
  let s := { s with lace := { s.lace with sent := true } }
  if laceRoot s then
    let l := min level (s.lace.lastSet + 4)
    laceSet { s with lace := { s.lace with lastSet := l } } l (laceOp l missing count)
  else laceSend s 0x23 s.cm.parent (laceOp level missing count)

/-- An offer is held from every child. -/
def offersIn (s : State) : Bool := (laceKids s).all fun p => s.lace.offers.any fun o => o.1 == p

def laceTry (s : State) : State := if !s.lace.sent && offersIn s then laceUp s else s

/-- Ceilings at a lacing instant: an alert ceiling lifted 1 ms after deassertion, the thermal ceiling lowered while a band is
hot and raised by one level once all are below 90 °C (R396, R397). -/
def laceCeilings (s : State) : State :=
  let lift := match s.gov.alertLift with
    | some t => decide (t ≤ s.ns)
    | none => false
  let cold := !bandsAt s 1440
  s.modGov fun g =>
    let up := match g.thermalCeil with
      | some c => if 22 ≤ c + 1 then none else some (c + 1)
      | none => none
    { g with alertCeil := if lift && !g.sensorCeil then none else g.alertCeil, alertLift := if lift then none else g.alertLift
             thermalCeil := if bandsAt s 1520 then some (curLevel s - 1) else if cold then up else g.thermalCeil
             thermal := bandsAt s 1520 || (g.thermal && !(cold && up.isNone)) }

/-- LACING_INSTANT: the level agreed in the round before falls due, and a new round begins with this module's offer. -/
def execLacingInstant (s : State) : Res :=
  .next (
    if s.ns / 100000 ≤ s.lace.k then s
    else
      let s := laceCeilings s
      let l := s.lace
      let s := { s with lace := { l with k := s.ns / 100000, offers := [], own := offerOf s, sent := false, timeSent := false, level := none
                                         missed := false, due := if l.level.isSome then l.level else l.due } }
      laceTry (s.modGov fun g => { g with fit := 22, droopRounds := g.droopRounds - 1 }))

/-- Arrival and round of a lacing message (R391). -/
def laceMsg (s : State) (p opc : Nat) (m : Msg) : Option State :=
  match takeMsg s p opc m with
  | some s => if mArg m == s.lace.k % 2 ^ 32 then some s else none
  | none => none

/-- OFFER of a child's subtree. -/
def execOffer (p : Nat) (m : Msg) (s : State) : Res :=
  .next (
    match laceMsg s p 0x23 m with
    | none => (takeMsg s p 0x23 m).getD s
    | some s =>
      if !(laceKids s).contains p || s.lace.offers.any (fun o => o.1 == p) then s
      else
        let o := (p, fldN m.hdr 192 5, bitB m.hdr 197, fldN m.hdr 224 16)
        laceTry { s with lace := { s.lace with offers := s.lace.offers ++ [o] } })

/-- The round gives this member no level in time (R392). -/
def laceMissed (s : State) : State :=
  { s with lace := { s.lace with missed := true } }.modGov fun g => { g with laceMiss := sat32 (g.laceMiss + 1) }

/-- SET: taken up to L_k + 80 µs and forwarded. -/
def execSet (p : Nat) (m : Msg) (s : State) : Res :=
  .next (
    match laceMsg s p 0x24 m with
    | none => (takeMsg s p 0x24 m).getD s
    | some s =>
      if laceRoot s || p != s.cm.parent || s.lace.level.isSome || s.lace.missed then s
      else if laceAt s + 80000 < s.ns then laceMissed s
      else laceSet s (fldN m.hdr 192 5) (mOp0 m))

/-- OFFER_TIMEOUT: at L_k + 45 µs silent children count as MISSING. -/
def execOfferTimeout (s : State) : Res :=
  .next (if !laceRoot s && !s.lace.sent && decide (laceAt s + 45000 ≤ s.ns) then laceUp s else s)

/-- SET_TIMEOUT: at L_k + 50 µs the root sends SET with the offers it holds. -/
def execSetTimeout (s : State) : Res :=
  .next (if laceRoot s && !s.lace.sent && decide (laceAt s + 50000 ≤ s.ns) then laceUp s else s)

/-- SET_MISS: no SET by L_k + 80 µs: the level stays. -/
def execSetMiss (s : State) : Res :=
  .next (
    if !laceRoot s && s.lace.level.isNone && !s.lace.missed && decide (laceAt s + 80000 ≤ s.ns) then laceMissed s else s)

/-- The clock begins a level: slot index 0 after a change of operating point (R393). -/
def startLevel (s : State) (was l : Nat) : State :=
  let change := levelOp l != s.gov.op
  let s := setLevel s was l
  if change || s.clk.gap then { s with clk := { s.clk with slot := 0, duty := 0, gap := false } } else s

/-- LEVEL_SWITCH: the agreed level, clamped to the alert and thermal ceilings; a change of operating point at a slot-frame
boundary or out of the gap before it, a change of duty at a boundary of the duty pattern. In Rest the level is only noted. -/
def execLevelSwitch (s : State) : Res :=
  .next (
    match s.lace.due with
    | none => s
    | some l =>
      let t := min l (hardCeil s)
      let was := agreedLevel s
      let noted := { s with lace := { s.lace with due := none } }.modGov fun g => { g with set := l }
      if !s.pins.mainOn then s
      else if s.rest.st == .resting || s.rest.st == .waking then noted
      else if levelOp t = s.gov.op then (if s.clk.duty == 0 || s.clk.gap then startLevel noted was t else s)
      else if s.clk.gap || s.slotN == 0 then startLevel noted was t
      else s)

/-! ## Steering the counter (R403) -/

/-- An offset of `d` units of 2⁻³² ns still to be added: stepped forward where no job is bound, else removed by rate. How far
the rate moves is left open up to 500 ppm, or 5,000 ppm below nominal with no job bound (log 63). -/
def steer (s : State) (d : Int) : State :=
  if !s.bound && 0 ≤ d then
    { s with tm := { s.tm with now := s.tm.now + BitVec.ofInt 96 d, residual := 0, incr := BitVec.ofNat 40 nominalIncr } }
  else
    let (r, s) := s.draw
    let lim := if s.bound then nominalIncr / 2000 else nominalIncr / 200
    let k := r.toNat % lim + 1
    let i := if d = 0 then nominalIncr else if d < 0 then nominalIncr - k else nominalIncr + k
    { s with tm := { s.tm with residual := d, incr := BitVec.ofNat 40 i } }

/-- Picoseconds of a number of 2⁻³² ns. -/
def toPs (d : Int) : Int := d * 1000 / 2 ^ 32

/-! ## The node reference (R406) -/

/-- This module's node-local index. -/
def nodeIdx (s : State) : Nat := s.self % 8

/-- NODE ports. -/
def nodePorts (s : State) : List Nat := s.rolePorts.filter fun p => (s.portCfg p).role == 1

/-- Members of the node that say LOCKED: port (none for this module) and index. -/
def lockedMembers (s : State) : List (Option Nat × Nat) :=
  (if s.tm.st == .locked then [(none, nodeIdx s)] else []) ++
  ((nodePorts s).filter fun p => (s.port p).peerLocked).map fun p => (some p, (s.port p).peerIdx)

/-- The reference: the lowest index among them. -/
def nodeRefOf (s : State) : Option (Option Nat × Nat) :=
  (lockedMembers s).foldl (fun b m => match b with
    | some c => if m.2 < c.2 then some m else b
    | none => some m) none

/-- The exchange with the smallest delay. -/
def bestExch (x : Port) : Option (Int × Int) :=
  x.exch.foldl (fun b e => match b with
    | some c => if e.1 < c.1 then some e else b
    | none => some e) none

/-- A member steers by its reference: NODE, or HOLDOVER where PTP differs by more than 100 ns; a port to the reference that
is not UP leaves it to PTP alone. -/
def followNode (s : State) : State :=
  match nodeRefOf s with
  | none => { s with tm := { s.tm with nodeRef := false, fallback := false } }
  | some (none, i) => { s with tm := { s.tm with nodeRef := true, fallback := false, refIdx := BitVec.ofNat 3 i } }
  | some (some p, i) =>
    let s := { s with tm := { s.tm with nodeRef := false, refIdx := BitVec.ofNat 3 i } }
    if !portUp s p then
      { s with tm := { s.tm with fallback := true, st := if s.tm.st == .node then .acquiring else s.tm.st } }
    else match bestExch (s.port p) with
      | none => s
      | some (_, th) =>
        let ps := th * 1000 / 2 ^ 16
        let apart := decide (100000 < (ps + s.tm.offsetPs).natAbs)
        let s := { s with tm := { s.tm with nodePs := ps, fallback := false, st := if apart then .holdover else .node } }
        steer s (th * 2 ^ 16)

/-- The receive timestamp of the frame with FSN `rx` that carried a TIME. -/
def stampOf (x : Port) (rx : BitVec 16) : Option DWord := (x.stamps.find? fun t => t.1 == rx).map fun t => t.2

/-- TIME that came in the frame with FSN `rx`: an exchange with a peer of the node. OPND0 is the transmit timestamp t3 of its
previous TIME, OPND1 its receive timestamp t2 of this module's TIME of the round before, since both send their own at once; where
this module has sent none in this round yet, its latest is that one (log 63). -/
def execTime (p : Nat) (m : Msg) (rx : BitVec 16) (s : State) : Res :=
  .next (
    match takeMsg s p 0x25 m, stampOf (s.port p) rx with
    | some s, some at_ =>
      if !(nodePorts s).contains p then s
      else
        let x := s.port p
        let t1 := if x.timeTxK = s.lace.k then x.timeTx1 else x.timeTx
        let t2 : DWord := BitVec.ofNat 64 (mOp1 m)
        let t3 : DWord := BitVec.ofNat 64 (mOp0 m)
        let t4 := x.timeRx
        let full := t1 != 0 && t2 != 0 && t3 != 0 && t4 != 0
        let th := ((t2 - t1).toInt + (t3 - t4).toInt) / 2
        let de := (t4 - t1).toInt - (t3 - t2).toInt
        let s := s.modPort p fun x =>
          { x with timeRx := at_, stamps := x.stamps.erase (rx, at_), peerLocked := bitB m.hdr 163, peerIdx := fldN m.hdr 160 3
                   exch := if full then ((de, th) :: x.exch).take 8 else x.exch }
        followNode s
    | _, _ => s)

/-- TIME_SEND: at L_k + 50 µs one TIME on each NODE port that is UP, once in a round. -/
def execTimeSend (s : State) : Res :=
  .next (
    if !s.bound || s.lace.timeSent || decide (s.ns < laceAt s + 50000) then s
    else
      let s := followNode { s with lace := { s.lace with timeSent := true } }
      let arg := nodeIdx s + bitAt (s.tm.st == .locked) 3
      ((nodePorts s).filter (portUp s)).foldl (fun s p =>
        sendDirect s p (mkMsg s 0x25 0 0 0 arg (s.port p).timeTx.toNat (s.port p).timeRx.toNat [])) s)

/-! ## PTP (R404, R405) -/

/-- PTP is enabled, and the message is of its domain and came by the transport PTP_CFG selects. -/
def ptpTakes (s : State) (domain transport : Nat) : Bool :=
  s.pins.mainOn && bitB s.tm.cfg 0 && fldN s.tm.cfg 3 7 == domain && fldN s.tm.cfg 1 2 == transport

/-- What the default best time transmitter algorithm compares, the first that differs deciding and the lower value winning. PRESUMED
(log 63): the order of IEEE 1588-2019; the spec names the algorithm alone. -/
def annKey (a : PtpAnn) : List Nat :=
  [a.priority1, a.clockClass, a.accuracy, a.variance, a.priority2, a.grandmaster.toNat, a.steps, a.src.toNat]

/-- The first key is lower. -/
def keyLess : List Nat → List Nat → Bool
  | a :: as, b :: bs => a < b || (a == b && keyLess as bs)
  | _, _ => false

/-- The best of the time transmitters heard. -/
def bestAnn (l : List PtpAnn) : Option PtpAnn :=
  l.foldl (fun b a => match b with
    | some c => if keyLess (annKey a) (annKey c) then some a else b
    | none => some a) none

/-- The message is one of the chosen time transmitter. -/
def ptpFrom (s : State) (m : PtpMsg) : Bool :=
  ptpTakes s m.domain m.transport && ((bestAnn s.tm.announced).map fun a => a.src) == some m.src

/-- Another time transmitter is chosen, or none: what came from the one before is given up. -/
def chooseAnn (s : State) (l : List PtpAnn) : State :=
  let same := ((bestAnn l).map fun a => a.src) == (bestAnn s.tm.announced).map fun a => a.src
  { s with tm := if same then { s.tm with announced := l }
                 else { s.tm with announced := l, sync := none, waitFollow := false, delayReq := none } }

/-- Announce and Sync received: ACQUIRING (R405). -/
def acquire (s : State) : State :=
  if !s.tm.announced.isEmpty && s.tm.sync.isSome && (s.tm.st == .free || s.tm.st == .holdover) then
    { s with tm := { s.tm with st := .acquiring, good := 0 } }
  else s

/-- PTP_SYNC: the arrival, and with one-step Sync the departure too. -/
def execPtpSync (m : PtpMsg) (s : State) : Res :=
  .next (
    if !ptpFrom s m then s
    else acquire { s with tm := { s.tm with
      sync := some (m.seq, if m.twoStep then m.correction else m.origin + m.correction, m.arrival), waitFollow := m.twoStep } })

/-- PTP_FOLLOW_UP: the departure of a two-step Sync of the same sequence number. -/
def execPtpFollowUp (m : PtpMsg) (s : State) : Res :=
  .next (
    match s.tm.sync with
    | some (n, c, t2) =>
      if ptpFrom s m && s.tm.waitFollow && n == m.seq then
        { s with tm := { s.tm with sync := some (n, c + m.origin + m.correction, t2), waitFollow := false } }
      else s
    | none => s)

/-- PTP_DELAY_REQ: a Delay_Req leaves at `sent`. -/
def execPtpDelayReq (seq : Nat) (sent : Int) (s : State) : Res :=
  .next (
    if s.pins.mainOn && bitB s.tm.cfg 0 then { s with tm := { s.tm with delayReq := some (seq, sent) } } else s)

/-- Offset of the counter from its time transmitter, with the port's asymmetry taken off. -/
def ptpOffset (s : State) (t1 t2 t3 t4 : Int) : Int := ((t2 - t1) - (t4 - t3)) / 2 - s.tm.asym.toInt * 2 ^ 32 / 1000

/-- An offset noted: 16 in a row below 100 ns lock; the counter is steered unless a node's reference disciplines it. -/
def noteOffset (s : State) (d : Int) : State :=
  let small := decide (d.natAbs < 100 * 2 ^ 32)
  let good := if small then s.tm.good + 1 else 0
  let lock := (s.tm.st == .acquiring || s.tm.st == .holdover) && decide (16 ≤ good)
  let s := { s with tm := { s.tm with offsetPs := toPs d, good := good, st := if lock then .locked else s.tm.st } }
  if s.tm.st == .node then
    (if 100000 < (s.tm.nodePs + s.tm.offsetPs).natAbs then { s with tm := { s.tm with st := .holdover } } else s)
  else steer s (-d)

/-- PTP_DELAY_RESP: the exchange is complete. -/
def execPtpDelayResp (m : PtpMsg) (s : State) : Res :=
  .next (
    match s.tm.delayReq, s.tm.sync with
    | some (n, t3), some (_, t1, t2) =>
      if ptpFrom s m && n == m.seq && !s.tm.waitFollow then
        noteOffset { s with tm := { s.tm with delayReq := none } } (ptpOffset s t1 t2 t3 (m.origin - m.correction))
      else s
    | _, _ => s)

/-- PTP_ANNOUNCE: the time transmitter is chosen among those heard. -/
def execPtpAnnounce (a : PtpAnn) (s : State) : Res :=
  .next (
    if ptpTakes s a.domain a.transport then
      acquire (chooseAnn s ((s.tm.announced.filter fun o => o.src != a.src) ++ [a]))
    else s)

/-- ANNOUNCE_TIMEOUT: the chosen time transmitter announces no more; in LOCKED the counter goes on at its last rate (R405). -/
def execAnnounceTimeout (s : State) : Res :=
  .next (
    let best := (bestAnn s.tm.announced).map fun a => a.src
    let s := chooseAnn s (s.tm.announced.filter fun o => some o.src != best)
    let t := { s.tm with sync := none, waitFollow := false, delayReq := none }
    { s with tm := if t.st == .locked then { t with st := .holdover, good := 0, residual := 0 } else t })

end Sys2Proof.Machine
end

