-- ==== Sys2Proof/Machine/Queues.lean ====
section
/-! DEFINITION. Queue registers and doorbells, reads with an effect, and host or BMC register writes (R7 to R12, R335 to R354,
R408). -/

namespace Sys2Proof.Machine

/-! ## Enabling and disabling (R340, R341) -/

/-- Bytes of a queue of `n` bytes fit at a BASE register's place: aligned to its size rounded up to 4 KiB, and within the
exchange area where LOC is 1. -/
def baseOk (base : DWord) (n : Nat) : Bool :=
  let a := base.toNat / 4096 * 4096
  a % roundUp n 4096 == 0 && (!bitB base 0 || decide (a + n ≤ 0x10000000))

/-- SIZE of a queue. -/
def qSize (cfg : Word) : Nat := fldN cfg 0 13
def sizeOk (cfg : Word) : Bool := decide (4 ≤ qSize cfg) && decide (qSize cfg ≤ 4096)

/-- CQ that a submission queue names. -/
def cqOf (x : Sq) : Nat := fldN x.cfg 16 4

/-- SQ_ENABLE: HEAD, pass and count 0, EPOCH incremented; a failed enable, a reserved field written as 1 among its causes, sets
CFG_ERR (R341). -/
def enableSq (s : State) (q : Nat) : State :=
  let x := s.sq q
  if x.en then s
  else if !x.resvBase && !x.resvCfg && sizeOk x.cfg && baseOk x.base (256 * qSize x.cfg) && (s.cq (cqOf x)).en then
    s.modSq q fun x =>
      { x with en := true, head := 0, passN := 0, tail := 0, taken := 0, epoch := (x.epoch + 1) % 256, stopped := false
               fails := 0, cfgErr := false }
  else raiseInt (s.modSq q fun x => { x with cfgErr := true }) 3

def execSqEnable (q : Nat) (s : State) : Res := .next (enableSq s q)

/-- The slot reserved for an entry whose reads have failed so far is free again. -/
def dropReserve (s : State) (q : Nat) : State :=
  if (s.sq q).fails = 0 then s
  else (s.modSq q fun x => { x with fails := 0 }).modCq (cqOf (s.sq q)) fun c => { c with reserved := c.reserved - 1 }

/-- SQ_DISABLE: no further entry is taken; a taken command runs on. -/
def disableSq (s : State) (q : Nat) : State :=
  if (s.sq q).en then (dropReserve s q).modSq q fun x => { x with en := false } else s

def execSqDisable (q : Nat) (s : State) : Res := .next (disableSq s q)

/-- CQ_ENABLE: TAIL 0, PHASE 1; slots stay reserved for commands still to complete there. -/
def enableCq (s : State) (q : Nat) : State :=
  let c := s.cq q
  let v := fldN c.cfg 16 6
  let busy := (s.host.sqs.filter fun e => match e.2.cur with
    | some k => k.cq == q
    | none => false).length
  if c.en then s
  else if !c.resvBase && !c.resvCfg && sizeOk c.cfg && baseOk c.base (32 * qSize c.cfg) && decide (1 ≤ v) then
    s.modCq q fun c => { c with en := true, tail := 0, phase := true, head := 0, used := 0, reserved := busy, cfgErr := false }
  else raiseInt (s.modCq q fun c => { c with cfgErr := true }) 3

def execCqEnable (q : Nat) (s : State) : Res := .next (enableCq s q)

/-- CQ_DISABLE: refused while an enabled SQ names the queue. -/
def disableCq (s : State) (q : Nat) : State :=
  if !(s.cq q).en then s
  else if (List.range 16).any fun i => (s.sq i).en && cqOf (s.sq i) == q then
    raiseInt (s.modCq q fun c => { c with cfgErr := true }) 3
  else s.modCq q fun c => { c with en := false }

def execCqDisable (q : Nat) (s : State) : Res := .next (disableCq s q)

/-- SQ_RESUME: STOPPED cleared; the entry at HEAD is read afresh (R346). -/
def resumeSq (s : State) (q : Nat) : State := s.modSq q fun x => { x with stopped := false }

def execSqResume (q : Nat) (s : State) : Res := .next (resumeSq s q)

/-! ## Doorbells (R342) -/

/-- A doorbell to a disabled queue, or of SIZE or more: ignored, DB_ERR. -/
def badBell (s : State) : State := raiseInt s 1

/-- SQ_TAIL. -/
def ringTail (s : State) (q : Nat) (v : Word) : State :=
  let x := s.sq q
  let pos := fldN v 0 12
  if !x.en || decide (qSize x.cfg ≤ pos) then badBell s else s.modSq q fun x => { x with tail := pos }

def execSqTail (q : Nat) (v : Word) (s : State) : Res := .next (ringTail s q v)

/-- CQ_HEAD: the slots from the previous head up to the position are free. -/
def ringHead (s : State) (q : Nat) (v : Word) : State :=
  let c := s.cq q
  let pos := fldN v 0 12
  let size := qSize c.cfg
  if !c.en || decide (size ≤ pos) then badBell s
  else
    let n := (pos + size - c.head) % size
    s.modCq q fun c => { c with head := pos, used := c.used - n }

def execCqHead (q : Nat) (v : Word) (s : State) : Res := .next (ringHead s q v)

/-! ## The window table (R352, R353, R260) -/

/-- The host has told that entries of the table at HWT_BASE stand as given (R351; log 7). -/
def hostTell (s : State) (ents : SMap DWord) : State :=
  s.modHost fun h => { h with hostMem := ents.foldl (fun m e => SMap.set none m (h.hwtBase.toNat / 8 + e.1) (some e.2)) h.hostMem }

/-- HWT_INVAL: cached entries of the range dropped; transfers that faulted in the range are retried. -/
def hwtInvalidate (s : State) (v : DWord) : State :=
  if !bitB v 0 then s
  else
    let first := fldN v 21 19
    let last := first + fldN v 1 20
    let s := s.modHost fun h => { h with hwtCache := h.hwtCache.filter fun e => decide (e.1 < first) || decide (last < e.1) }
    let hit := fun (f : FaultRec) =>
      f.code == fHwin && decide (first ≤ faultWoff f / 0x200000) && decide (faultWoff f / 0x200000 ≤ last)
    (s.mem.faults.filter hit).foldl (fun s f => match faultOf s f.n with
      | some f => retryFault s f
      | none => s) s

/-- HWT_INVAL: the host, which has changed the entries given, invalidates a range of them. -/
def execHwtInval (v : DWord) (ents : SMap DWord) (s : State) : Res := .next (hwtInvalidate (hostTell s ents) v)

/-! ## Other reads and writes with an effect -/

/-- LLR written with 1: cleared, unless it was set in this very cycle (R8). -/
def clearLlr (s : State) : State := s.modHost fun h => { h with llr := h.llr && h.llrNow }

/-- LLR_CLEAR (R354, R358). -/
def execLlrClear (s : State) : Res := .next (clearLlr s)

/-- TIME_NOW_READ: the fraction is latched (R408). -/
def execTimeNowRead (s : State) : Res := .next (latchFrac s)

/-- H2D_SNOOP: no host line is held (R335). -/
def execH2dSnoop (addr : DWord) (s : State) : Res := .next (s.modHost fun h => { h with out := h.out ++ [.snoopMiss addr] })

/-- The offset in the exchange area of a host physical address that the HDM decoder maps there (R336; log 51). -/
def xareaOff (s : State) (addr : Nat) : Option Nat :=
  let base := s.host.hdm.toNat / 0x10000000 * 0x10000000
  if base ≤ addr && decide (addr - base < 0x10000000) then some (addr - base) else none

/-- EXCHANGE_AREA_ACCESS: a line of the exchange area, near-tier memory at the top of C0's reserve (R336); an address that the
decoder does not map there is not the device's. -/
def execExchangeAreaAccess (wr : Bool) (addr : Nat) (line : Beat) (s : State) : Res :=
  .next (
    match xareaOff s addr with
    | none => s
    | some off =>
      if wr then dramWrite s (xareaBase + off / 64 * 64) line
      else
        let (d, _, s) := dramRead s (xareaBase + off / 64 * 64)
        s.modHost fun h => { h with out := h.out ++ [.xarea off d] })

/-! ## Register writes (R7 to R12) -/

/-- A field of a stored word replaced where the value is one the field takes (R11). -/
def putField (old v : Word) (lo len : Nat) (ok : Nat → Bool) : Word :=
  if ok (fldN v lo len) then setFld old lo len (fldN v lo len) else old

/-- A value within a limit register's range, else the old one (R267). -/
def inRange (old v : Word) (lo hi : Nat) : Word := if lo ≤ v.toNat ∧ v.toNat ≤ hi then v else old

/-- A half of a 64-bit register. -/
def putHalf (old : DWord) (hi : Bool) (v : Word) : DWord := setFld old (if hi then 32 else 0) 32 v.toNat

/-- Registers of a submission queue at offset `r`. -/
def writeSq (s : State) (q r : Nat) (v : Word) : State :=
  let x := s.sq q
  match r with
  | 0x00 =>
    if x.en then s
    else s.modSq q fun x => { x with base := putHalf x.base false (v &&& 0xFFFFF001), resvBase := v &&& 0xFFE != 0 }
  | 0x04 => if x.en then s else s.modSq q fun x => { x with base := putHalf x.base true v }
  | 0x08 => if x.en then s else s.modSq q fun x => { x with cfg := v &&& 0x000F1FFF, resvCfg := v &&& 0xFFF00000 != 0 }
  | 0x0C =>
    let s := if bitB v 1 then resumeSq s q else s
    if bitB v 0 then enableSq s q else disableSq s q
  | _ => s

/-- Registers of a completion queue. -/
def writeCq (s : State) (q r : Nat) (v : Word) : State :=
  let c := s.cq q
  match r with
  | 0x00 =>
    if c.en then s
    else s.modCq q fun c => { c with base := putHalf c.base false (v &&& 0xFFFFF001), resvBase := v &&& 0xFFE != 0 }
  | 0x04 => if c.en then s else s.modCq q fun c => { c with base := putHalf c.base true v }
  | 0x08 => if c.en then s else s.modCq q fun c => { c with cfg := v &&& 0x013F1FFF, resvCfg := v &&& 0xFE000000 != 0 }
  | 0x0C => if bitB v 0 then enableCq s q else disableCq s q
  | _ => s

/-- The governor block (R385, R386, R407). -/
def writeGov (s : State) (r : Nat) (v : Word) : State :=
  if r = 4 then
    s.modGov fun g => { g with ctrl := putField (putField (putField g.ctrl v 0 3 fun c => decide (c ≤ 5)) v 3 4 fun _ => true) v 7 4 fun _ => true }
  else if r = 8 then s.modGov fun g => { g with cap := inRange g.cap v 1 2000000 }
  else if 0x80 ≤ r ∧ r < 0x80 + 72 then
    let i := (r - 0x80) / 4
    s.modGov fun g => { g with weights := SMap.set 0 g.weights i (v ^^^ BitVec.ofNat 32 (weightReset i)) }
  else s

/-- The time block (R405, R408): PTP disabled is FREE. -/
def writeTime (s : State) (r : Nat) (v : Word) : State :=
  match r with
  | 0x20 =>
    let c := putField (putField (putField s.tm.cfg v 0 1 fun _ => true) v 1 2 fun t => decide (t < 2)) v 3 7 fun _ => true
    let t := { s.tm with cfg := c }
    { s with tm := if bitB c 0 then t else { t with st := .free, announced := [], sync := none, waitFollow := false
                                                    delayReq := none, good := 0 } }
  | 0x24 => { s with tm := { s.tm with asym := v } }
  | 0x28 => { s with tm := { s.tm with ipv4 := v } }
  | _ => s

/-- A word of BAR0 (R338). The decoder's base register stands for the CXL component registers (log 51). -/
def writeBar0 (s : State) (o : Nat) (v : Word) : State :=
  if 0x1000 ≤ o ∧ o < 0x2000 then
    (if o % 0x100 = 0 then ringTail s (o / 0x100 - 16) v else if o % 0x100 = 0x80 then ringHead s (o / 0x100 - 16) v else s)
  else if 0x10000 ≤ o ∧ o < 0x10400 then writeSq s ((o - 0x10000) / 64) (o % 64) v
  else if 0x10400 ≤ o ∧ o < 0x10800 then writeCq s ((o - 0x10400) / 64) (o % 64) v
  else if o = 0x10800 then (if s.host.hwtEn then s else s.modHost fun h => { h with hwtBase := putHalf h.hwtBase false v })
  else if o = 0x10804 then (if s.host.hwtEn then s else s.modHost fun h => { h with hwtBase := putHalf h.hwtBase true v })
  else if o = 0x10808 then s.modHost fun h => { h with hwtEn := bitB v 0 }
  else if o = 0x10810 then hwtInvalidate s (s.host.hwtInval ++ v)
  else if o = 0x10814 then s.modHost fun h => { h with hwtInval := v }
  else if o = 0x20000 then (if bitB v 1 then clearLlr s else s)
  else if o = 0x20004 then s.modHost fun h => { h with intStatus := h.intStatus &&& ~~~(v.setWidth 5 &&& ~~~h.intNow) }
  else if o = 0x20008 then s.modHost fun h => { h with intEnable := v &&& 0x1F }
  else if 0x30000 ≤ o ∧ o < 0x31000 then writeTime s (o - 0x30000) v
  else if 0x40000 ≤ o ∧ o < 0x41000 then writeGov s (o - 0x40000) v
  else if o = 0x200010 then s.modHost fun h => { h with hdm := putHalf h.hdm false v }
  else if o = 0x200014 then s.modHost fun h => { h with hdm := putHalf h.hdm true v }
  else s

/-- A word of the MSI-X table (R337): a vector unmasked with its pending bit set is sent. -/
def writeBar2 (s : State) (o : Nat) (v : Word) : State :=
  if 0x400 ≤ o then s
  else
    let reset : Word := if o % 16 = 12 then 1 else 0
    let v := if o % 16 = 12 then v &&& 1 else if o % 16 = 0 then v &&& 0xFFFFFFFC else v
    let s := s.modHost fun h => { h with msix := SMap.set 0 h.msix o (v ^^^ reset) }
    let n := o / 16
    let a := 0x8000 + n / 32 * 4
    if o % 16 = 12 && !bitB v 0 && bitB (SMap.get 0 s.host.msix a) (n % 32) then
      msixSend (s.modHost fun h => { h with msix := SMap.upd 0 h.msix a fun w => w &&& ~~~(BitVec.ofNat 32 (2 ^ (n % 32))) }) n
    else s

/-- PC_CTRL as written: reserved sampling exponents keep the old one; a reference job keeps ENABLE and K (R118, R121). -/
def putPcCtrl (s : State) (v : Word) : Word :=
  let c := s.pc.ctrl
  let c := putField c v 6 3 fun _ => true
  if bitB c 9 then c else putField (putField c v 0 1 fun _ => true) v 1 5 fun k => decide (k ≤ 16)

/-- A word of the register aperture, by its offset from 0x0310_0000_0000. -/
def writeAp (s : State) (o : Nat) (v : Word) : State :=
  if o = 0x4000000 then s.modPc fun p => { p with ctrl := putPcCtrl s v }
  else if o = 0x4000008 then s.modPc fun p => { p with thA := v }
  else if o = 0x400000C then s.modPc fun p => { p with thB := v }
  else if o = 0x4000010 then s.modPc fun p => { p with thC := v &&& 0xFFFF }
  else if o = 0x4000014 then s.modPc fun p => { p with grad := putField p.grad v 0 6 fun e => decide (1 ≤ e) && decide (e ≤ 30) }
  else if o = 0x410002C then s.modStg fun g => { g with deadlineUs := v }
  else if o = 0x410100C then s.modMem fun m => { m with farLimit := inRange m.farLimit v 100 100000 }
  else if o = 0x4101010 then s.modMem fun m => { m with hwinLimit := inRange m.hwinLimit v 100 100000 }
  else if o = 0x4101028 then s.modMem fun m => { m with retireCe := inRange m.retireCe v 1 65535 }
  else if o = 0x4280000 then s.modFab fun f => { f with laneLimit := inRange f.laneLimit v 1 65535 }
  else if o = 0x430000C then s.modCm fun c => { c with roundTimeout := inRange c.roundTimeout v 100 1000000 }
  else if 0x4400000 ≤ o ∧ o < 0x4401000 then writeGov s (o - 0x4400000) v
  else if 0x4410000 ≤ o ∧ o < 0x4411000 then writeTime s (o - 0x4410000) v
  else s

/-- One 32-bit word written by a master; the BMC's writes reach the register aperture (log 52). -/
def writeWord (s : State) (who : Master) (o : Nat) (v : Word) : State :=
  match who with
  | .bar0 => if o < 0x400000 then writeBar0 s o v else s
  | .bar2 => if o < 0x10000 then writeBar2 s o v else s
  | .bar4 => if o < 0x8000000 then writeAp s o v else s
  | .bmc => if o < 0x8000000 then writeAp s o v else s

/-- What a master's read of `n` bytes at an offset returns (R12, R337). -/
def readAccess (s : State) (who : Master) (o n : Nat) : List Byte :=
  match who with
  | .bar0 => readRegs (bar0Word s) o n
  | .bar2 => readRegs (bar2Word s) o n
  | _ => readRegs (apWord s) o n

/-- REGISTER_WRITE: a naturally aligned access of 4 or 8 bytes; any other has no effect (R12). -/
def execRegisterWrite (who : Master) (off width : Nat) (v : DWord) (s : State) : Res :=
  .next (
    if !s.pins.mainOn || (who == .bmc && s.pins.phase != .up) then s
    else if width = 4 && off % 4 = 0 then writeWord s who off (v.setWidth 32)
    else if width = 8 && off % 8 = 0 then
      (if who == .bar0 && off = 0x10810 then hwtInvalidate (s.modHost fun h => { h with hwtInval := fld v 32 32 }) v
       else writeWord (writeWord s who off (v.setWidth 32)) who (off + 4) (fld v 32 32))
    else s)

end Sys2Proof.Machine
end

