-- ==== Sys2Proof/Machine/Resets.lean ====
section
/-! DEFINITION. The upstream link, link-loss reset and fatal faults (R333, R355 to R359, R397, R431, R435, R449, R462 to
R466). -/

namespace Sys2Proof.Machine

/-! ## READY (R354, R416, R465) -/

/-- READY is set once boot is complete and the link up; firmware that sets it first raises FW_FLOOR to its SVN, which the area's
authenticated read shows (R413, R416). -/
def tryReady (s : State) : State :=
  if s.pins.phase == .up && s.pins.mainOn && s.host.linkUp && !s.host.ready && !s.trust.restartDue then
    let s := s.modHost fun h => { h with ready := true, wasReady := true }
    s.modTrust fun t =>
      { t with activating := false, restartAt := none
               flash := if rpfAuth t.flash && decide (t.flash.fwFloor.toNat < t.fwSvn.toNat) then { t.flash with fwFloor := t.fwSvn } else t.flash }
  else s

/-! ## Keys and host registers (R357, R375, R431) -/

/-- The session and every key that ends with it; its measurement is cleared (R422, R431). -/
def eraseSession (s : State) : State := clearMeas (s.modTrust fun t => { t with session := none, frags := none }) 6

/-- The exchange area holds zeros, wherever its pages lie (R357, R431, R265). -/
def zeroExchange (s : State) : State :=
  let away := fun (a : Nat) => decide (0x1FF0000000 ≤ logOff s a) && decide (logOff s a < 0x2000000000)
  s.modMem fun m =>
    { m with dram := SMap.dropRange (m.dram.filter fun e => !away e.1) 0x1FF0000000 0x2000000000
             poison := SMap.dropRange (m.poison.filter fun e => !away (64 * e.1)) (0x1FF0000000 / 64) (0x2000000000 / 64) }

/-- PTP registers as boot loads them (R408, R417). -/
def ptpBoot (s : State) : State :=
  { s with tm := { s.tm with cfg := Config.ptpDefault 0 &&& 0x3FF, asym := Config.ptpDefault 1, ipv4 := Config.ptpDefault 2 } }

/-- A Rest that a command asked for is not entered any more. -/
def restLeft (r : RestBlk) : RestState := if r.st == .pending && !r.forced then .awake else r.st

/-- Queues, window table cache, BAR0's RW registers, MSI-X table and HDM decoder at their reset values; commands taken are
gone without a completion (R357, R359, R375, R409). -/
def resetHostRegs (s : State) : State :=
  let s := (List.range 16).foldl (fun s q => copyClear s q) s
  let s := s.modMem fun m => { m with faults := m.faults.filter fun f => !ofCopy f }
  let s := s.modHost fun h =>
    { h with sqs := [], cqs := [], hwtBase := 0, hwtEn := false, hwtCache := [], msix := [], hdm := 0
             hwtInval := 0, turn := 0, intEnable := 0 }
  let s := s.modGov fun g => { g with ctrl := 0x798, cap := 0x192D50, weights := [] }
  let s := { s with pre := { s.pre with pending := none, saveQ := none }
                    rest := { s.rest with queue := none, st := restLeft s.rest } }
  hwinRefresh (ptpBoot (s.modFlt fun f => { f with snapPend := none }))

/-! ## Link-loss reset (R355 to R359) -/

/-- A held window read that the link alone stalls: its table entry is valid (R353, R356). -/
def linkStalled (s : State) (f : FaultRec) : Bool :=
  f.code == fHwin && !f.dir && s.host.hwtEn && bitB (hwtEntry s (faultWoff f)) 0

/-- Host-directed writes and reads that end with the link: those held in the boundary buffers, and reads stalled while it was down. -/
def hostHeld (s : State) : Nat :=
  s.host.upHeld + (if s.host.linkUp then 0 else (s.mem.faults.filter (linkStalled s)).length)

/-- Held HWIN faults of the job end with ERROR; those of commands are dropped with them. -/
def hwinErrors (s : State) : State :=
  (s.mem.faults.filter fun f => f.code == fHwin && !f.saved && !ofCopy f).foldl (fun s f => match faultOf s f.n with
    | some f => errorOut s f
    | none => s) s

/-- The link-loss reset for a cause, at time `t0` (R357). -/
def linkLoss (s : State) (cause t0 : Nat) : State :=
  let dropped := hostHeld s
  let s := ledger (s.modHost fun h => { h with ready := false }) 2 5 0x0501 noUnit cause
  let s := resetHostRegs (hwinErrors s)
  let s := leaveRound (unbind (freezeAll s))
  let s := clearMeas (eraseSession { s with image := none }) 4
  let s := zeroExchange (s.modMem fun m => { m with scrub := true })
  let s := s.modHost fun h =>
    { h with heldOut := [], upHeld := 0, llr := true, llrNow := true, llrCause := cause, llrTime := BitVec.ofNat 64 t0, llrDropped := sat32 dropped
             llrCount := sat32 (h.llrCount + 1), downSince := none }
  tryReady s

/-- A host event that is a link-loss reset once READY has first been set; during boot it touches the upstream port alone
(R462, R464). -/
def hostLoss (s : State) (cause t0 : Nat) : State :=
  if s.host.wasReady && s.pins.phase == .up then linkLoss s cause t0 else s

/-- A reset the host asks of the function: a link-loss reset whenever the module can take it, during boot too (R355, R462). -/
def hostReset (s : State) (cause : Nat) : State :=
  if s.pins.mainOn && s.pins.phase != .fatalHold then linkLoss s cause s.ns else s

/-- The link down since `t` is a link-loss reset 2 ms later (R355). -/
def downLoss (s : State) (t : Nat) : State := hostLoss (s.modHost fun h => { h with downSince := none }) 1 (t + 2000000)

/-- LINK_DOWN: host-directed traffic waits (R356). -/
def execLinkDown (s : State) : Res :=
  .next (if s.host.linkUp then s.modHost fun h => { h with linkUp := false, downSince := some s.ns } else s)

/-- A link that has been down for 2 ms or more is lost, from that instant (R355). -/
def lateLoss (s : State) : State :=
  match s.host.downSince with
  | some t => if t + 2000000 ≤ s.ns then downLoss s t else s
  | none => s

/-- LINK_UP: the port is trained at `lanes` and `rate` GT/s; held traffic goes out in order, and a link that was down has
retrained (R333, R356). A link down for 2 ms or more has been lost first. -/
def execLinkUp (lanes rate : Nat) (s : State) : Res :=
  .next (
    let ok := (lanes == 16 || lanes == 8 || lanes == 4) && (rate == 64 || rate == 32 || rate == 16 || rate == 8)
    if !ok || s.host.linkUp || s.pins.hostPerst || !s.pins.mainOn then s
    else
      let s := (lateLoss s).modHost fun h =>
        { h with linkUp := true, downSince := none, width := lanes, rate := 2 * rate, out := h.out ++ h.heldOut, heldOut := []
                 upHeld := 0, trained := true, retrains := if h.trained then (h.retrains + 1) % 65536 else h.retrains }
      let s := if lanes < 16 || rate < 64 then ledger s 1 5 0x0502 noUnit (hostLink s) else s
      let s := (s.mem.faults.filter fun f => f.code == fHwin).foldl (fun s f => match faultOf s f.n with
        | some f => retryFault s f
        | none => s) s
      tryReady s)

/-- LINK_DOWN_TIMEOUT: down for 2 ms (R355). -/
def execLinkDownTimeout (s : State) : Res := .next (lateLoss s)

/-- HOST_PERST_ASSERT (R355, R462). -/
def execHostPerstAssert (s : State) : Res :=
  .next (
    if s.pins.hostPerst then s
    else
      let s := { s with pins := { s.pins with hostPerst := true } }
      hostLoss (s.modHost fun h => { h with linkUp := false, downSince := none }) 2 s.ns)

/-- HOST_PERST_DEASSERT: upstream training may begin (R466). -/
def execHostPerstDeassert (s : State) : Res := .next { s with pins := { s.pins with hostPerst := false } }

/-- HOT_RESET. -/
def execHotReset (s : State) : Res := .next (hostLoss s 3 s.ns)

/-- FUNCTION_LEVEL_RESET. -/
def execFunctionLevelReset (s : State) : Res := .next (hostReset s 4)

/-- CXL_RESET. -/
def execCxlReset (s : State) : Res := .next (hostReset s 5)

/-- CONFIG_REQUEST: retry status before t_b + 60 ms, then vendor and device ID (R339, R466). -/
def execConfigRequest (s : State) : Res :=
  .next (
    let early := match s.pins.tb with
      | some t => decide (s.ns < t + 60000000)
      | none => true
    s.modHost fun h => { h with out := h.out ++ [if early then .configRetry else .configOk ((0x4480 : BitVec 16) ++ Config.vendorId)] })

/-! ## Fatal faults (R435, R449) -/

/-- The ring written to the ledger area of the flash and tagged (R449). -/
def flushLedger (s : State) : State :=
  s.modTrust fun t =>
    { t with flash := { t.flash with ledger := some (s.flt.ring, BitVec.ofNat 64 s.flt.next, BitVec.ofNat 64 s.ns, true) } }

/-- Job and session keys erased (R431). -/
def eraseKeys (s : State) : State :=
  ((eraseSession s).modTrust fun t => { t with jobKeys := none, fabricKey := none }).modCm fun c => { c with key := 0 }

/-- A fatal fault of a cause: 1 thermal, 2 cores, 3 security controller, 4 input. The module stays in fatal hold. -/
def fatalFault (s : State) (cause : Nat) : State :=
  let src := if cause = 3 then 6 else if cause = 2 then 8 else 4
  let s := freezeAll (ledger s 3 src 0x0F01 noUnit cause)
  let s := eraseKeys (leaveJob (s.modHost fun h => { h with ready := false }))
  let s := s.modTrust fun t => { t with restartAt := none }
  let s := { s with pins := { s.pins with phase := .fatalHold, faultN := true, fatalCause := cause, fatalAt := s.ns
                                          mainOn := s.pins.mainOn && cause != 1, thermTripN := s.pins.thermTripN || cause == 1 } }
  pldm (flushLedger s) (.fatal cause)

/-- THERMAL_TRIP: a band at 115 °C or a GDDR7 device at 105 °C (R397). -/
def execThermalTrip (s : State) : Res := .next (if s.pins.mainOn then fatalFault s 1 else s)

/-- SECURITY_SELF_TEST_FAIL. -/
def execSecuritySelfTestFail (s : State) : Res := .next (if s.pins.mainOn then fatalFault s 3 else s)

end Sys2Proof.Machine
end

