-- ==== Sys2Proof/Machine/Evidence.lean ====
section
/-! DEFINITION. The identification record, the attestation evidence and the session's opening (R365, R366, R419 to R425). -/

namespace Sys2Proof.Machine

/-- Identity leaves left (R419). -/
def idLeft (s : State) : Nat := 65536 - s.trust.flash.idIdx.toNat

/-- The IDENTIFY record (R365). -/
def identRecord (s : State) : List Byte :=
  leBytes 4 0x00A14480 ++ leBytes 4 s.trust.fwVersion.toNat ++ leBytes 16 Config.serial.toNat ++ leBytes 4 0x10001010 ++
  leBytes 4 (capSpares s) ++ ((List.range 4).flatMap fun p => leBytes 4 (SMap.get 0 s.mem.farCap p)) ++
  beatBytes s.trust.flash.factory.idPubkey ++ leBytes 4 (idLeft s) ++ List.replicate 12 0 ++ leBytes 128 (capUnavail s)

/-- FLAGS of the evidence (R423). -/
def evFlags (s : State) : Nat :=
  let far := (List.range 4).all fun p => SMap.get 0 s.mem.farCap p == 0 || SMap.get false s.mem.farIde p
  bitAt s.host.ideIo 0 + bitAt s.host.ideCm 1 + bitAt s.image.isSome 2 + bitAt s.bound 3 + bitAt s.trust.session.isSome 4 +
  bitAt (bitB s.pc.ctrl 9) 5 + bitAt s.trust.idFail 6 + bitAt far 7

/-- Bytes 0x0000 to 0x1EE7 of the evidence: what the AK signs. -/
def evBody (s : State) (nonce : BitVec 256) (ak leaf : Nat) : List Byte :=
  leBytes 4 0x56455A54 ++ leBytes 4 10412 ++ leBytes 4 (evFlags s) ++ leBytes 4 s.trust.idLeaf ++
  leBytes 16 Config.serial.toNat ++ leBytes 32 nonce.toNat ++ leBytes 8 s.ns ++ leBytes 4 s.trust.fwVersion.toNat ++
  leBytes 4 s.trust.fwSvn.toNat ++ leBytes 4 leaf ++ leBytes 4 s.trust.flash.fwFloor.toNat ++ List.replicate 8 0 ++
  beatBytes ((s.image.map (·.img.digest)).getD 0) ++ leBytes 32 (jobDigest s).toNat ++
  ((List.range 8).flatMap fun j => beatBytes (SMap.get 0 s.trust.meas j)) ++ beatBytes s.trust.flash.factory.idPubkey ++
  beatBytes (Config.xmssPub (Config.trng ak)) ++ fixLen 1568 ((s.trust.kem.map Config.kemKey).getD []) ++
  fixLen 2692 s.trust.akCert ++ fixLen 2820 s.trust.flash.factory.idCert

/-- The evidence for a nonce, the AK leaf it uses, and the state in which that leaf is used; none once the leaves are
(R420, R421). -/
def evidence (s : State) (nonce : BitVec 256) : Option (List Byte × Nat × State) :=
  match s.trust.ak with
  | some (d, leaf) =>
    if leaf ≥ 1024 || s.trust.idExhausted then none
    else
      let b := evBody s nonce d leaf
      some (b ++ fixLen 2500 (Config.xmssSign (Config.trng d) leaf b), leaf,
        s.modTrust fun t => { t with ak := some (d, leaf + 1) })
  | none => none

/-- The opening message processed (R424, R425): the session opens under the handle, with its reply; none where it fails. -/
def openSession (s : State) (handle : Nat) (msg : List Byte) : Option (State × List Byte) :=
  let nonce := (msg.drop 8).take 32
  let known := s.trust.nonces.any fun n => leBytes 32 n.toNat == nonce
  if msg.length != 1688 || leNat (msg.take 4) != 0x4F535A54 || !known then none
  else match s.trust.kem with
    | none => none
    | some k =>
      let ss := (Config.kemDecap k ((msg.drop 0x28).take 1568)).setWidth 512
      match gcmOpen (kdf 256 ss nonce "ZT-B4480 JS") (leBytes 12 0) (msg.take 0x648) ((msg.drop 0x648).take 32)
        ((msg.drop 0x668).take 16) with
      | none => none
      | some js =>
        let dn := leBytes 32 (Config.trng s.trust.draws).toNat
        let ks := kdf 256 ss (dn ++ nonce) "ZT-B4480 SESSION"
        let dig := Config.shake256 msg
        let s := s.modTrust fun t => { t with draws := t.draws + 1, session := some (handle, ks, beatOf js, 0) }
        some (extend s 6 dig, leBytes 4 handle ++ leBytes 4 0 ++ dn ++
          (beatBytes (kdf 256 ks (beatBytes dig) "ZT-B4480 CONFIRM")).take 32)

end Sys2Proof.Machine
end

