-- ==== Sys2Proof/Machine/Snapshot.lean ====
section
/-! DEFINITION. Counter snapshots and the audit record made from one (R374, R450 to R453). -/

namespace Sys2Proof.Machine

/-- The copy of one tile: TS, KFS at 0x40, MXS at 0x70, VRS at 0x90, PCT at 0xC0. -/
def snapTile (s : State) (t : Nat) : List Byte :=
  let x := s.tile t
  fixLen 64 (blkBytes (tsBlk s t) 40) ++ fixLen 48 (blkBytes (kfsBlk x.kfs) 36) ++ fixLen 32 (blkBytes (mxsBlk x.mxs) 28) ++
  fixLen 48 (blkBytes (vrsBlk x.vrs) 40) ++ fixLen 64 (blkBytes (pctBlk x) 36)

/-- The window's bytes up to 0x4_FFFF (R451). -/
def snapBytes (s : State) (gen : Nat) (seam : Bool) : List Byte :=
  let used := s.usedTiles
  let low := match used.map (fun t => (s.tile t).ts.seam.toNat) with
    | [] => 0
    | a :: as => as.foldl min a
  let head := leBytes 8 gen ++ leBytes 8 s.ns ++ leBytes 4 (bitAt seam 0 + bitAt s.bound 1) ++ leBytes 4 (if seam then low else 0)
  fixLen 0x1000 head ++ fixLen 256 (blkBytes (stgBlk s) 128) ++ blkBytes (memBlk s) 256 ++ blkBytes (govBlk s) 512 ++
  blkBytes (fabBlk s) 128 ++ fixLen (0x2000 - 0x1480) (blkBytes (fltBlk s) 256) ++
  fixLen 0x1400 ((List.range 18).flatMap fun p => blkBytes (fpBlk s p) 256) ++
  fixLen 0xC00 ((List.range 18).flatMap fun p => blkBytes (audPortBlk s p) 64) ++ fixLen 0x1000 (blkBytes (cmBlk s) 80) ++
  fixLen 0xB000 ((List.range 18).flatMap fun p => blkBytes (tallyBlk s p) 32) ++ (List.range 1024).flatMap (snapTile s)

/-- Bytes as a map from offset 0. -/
def bytesMap (bs : List Byte) : SMap Byte := bs.zipIdx.filterMap fun e => if e.1 = 0 then none else some (e.2, e.1)

/-- A snapshot copied and written to its window under the next generation. -/
def takeSnapshot (s : State) (seam : Bool) : State :=
  let gen := s.flt.snapGen + 1
  s.modFlt fun f => { f with snap := bytesMap (snapBytes s gen seam), snapGen := gen, snapPend := none }

/-- A number in the snapshot window. -/
def snapNat (s : State) (o n : Nat) : Nat := SMap.getNat s.flt.snap o n

/-- Held credits of port `p` on channel `v` in the snapshot. -/
def snapCredit (s : State) (p v : Nat) : Nat := snapNat s (0x2000 + 0x100 * p + 0x50 + 4 * v) 4 % 2 ^ 14

/-- The module checks on the last snapshot (R452, R453). Boundary credits, which the window does not hold, are taken as they
stand. -/
def snapMask (s : State) : Nat :=
  let st := fun p => snapNat s (0x2000 + 0x100 * p) 4 % 8
  let bad0 := s.rolePorts.any fun p => decide (2 ≤ st p) &&
    (((List.range 16).map (snapCredit s p)).sum + snapNat s (0x3410 + 0x40 * p) 8 !=
      (s.portCfg p).allot.sum + snapNat s (0x3400 + 0x40 * p) 8)
  let sig := ((List.range 1024).map fun t => snapNat s (0x10018 + 0x100 * t) 8).sum
  let f := fun o => snapNat s (0x1480 + o) 8
  let bad2 := snapNat s 0x10 4 / 2 % 2 == 1 && sig + f 0x50 != f 0x40 + f 0x48
  let bad3 := snapNat s 0x4018 4 != 0 || snapNat s 0x401C 4 != 0
  let g := fun o => snapNat s (0x1200 + o) 4
  let bad4 := g 0x1C + g 0x20 + g 0x24 != max (g 0x10) floors.sum
  bitAt bad0 0 + bitAt (bitB (auditMask s) 1) 1 + bitAt bad2 2 + bitAt bad3 3 + bitAt bad4 4

/-- The audit record of R453. -/
def auditRecord (s : State) (mask : Nat) : List Byte :=
  let port := fun p =>
    let cr := ((List.range 16).map fun v => snapCredit s p v * 2 ^ (14 * v)).sum
    leBytes 8 (snapNat s (0x3410 + 0x40 * p) 8) ++ leBytes 8 (snapNat s (0x2038 + 0x100 * p) 8) ++
    leBytes 8 (snapNat s (0x3400 + 0x40 * p) 8) ++ leBytes 8 (snapNat s (0x3408 + 0x40 * p) 8) ++ leBytes 32 cr
  leBytes 8 (snapNat s 0 8) ++ leBytes 8 (snapNat s 8 8) ++ leBytes 4 mask ++ List.replicate 44 0 ++
  SMap.getBytes s.flt.snap (0x1480 + 0x40) 192 ++ (List.range 18).flatMap port

/-- AUDIT_READ of queue `q` completes (R364, R453). -/
def auditDone (s : State) (q : Nat) : State :=
  let m := snapMask s
  complete (s.modFlt fun f => { f with audMask := BitVec.ofNat 5 m }) q 0 m 0 (some (auditRecord s m))

/-- The command of queue `q` that waited for a snapshot completes. -/
def snapDone (s : State) (q : Nat) : State :=
  match (s.sq q).cur with
  | some k => if entOpcode k.entry = 0x0502 then auditDone s q else complete s q 0 (snapNat s 8 8) 0
  | none => s

/-- SNAPSHOT_COPY: every unit copies its counters in the tick at AT (R450). -/
def execSnapshotCopy (s : State) : Res :=
  .next (
    match s.flt.snapPend with
    | some (q, false, at_) => if at_ ≤ s.ns then snapDone (takeSnapshot s false) q else s
    | _ => s)

/-- SNAPSHOT_SEAM_COPY: in one tick after every gang is held at a seam (R450). -/
def execSnapshotSeamCopy (s : State) : Res :=
  .next (
    match s.flt.snapPend with
    | some (q, true, _) =>
      if (!s.bound || allHeld s || s.pre.saved || s.rest.st == .resting) && s.stg.st != .localDone && s.stg.st != .committing then
        snapDone (takeSnapshot s true) q
      else s
    | _ => s)

end Sys2Proof.Machine
end

