-- ==== Sys2Proof/Machine/Commands.lean ====
section
/-! DEFINITION. Taking a submission entry, the common checks, each command's service, and the rows of the commands (R214,
R215, R343 to R347, R358, R360 to R376). -/

namespace Sys2Proof.Machine

/-! ## The entry at HEAD (R343, R345, R346) -/

/-- CRC-32C of an entry with its CRC field as zero. -/
def entryCrc (e : BitVec 2048) : Word :=
  let b := entBytes e
  crc32c (b.take 0x3C ++ [0, 0, 0, 0] ++ b.drop 0x40)

/-- PHASE as the pass expects it, and the CRC right. -/
def entryOk (x : Sq) (e : BitVec 2048) : Bool := entPhase e == (x.passN % 2 == 0) && entryCrc e == fld e 0x1E0 32

/-- The queue is one whose entry at HEAD the device takes or reads again. -/
def canRead (s : State) (q : Nat) : Bool :=
  let x := s.sq q
  s.host.ready && !s.trust.restartDue && x.en && !x.stopped && x.cur.isNone && x.head != x.tail && (x.fails != 0 || !cqFull (s.cq (cqOf x)))

/-- The queue whose turn firmware takes next: in ascending index, round robin, the first with an entry to read (R343). The repeated
reads of an entry are made within its own turn (DESIGN CHOICE, log 54). -/
def dueQueue (s : State) : Option Nat :=
  ((List.range 16).map fun i => (s.host.turn + i) % 16).find? fun q => canRead s q && (s.sq q).fails == 0

/-- The turn of queue `q` is over. -/
def turnOver (s : State) (q : Nat) : State := s.modHost fun h => { h with turn := (q + 1) % 16 }

/-- The entry at HEAD that queue `q` shows: a queue in the exchange area shows what near-tier memory holds there (R336, R340). -/
def shown (s : State) (q : Nat) (e : BitVec 2048) : Bool :=
  let x := s.sq q
  !bitB x.base 0 ||
    e == BitVec.ofNat 2048 (SMap.getNat s.mem.dram (memOff s (xareaBase + baseOff x.base + 256 * x.head)) 256)

/-- The row's entry is read: it is the queue's turn, or a repeated read finds it right (R343, R346). -/
def mayRead (s : State) (q : Nat) (e : BitVec 2048) : Bool :=
  shown s q e && (dueQueue s == some q || (canRead s q && (s.sq q).fails != 0 && entryOk (s.sq q) e))

/-- Before an entry in the exchange area is read, the host's copies of its lines are taken back (R336). -/
def snoopEntry (s : State) (q : Nat) : State :=
  let x := s.sq q
  if bitB x.base 0 then
    s.modHost fun h => { h with out := h.out ++ (List.range 4).map fun i => HostOut.bisnpData (baseOff x.base + 256 * x.head + 64 * i) }
  else s

/-- The CQ slot reserved before the first read. -/
def reserve (s : State) (q : Nat) : State :=
  if (s.sq q).fails != 0 then s else s.modCq (cqOf (s.sq q)) fun c => { c with reserved := c.reserved + 1 }

/-- The entry taken as command `c`: HEAD, pass, count and generation (R346, R350). -/
def takeEntry (s : State) (q : Nat) (c : Instr) (e : BitVec 2048) : State :=
  (reserve s q).modSq q fun x =>
    let wrap := decide (qSize x.cfg ≤ x.head + 1)
    let h := if wrap then 0 else x.head + 1
    let n := x.taken + 1
    { x with head := h, passN := if wrap then x.passN + 1 else x.passN, taken := n, fails := 0
             cur := some ({ cmd := c, entry := e, gen := x.epoch * 2 ^ 48 + n, sqhd := h, cq := cqOf x, waiting := false,
                            takenAt := s.ns } : Taken) }

/-- A read of the entry that fails: the first reserves the CQ slot; after the sixteenth repeat the torn completion is posted
and the queue stops. GEN of a torn entry is a free value (log 3). -/
def failRead (s : State) (q : Nat) : State :=
  let s := (reserve s q).modSq q fun x => { x with fails := x.fails + 1 }
  let x := s.sq q
  if x.fails ≤ 16 then s
  else
    let (g, s) := s.draw
    let s := cqNotify (postCq s (cqOf x) 0xFFFF 0x0101 q x.head 0 0 g.toNat false) (cqOf x)
    raiseInt (s.modSq q fun x => { x with stopped := true, fails := 0 }) 2

/-! ## Common checks (R347, R358, R360 to R362) -/

/-- Opcodes of R362. -/
def opcodes : List Nat :=
  [0x0001, 0x0002, 0x0100, 0x0101, 0x0102, 0x0200, 0x0201, 0x0210, 0x0211, 0x0220, 0x0221, 0x0222, 0x0300, 0x0301, 0x0302,
   0x0400, 0x0401, 0x0410, 0x0500, 0x0501, 0x0502, 0x0600, 0x0601, 0x0700, 0x0701]

/-- Commands that need a session (R361). -/
def needsSession (op : Nat) : Bool :=
  [0x0101, 0x0200, 0x0201, 0x0210, 0x0211, 0x0220, 0x0221, 0x0222, 0x0300, 0x0301, 0x0302, 0x0600, 0x0601].contains op

/-- Fields of PARAM that a command names: offset in bits from 0x20, width in bits (R362, R363). -/
def paramFields (op : Nat) : List (Nat × Nat) :=
  match op with
  | 0x0001 => [(0, 64)]
  | 0x0100 => [(0, 64)]
  | 0x0200 => [(0, 192)]
  | 0x0210 => [(0, 96)]
  | 0x0211 => [(0, 1)]
  | 0x0220 => [(0, 128)]
  | 0x0300 => [(0, 219)]
  | 0x0301 => [(0, 192)]
  | 0x0302 => [(0, 91)]
  | 0x0400 => [(0, 42)]
  | 0x0500 => [(0, 72)]
  | 0x0501 => [(0, 96)]
  | 0x0600 => [(0, 96)]
  | 0x0700 => [(0, 16)]
  | 0x0701 => [(0, 8)]
  | _ => []

/-- PLEN within the command's range. -/
def plenOk (op n : Nat) : Bool :=
  match op with
  | 0x0100 => decide (n ≤ 192)
  | 0x0102 => n == 32
  | 0x0302 => decide (32 ≤ n) && decide (n ≤ 192) && n % 16 == 0
  | _ => n == 0

/-- Reserved fields are 0, PLEN, RESULT and RESLEN are in range (R360, check 3). -/
def fieldsOk (e : BitVec 2048) : Bool :=
  let op := entOpcode e
  let par : BitVec 224 := fld e 0x100 224
  let rest := (paramFields op).foldl (fun p f => setFld p f.1 f.2 0) par
  fldN e 34 6 == 0 && fldN e 40 8 == 0 && fldN e 96 32 == 0 && fldN e 224 32 == 0 && rest == 0 && plenOk op (entPlen e) &&
  entResult e % 64 == 0 && entReslen e % 64 == 0 && (entResult e == 0 || decide (64 ≤ entReslen e)) &&
  (!entRloc e || entResult e == 0 || decide (entResult e + entReslen e ≤ 0x10000000))

/-- The open session's handle. -/
def sessionOf (s : State) : Option Nat := s.trust.session.map (·.1)

/-- Status of the first common check that fails; 0 where all pass. -/
def commonCheck (s : State) (e : BitVec 2048) : Nat :=
  let op := entOpcode e
  if s.host.llr && op != 0x0001 && op != 0x0002 then 0x0601
  else if !opcodes.contains op then 0x0102
  else if !fieldsOk e then 0x0103
  else if needsSession op && sessionOf s != some (entSession e) then 0x0201
  else 0

/-! ## Waiting and the window (R351 to R353, R361, R400) -/

/-- The command of queue `q` waits. -/
def waitCmd (s : State) (q : Nat) : State :=
  s.modSq q fun x => { x with cur := x.cur.map fun k => { k with waiting := true } }

/-- The module is in Rest or on its way out of it. -/
def inRest (s : State) : Bool := s.rest.st == .resting || s.rest.st == .waking

/-- A window extent: 64 B granular, within the data range (R362, R427). -/
def extentOk (woff len : Nat) : Bool := woff % 64 == 0 && decide (woff + len ≤ 0xF800000000)

/-- Every page of a window extent is served; false where the read is held as an HWIN fault. -/
def winAll (s : State) (q woff len : Nat) : State × Bool :=
  let first := woff / 0x200000
  let n := (woff + len - 1) / 0x200000 - first + 1
  match (List.range n).find? fun i => !hwinOk s (max woff ((first + i) * 0x200000)) false with
  | some i =>
    let o := max woff ((first + i) * 0x200000)
    ((winReady s q ((o - woff) / 64) o false).1, false)
  | none => ((List.range n).foldl (fun s i => hwtFill s ((first + i) * 0x200000)) s, true)

/-- Bytes before the granule whose tag failed in the write pass (R428). -/
def bytesBefore (woff g : Nat) : Nat := 512 * (woff / 512 + g) - woff

/-- Bytes of an extent before the tag that fails, in the check pass or the write pass; none where every tag passes (R428). -/
def tagStop (tags : Tags) (woff size : Nat) : Option Nat :=
  match tags with
  | .pass => none
  | .failCheck => some 0
  | .failWrite g => if bytesBefore woff g < size then some (bytesBefore woff g) else none

/-! ## Plain commands -/

/-- NOP. -/
def serveNop (s : State) (q : Nat) (e : BitVec 2048) : State := complete s q 0 (entParam e 0x20 64) 0

/-- IDENTIFY (R365). -/
def serveIdentify (s : State) (q : Nat) : State := complete s q 0 0x00A14480 0 (some (identRecord s))

/-! ## Sessions and attestation (R366, R421 to R425) -/

/-- Fragments discarded; the command completes with a status. -/
def badFragment (s : State) (q st : Nat) : State := complete (s.modTrust fun t => { t with frags := none }) q st 0 0

/-- The fragments so far, with this one: the last is processed. -/
def addFragment (s : State) (q : Nat) (f : Frags) (first : Bool) : State :=
  if f.bytes.length < f.msglen then
    complete (s.modTrust fun t => { t with frags := some f }) q 0 (if first then f.handle else f.bytes.length) 0
  else
    match openSession (s.modTrust fun t => { t with frags := none }) f.handle f.bytes with
    | some (s, reply) => complete s q 0 f.handle 0 (some reply)
    | none => badFragment s q 0x0202

/-- SESSION_OPEN. -/
def serveSessionOpen (s : State) (q : Nat) (e : BitVec 2048) : State :=
  let len := entParam e 0x20 32
  let off := entParam e 0x24 32
  let pl := entPayload e
  match s.trust.frags with
  | none =>
    if s.trust.session.isSome || len = 0 || len > 8192 || off != 0 || entSession e != 0 || pl.length > len then
      complete s q 0x0103 0 0
    else
      let h := s.trust.nextHandle
      let s := s.modTrust fun t => { t with nextHandle := h + 1 }
      addFragment s q { queue := q, handle := h, msglen := len, bytes := pl } true
  | some f =>
    if f.queue != q || f.msglen != len || f.bytes.length != off || entSession e != f.handle || off + pl.length > len then
      badFragment s q 0x0103
    else addFragment s q { f with bytes := f.bytes ++ pl } false

/-- SESSION_CLOSE. -/
def serveSessionClose (s : State) (q : Nat) : State :=
  if s.bound || s.image.isSome then complete s q 0x0103 0 0 else complete (eraseSession s) q 0 0 0

/-- ATTEST. -/
def serveAttest (s : State) (q : Nat) (e : BitVec 2048) : State :=
  let nonce : BitVec 256 := BitVec.ofNat 256 (leNat (entPayload e))
  match evidence s nonce with
  | some (r, leaf, s) =>
    complete (s.modTrust fun t => { t with nonces := (nonce :: t.nonces).take 16 }) q 0 leaf 0 (some r)
  | none => complete s q 0x0203 0 0

/-! ## Images and jobs (R367 to R369, R428, R430) -/

/-- IMAGE_LOAD: the image that `bytes` hold, checked, authenticated and kept in the near tier from KEEP on (R367). -/
def serveImageLoad (s : State) (q : Nat) (e : BitVec 2048) (bytes : SMap Byte) (tags : Tags) : State :=
  let woff := entParam e 0x20 64
  let size := entParam e 0x28 64
  let keep := entParam e 0x30 64
  if s.image.isSome || !extentOk woff size || size < 256 || size > 2 ^ 34 || keep % 0x10000 != 0 ||
      !nearRange true keep (roundUp size 0x10000) then complete s q 0x0103 0 0
  else
    let (s, ok) := winAll s q woff size
    if !ok then waitCmd s q
    else
      let plain := winPlain s woff size bytes
      match tagStop tags woff size with
      | some n => complete (if n = 0 then s else rangePut s keep n plain) q 0x0202 n 0
      | none =>
        let img := imageOf plain
        if !imageOk img size then complete s q 0x0103 0 0
        else if !imageAuthOk s img then complete s q 0x0202 0 0
        else
          let s := extend (rangePut { s with image := some ⟨img, keep, size⟩ } keep size img.raw) 4 img.digest
          complete s q 0 img.imageSize 0 (some (beatBytes img.digest))

/-- IMAGE_UNLOAD. -/
def serveImageUnload (s : State) (q : Nat) : State :=
  if s.image.isNone || s.bound then complete s q 0x0103 0 0 else complete (clearMeas { s with image := none } 4) q 0 0 0

/-- JOB_BIND: it waits for the scrub and for full readiness (R361, R467). -/
def serveJobBind (s : State) (q : Nat) (e : BitVec 2048) (bytes : SMap Byte) (tags : Tags) : State :=
  let woff := entParam e 0x20 64
  let size := entParam e 0x28 32
  match s.image with
  | none => complete s q 0x0103 0 0
  | some k =>
    if s.bound || !extentOk woff size || size < 0x1100 || size > 2 ^ 22 then complete s q 0x0103 0 0
    else if s.mem.scrub || !s.pins.full then waitCmd s q
    else
      let (s, ok) := winAll s q woff size
      if !ok then waitCmd s q
      else match tagStop tags woff size with
        | some n => complete s q 0x0202 n 0
        | none =>
          let cfg := jobCfgOf (winPlain s woff size bytes) size
          let k := keptNow s k
          let s := countReads s k.keep k.size
          if !bindOk s k cfg size then complete s q 0x0103 0 0
          else
            let s := doBind s k cfg
            complete s q 0 (portsUp s) 0

/-- Commands of the job (R369). -/
def jobCmd (op : Nat) : Bool := [0x0220, 0x0221, 0x0222, 0x0300, 0x0301, 0x0302].contains op

/-- Queues other than `q` with a command of the job in progress. -/
def jobQueues (s : State) (q : Nat) : List Nat :=
  (List.range 16).filter fun i => i != q && match (s.sq i).cur with
    | some k => jobCmd (entOpcode k.entry)
    | none => false

/-- INFO0 and INFO1 of a command of the job as it is ended by force: bytes of a copy, the step's words of a STEP_RUN or of a RESUME that
resumes a step (R364). -/
def forceInfo (s : State) (k : Taken) : Nat × Nat :=
  let op := entOpcode k.entry
  if op == 0x0220 || (op == 0x0222 && s.stg.midStep) then (stepInfo s, s.stg.step.toNat) else (k.bytes, 0)

/-- The command of queue `q` ended by forced release, its copy's working state dropped; its interrupt comes with the turn's. -/
def forceEnd (s : State) (q : Nat) : State :=
  let i := ((s.sq q).cur.map (forceInfo s)).getD (0, 0)
  finish (hwinRefresh (copyClear s q)) q 0x0302 i.1 i.2

/-- CQs of the commands that queues have taken, each once. -/
def cqsOf (s : State) (qs : List Nat) : List Nat := (qs.filterMap fun q => (s.sq q).cur.map (·.cq)).eraseDups

/-- JOB_RELEASE: every completion of the turn is written before its CQ's one interrupt (R349, R369). -/
def serveJobRelease (s : State) (q : Nat) (e : BitVec 2048) : State :=
  let force := bitB e 0x100
  let others := jobQueues s q
  if !s.bound || (!force && (s.stg.st != .idle || !others.isEmpty)) then complete s q 0x0103 0 0
  else
    let cqs := cqsOf s (others ++ [q])
    let s := others.foldl forceEnd (if force then freezeAll s else s)
    cqs.foldl cqNotify (finish (unbind s) q 0 0 0)

/-! ## Steps and pre-emption (R214, R215, R370) -/

/-- A copy to or from a live view: COPY_IN, WRITE_INLINE or COPY_OUT over any byte of one (R371). -/
def liveView (s : State) (va len : Nat) : Bool :=
  s.regions.any fun r => r.kind == 2 && rangesMeet (va, len) (r.va0, r.size)

/-- Virtual address and length of a copy command. -/
def copySpan (e : BitVec 2048) : Nat × Nat :=
  if entOpcode e == 0x0302 then (entParam e 0x20 64, entPlen e - 16) else (entParam e 0x28 64, entParam e 0x30 64)

/-- A copy through a live view is in progress (R371). -/
def liveCopies (s : State) : Bool :=
  (List.range 16).any fun i => match (s.sq i).cur with
    | some k =>
      let op := entOpcode k.entry
      (op == 0x0300 || op == 0x0301 || op == 0x0302) && liveView s (copySpan k.entry).1 (copySpan k.entry).2
    | none => false

/-- What each tile clears at the start of a step. -/
def startTile (x : Tile) : Tile := { x with kfs := {}, mxs := {}, vrs := {}, ts := { x.ts with fault := 0 } }

/-- The step begins (R215): registers cleared, thresholds and deadline taken on, the EC[0] signal due. -/
def startStep (s : State) (q : Nat) (gangs : DWord) : State :=
  let s := s.modStg fun g =>
    { g with st := .running, loc := 0, gangDone := 0, hwm := 0, ueLoc := 0, spillWr := 0, spillRd := 0, gangs := gangs
             startAt := some s.ns, timer := none, excluded := 0, exclFrom := none, reporter := some q
             deadlineNow := g.deadlineUs.toNat, rewindDue := false, midStep := true }
  let s := s.usedTiles.foldl (fun s t => s.modTile t startTile) s
  let s := s.modPc fun p =>
    { p with ctrlNow := p.ctrl, thANow := p.thA, thBNow := p.thB, thCNow := p.thC, escFail := false, jobwideMark := false
             skippedFlag := false, wideFlag := false, maxDq := 0, grec := [], marks := [], named := [] }
  let s := s.modMem fun m => { m with faultFirst := 0 }
  let s := s.modFlt fun f => { f with darnHold := [] }
  s.modCm fun c =>
    { c with stalled := false, held := false, rolled := false, queried := false, tallyPort := 0x1F
             votes := sat32 (c.childVotes.map (·.2.count)).sum, acks := 0, permOutBytes := 0, permInBytes := 0
             permOutDig := 0, permInDig := 0, txTally := [], rxTally := [], txBytes := [], rxBytes := [], shards := []
             txSeq := [], streams := [], childAcks := [], flippedAt := none, ackSent := false
             results := c.results.filter fun r => r.step.toNat != s.stg.step.toNat % 2 ^ 32 }

/-- The gangs that the tile map uses, as a mask. -/
def gangMask (s : State) : DWord := BitVec.ofNat 64 (s.gangList.map fun g => 2 ^ g).sum

/-- STEP_RUN. -/
def serveStepRun (s : State) (q : Nat) (e : BitVec 2048) : State :=
  let gangs : DWord := BitVec.ofNat 64 (entParam e 0x28 64)
  if !s.bound || s.flt.rebind then complete s q 0x0103 0 0
  else if s.stg.st == .idle && s.pre.saved then complete s q 0x0301 0 0
  else if s.stg.st != .idle || liveCopies s then waitCmd s q
  else if entParam e 0x20 64 != s.stg.step.toNat || gangs == 0 || gangs &&& ~~~(gangMask s) != 0 then complete s q 0x0103 0 0
  else startStep s q gangs

/-- PREEMPT: it completes when the save has ended. -/
def servePreempt (s : State) (q : Nat) : State :=
  if !s.bound || s.pre.pending.isSome || s.pre.saved then complete s q 0x0103 0 0
  else match s.stg.st with
    | .running => { s with pre := { s.pre with pending := some q } }
    | .idle => { s with pre := { s.pre with pending := some q } }
    | .localDone => waitCmd s q
    | .committing => waitCmd s q
    | _ => complete s q 0x0103 0 0

/-- RESUME: the restore begins. -/
def serveResume (s : State) (q : Nat) : State :=
  if !s.pre.saved || s.pre.saving || s.pre.restoring.isSome || s.flt.rebind then complete s q 0x0103 0 0
  else { s with pre := { s.pre with restoring := some q } }

/-! ## Copies (R363, R371, R372, R429) -/

/-- A SIG word in range. -/
def sigOk (w : Nat) : Bool := w / 2 ^ 26 % 2 == 0 || w / 2 ^ 18 % 256 != 0

/-- Parameters and state of a copy. -/
def copyOk (s : State) (e : BitVec 2048) : Bool :=
  let (va, len) := copySpan e
  let op := entOpcode e
  let ext := op == 0x0302 || (va % 64 == 0 && len % 64 == 0 && decide (64 ≤ len) && decide (len ≤ 2 ^ 40) &&
    extentOk (entParam e 0x20 64) len)
  s.bound && ext && (op != 0x0302 || va % 16 == 0) &&
  (op == 0x0301 || sigOk (entParam e (if op == 0x0302 then 0x28 else 0x38) 32)) &&
  (!liveView s va len || s.stg.st == .idle)

/-- COPY_IN. -/
def serveCopyIn (s : State) (q : Nat) (e : BitVec 2048) (tags : Tags) : State :=
  if !copyOk s e then complete s q 0x0103 0 0
  else if tags == .failCheck then complete s q 0x0202 0 0
  else copyStart s q e

/-- COPY_OUT. -/
def serveCopyOut (s : State) (q : Nat) (e : BitVec 2048) : State :=
  if !copyOk s e then complete s q 0x0103 0 0 else copyStart s q e

/-- WRITE_INLINE: the payload opened, n advanced, the bytes written. -/
def serveWriteInline (s : State) (q : Nat) (e : BitVec 2048) : State :=
  if !copyOk s e then complete s q 0x0103 0 0
  else match inlinePlain s e with
    | none => complete s q 0x0202 0 0
    | some bs =>
      let s := s.modTrust fun t => { t with session := t.session.map fun x => (x.1, x.2.1, x.2.2.1, x.2.2.2 + 1) }
      copyStart (s.modSq q fun x => { x with cur := x.cur.map fun k => { k with body := bs } }) q e

/-! ## Power (R373) -/

/-- The cap and order a POWER_SET's valid fields give. -/
def capSet (s : State) (e : BitVec 2048) : State :=
  let v := entParam e 0x25 8
  let s := if v % 2 = 1 then s.modGov fun g => { g with cap := BitVec.ofNat 32 (entParam e 0x20 32) } else s
  let s := if v / 2 % 2 = 1 then writeGov s 4 (setFld s.gov.ctrl 0 3 (entParam e 0x24 8)) else s
  s

/-- The parameters of a POWER_SET are in range (R362, R386); codes 6 and 7 of ORDER are R11's. -/
def powerSetOk (e : BitVec 2048) : Bool :=
  let v := entParam e 0x25 8
  let cap := entParam e 0x20 32
  !((v % 2 == 1 && (cap == 0 || decide (2000000 < cap))) || (v / 2 % 2 == 1 && decide (7 < entParam e 0x24 8)))

/-- POWER_SET: its order is in force at once, its cap from the next window, for which the command waits (R373, R385; log 53). -/
def servePowerSet (s : State) (q : Nat) (e : BitVec 2048) : State :=
  let v := entParam e 0x25 8
  let cap := entParam e 0x20 32
  if !powerSetOk e then complete s q 0x0103 0 0
  else
    let k := ((s.sq q).cur.map (·.applied)).getD false
    let s := if v = 0 || k then s else capSet s e
    if v % 2 = 1 && cap < 180000 then complete s q 0x0501 (capInForce s) 0
    else if v % 2 = 1 && s.gov.effCap != capInForce s then
      waitCmd (s.modSq q fun x => { x with cur := x.cur.map fun k => { k with applied := true } }) q
    else complete s q 0 (capInForce s) 0

/-- POWER_QUERY. -/
def servePowerQuery (s : State) (q : Nat) : State :=
  complete s q 0 (s.gov.meas % 2 ^ 32 + s.gov.op * 2 ^ 32) 0 (some (blkBytes (govBlk s) 256))

/-- REST_ENTER: it completes when Rest has been entered. -/
def serveRestEnter (s : State) (q : Nat) : State :=
  if s.rest.st != .awake then complete s q 0x0103 0 0
  else if s.stg.st == .localDone || s.stg.st == .committing then waitCmd s q
  else { s with rest := { s.rest with st := .pending, queue := some q } }

/-! ## Telemetry (R374, R448, R453) -/

/-- COUNTERS_SNAPSHOT: AT is held against the time of the take (R374). -/
def serveSnapshot (s : State) (q : Nat) (e : BitVec 2048) : State :=
  let at_ := entParam e 0x20 64
  let mode := entParam e 0x28 8
  let pend := fun (b : Bool) => s.modFlt fun f => { f with snapPend := some (q, b, if b then 0 else at_) }
  if s.flt.snapPend.isSome || mode > 1 then complete s q 0x0103 0 0
  else if mode = 0 then
    (let t := ((s.sq q).cur.map (·.takenAt)).getD s.ns
     if t + 10000 ≤ at_ ∧ at_ ≤ t + 1000000000 then pend false else complete s q 0x0103 0 0)
  else if s.bound then pend true
  else snapDone (takeSnapshot s true) q

/-- LEDGER_READ. -/
def serveLedgerRead (s : State) (q : Nat) (e : BitVec 2048) : State :=
  let n := entParam e 0x28 32
  let old := s.flt.next - s.flt.ring.length
  if n = 0 || n > 65536 then complete s q 0x0103 0 0
  else
    let es := (s.flt.ring.drop (entParam e 0x20 64 - old)).take n
    complete s q 0 old 0 (some (es.flatMap fun x => leBytes 32 x.toNat))

/-- AUDIT_READ: before the first snapshot it takes one 10 µs ahead. -/
def serveAuditRead (s : State) (q : Nat) : State :=
  if s.flt.snapGen != 0 then auditDone s q
  else if s.flt.snapPend.isSome then waitCmd s q
  else s.modFlt fun f => { f with snapPend := some (q, false, s.ns + 10000) }

/-! ## Firmware (R375, R414) -/

/-- `n` bytes of a package's header as a number. -/
def pkgNum (f : FwPkg) (o n : Nat) : Nat := leNat ((f.bytes.drop o).take n)

/-- VERSION and SVN of a package. -/
def pkgVersion (f : FwPkg) : Word := BitVec.ofNat 32 (pkgNum f 4 4)
def pkgSvn (f : FwPkg) : Word := BitVec.ofNat 32 (pkgNum f 8 4)

/-- Header and components, which the signature covers; and the signature. -/
def pkgSigned (f : FwPkg) : List Byte := f.bytes.take (f.bytes.length - 2820)
def pkgSig (f : FwPkg) : List Byte := f.bytes.drop (f.bytes.length - 2820)

/-- The digest of a component: 0 security controller, 1 management, 2 link-die PHYs (R422). -/
def pkgComp (f : FwPkg) (j : Nat) : Beat := Config.shake256 (Config.component ((pkgSigned f).drop 64) j)

/-- The header of a package is as R414 lays it out. -/
def pkgHead (f : FwPkg) : Bool :=
  decide (2884 ≤ f.bytes.length) && pkgNum f 0 4 == 0x57465A54 && pkgNum f 0x0C 4 == 3 && pkgNum f 0x10 8 == f.bytes.length &&
  ((f.bytes.drop 0x18).take 40).all (· == 0)

/-- Header, vendor key digest, signature and security version of a package (R414, R415). -/
def fwOk (s : State) (f : FwPkg) : Bool :=
  pkgHead f && vendorOk s.trust.flash (beatBytes (Config.shake256 (pkgSigned f))) (pkgSig f) &&
  decide (s.trust.flash.fwFloor.toNat ≤ (pkgSvn f).toNat)

/-- A package written to the staging bank, the one not active. -/
def stageFw (s : State) (f : FwPkg) (ok : Bool) : State :=
  s.modTrust fun t =>
    { t with staged := ok, flash := if t.flash.active1 then { t.flash with bank0 := some f } else { t.flash with bank1 := some f } }

/-- The package that an extent of the host window holds. -/
def winPkg (s : State) (woff size : Nat) (bytes : List Byte) : FwPkg :=
  ⟨SMap.getBytes (winPlain s woff size (SMap.setBytes [] 0 (bytes.take size))) 0 size⟩

/-- FIRMWARE_STAGE: the extent's bytes, decrypted. -/
def serveFirmwareStage (s : State) (q : Nat) (e : BitVec 2048) (fw : FwPkg) (flashOk : Bool) : State :=
  let woff := entParam e 0x20 64
  let size := entParam e 0x28 32
  if s.trust.pldmHolds || !extentOk woff size || size < 4096 || size > 2 ^ 26 then complete s q 0x0103 0 0
  else
    let (s, ok) := winAll s q woff size
    if !ok then waitCmd s q
    else if !flashOk then complete (s.modTrust fun t => { t with staged := false }) q 0x0603 0 0
    else
      let p := winPkg s woff size fw.bytes
      if !fwOk s p then complete (stageFw s p false) q 0x0602 0 0
      else complete (stageFw s p true) q 0 (pkgVersion p).toNat 0

/-- The package in the staging bank. -/
def stagedPkg (s : State) : Option FwPkg := if s.trust.flash.active1 then s.trust.flash.bank0 else s.trust.flash.bank1

/-- FIRMWARE_ACTIVATE: the restart follows in its own row. -/
def serveFirmwareActivate (s : State) (q : Nat) : State :=
  if s.bound || s.image.isSome || !s.trust.staged then complete s q 0x0103 0 0
  else
    let v := ((stagedPkg s).map fun p => (pkgVersion p).toNat).getD 0
    complete (s.modTrust fun t => { t with restartDue := true }) q 0 v 0

/-! ## Ports (R376) -/

/-- PORT_CONFIG: out of service, or back; a retrain has ended, with success or without, 500 ms after the take. Failing a port is answered by DOWN (R293); the cause it names is a free value
(log 3). -/
def servePortConfig (s : State) (q : Nat) (e : BitVec 2048) : State :=
  let p := entParam e 0x20 8
  let act := entParam e 0x21 8
  let x := s.port p
  if p ≥ 18 || act > 1 then complete s q 0x0103 0 0
  else if act = 1 then
    (if x.st == .wait || portUp s p || ((s.sq q).cur.any fun k => decide (k.takenAt + 500000000 ≤ s.ns)) then complete s q 0 (fpStatus s p) 0
     else waitCmd s q)
  else
    let s := if x.st == .wait || portUp s p then
        let (c, s) := s.draw
        portFail s p (fldN c 0 8)
      else s
    let y := s.port p
    if y.st == .detoured && !y.resynced then waitCmd s q else complete s q 0 (fpStatus s p) 0

/-- PORT_STATUS. -/
def servePortStatus (s : State) (q : Nat) (e : BitVec 2048) : State :=
  let p := entParam e 0x20 8
  if p ≥ 18 then complete s q 0x0103 0 0 else complete s q 0 (fpStatus s p) 0 (some (blkBytes (fpBlk s p) 256))

/-! ## Service -/

/-- The taken command of queue `q` served: the common checks, then its own meaning. -/
def serveCmd (s : State) (q : Nat) : State :=
  match (s.sq q).cur with
  | none => s
  | some k =>
    let e := k.entry
    if inRest s || cmdHeld s q then waitCmd s q
    else
      let s := s.modSq q fun x => { x with cur := some { k with waiting := false } }
      let st := commonCheck s e
      if st != 0 then complete s q st 0 0
      else match k.cmd with
        | .nop _ _ => serveNop s q e
        | .identify _ _ => serveIdentify s q
        | .sessionOpen _ _ => serveSessionOpen s q e
        | .sessionClose _ _ => serveSessionClose s q
        | .attest _ _ => serveAttest s q e
        | .imageLoad _ _ img tags => serveImageLoad s q e img tags
        | .imageUnload _ _ => serveImageUnload s q
        | .jobBind _ _ cfg tags => serveJobBind s q e cfg tags
        | .jobRelease _ _ => serveJobRelease s q e
        | .jobReleaseForce _ _ => serveJobRelease s q e
        | .stepRun _ _ => serveStepRun s q e
        | .preempt _ _ => servePreempt s q
        | .resume _ _ => serveResume s q
        | .copyIn _ _ _ tags => serveCopyIn s q e tags
        | .copyOut _ _ => serveCopyOut s q e
        | .writeInline _ _ => serveWriteInline s q e
        | .powerSet _ _ => servePowerSet s q e
        | .powerQuery _ _ => servePowerQuery s q
        | .restEnter _ _ => serveRestEnter s q
        | .countersSnapshotInstant _ _ => serveSnapshot s q e
        | .countersSnapshotSeam _ _ => serveSnapshot s q e
        | .ledgerRead _ _ => serveLedgerRead s q e
        | .auditRead _ _ => serveAuditRead s q
        | .firmwareStage _ _ fw ok => serveFirmwareStage s q e fw ok
        | .firmwareActivate _ _ => serveFirmwareActivate s q
        | .portConfigOut _ _ => servePortConfig s q e
        | .portConfigReturn _ _ => servePortConfig s q e
        | .portStatus _ _ => servePortStatus s q e
        | _ => complete s q 0x0102 0 0

/-- Waiting commands whose condition may now hold are served again, in queue order. -/
def retryWaiting (s : State) : State :=
  (List.range 16).foldl (fun s q =>
    match (s.sq q).cur with
    | some k => if k.waiting then serveCmd s q else s
    | none => s) s

/-- The wake that taking a command starts; in a forced Rest only a POWER_SET that lifts the cap does, one that no check refuses
(R400). -/
def wakeFor (s : State) (e : BitVec 2048) : State :=
  let lifts := entOpcode e == 0x0400 && commonCheck s e == 0 && powerSetOk e && entParam e 0x25 8 % 2 == 1 &&
    decide (180000 ≤ min (entParam e 0x20 32) s.gov.bmcCap.toNat)
  wakeUp (if s.rest.st == .resting && s.rest.forced && lifts then { s with rest := { s.rest with forced := false } } else s)

/-- An entry of queue `q` taken as command `c` and served. -/
def takeServe (s : State) (q : Nat) (c : Instr) (e : BitVec 2048) : State := serveCmd (wakeFor (takeEntry s q c e) e) q

/-- A command's row: the device's read of the entry at HEAD, where it is the queue's turn. `row` says whether the entry is one of this
row's; a listed command of another row is left to it. -/
def command (s : State) (q : Nat) (c : Instr) (e : BitVec 2048) (row : Bool) : State :=
  if !mayRead s q e then s
  else
    let s := retryWaiting s
    if !mayRead s q e then s
    else if entryOk (s.sq q) e then
      (if row || !opcodes.contains (entOpcode e) then takeServe (turnOver (snoopEntry s q) q) q c e else s)
    else failRead (turnOver (snoopEntry s q) q) q

/-- The entry's opcode is `op`. -/
def isOp (e : BitVec 2048) (op : Nat) : Bool := entOpcode e == op

/-! ## The rows -/

def execNop (q : Nat) (e : BitVec 2048) (s : State) : Res := .next (command s q (.nop q e) e (isOp e 0x0001))
def execIdentify (q : Nat) (e : BitVec 2048) (s : State) : Res := .next (command s q (.identify q e) e (isOp e 0x0002))
def execSessionOpen (q : Nat) (e : BitVec 2048) (s : State) : Res :=
  .next (command s q (.sessionOpen q e) e (isOp e 0x0100))
def execSessionClose (q : Nat) (e : BitVec 2048) (s : State) : Res :=
  .next (command s q (.sessionClose q e) e (isOp e 0x0101))
def execAttest (q : Nat) (e : BitVec 2048) (s : State) : Res := .next (command s q (.attest q e) e (isOp e 0x0102))
def execImageLoad (q : Nat) (e : BitVec 2048) (img : SMap Byte) (tags : Tags) (s : State) : Res :=
  .next (command s q (.imageLoad q e img tags) e (isOp e 0x0200))
def execImageUnload (q : Nat) (e : BitVec 2048) (s : State) : Res :=
  .next (command s q (.imageUnload q e) e (isOp e 0x0201))
def execJobBind (q : Nat) (e : BitVec 2048) (cfg : SMap Byte) (tags : Tags) (s : State) : Res :=
  .next (command s q (.jobBind q e cfg tags) e (isOp e 0x0210))
/-- JOB_RELEASE with FORCE 0. -/
def execJobRelease (q : Nat) (e : BitVec 2048) (s : State) : Res :=
  .next (command s q (.jobRelease q e) e (isOp e 0x0211 && !bitB e 0x100))
/-- JOB_RELEASE with FORCE 1. -/
def execJobReleaseForce (q : Nat) (e : BitVec 2048) (s : State) : Res :=
  .next (command s q (.jobReleaseForce q e) e (isOp e 0x0211 && bitB e 0x100))
def execStepRun (q : Nat) (e : BitVec 2048) (s : State) : Res := .next (command s q (.stepRun q e) e (isOp e 0x0220))
def execPreempt (q : Nat) (e : BitVec 2048) (s : State) : Res := .next (command s q (.preempt q e) e (isOp e 0x0221))
def execResume (q : Nat) (e : BitVec 2048) (s : State) : Res := .next (command s q (.resume q e) e (isOp e 0x0222))
def execCopyIn (q : Nat) (e : BitVec 2048) (plain : List Beat) (tags : Tags) (s : State) : Res :=
  .next (command s q (.copyIn q e plain tags) e (isOp e 0x0300))
def execCopyOut (q : Nat) (e : BitVec 2048) (s : State) : Res := .next (command s q (.copyOut q e) e (isOp e 0x0301))
def execWriteInline (q : Nat) (e : BitVec 2048) (s : State) : Res :=
  .next (command s q (.writeInline q e) e (isOp e 0x0302))
def execPowerSet (q : Nat) (e : BitVec 2048) (s : State) : Res := .next (command s q (.powerSet q e) e (isOp e 0x0400))
def execPowerQuery (q : Nat) (e : BitVec 2048) (s : State) : Res :=
  .next (command s q (.powerQuery q e) e (isOp e 0x0401))
def execRestEnter (q : Nat) (e : BitVec 2048) (s : State) : Res := .next (command s q (.restEnter q e) e (isOp e 0x0410))
/-- COUNTERS_SNAPSHOT with a MODE other than 1. -/
def execCountersSnapshotInstant (q : Nat) (e : BitVec 2048) (s : State) : Res :=
  .next (command s q (.countersSnapshotInstant q e) e (isOp e 0x0500 && entParam e 0x28 8 != 1))
/-- COUNTERS_SNAPSHOT with MODE 1. -/
def execCountersSnapshotSeam (q : Nat) (e : BitVec 2048) (s : State) : Res :=
  .next (command s q (.countersSnapshotSeam q e) e (isOp e 0x0500 && entParam e 0x28 8 == 1))
def execLedgerRead (q : Nat) (e : BitVec 2048) (s : State) : Res :=
  .next (command s q (.ledgerRead q e) e (isOp e 0x0501))
def execAuditRead (q : Nat) (e : BitVec 2048) (s : State) : Res := .next (command s q (.auditRead q e) e (isOp e 0x0502))
def execFirmwareStage (q : Nat) (e : BitVec 2048) (fw : FwPkg) (flashOk : Bool) (s : State) : Res :=
  .next (command s q (.firmwareStage q e fw flashOk) e (isOp e 0x0600))
def execFirmwareActivate (q : Nat) (e : BitVec 2048) (s : State) : Res :=
  .next (command s q (.firmwareActivate q e) e (isOp e 0x0601))
/-- PORT_CONFIG with an ACTION other than 1. -/
def execPortConfigOut (q : Nat) (e : BitVec 2048) (s : State) : Res :=
  .next (command s q (.portConfigOut q e) e (isOp e 0x0700 && entParam e 0x21 8 != 1))
/-- PORT_CONFIG with ACTION 1. -/
def execPortConfigReturn (q : Nat) (e : BitVec 2048) (s : State) : Res :=
  .next (command s q (.portConfigReturn q e) e (isOp e 0x0700 && entParam e 0x21 8 == 1))
def execPortStatus (q : Nat) (e : BitVec 2048) (s : State) : Res :=
  .next (command s q (.portStatus q e) e (isOp e 0x0701))

/-! ## ENTRY_REREAD (R346) -/

/-- The command row of an entry whose row carries nothing but queue and entry; none for one that also brings data. -/
def cmdOf (q : Nat) (e : BitVec 2048) : Option Instr :=
  match entOpcode e with
  | 0x0002 => some (.identify q e)
  | 0x0100 => some (.sessionOpen q e)
  | 0x0101 => some (.sessionClose q e)
  | 0x0102 => some (.attest q e)
  | 0x0200 => none
  | 0x0201 => some (.imageUnload q e)
  | 0x0210 => none
  | 0x0211 => some (if bitB e 0x100 then .jobReleaseForce q e else .jobRelease q e)
  | 0x0220 => some (.stepRun q e)
  | 0x0221 => some (.preempt q e)
  | 0x0222 => some (.resume q e)
  | 0x0300 => none
  | 0x0301 => some (.copyOut q e)
  | 0x0302 => some (.writeInline q e)
  | 0x0400 => some (.powerSet q e)
  | 0x0401 => some (.powerQuery q e)
  | 0x0410 => some (.restEnter q e)
  | 0x0500 => some (if entParam e 0x28 8 == 1 then .countersSnapshotSeam q e else .countersSnapshotInstant q e)
  | 0x0501 => some (.ledgerRead q e)
  | 0x0502 => some (.auditRead q e)
  | 0x0600 => none
  | 0x0601 => some (.firmwareActivate q e)
  | 0x0700 => some (if entParam e 0x21 8 == 1 then .portConfigReturn q e else .portConfigOut q e)
  | 0x0701 => some (.portStatus q e)
  | _ => some (.nop q e)

/-- ENTRY_REREAD: the read repeated 250 ns later. An entry that is now right is taken; where its command's row brings data
of its own, that row takes it next (log 54). -/
def execEntryReread (q : Nat) (e : BitVec 2048) (s : State) : Res :=
  .next (
    if !canRead s q || (s.sq q).fails = 0 || !shown s q e then s
    else if entryOk (s.sq q) e then
      match cmdOf q e with
      | some c => takeServe (snoopEntry s q) q c e
      | none => s
    else failRead (snoopEntry s q) q)

/-! ## GOV_WINDOW (R373, R381, R385) -/

/-- GOV_WINDOW: the window's estimates, grants and actions; a cap set before it is in force, and a POWER_SET that waited for this
completes. -/
def execGovWindow (w : Window) (s : State) : Res := .next (if s.pins.mainOn then retryWaiting (govWindow w s) else s)

end Sys2Proof.Machine
end

