-- ==== Sys2Proof/Machine/Firmware.lean ====
section
/-! DEFINITION. The boot chain, firmware restart, the board record's retry, and SPDM (R332, R375, R412 to R423, R432, R433,
R449, R465). -/

namespace Sys2Proof.Machine

/-! ## BOOT (R415 to R420) -/

/-- Boot hold: the upstream port enumerates, READY stays 0, FAULT_N is asserted; only power-on ends it (R416, R457). -/
def bootHold (s : State) : State :=
  { s with pins := { s.pins with phase := .bootHold, faultN := true }, host := { s.host with ready := false }
           trust := { s.trust with restartAt := none } }

/-- The bank a boot takes: the active one, else the other, which becomes active with a ledger entry (R416). -/
def pickBank (s : State) : Option (FwPkg × State) :=
  let f := s.trust.flash
  let ok := fun (b : Option FwPkg) => b.filter (fwOk s)
  match ok (if f.active1 then f.bank1 else f.bank0) with
  | some p => some (p, s)
  | none =>
    match ok (if f.active1 then f.bank0 else f.bank1) with
    | some p =>
      let s := ledger s 2 6 0x0601 noUnit (bitAt f.active1 0)
      some (p, s.modTrust fun t => { t with restartAt := none, flash := { t.flash with active1 := !t.flash.active1 } })
    | none => none

/-- The field copy boot takes: the highest version among those that verify and are BR_VER or BR_VER − 1 (R417). -/
def pickCopy (f : Flash) : Option FieldRec :=
  let ok := fun (c : FieldRec) => tagOk c && (c.ver == f.brVer.toNat || c.ver + 1 == f.brVer.toNat)
  if ok f.copyA && (!ok f.copyB || decide (f.copyB.ver ≤ f.copyA.ver)) then some f.copyA
  else if ok f.copyB then some f.copyB
  else none

/-- An identity seed, by the ASCII bytes of its name (R412). -/
def idSeed (name : List Byte) : Beat := pufKey name "ZT-B4480 IDENTITY"

/-- The identity key, of the seeds that P yields: SK_SEED, SK_PRF, PUB_SEED (R412; log 5). -/
def identityKey : Beat :=
  Config.xmssKey (idSeed (leBytes 7 0x444545535F4B53)) (idSeed (leBytes 6 0x4652505F4B53))
    (idSeed (leBytes 8 0x444545535F425550))

/-- Bytes of the factory part that its signature covers (the model's order of its contents, log 5). -/
def factoryBytes (f : Factory) : List Byte := beatBytes f.idPubkey ++ f.idCert ++ f.rest

/-- The board record verifies: the factory part, its ID_PUBKEY against the key P yields, and a field copy (R417). -/
def boardOk (s : State) : Option FieldRec :=
  let f := s.trust.flash
  if vendorOk f (factoryBytes f.factory) f.factory.sig && f.factory.idPubkey == Config.xmssPub identityKey then pickCopy f else none

/-- A bank is verified: the measurements are zero, then extended with the security controller's and the PHYs' components, and
fabric ports may train (R415, R422, R465). -/
def measureFw (s : State) (p : FwPkg) : State :=
  extend (extend (s.modTrust fun t => { t with meas := [], phyOk := true }) 0 (pkgComp p 0)) 3 (pkgComp p 2)

/-- The board record's measurement (R415, R422). -/
def measureBoard (s : State) (c : FieldRec) : State :=
  extend (extend s 2 (Config.shake256 (factoryBytes s.trust.flash.factory))) 2 (Config.shake256 (fieldBytes c))

/-- The record's repairs, maps and trims take effect: failed lanes, retired pages, withdrawn operating points, PTP
defaults (R302, R265, R380, R408, R415). -/
def applyBoard (s : State) (c : FieldRec) : State :=
  let s := s.modTrust fun t => { t with board := c, boardDirty := false }
  let s := (List.range 18).foldl (fun s p => s.modPort p fun x =>
    { x with lanesTx := SMap.get 0 c.laneTx p, lanesRx := SMap.get 0 c.laneRx p }) s
  let s := s.modMem fun m => { m with retired := c.remap.length }
  let s := setTrims (s.modGov fun g => { g with maxOpAvail := c.maxOp })
  ptpBoot (checkTrims s fun b => SMap.get 0 s.gov.margin b)

/-- The message the identity key signs for leaf `i` (R419). -/
def certMsg (s : State) (ak kem i : Nat) : List Byte :=
  beatBytes (Config.shake256 (leBytes 11 0x4B412030383434422D545A ++
    (beatBytes (Config.xmssPub (Config.trng ak)) ++ Config.kemKey kem ++
      ((List.range 4).flatMap fun j => beatBytes (SMap.get 0 s.trust.meas j)) ++ leBytes 4 i)))

/-- An identity that cannot be used in this boot: ID_FAIL in the evidence, AK_CERT zero, a ledger entry (R420). -/
def idFailed (s : State) (idx : Nat) : State :=
  ledger (s.modTrust fun t => { t with idFail := true, akCert := [] }) 2 6 0x0602 noUnit idx

/-- The AK certified with the next identity leaf, once per boot (R419, R420). -/
def certifyAk (s : State) (b : BootIn) (ak kem : Nat) : State :=
  let i := s.trust.flash.idIdx.toNat
  if !b.rpfRead then
    let (v, s) := s.draw
    idFailed s v.toNat
  else if 65536 ≤ i then s.modTrust fun t => { t with idExhausted := true }
  else if !b.rpfInc then idFailed s i
  else
    let c := Config.xmssSign identityKey i (certMsg s ak kem i)
    let s := s.modTrust fun t => { t with idLeaf := i, akCert := c, flash := { t.flash with idIdx := t.flash.idIdx + 1 } }
    if 65536 - (i + 1) = 1024 then pldm s (.idLow 1024) else s

/-- A fresh AK, ML-KEM key pair, and reserve key with its tag key, and the AK's certificate; none of it again in a boot that has them
(R263, R415, R421). -/
def bootKeys (s : State) (b : BootIn) : State :=
  if s.trust.ak.isSome then s
  else
    let n := s.trust.draws
    let s := s.modTrust fun t =>
      { t with draws := n + 4, ak := some (n, 0), kem := some (n + 1), reserveKey := some (n + 2), idFail := false
               idExhausted := false, idLeaf := 0, akCert := [] }
    certifyAk s b n (n + 1)

/-- The flash ledger area read at boot, once K_BR is there and before the boot logs anything (R449): an area whose last entry is
not older than the ring's replaces the ring. -/
def readLedgerArea (s : State) : State :=
  match s.trust.flash.ledger with
  | none => s
  | some (es, next, at_, ok) =>
    if !ok then ledger s 2 6 0x0603 noUnit s.trust.flash.brVer.toNat
    else
      let s := s.modFlt fun f => { f with flushSeq := next - 1, flushTime := at_ }
      if s.flt.next ≤ next.toNat then s.modFlt fun f => { f with ring := es, next := next.toNat, fatalLast := true }
      else s

/-- Far-tier ports found at boot, each under IDE where it can be and its expander accepts the session, which is the expander's
own choice: a free value (R240, R432, log 3). -/
def bootFar (s : State) (caps : List Nat) : State :=
  (List.range 4).foldl (fun s p =>
    let cap := min (caps.getD p 0) 512
    let (v, s) := s.draw
    s.modMem fun m =>
      { m with farCap := SMap.set 0 m.farCap p cap, farUp := SMap.set false m.farUp p (cap != 0)
               farIde := SMap.set false m.farIde p (farSlotOk s p cap && bitB v 0) }) s

/-- The boot from a bank and a field copy that verify. -/
def bootFrom (s : State) (b : BootIn) (p : FwPkg) (c : FieldRec) : State :=
  let cold := !s.trust.activating
  let s := measureBoard s c
  let s := if cold then bootFar (applyBoard s c) b.farCap else ptpBoot s
  let s := bootKeys (extend s 1 (pkgComp p 1)) b
  let s := s.modTrust fun t => { t with fwVersion := pkgVersion p, fwSvn := pkgSvn p }
  let s := { s with pins := { s.pins with phase := .up, farPerst := false, farRefclk := true, faultN := false } }
  tryReady s

/-- The boot chain of R415 from the release of the security controller: P rebuilt and K_RPF checked, a bank verified and measured, the
board record verified. -/
def bootRun (s : State) (b : BootIn) : State :=
  if !b.pufOk || !rpfAuth s.trust.flash then bootHold s
  else
    let s := if s.trust.activating then s else readLedgerArea s
    match pickBank s with
    | none => bootHold s
    | some (p, s) =>
      let s := measureFw s p
      match boardOk s with
      | none => bootHold s
      | some c => bootFrom s b p c

/-- BOOT: t_b after the rails are up, or the restart of the management cores. -/
def execBoot (b : BootIn) (s : State) : Res :=
  .next (
    if s.pins.phase == .rails then bootRun { s with pins := { s.pins with tb := some s.ns } } b
    else if s.pins.phase == .booting then bootRun s b
    else s)

/-! ## Firmware restart and update (R375, R416, R433) -/

/-- FIRMWARE_RESTART: within 1 ms of activation the cores restart from the staged bank; the restart counts as a boot. -/
def execFirmwareRestart (s : State) : Res :=
  .next (
    if !s.trust.restartDue || s.pins.phase != .up then s
    else
      let s := zeroExchange (resetHostRegs (eraseSession (s.modHost fun h => { h with ready := false })))
      let s := clearMeas (clearMeas s 4) 5
      let s := s.modTrust fun t =>
        { t with ak := none, kem := none, akCert := [], idLeaf := 0, nonces := [], spdm := [], algs := false, jobKeys := none
                 reserveKey := none, fabricKey := none, restartDue := false, activating := true, restartAt := some s.ns
                 staged := false, pldmHolds := false, flash := { t.flash with active1 := !t.flash.active1 } }
      { s with pins := { s.pins with phase := .booting } })

/-- STAGED_FIRMWARE_TIMEOUT: no READY within 500 ms: the previous bank runs again, within the same boot (R416). -/
def execStagedFirmwareTimeout (s : State) : Res :=
  .next (
    match s.trust.restartAt with
    | some t =>
      if (s.pins.phase == .up || s.pins.phase == .booting) && decide (t + 500000000 ≤ s.ns) && !s.host.ready then
        let s := s.modTrust fun t => { t with restartAt := none, flash := { t.flash with active1 := !t.flash.active1 } }
        { s with pins := { s.pins with phase := .booting } }
      else s
    | none => s)

/-- A FIRMWARE_STAGE that waits for its extent holds the staging bank. -/
def stageHolds (s : State) : Bool :=
  (List.range 16).any fun q => match (s.sq q).cur with
    | some k => k.waiting && entOpcode k.entry == 0x0600
    | none => false

/-- PLDM_FIRMWARE_UPDATE: in service or in boot hold; the update keeps the staging bank (log 55). -/
def execPldmFirmwareUpdate (fw : FwPkg) (flashOk : Bool) (s : State) : Res :=
  .next (
    if !(s.pins.phase == .up || s.pins.phase == .bootHold) || stageHolds s then s
    else if !flashOk then s.modTrust fun t => { t with staged := false }
    else
      let ok := fwOk s fw
      (stageFw s fw ok).modTrust fun t => { t with pldmHolds := ok })

/-- BOARD_RECORD_RETRY: once per second after a failed write (R418). -/
def execBoardRecordRetry (flashOk : Bool) (s : State) : Res :=
  .next (if s.trust.boardDirty && decide (s.trust.boardAt + 1000000000 ≤ s.ns) then boardFlush s flashOk else s)

/-! ## SPDM (R332, R416, R432) -/

/-- An SPDM answer. -/
def answer (s : State) (o : SpdmOut) : State := s.modTrust fun t => { t with spdmOut := t.spdmOut ++ [o] }

/-- SPDM requests other than GET_VERSION are answered once the firmware runs. -/
def spdmUp (s : State) : Bool := s.pins.phase == .up

/-- Sessions changed. -/
def setSpdm (s : State) (f : List Spdm → List Spdm) : State := s.modTrust fun t => { t with spdm := f t.spdm }

/-- A session by number, established or not. -/
def spdmOf (s : State) (n : Nat) (open_ : Bool) : Option Spdm := s.trust.spdm.find? fun x => x.id == n && x.open_ == open_

/-- GET_VERSION: also in boot hold; what was negotiated is dropped. -/
def execGetVersion (s : State) : Res :=
  .next (
    if spdmUp s || s.pins.phase == .bootHold then answer (s.modTrust fun t => { t with algs := false }) .version else s)

def execGetCapabilities (s : State) : Res := .next (if spdmUp s then answer s .capabilities else s)

/-- NEGOTIATE_ALGORITHMS: TPM_ALG_SHA_384 and AES-256-GCM, or an error. -/
def execNegotiateAlgorithms (sha384 aesGcm : Bool) (s : State) : Res :=
  .next (
    if !spdmUp s then s
    else if sha384 && aesGcm then answer (s.modTrust fun t => { t with algs := true }) .algorithms
    else answer s .error)

/-- GET_MEASUREMENTS: MEAS[j] as 64 B, unsigned. -/
def execGetMeasurements (index : Nat) (s : State) : Res :=
  .next (
    if !spdmUp s then s
    else if s.trust.algs && decide (index < 8) then answer s (.measurement index (SMap.get 0 s.trust.meas index))
    else answer s .error)

/-- PSK_EXCHANGE: a session under a filled slot, not yet established. -/
def execPskExchange (slot : Nat) (s : State) : Res :=
  .next (
    if !spdmUp s then s
    else if s.trust.algs && decide (slot < 4) && (SMap.get none s.trust.flash.psk slot).isSome then
      let n := s.trust.nextSpdm
      let s := s.modTrust fun t => { t with nextSpdm := n + 1, spdm := t.spdm ++ [⟨n, slot, false⟩] }
      answer s (.pskRsp n)
    else answer s .error)

/-- PSK_FINISH: the requester's proof holds and the session is established; otherwise it ends. -/
def execPskFinish (session : Nat) (verified : Bool) (s : State) : Res :=
  .next (
    if !spdmUp s then s
    else match spdmOf s session false with
      | none => answer s .error
      | some x =>
        let rest := fun (l : List Spdm) => l.filter fun y => y.id != session
        if verified then answer (setSpdm s fun l => rest l ++ [{ x with open_ := true }]) (.finishRsp session)
        else answer (setSpdm s rest) .error)

def execHeartbeat (session : Nat) (s : State) : Res :=
  .next (
    if !spdmUp s then s
    else if (spdmOf s session true).isSome then answer s (.heartbeatAck session)
    else answer s .error)

def execEndSession (session : Nat) (s : State) : Res :=
  .next (
    if !spdmUp s then s
    else if (spdmOf s session true).isSome then
      answer (setSpdm s fun l => l.filter fun y => y.id != session) (.ended session)
    else answer s .error)

/-- EVIDENCE: the record of R423 under the nonce, with one AK leaf. -/
def execEvidence (nonce : BitVec 256) (s : State) : Res :=
  .next (
    if !spdmUp s then s
    else match evidence s nonce with
      | some (r, _, s) => answer s (.evidence r)
      | none => answer s .error)

/-- The PSK a provisioning message carries, under the secret that its ciphertext gives (log 56). -/
def provisioned (s : State) (ct psk tag : List Byte) : Option Beat :=
  match s.trust.kem with
  | none => none
  | some k =>
    match gcmOpen ((Config.kemDecap k ct).setWidth 512) (leBytes 12 0) ct psk tag with
    | some bs => if bs.length = 64 then some (beatOf bs) else none
    | none => none

/-- PSK_PROVISION: an empty slot in any state, a filled one inside a session under it; the slot's write authenticates with K_RPF
(R413, R432). -/
def execPskProvision (slot session : Nat) (ct psk tag : List Byte) (s : State) : Res :=
  .next (
    if !spdmUp s then s
    else
      let filled := (SMap.get none s.trust.flash.psk slot).isSome
      let inside := (spdmOf s session true).any fun x => x.slot == slot
      if 4 ≤ slot || (filled && !inside) then answer s .error
      else match provisioned s ct psk tag with
        | none => answer s .error
        | some v =>
          if !rpfAuth s.trust.flash then answer s .error else
          let s := s.modTrust fun t => { t with flash := { t.flash with psk := SMap.set none t.flash.psk slot (some v) } }
          answer s (.provisioned slot))

/-- IDE_KM inside a PSK session: keys of a stream of the upstream port, IO or cache and memory, which is active from now. -/
def execIdeKm (session : Nat) (stream : Bool) (s : State) : Res :=
  .next (
    if !spdmUp s then s
    else if (spdmOf s session true).isNone then answer s .error
    else
      let s := s.modHost fun h => { h with ideIo := h.ideIo || !stream, ideCm := h.ideCm || stream }
      answer s (.ideKm stream))

end Sys2Proof.Machine
end

