-- ==== Sys2Proof/Machine/Faults.lean ====
section
/-! DEFINITION. Management cores, tile faults and darning, GDDR7 channel faults and spares (R177 to R179, R434 to R443). -/

namespace Sys2Proof.Machine

/-! ## Management cores (R441) -/

/-- LOCKSTEP_MISMATCH of a pair: the core that passes its self-test joins the spare; with the spare in service, or with no
core that passes (log 57), a fatal fault, which in fatal hold begins a flush in progress anew (R438). -/
def execLockstepMismatch (pair : Nat) (survivor : Bool) (s : State) : Res :=
  .next (
    if !s.pins.mainOn then s
    else if s.flt.coreSpare || !survivor then fatalFault s 2
    else ledger (s.modFlt fun f => { f with coreSpare := true }) 2 8 0x0801 pair pair)

/-! ## Tiles (R178, R179, R434, R438) -/

/-- The row's spare is free. -/
def rowSpare (s : State) (t : Nat) : Bool := SMap.get 0xFF s.trust.board.darned (t / 32) == 0xFF

/-- A tile that cannot be darned is unavailable (R179, R438). -/
def tileGone (s : State) (t : Nat) : State :=
  let s := s.modTile t fun x => { x with failing := false, hardFail := false }
  if s.flt.unavail.contains t then s
  else ledger (s.modFlt fun f => { f with unavail := f.unavail ++ [t], rebind := true }) 2 1 0x0103 t t

/-- The row's spare is free, and no move under way takes it (R438). -/
def rowFree (s : State) (t : Nat) : Bool := rowSpare s t && !(s.flt.darning.any fun d => d.tile / 32 == t / 32)

/-- TILE_FAULT_PREDICTIVE: the tile is darned at the next seam. -/
def execTileFaultPredictive (t : Nat) (s : State) : Res :=
  .next (
    if !s.pins.mainOn || 1024 ≤ t then s
    else if rowFree s t then s.modTile t fun x => { x with failing := true }
    else tileGone s t)

/-- TILE_FAULT_HARD: DATA, and the tile is darned once IDLE, or at the same hold as a tile of another row whose move is under way
(R438). -/
def execTileFaultHard (t : Nat) (s : State) : Res :=
  .next (
    if !s.pins.mainOn || 1024 ≤ t then s
    else
      let s := if (s.tile t).gang.isSome then setLocal s 6 else s
      if rowFree s t then s.modTile t fun x => { x with hardFail := true, failing := x.failing || s.flt.darning.isSome } else tileGone s t)

/-- Every gang is held for a tile to be moved: at its seam while RUNNING, between steps while IDLE; trivially with no job
(R172, R216). A hard fault waits until IDLE, or is due at the hold in which it came (R438). -/
def darnDue (s : State) (t : Nat) : Bool :=
  let x := s.tile t
  s.pins.mainOn && s.flt.darning.isNone && (x.failing || x.hardFail) &&
  match s.stg.st with
  | .unbound => true
  | .idle => allHeld s
  | .running => x.failing && allHeld s
  | _ => false

/-- TILE_DARN: the move of the row begins and lasts 54,304 cycles (R178); a row whose spare has been taken meanwhile has no
place for the tile. -/
def execTileDarn (t : Nat) (readable flashOk : Bool) (s : State) : Res :=
  .next (
    if !darnDue s t then s
    else if !rowSpare s t then tileGone s t
    else
      let s := dropAcc (beginHold s)
      s.modFlt fun f => { f with darning := some ⟨t, s.clk.cycle + 54304, readable, flashOk⟩ })

/-- A tile whose state could not be read: zeros, the kept image, registers at reset (R178). -/
def lostTile (s : State) (t : Nat) : State :=
  let x := s.tile t
  let y : Tile := { x with scratch := [], hamper := [], acc := [], kfs := {}, mxs := {}, vrs := {}, ts := {}, pctVerdict := 0
                           raises := [], press := [] }
  match s.image with
  | some k => if x.gang.isSome then s.setTile t (loadTile (imgTile k.img t) { y with press := [{ id := 0 }] }) else s.setTile t y
  | none => s.setTile t y

/-- DARN_COMPLETE: the bypass is selected, the record and the ledger written; a tile's lost state is DATA and abandons the
step (R178, R225, R229). -/
def execDarnComplete (s : State) : Res :=
  .next (
    match s.flt.darning with
    | none => s
    | some d =>
      if s.clk.cycle < d.at_ then s
      else
        let x := s.tile d.tile
        let col := d.tile % 32
        let s := s.modTile d.tile fun x => { x with failing := false, hardFail := false }
        let s := boardSet s d.flashOk fun b => { b with darned := SMap.set 0xFF b.darned (d.tile / 32) col }
        let s := ledger s 1 1 0x0102 d.tile (col + bitAt x.hardFail 8)
        let stand := s.gangList.filter fun g => (s.gang g).seamAt.isSome
        let s := endHold (s.modFlt fun f => { f with darning := none, darnHold := stand })
        if d.readable then s
        else
          let s := lostTile s d.tile
          if x.gang.isSome then abandonCause (setLocal s 6) else s)

/-! ## Channels (R238, R443) -/

/-- The logical channel that a physical channel serves, as 16·die + channel. -/
def servedBy (s : State) (ch : Nat) : Option Nat := (List.range 32).find? fun k => physChan s k == ch

/-- The spare channel of a logical channel's die is unused. -/
def spareFree (s : State) (k : Nat) : Bool := !SMap.get false s.trust.board.chanSpare (k / 16)

/-- More than 4,096 corrected errors, or more than 16 retrains, within the hour. -/
def chanWorn (s : State) (c : ChanRep) : Bool := decide (4096 < SMap.get 0 s.flt.chanCe c.ch) || decide (16 < c.retrains)

/-- CHANNEL_FAULT_PREDICTIVE: a channel in service is marked failing. -/
def execChannelFaultPredictive (c : ChanRep) (s : State) : Res :=
  .next (
    if !s.pins.mainOn || (servedBy s c.ch).isNone || s.flt.chanFailing.contains c.ch || !chanWorn s c then s
    else s.modFlt fun f => { f with chanFailing := f.chanFailing ++ [c.ch] })

/-- Pages that hold a poisoned beat of a physical channel. -/
def badPages (s : State) (ch : Nat) : Nat :=
  ((s.mem.poison.filter fun (e : Nat × Bool) => decide (64 * e.1 < 0x4000000000) && physChan s (chanKey (64 * e.1)) == ch).map
    fun e => e.1 / 1024).dedup.length

/-- The channel fails to train, or poisoned beats cover more than 64 of its pages. -/
def chanBad (s : State) (c : ChanRep) : Bool := c.untrained || decide (64 < badPages s c.ch)

/-- CHANNEL_FAULT_HARD: DATA, and the job's data on the channel is lost; its beats are poisoned while it stays mapped. -/
def execChannelFaultHard (c : ChanRep) (s : State) : Res :=
  .next (
    if !s.pins.mainOn || (servedBy s c.ch).isNone || !chanBad s c then s
    else
      let ch := c.ch
      let s := setLocal s 6
      s.modFlt fun f =>
        { f with jobDataLost := true, chanFailing := f.chanFailing.erase ch
                 chanFailed := if f.chanFailed.contains ch then f.chanFailed else f.chanFailed ++ [ch] })

/-- The channel to be replaced now: a failed one before a failing one, whose die still has its spare; with its logical
channel. -/
def nextChannel (s : State) : Option (Nat × Nat) :=
  (s.flt.chanFailed ++ s.flt.chanFailing).findSome? fun ch =>
    (servedBy s ch).bind fun k => if spareFree s k then some (ch, k) else none

/-- The contents of logical channel `k` as zeros (R443). -/
def zeroChannel (s : State) (k : Nat) : State :=
  let keep := fun (a : Nat) => decide (0x4000000000 ≤ a) || chanKey a != k
  s.modMem fun m =>
    { m with dram := m.dram.filter fun (e : Nat × Byte) => keep e.1
             poison := m.poison.filter fun (e : Nat × Bool) => keep (64 * e.1) }

/-- Firmware reads logical channel `k` to copy it: each poisoned beat counts (R264, R443). -/
def chanReads (s : State) (k : Nat) : State :=
  ((suspects s 0 0x4000000000).filter fun a => chanKey a == k).foldl (fun s a => (dramRead s a).2.2) s

/-- CHANNEL_DARN: while IDLE or UNBOUND the spare takes the channel's place, with its contents where the fault was
predictive and zeroed where it was hard. -/
def execChannelDarn (flashOk : Bool) (s : State) : Res :=
  .next (
    if !s.pins.mainOn || !restful s then s
    else match nextChannel s with
      | none => s
      | some (ch, k) =>
        let hard := s.flt.chanFailed.contains ch
        let s := if hard then zeroChannel s k else chanReads s k
        let s := boardSet s flashOk fun b =>
          { b with chan := SMap.set 0xFF b.chan k (17 * (k / 16) + 16), chanSpare := SMap.set false b.chanSpare (k / 16) true }
        let s := s.modFlt fun f => { f with chanFailing := f.chanFailing.erase ch, chanFailed := f.chanFailed.erase ch }
        ledger s 1 2 0x0205 k (k + ch % 17 * 256 + bitAt hard 16))

end Sys2Proof.Machine
end

