-- ==== Sys2Proof/Machine/Bringup.lean ====
section
/-! DEFINITION. Rest and its end, the scrub's end, and what brings the module up and down: power-on, module reset, main
sequence, readiness (R266, R297, R399 to R401, R447, R449, R458 to R467). -/

namespace Sys2Proof.Machine

/-! ## Rest (R399 to R401) -/

/-- Rest can be entered: no seam event that comes before it is due, and every gang is held (R172, R216). -/
def restDue (s : State) : Bool :=
  s.rest.st == .pending && s.pins.mainOn && s.pre.pending.isNone && !s.pre.saving && s.pre.restoring.isNone &&
  s.flt.darning.isNone && !darnPending s &&
  match s.stg.st with
  | .unbound => true
  | .idle => s.pre.saved || allHeld s
  | .running => allHeld s
  | .preempted => true
  | _ => false

/-- REST_ENTRY: caches invalidated, GDDR7 in self-refresh, bands at 0.45 V, CCLK at OP0; REST_ENTER completes. -/
def execRestEntry (s : State) : Res :=
  .next (
    if !restDue s then s
    else
      let q := s.rest.queue
      let s := dropAcc (beginHold s)
      let s := { s with rest := { s.rest with st := .resting, queue := none, wakeAt := none } }
      let s := s.modHost fun h => { h with hwtCache := [] }
      let s := s.modMem fun m => { m with tlb := [], selfRefresh := true }
      let s := s.modGov fun g => { g with op := 0, rest := true }
      let s := (List.range 8).foldl (fun s b => s.modGov fun g => { g with vband := SMap.set 0 g.vband b 450 }) s
      let s := ledgerOpen s 4
      match q with
      | some q => complete s q 0 s.ns 0
      | none => s)

/-- The gangs at their seams leave them, where nothing else holds them. -/
def wakeGangs (s : State) : State :=
  if s.pre.saved then s
  else
    let s := endHold s
    if holdDue s then s else (s.gangList.filter fun g => (s.gang g).seamAt.isSome).foldl leaveSeam s

/-- WAKE_END: exactly 1 ms after the wake event: the level the job runs at, slot index 0, held signals, gangs, commands and
copies. A Rest that the cap has forced meanwhile is pending (R389). -/
def execWakeEnd (s : State) : Res :=
  .next (
    if s.rest.st != .waking || s.ns < s.rest.wakeAt.getD 0 + 1000000 then s
    else
      let s := { s with rest := { s.rest with st := if s.rest.forced then .pending else .awake, wakeAt := none } }
      let s := setLevel (s.modMem fun m => { m with selfRefresh := false }) 23 (agreedLevel s)
      let s := { s.modGov fun g => { g with rest := false } with
        clk := { s.clk with slot := 0, duty := 0, gap := false } }
      let s := if s.pre.saved then s else applyHeld s
      copiesGo (resumeRequests (retryWaiting (wakeGangs s))))

/-- SCRUB_COMPLETE (R266): waiting binds go on. -/
def execScrubComplete (s : State) : Res := .next (if s.mem.scrub then retryWaiting (scrubbed s) else s)

/-! ## Power-on and resets (R447, R460, R462 to R464) -/

/-- Every register at its Reset value, and what outlives it: the flash, the number of draws the TRNG has made, the pins as
they stand, MGMT_MODE and SMB_ADDR sampled anew, what is left of AUX_12V's 10 ms, and the ledger where the standby rail stayed. -/
def powerReset (s : State) (keepLedger : Bool) (ph : Phase) : State :=
  let r := State.reset
  { r with
    pending := s.pending, free := s.free
    trust := { r.trust with flash := s.trust.flash, draws := s.trust.draws }
    flt := { r.flt with ring := if keepLedger then s.flt.ring else [], next := if keepLedger then s.flt.next else 0
                        qlen := if keepLedger then s.flt.qlen else 0 }
    pins := { r.pins with phase := ph, modReset := s.pins.modReset, hostPerst := s.pins.hostPerst,
                          mgmtMode := s.pins.strapMode, smbAddr := s.pins.strapAddr, strapMode := s.pins.strapMode
                          strapAddr := s.pins.strapAddr, palert := s.pins.palert
                          auxDue := if keepLedger then s.pins.auxDue - s.ns else r.pins.auxDue } }

/-- POWER_ON: AUX_12V enters its limits. -/
def execPowerOn (s : State) : Res :=
  .next (
    if s.pins.phase == .unpowered then powerReset s false (if s.pins.modReset then .inReset else .standby) else s)

/-- A ledger flush is in progress (R449): it ends within 500 ms of the fault. -/
def flushing (s : State) : Bool :=
  (s.pins.phase == .fatalHold || s.pins.phase == .inReset) && s.pins.fatalCause != 0 && decide (s.ns < s.pins.fatalAt + 500000000)

/-- A power-on that a ledger flush has held back, once the flush is over (R464). -/
def lateOn (s : State) : State :=
  if s.pins.phase == .inReset && !s.pins.modReset && !flushing s then powerReset s true .standby else s

/-- The ledger area of a flush that AUX_12V's loss may have cut short: whether its tag holds is a free value (R464,
log 3). -/
def cutFlush (s : State) : State :=
  if flushing s then
    let (v, s) := s.draw
    s.modTrust fun t =>
      { t with flash := { t.flash with ledger := t.flash.ledger.map fun (l : _ × _ × _ × Bool) =>
          (l.1, l.2.1, l.2.2.1, l.2.2.2 && bitB v 0) } }
  else s

/-- AUX_12V_LOSS: every rail falls and the ring is lost. -/
def execAux12vLoss (s : State) : Res :=
  .next (if s.pins.phase == .unpowered then s else powerReset (cutFlush s) false .unpowered)

/-- Every key of the boot erased too: the AK, the ML-KEM key pair, the reserve key (R421, R431). -/
def eraseBoot (s : State) : State :=
  (eraseKeys s).modTrust fun t => { t with ak := none, akCert := [], kem := none, reserveKey := none, restartAt := none, restartDue := false }

/-- MOD_RESET_ASSERT, recognised: gangs frozen, LEAVE sent, keys erased, main rails off, with them the bands' voltages and what goes
to the far-tier expanders; FAULT_N as it was (R463). Unpowered the module only sees the pin. -/
def execModResetAssert (s : State) : Res :=
  .next (
    if s.pins.modReset then s
    else if s.pins.phase == .unpowered then { s with pins := { s.pins with modReset := true } }
    else
      let s := eraseBoot (if s.pins.mainOn then leaveJob (freezeAll s) else s)
      let s := s.modHost fun h => { h with ready := false, linkUp := false, downSince := none }
      { s.modGov fun g => { g with vband := [] } with
        pins := { s.pins with modReset := true, phase := .inReset, mainOn := false, tb := none, farPerst := true, farRefclk := false } })

/-- MOD_RESET_DEASSERT: a power-on that keeps the ledger, once no ledger flush is in progress (R464). -/
def execModResetDeassert (s : State) : Res :=
  .next (
    if s.pins.modReset then lateOn { s with pins := { s.pins with modReset := false } }
    else s)

/-! ## The main sequence (R465) -/

/-- The rails come up, band rails at 0.52 V and CCLK at OP0; a rail out of regulation stops the sequence, and a second
failure is the last. -/
def mainRails (s : State) (fail : Bool) : State :=
  if fail then
    let n := s.pins.seqFails + 1
    { s with pins := { s.pins with mainOn := false, faultN := true, seqFails := n, seqAt := s.ns
                                   phase := if 2 ≤ n then .seqFailed else .seqRetry } }
  else
    let s := (List.range 8).foldl (fun s b => s.modGov fun g => { g with vband := SMap.set 0 g.vband b 520 }) s
    let s := { s with pins := { s.pins with mainOn := true, faultN := false, phase := .rails } }
    if s.pins.palert then alertSeen s else s

/-- MAIN_SEQUENCE: VIN48 has qualified; AUX_12V too, MOD_RESET_N is deasserted, and no ledger flush is pending. -/
def execMainSequence (fail : Bool) (s : State) : Res :=
  .next (
    let s := lateOn s
    if s.pins.phase == .standby && !s.pins.modReset && decide (s.pins.auxDue ≤ s.ns) then mainRails s fail else s)

/-- SEQUENCE_RETRY: once, 1 s after the failure. -/
def execSequenceRetry (fail : Bool) (s : State) : Res :=
  .next (if s.pins.phase == .seqRetry && decide (s.pins.seqAt + 1000000000 ≤ s.ns) then mainRails s fail else s)

/-- MAIN_INPUT_LOSS: before t_b the rails go off, and the sequence waits for VIN48 to qualify again (R462). -/
def execMainInputLoss (s : State) : Res :=
  .next (
    if s.pins.tb.isNone && (s.pins.phase == .rails || s.pins.phase == .seqRetry) then
      { s with pins := { s.pins with mainOn := false, phase := .standby } }
    else s)

/-- VIN48_FAULT: outside the fatal limits for 100 µs after t_b (R458, R435). -/
def execVin48Fault (s : State) : Res := .next (if s.pins.mainOn && s.pins.tb.isSome then fatalFault s 4 else s)

/-- VIN48_WARNING_TICK: in the tolerated range, once per second. -/
def execVin48WarningTick (s : State) : Res :=
  .next (
    if s.pins.mainOn && s.pins.tb.isSome && s.pins.vinWarnAt.all (fun t => decide (t + 1000000000 ≤ s.ns)) then
      pldm { s with pins := { s.pins with vinWarnAt := some s.ns } } .vinWarning
    else s)

/-! ## Readiness and links (R297, R376, R467) -/

/-- FULL_READINESS: reported through PLDM; waiting binds go on. -/
def execFullReadiness (s : State) : Res :=
  .next (
    if s.pins.phase == .up && !s.pins.full then
      retryWaiting (pldm { s with pins := { s.pins with full := true } } .fullReadiness)
    else s)

/-- FABRIC_TRAIN_RETRY: a port with no answering peer stays OFF; a peer that answers is PORT_TRAINED (R467). -/
def execFabricTrainRetry (s : State) : Res := .next s

/-- PORT_TRAINED: the port's link is trained; a PORT_CONFIG that returns it to service completes (R297, R298, R376). -/
def execPortTrained (p : Nat) (s : State) : Res := .next (if 18 ≤ p then s else portCfgDone (portTrain s p) p 1)

end Sys2Proof.Machine
end

