-- ==== Sys2Proof/Machine/Tick.lean ====
section
/-! DEFINITION. One cycle of the compute clock, which a step on an empty queue makes (log 1): the end of the cycle in
progress, the next cycle and slot, and the time counter (R103, R157 to R159, R164, R165, R175, R205, R206, R228, R379, R393,
R398, R403, R446). -/

namespace Sys2Proof.Machine

/-! ## The end of a cycle in a tile -/

/-- A receive whose cycle this is has had no flit: a slot fault, and it writes and signals no more (R205). -/
def recvMiss (t : Nat) (s : State) (o : Op) : State :=
  let c := s.clk.cycle
  if o.kind == .recv && !o.bad && decide (o.ts ≤ c) && decide (c ≤ o.fin) && decide (o.got ≤ c - o.ts) then
    slotFault (s.modOp t o.id fun o => { o with bad := true }) t (some o.thread) 7 0xFF s.slotN 7
  else s

/-- Where no instruction has issued: the threads that miss their lines raise fill requests, and a word whose OP is reserved
is a slot fault (R158, R186, R206). -/
def idleIssue (s : State) (t : Nat) : State :=
  if !tileIssues s t then s
  else
    let x := s.tile t
    match ringPick x with
    | none => s.modTile t fun x => raiseFills s.clk.cycle x none
    | some p =>
      let th := x.ring.getD p 0
      match fetchWord x (x.ctx th).pc with
      | none => s
      | some w => if (decodeThread t th w).isNone then issueFault (beginIssue s t th) t th 1 else s

/-- An active cycle of a used tile ends. -/
def tileEnd (s : State) (t : Nat) : State :=
  let s := (s.tile t).ops.foldl (recvMiss t) s
  let s := (s.tile t).ops.foldl (xferCycle t) s
  let s := (s.tile t).ops.foldl (sendCycle t) s
  let s := s.modTile t fun x => readPre x s.clk.cycle
  let s := idleIssue (hazardDue s t) t
  pressCycle s t

/-- What the next cycle sees of this one (R157, R160, R165, R193). -/
def tileNext (x : Tile) : Tile := { x with ecPrev := x.ec, dlPrev := x.dl, issuedNow := false, slotUsed := [] }

/-- A flit due in this cycle reaches its tile (R164, R175); one for a tile the map does not use goes nowhere. -/
def dueFlit (s : State) (w : Wire) : State :=
  let s := { s with wires := s.wires.erase w }
  if (s.tile w.tile).gang.isSome then takeFlit s w.tile w.port w.flit else s

/-- The active cycle in progress ends in every tile. -/
def cycleEnd (s : State) : State :=
  if !tilesRun s || idleNow s then s
  else
    let s := (s.wires.filter fun w => w.at_ ≤ s.clk.cycle).foldl dueFlit s
    s.usedTiles.foldl tileEnd s

def nextTiles (m : SMap Tile) : SMap Tile := SMap.remap {} (fun _ x => tileNext x) m

/-! ## The next cycle -/

/-- The slot-frame boundary just reached is the last one before the next lacing instant, at which an agreed level of another
operating point takes effect (R393). -/
def gapDue (s : State) : Bool :=
  match s.lace.level with
  | none => false
  | some l =>
    let left := (s.lace.k + 1) * 100000 - s.ns
    levelOp (min l (hardCeil s)) != s.gov.op && decide (left * s.gov.duty * opMHz s.gov.op < 256 * 8 * 1000)

/-- The duty pattern, and in an active cycle the cycle count and slot index, advance (R159, R379), and gangs at their seams go on
(R171); a gap begins or, with no level to wait for, ends (R393). -/
def advance (s : State) : State :=
  let s := { s with clk := { s.clk with
    duty := s.clk.duty + 1, stretch := if s.clk.stretch ≤ 1 then s.clk.stretch else s.clk.stretch - 1
    gap := s.clk.gap && (s.lace.level.isSome || s.lace.due.isSome) } }
  if idleNow s then s
  else
    let s := s.modGov fun g => { g with active := g.active + 1 }
    let s := bridgeCycle { s with clk := { s.clk with cycle := s.clk.cycle + 1, slot := s.clk.slot + 1 } }
    let s := if s.clk.slot == 0 && gapDue s then { s with clk := { s.clk with gap := true } } else s
    if tilesRun s then gangCycle s else s

/-! ## Time (R228, R402, R403, R446) -/

/-- Every gang the step names is held for pre-emption, Rest or darning, or the module is PREEMPTED or in Rest (R228). -/
def deadlineHeld (s : State) : Bool :=
  let event := s.pre.pending.isSome || s.pre.saved || s.pre.restoring.isSome || s.flt.darning.isSome || darnPending s ||
    s.rest.st != .awake
  let held := fun g => (s.gang g).seamAt.isSome || quiescent s g
  s.stg.st == .preempted || s.rest.st == .resting || s.rest.st == .waking ||
    (event && (s.gangList.filter fun g => bitB s.stg.gangs g).all held)

/-- The interval left out of the deadline begins or ends. -/
def deadlineMark (s : State) : State :=
  if s.stg.timer.isNone then s
  else match s.stg.exclFrom, deadlineHeld s with
    | none, true => s.modStg fun g => { g with exclFrom := some s.ns }
    | some t, false => s.modStg fun g => { g with exclFrom := none, excluded := g.excluded + (s.ns - t) }
    | _, _ => s

/-- An offset being removed after a tick at increment `incr`: gone once nothing of it is left. -/
def residualAfter (r : Int) (incr : Nat) : Int :=
  let r' := r - ((incr : Int) - nominalIncr)
  if (0 < r && 0 < r') || (r < 0 && r' < 0) then r' else 0

/-- A tick of the time clock: TIME_NOW advances by TIME_INCR, which is nominal again once an offset being removed is gone
(R403). -/
def timeTick (s : State) : State :=
  let i := s.tm.incr
  let r := residualAfter s.tm.residual i.toNat
  { s with tm := { s.tm with now := s.tm.now + i.setWidth 96, residual := r, incr := if r = 0 && s.tm.residual != 0 then BitVec.ofNat 40 nominalIncr else i } }

/-- A CCLK period passes on the time clock's scale, a stretched one a quarter longer (R398, R402). -/
def timePass (s : State) : State :=
  let f := opMHz s.gov.op
  let ph := s.clk.phase + (if s.clk.stretch = 0 then 400 else 500)
  if f ≤ ph then timeTick { s with clk := { s.clk with phase := ph - f } }
  else { s with clk := { s.clk with phase := ph } }

/-- The ledger's queue gives up an entry every 250 ns (R446). -/
def drainLedger (s : State) : State :=
  s.modFlt fun f =>
    let n := (s.ns - f.drainedAt) / 250
    if f.qlen ≤ n then { f with qlen := 0, drainedAt := s.ns } else { f with qlen := f.qlen - n, drainedAt := f.drainedAt + 250 * n }

/-- A new cycle: the bits set by hardware in the last one can be cleared (R8). -/
def newCycle (s : State) : State := s.modHost fun h => { h with intNow := 0, llrNow := false }

/-- One cycle. Without the main rails the always-on domain's time goes on alone; without power nothing does. -/
def tick (s : State) : State :=
  if s.pins.phase == .unpowered then s
  else if !s.pins.mainOn then lateOn (drainLedger (timeTick (newCycle s)))
  else
    let s := deadlineMark (cycleEnd (newCycle s))
    let s := timePass { s with tiles := nextTiles s.tiles }
    retryWaiting (drainLedger (settlePorts (advance s)))

end Sys2Proof.Machine
end

