-- ==== Sys2Proof/Machine/Dispatch.lean ====
section
/-! DEFINITION. One arm per command (the host reads them arm by arm). -/

namespace Sys2Proof.Machine

/-- The effect of a command on everything but the queue. -/
def exec (i : Instr) (s : State) : Host.Outcome State Fault Refusal :=
  match i with
  | .add t th sd sa sb => Sys2Proof.Machine.execAdd t th sd sa sb s
  | .sub t th sd sa sb => Sys2Proof.Machine.execSub t th sd sa sb s
  | .and t th sd sa sb => Sys2Proof.Machine.execAnd t th sd sa sb s
  | .or t th sd sa sb => Sys2Proof.Machine.execOr t th sd sa sb s
  | .xor t th sd sa sb => Sys2Proof.Machine.execXor t th sd sa sb s
  | .shl t th sd sa sb => Sys2Proof.Machine.execShl t th sd sa sb s
  | .shr t th sd sa sb => Sys2Proof.Machine.execShr t th sd sa sb s
  | .sra t th sd sa sb => Sys2Proof.Machine.execSra t th sd sa sb s
  | .mul t th sd sa sb => Sys2Proof.Machine.execMul t th sd sa sb s
  | .sltu t th sd sa sb => Sys2Proof.Machine.execSltu t th sd sa sb s
  | .slt t th sd sa sb => Sys2Proof.Machine.execSlt t th sd sa sb s
  | .addi t th sd sa imm => Sys2Proof.Machine.execAddi t th sd sa imm s
  | .li t th sd imm => Sys2Proof.Machine.execLi t th sd imm s
  | .rdtr t th sd sa imm => Sys2Proof.Machine.execRdtr t th sd sa imm s
  | .rdsys t th sd imm => Sys2Proof.Machine.execRdsys t th sd imm s
  | .jmp t th imm => Sys2Proof.Machine.execJmp t th imm s
  | .jal t th sd imm => Sys2Proof.Machine.execJal t th sd imm s
  | .jr t th sa => Sys2Proof.Machine.execJr t th sa s
  | .beq t th sa sb imm => Sys2Proof.Machine.execBeq t th sa sb imm s
  | .bne t th sa sb imm => Sys2Proof.Machine.execBne t th sa sb imm s
  | .bltu t th sa sb imm => Sys2Proof.Machine.execBltu t th sa sb imm s
  | .bgeu t th sa sb imm => Sys2Proof.Machine.execBgeu t th sa sb imm s
  | .blt t th sa sb imm => Sys2Proof.Machine.execBlt t th sa sb imm s
  | .bge t th sa sb imm => Sys2Proof.Machine.execBge t th sa sb imm s
  | .nopInstruction t th => Sys2Proof.Machine.execNopInstruction t th s
  | .halt t th => Sys2Proof.Machine.execHalt t th s
  | .wait t th sa cnt imm => Sys2Proof.Machine.execWait t th sa cnt imm s
  | .signal t th cnt amt => Sys2Proof.Machine.execSignal t th cnt amt s
  | .pressPoint t th cnt round => Sys2Proof.Machine.execPressPoint t th cnt round s
  | .seam t th no tset => Sys2Proof.Machine.execSeam t th no tset s
  | .matrix t th f => Sys2Proof.Machine.execMatrix t th f s
  | .matvec t th f => Sys2Proof.Machine.execMatvec t th f s
  | .vector t th f => Sys2Proof.Machine.execVector t th f s
  | .xfer t th f => Sys2Proof.Machine.execXfer t th f s
  | .dload t th f => Sys2Proof.Machine.execDload t th f s
  | .send t th f => Sys2Proof.Machine.execSend t th f s
  | .recv t th f => Sys2Proof.Machine.execRecv t th f s
  | .operationStart t op => Sys2Proof.Machine.execOperationStart t op s
  | .matrixComplete t op => Sys2Proof.Machine.execMatrixComplete t op s
  | .matvecComplete t op => Sys2Proof.Machine.execMatvecComplete t op s
  | .vectorComplete t op => Sys2Proof.Machine.execVectorComplete t op s
  | .xferComplete t op ce ue => Sys2Proof.Machine.execXferComplete t op ce ue s
  | .sendComplete t op => Sys2Proof.Machine.execSendComplete t op s
  | .recvComplete t op => Sys2Proof.Machine.execRecvComplete t op s
  | .inboundFlit t port flit => Sys2Proof.Machine.execInboundFlit t port flit s
  | .fetchFill t bank => Sys2Proof.Machine.execFetchFill t bank s
  | .seamTake g => Sys2Proof.Machine.execSeamTake g s
  | .seamLeave g => Sys2Proof.Machine.execSeamLeave g s
  | .pressCheckComplete t => Sys2Proof.Machine.execPressCheckComplete t s
  | .pressVerdict t => Sys2Proof.Machine.execPressVerdict t s
  | .stepStartSignal => Sys2Proof.Machine.execStepStartSignal s
  | .deadlineCheck => Sys2Proof.Machine.execDeadlineCheck s
  | .rewind => Sys2Proof.Machine.execRewind s
  | .tally p m => Sys2Proof.Machine.execTally p m s
  | .vote p m => Sys2Proof.Machine.execVote p m s
  | .result p m => Sys2Proof.Machine.execResult p m s
  | .flipAck p m => Sys2Proof.Machine.execFlipAck p m s
  | .release p m => Sys2Proof.Machine.execRelease p m s
  | .query p m => Sys2Proof.Machine.execQuery p m s
  | .abandon p m => Sys2Proof.Machine.execAbandon p m s
  | .roundTimeout => Sys2Proof.Machine.execRoundTimeout s
  | .commitHoldTimeout => Sys2Proof.Machine.execCommitHoldTimeout s
  | .frameReceive p f => Sys2Proof.Machine.execFrameReceive p f s
  | .hello p flit => Sys2Proof.Machine.execHello p flit s
  | .laneSwap p flit => Sys2Proof.Machine.execLaneSwap p flit s
  | .laneAck p flit => Sys2Proof.Machine.execLaneAck p flit s
  | .down p flit => Sys2Proof.Machine.execDown p flit s
  | .retrained p flit => Sys2Proof.Machine.execRetrained p flit s
  | .write p m => Sys2Proof.Machine.execWrite p m s
  | .read p m => Sys2Proof.Machine.execRead p m s
  | .atomic p m => Sys2Proof.Machine.execAtomic p m s
  | .remoteSignal p m => Sys2Proof.Machine.execRemoteSignal p m s
  | .ack p m => Sys2Proof.Machine.execAck p m s
  | .readResp p m => Sys2Proof.Machine.execReadResp p m s
  | .atomicResp p m => Sys2Proof.Machine.execAtomicResp p m s
  | .error p m => Sys2Proof.Machine.execError p m s
  | .cput p m => Sys2Proof.Machine.execCput p m s
  | .leave p m => Sys2Proof.Machine.execLeave p m s
  | .resync p m => Sys2Proof.Machine.execResync p m s
  | .resyncReply p m => Sys2Proof.Machine.execResyncReply p m s
  | .offer p m => Sys2Proof.Machine.execOffer p m s
  | .set p m => Sys2Proof.Machine.execSet p m s
  | .time p m rx => Sys2Proof.Machine.execTime p m rx s
  | .timeSend => Sys2Proof.Machine.execTimeSend s
  | .laneLockLoss p lane => Sys2Proof.Machine.execLaneLockLoss p lane s
  | .laneErrorWindow p lane bytes => Sys2Proof.Machine.execLaneErrorWindow p lane bytes s
  | .linkSilence p => Sys2Proof.Machine.execLinkSilence p s
  | .resyncTimeout p => Sys2Proof.Machine.execResyncTimeout p s
  | .portReturn p peerIdle => Sys2Proof.Machine.execPortReturn p peerIdle s
  | .mvEnq t op m d => Sys2Proof.Machine.execMvEnq t op m d s
  | .moverCopy m win => Sys2Proof.Machine.execMoverCopy m win s
  | .atomicDescriptor m => Sys2Proof.Machine.execAtomicDescriptor m s
  | .collectiveDescriptor m win => Sys2Proof.Machine.execCollectiveDescriptor m win s
  | .permutationDescriptor m win => Sys2Proof.Machine.execPermutationDescriptor m win s
  | .memoryBeatReturn t op beat win winOk ce ue => Sys2Proof.Machine.execMemoryBeatReturn t op beat win winOk ce ue s
  | .inboundDrain t bank => Sys2Proof.Machine.execInboundDrain t bank s
  | .outboundBeatDrain t chan => Sys2Proof.Machine.execOutboundBeatDrain t chan s
  | .faultRetry n => Sys2Proof.Machine.execFaultRetry n s
  | .faultError n => Sys2Proof.Machine.execFaultError n s
  | .farResponseTimeout t op beat => Sys2Proof.Machine.execFarResponseTimeout t op beat s
  | .farMissLimit n => Sys2Proof.Machine.execFarMissLimit n s
  | .hwinLimit n => Sys2Proof.Machine.execHwinLimit n s
  | .farRequestTimeout n => Sys2Proof.Machine.execFarRequestTimeout n s
  | .farPortDown p => Sys2Proof.Machine.execFarPortDown p s
  | .farPortUp p => Sys2Proof.Machine.execFarPortUp p s
  | .farPortEnumerated p cap ide => Sys2Proof.Machine.execFarPortEnumerated p cap ide s
  | .pageRetire page => Sys2Proof.Machine.execPageRetire page s
  | .scrubComplete => Sys2Proof.Machine.execScrubComplete s
  | .preemptSave => Sys2Proof.Machine.execPreemptSave s
  | .saveComplete => Sys2Proof.Machine.execSaveComplete s
  | .restoreComplete => Sys2Proof.Machine.execRestoreComplete s
  | .sqTail q v => Sys2Proof.Machine.execSqTail q v s
  | .cqHead q v => Sys2Proof.Machine.execCqHead q v s
  | .sqEnable q => Sys2Proof.Machine.execSqEnable q s
  | .sqDisable q => Sys2Proof.Machine.execSqDisable q s
  | .cqEnable q => Sys2Proof.Machine.execCqEnable q s
  | .cqDisable q => Sys2Proof.Machine.execCqDisable q s
  | .sqResume q => Sys2Proof.Machine.execSqResume q s
  | .entryReread q e => Sys2Proof.Machine.execEntryReread q e s
  | .hwtInval v ents => Sys2Proof.Machine.execHwtInval v ents s
  | .llrClear => Sys2Proof.Machine.execLlrClear s
  | .timeNowRead => Sys2Proof.Machine.execTimeNowRead s
  | .registerWrite who off width v => Sys2Proof.Machine.execRegisterWrite who off width v s
  | .h2dSnoop addr => Sys2Proof.Machine.execH2dSnoop addr s
  | .exchangeAreaAccess wr off line => Sys2Proof.Machine.execExchangeAreaAccess wr off line s
  | .configRequest => Sys2Proof.Machine.execConfigRequest s
  | .linkDown => Sys2Proof.Machine.execLinkDown s
  | .linkUp lanes rate => Sys2Proof.Machine.execLinkUp lanes rate s
  | .linkDownTimeout => Sys2Proof.Machine.execLinkDownTimeout s
  | .hostPerstAssert => Sys2Proof.Machine.execHostPerstAssert s
  | .hostPerstDeassert => Sys2Proof.Machine.execHostPerstDeassert s
  | .hotReset => Sys2Proof.Machine.execHotReset s
  | .functionLevelReset => Sys2Proof.Machine.execFunctionLevelReset s
  | .cxlReset => Sys2Proof.Machine.execCxlReset s
  | .nop q e => Sys2Proof.Machine.execNop q e s
  | .identify q e => Sys2Proof.Machine.execIdentify q e s
  | .sessionOpen q e => Sys2Proof.Machine.execSessionOpen q e s
  | .sessionClose q e => Sys2Proof.Machine.execSessionClose q e s
  | .attest q e => Sys2Proof.Machine.execAttest q e s
  | .imageLoad q e img tags => Sys2Proof.Machine.execImageLoad q e img tags s
  | .imageUnload q e => Sys2Proof.Machine.execImageUnload q e s
  | .jobBind q e cfg tags => Sys2Proof.Machine.execJobBind q e cfg tags s
  | .jobRelease q e => Sys2Proof.Machine.execJobRelease q e s
  | .jobReleaseForce q e => Sys2Proof.Machine.execJobReleaseForce q e s
  | .stepRun q e => Sys2Proof.Machine.execStepRun q e s
  | .preempt q e => Sys2Proof.Machine.execPreempt q e s
  | .resume q e => Sys2Proof.Machine.execResume q e s
  | .copyIn q e plain tags => Sys2Proof.Machine.execCopyIn q e plain tags s
  | .copyOut q e => Sys2Proof.Machine.execCopyOut q e s
  | .writeInline q e => Sys2Proof.Machine.execWriteInline q e s
  | .powerSet q e => Sys2Proof.Machine.execPowerSet q e s
  | .powerQuery q e => Sys2Proof.Machine.execPowerQuery q e s
  | .restEnter q e => Sys2Proof.Machine.execRestEnter q e s
  | .countersSnapshotInstant q e => Sys2Proof.Machine.execCountersSnapshotInstant q e s
  | .countersSnapshotSeam q e => Sys2Proof.Machine.execCountersSnapshotSeam q e s
  | .snapshotCopy => Sys2Proof.Machine.execSnapshotCopy s
  | .snapshotSeamCopy => Sys2Proof.Machine.execSnapshotSeamCopy s
  | .ledgerRead q e => Sys2Proof.Machine.execLedgerRead q e s
  | .auditRead q e => Sys2Proof.Machine.execAuditRead q e s
  | .firmwareStage q e fw flashOk => Sys2Proof.Machine.execFirmwareStage q e fw flashOk s
  | .firmwareActivate q e => Sys2Proof.Machine.execFirmwareActivate q e s
  | .firmwareRestart => Sys2Proof.Machine.execFirmwareRestart s
  | .stagedFirmwareTimeout => Sys2Proof.Machine.execStagedFirmwareTimeout s
  | .portConfigOut q e => Sys2Proof.Machine.execPortConfigOut q e s
  | .portConfigReturn q e => Sys2Proof.Machine.execPortConfigReturn q e s
  | .portStatus q e => Sys2Proof.Machine.execPortStatus q e s
  | .govWindow w => Sys2Proof.Machine.execGovWindow w s
  | .govCalibrate m => Sys2Proof.Machine.execGovCalibrate m s
  | .capUnattainable => Sys2Proof.Machine.execCapUnattainable s
  | .bmcCapSet mw => Sys2Proof.Machine.execBmcCapSet mw s
  | .lacingInstant => Sys2Proof.Machine.execLacingInstant s
  | .offerTimeout => Sys2Proof.Machine.execOfferTimeout s
  | .setTimeout => Sys2Proof.Machine.execSetTimeout s
  | .setMiss => Sys2Proof.Machine.execSetMiss s
  | .levelSwitch => Sys2Proof.Machine.execLevelSwitch s
  | .palertAssert => Sys2Proof.Machine.execPalertAssert s
  | .alertClockSwitch => Sys2Proof.Machine.execAlertClockSwitch s
  | .palertDeassert => Sys2Proof.Machine.execPalertDeassert s
  | .bandHot b temp => Sys2Proof.Machine.execBandHot b temp s
  | .bandThermalDescent b temp => Sys2Proof.Machine.execBandThermalDescent b temp s
  | .gddr7Hot => Sys2Proof.Machine.execGddr7Hot s
  | .thermalTrip => Sys2Proof.Machine.execThermalTrip s
  | .securitySelfTestFail => Sys2Proof.Machine.execSecuritySelfTestFail s
  | .droopDetect b => Sys2Proof.Machine.execDroopDetect b s
  | .droopStretchEnd b firing => Sys2Proof.Machine.execDroopStretchEnd b firing s
  | .railSensorFault rail => Sys2Proof.Machine.execRailSensorFault rail s
  | .regulatorPhaseFail rail phase maxOp => Sys2Proof.Machine.execRegulatorPhaseFail rail phase maxOp s
  | .trimUpdate need => Sys2Proof.Machine.execTrimUpdate need s
  | .restEntry => Sys2Proof.Machine.execRestEntry s
  | .wakeEnd => Sys2Proof.Machine.execWakeEnd s
  | .ptpSync m => Sys2Proof.Machine.execPtpSync m s
  | .ptpFollowUp m => Sys2Proof.Machine.execPtpFollowUp m s
  | .ptpDelayReq seq sent => Sys2Proof.Machine.execPtpDelayReq seq sent s
  | .ptpDelayResp m => Sys2Proof.Machine.execPtpDelayResp m s
  | .ptpAnnounce a => Sys2Proof.Machine.execPtpAnnounce a s
  | .announceTimeout => Sys2Proof.Machine.execAnnounceTimeout s
  | .getVersion => Sys2Proof.Machine.execGetVersion s
  | .getCapabilities => Sys2Proof.Machine.execGetCapabilities s
  | .negotiateAlgorithms sha384 aesGcm => Sys2Proof.Machine.execNegotiateAlgorithms sha384 aesGcm s
  | .getMeasurements index => Sys2Proof.Machine.execGetMeasurements index s
  | .pskExchange slot => Sys2Proof.Machine.execPskExchange slot s
  | .pskFinish session verified => Sys2Proof.Machine.execPskFinish session verified s
  | .heartbeat session => Sys2Proof.Machine.execHeartbeat session s
  | .endSession session => Sys2Proof.Machine.execEndSession session s
  | .evidence nonce => Sys2Proof.Machine.execEvidence nonce s
  | .pskProvision slot session ct psk tag => Sys2Proof.Machine.execPskProvision slot session ct psk tag s
  | .pldmFirmwareUpdate fw flashOk => Sys2Proof.Machine.execPldmFirmwareUpdate fw flashOk s
  | .boardRecordRetry flashOk => Sys2Proof.Machine.execBoardRecordRetry flashOk s
  | .lockstepMismatch pair survivor => Sys2Proof.Machine.execLockstepMismatch pair survivor s
  | .tileFaultPredictive t => Sys2Proof.Machine.execTileFaultPredictive t s
  | .tileFaultHard t => Sys2Proof.Machine.execTileFaultHard t s
  | .tileDarn t readable flashOk => Sys2Proof.Machine.execTileDarn t readable flashOk s
  | .darnComplete => Sys2Proof.Machine.execDarnComplete s
  | .channelFaultPredictive ch => Sys2Proof.Machine.execChannelFaultPredictive ch s
  | .channelFaultHard ch => Sys2Proof.Machine.execChannelFaultHard ch s
  | .channelDarn flashOk => Sys2Proof.Machine.execChannelDarn flashOk s
  | .powerOn => Sys2Proof.Machine.execPowerOn s
  | .aux12vLoss => Sys2Proof.Machine.execAux12vLoss s
  | .modResetAssert => Sys2Proof.Machine.execModResetAssert s
  | .modResetDeassert => Sys2Proof.Machine.execModResetDeassert s
  | .mainSequence fail => Sys2Proof.Machine.execMainSequence fail s
  | .sequenceRetry fail => Sys2Proof.Machine.execSequenceRetry fail s
  | .vin48Fault => Sys2Proof.Machine.execVin48Fault s
  | .vin48WarningTick => Sys2Proof.Machine.execVin48WarningTick s
  | .boot b => Sys2Proof.Machine.execBoot b s
  | .fullReadiness => Sys2Proof.Machine.execFullReadiness s
  | .fabricTrainRetry => Sys2Proof.Machine.execFabricTrainRetry s
  | .frameSend p => Sys2Proof.Machine.execFrameSend p s
  | .portTrained p => Sys2Proof.Machine.execPortTrained p s
  | .sensorRecovery => Sys2Proof.Machine.execSensorRecovery s
  | .mainInputLoss => Sys2Proof.Machine.execMainInputLoss s
  | .ideKm session stream => Sys2Proof.Machine.execIdeKm session stream s

end Sys2Proof.Machine
end

