-- ==== Sys2Proof/Machine/Step.lean ====
section
/-! DEFINITION. One step: the command at the front of the queue, or one cycle of the clock. -/

namespace Sys2Proof.Machine

/-- The word's command put at the front of the queue; no word spells one (`decodeTableWord`). -/
def State.withFetchWord (s : State) (nbits w : Nat) : State :=
  match decodeTableWord nbits w with
  | some i => { s with pending := i :: s.pending }
  | none => s

/-- The command at the front runs with the queue's rest; on an empty queue one cycle passes (log 1). -/
def step (s : State) : Host.Outcome State Fault Refusal :=
  match s.pending with
  | i :: rest => exec i { s with pending := rest }
  | [] => .next (tick s)

end Sys2Proof.Machine
end

