-- ==== Sys2Proof/Laws/SMap.lean ====
section
/-! SUPPORT. The sparse map: a read after a write, and the canonical form every operation keeps. -/

namespace Sys2Proof.Machine

variable {α : Type} [DecidableEq α]

/-- Every key of the map is at least `lo`. -/
def SMap.lowKeys {α : Type} (lo : Nat) (m : SMap α) : Prop := ∀ e ∈ m, lo ≤ e.1

theorem SMap.wf_cons (d : α) (k : Nat) (v : α) (m : SMap α) :
    SMap.wf d ((k, v) :: m) = true ↔ v ≠ d ∧ SMap.lowKeys (k + 1) m ∧ SMap.wf d m = true := by
  induction m generalizing k v with
  | nil => simp [SMap.wf, SMap.lowKeys]
  | cons e m ih =>
    obtain ⟨k', v'⟩ := e
    have h2 := ih k' v'
    constructor
    · intro h
      simp only [SMap.wf, Bool.and_eq_true, decide_eq_true_eq] at h
      obtain ⟨⟨hk, hv⟩, hw⟩ := h
      refine ⟨hv, ?_, hw⟩
      obtain ⟨_, hlow, _⟩ := h2.1 hw
      intro e he
      rcases List.mem_cons.1 he with rfl | he
      · exact hk
      · have := hlow e he; omega
    · rintro ⟨hv, hlow, hw⟩
      simp only [SMap.wf, Bool.and_eq_true, decide_eq_true_eq]
      exact ⟨⟨hlow (k', v') (by simp), hv⟩, hw⟩

omit [DecidableEq α] in
theorem SMap.get_of_lowKeys (d : α) (m : SMap α) (k : Nat) (h : SMap.lowKeys (k + 1) m) : SMap.get d m k = d := by
  induction m with
  | nil => rfl
  | cons e m ih =>
    obtain ⟨k', v'⟩ := e
    have h1 : k + 1 ≤ k' := h (k', v') (by simp)
    have h2 : SMap.lowKeys (k + 1) m := fun e he => h e (by simp [he])
    have h3 : ¬ k' = k := by omega
    simp [SMap.get, h3, ih h2]

/-- A read of the key just written gives the value written. -/
theorem SMap.get_set_same (d : α) (m : SMap α) (k : Nat) (v : α) (h : SMap.wf d m = true) :
    SMap.get d (SMap.set d m k v) k = v := by
  induction m with
  | nil => by_cases hv : v = d <;> simp [SMap.set, SMap.get, hv]
  | cons e m ih =>
    obtain ⟨k', v'⟩ := e
    obtain ⟨hv', hlow, hw⟩ := (SMap.wf_cons d k' v' m).1 h
    rcases Nat.lt_trichotomy k k' with hk | rfl | hk
    · by_cases hv : v = d
      · subst hv
        have : SMap.get v ((k', v') :: m) k = v := by
          apply SMap.get_of_lowKeys
          intro e he
          rcases List.mem_cons.1 he with rfl | he
          · exact hk
          · have := hlow e he; omega
        simpa [SMap.set, hk] using this
      · simp [SMap.set, hk, hv, SMap.get]
    · by_cases hv : v = d
      · subst hv; simpa [SMap.set] using SMap.get_of_lowKeys v m k hlow
      · simp [SMap.set, hv, SMap.get]
    · have h1 : ¬ k < k' := by omega
      have h2 : ¬ k = k' := by omega
      have h3 : ¬ k' = k := by omega
      simp [SMap.set, h1, h2, h3, SMap.get, ih hw]

/-- A write leaves every other key alone. -/
theorem SMap.get_set_other (d : α) (m : SMap α) (k j : Nat) (v : α) (hj : j ≠ k) :
    SMap.get d (SMap.set d m k v) j = SMap.get d m j := by
  have hk : ¬ k = j := fun h => hj h.symm
  induction m with
  | nil => by_cases hv : v = d <;> simp [SMap.set, SMap.get, hv, hk]
  | cons e m ih =>
    obtain ⟨k', v'⟩ := e
    simp only [SMap.set]
    split
    · split <;> simp [SMap.get, hk]
    · split
      · next h => subst h; split <;> simp [SMap.get, hk]
      · simp only [SMap.get]; split
        · rfl
        · exact ih

theorem SMap.lowKeys_set (d : α) (m : SMap α) (lo k : Nat) (v : α) (hk : lo ≤ k) (h : SMap.lowKeys lo m) :
    SMap.lowKeys lo (SMap.set d m k v) := by
  induction m with
  | nil => by_cases hv : v = d <;> simp [SMap.set, SMap.lowKeys, hv, hk]
  | cons e m ih =>
    obtain ⟨k', v'⟩ := e
    have h1 : lo ≤ k' := h (k', v') (by simp)
    have h2 : SMap.lowKeys lo m := fun e he => h e (by simp [he])
    have hc : ∀ (a : Nat) (b : α) (n : SMap α), lo ≤ a → SMap.lowKeys lo n → SMap.lowKeys lo ((a, b) :: n) := by
      intro a b n ha hn e he
      rcases List.mem_cons.1 he with rfl | he
      · exact ha
      · exact hn e he
    simp only [SMap.set]
    split
    · split
      · exact hc _ _ _ h1 h2
      · exact hc _ _ _ hk (hc _ _ _ h1 h2)
    · split
      · split
        · exact h2
        · exact hc _ _ _ hk h2
      · exact hc _ _ _ h1 (ih h2)

/-- A write keeps the canonical form. -/
theorem SMap.wf_set (d : α) (m : SMap α) (k : Nat) (v : α) (h : SMap.wf d m = true) :
    SMap.wf d (SMap.set d m k v) = true := by
  induction m with
  | nil => by_cases hv : v = d <;> simp [SMap.set, SMap.wf, hv]
  | cons e m ih =>
    obtain ⟨k', v'⟩ := e
    obtain ⟨hv', hlow, hw⟩ := (SMap.wf_cons d k' v' m).1 h
    simp only [SMap.set]
    split
    · next hk =>
      split
      · exact h
      · next hv =>
        refine (SMap.wf_cons ..).2 ⟨hv, ?_, h⟩
        intro e he
        rcases List.mem_cons.1 he with rfl | he
        · exact hk
        · have := hlow e he; omega
    · split
      · next hk =>
        subst hk
        split
        · exact hw
        · next hv => exact (SMap.wf_cons ..).2 ⟨hv, hlow, hw⟩
      · next h1 h2 =>
        exact (SMap.wf_cons ..).2 ⟨hv', SMap.lowKeys_set d m (k' + 1) k v (by omega) hlow, ih hw⟩

/-- A change of one value keeps the canonical form. -/
theorem SMap.wf_upd (d : α) (m : SMap α) (k : Nat) (f : α → α) (h : SMap.wf d m = true) :
    SMap.wf d (SMap.upd d m k f) = true := SMap.wf_set d m k _ h

theorem SMap.get_upd_same (d : α) (m : SMap α) (k : Nat) (f : α → α) (h : SMap.wf d m = true) :
    SMap.get d (SMap.upd d m k f) k = f (SMap.get d m k) := SMap.get_set_same d m k _ h

theorem SMap.get_upd_other (d : α) (m : SMap α) (k j : Nat) (f : α → α) (hj : j ≠ k) :
    SMap.get d (SMap.upd d m k f) j = SMap.get d m j := SMap.get_set_other d m k j _ hj

/-- Dropping entries keeps the canonical form. -/
theorem SMap.wf_filter (d : α) (m : SMap α) (p : Nat × α → Bool) (h : SMap.wf d m = true) :
    SMap.wf d (m.filter p : SMap α) = true := by
  induction m with
  | nil => rfl
  | cons e m ih =>
    obtain ⟨k, v⟩ := e
    obtain ⟨hv, hlow, hw⟩ := (SMap.wf_cons d k v m).1 h
    by_cases hp : p (k, v)
    · rw [List.filter_cons_of_pos hp]
      exact (SMap.wf_cons ..).2 ⟨hv, fun e he => hlow e (List.mem_filter.1 he).1, ih hw⟩
    · rw [List.filter_cons_of_neg hp]; exact ih hw

/-- Dropping a range of keys keeps the canonical form. -/
theorem SMap.wf_dropRange (d : α) (m : SMap α) (lo hi : Nat) (h : SMap.wf d m = true) :
    SMap.wf d (SMap.dropRange m lo hi) = true := SMap.wf_filter d m _ h

/-- Stores from a list, one after the other, keep the canonical form. -/
theorem SMap.wf_foldl_set {β : Type} (d : α) (l : List β) (k : β → Nat) (v : β → α) (m : SMap α)
    (h : SMap.wf d m = true) : SMap.wf d (l.foldl (fun a e => SMap.set d a (k e) (v e)) m) = true := by
  induction l generalizing m with
  | nil => exact h
  | cons e l ih => exact ih _ (SMap.wf_set d m (k e) (v e) h)

/-- A map rebuilt value by value is in canonical form. -/
theorem SMap.wf_remap {β : Type} (d : α) (f : Nat → β → α) (m : SMap β) : SMap.wf d (SMap.remap d f m) = true :=
  SMap.wf_foldl_set d m (fun e => e.1) (fun e => f e.1 e.2) [] rfl

omit [DecidableEq α] in
/-- A read gives the default or a listed value. -/
theorem SMap.get_mem (d : α) (m : SMap α) (k : Nat) : SMap.get d m k = d ∨ (k, SMap.get d m k) ∈ m := by
  induction m with
  | nil => exact .inl rfl
  | cons e m ih =>
    obtain ⟨k', v⟩ := e
    simp only [SMap.get]
    split
    · next h => subst h; exact .inr (by simp)
    · rcases ih with h | h
      · exact .inl h
      · exact .inr (by simp [h])

/-- A listed value is the one read. -/
theorem SMap.get_of_mem (d : α) (m : SMap α) (k : Nat) (v : α) (h : SMap.wf d m = true) (hm : (k, v) ∈ m) :
    SMap.get d m k = v := by
  induction m with
  | nil => cases hm
  | cons e m ih =>
    obtain ⟨k', v'⟩ := e
    obtain ⟨_, hlow, hw⟩ := (SMap.wf_cons d k' v' m).1 h
    rcases List.mem_cons.1 hm with he | he
    · cases he; simp [SMap.get]
    · have h1 : k' + 1 ≤ k := hlow (k, v) he
      have h2 : ¬ k' = k := by omega
      simp [SMap.get, h2, ih hw he]

/-- What holds of every value stored, and of every value before, holds of every value after. -/
theorem SMap.get_foldl_set {β : Type} {P : α → Prop} (d : α) (l : List β) (k : β → Nat) (v : β → α) (m : SMap α)
    (h : SMap.wf d m = true) (hm : ∀ j, P (SMap.get d m j)) (hv : ∀ e ∈ l, P (v e)) :
    ∀ j, P (SMap.get d (l.foldl (fun a e => SMap.set d a (k e) (v e)) m) j) := by
  induction l generalizing m with
  | nil => exact hm
  | cons e l ih =>
    refine ih _ (SMap.wf_set d m (k e) (v e) h) (fun j => ?_) fun e he => hv e (by simp [he])
    by_cases hj : j = k e
    · subst hj; rw [SMap.get_set_same d m _ _ h]; exact hv e (by simp)
    · rw [SMap.get_set_other d m _ _ _ hj]; exact hm j

/-- A rebuilt map holds values of the function alone. -/
theorem SMap.get_remap {β : Type} {P : α → Prop} (d : α) (f : Nat → β → α) (m : SMap β) (hd : P d)
    (hf : ∀ e ∈ m, P (f e.1 e.2)) : ∀ j, P (SMap.get d (SMap.remap d f m) j) :=
  SMap.get_foldl_set d m (fun e => e.1) (fun e => f e.1 e.2) [] rfl (fun _ => hd) hf

/-- A selection that keeps the keys and lists no default keeps the canonical form. -/
theorem SMap.wf_filterMap {β : Type} [DecidableEq β] (d : α) (d' : β) (m : SMap α) (g : Nat × α → Option (Nat × β))
    (h : SMap.wf d m = true) (hg : ∀ e r, g e = some r → r.1 = e.1 ∧ r.2 ≠ d') :
    SMap.wf d' (m.filterMap g : SMap β) = true := by
  induction m with
  | nil => rfl
  | cons e m ih =>
    obtain ⟨k, v⟩ := e
    obtain ⟨_, hlow, hw⟩ := (SMap.wf_cons d k v m).1 h
    rw [List.filterMap_cons]
    split
    · exact ih hw
    · next r hr =>
      obtain ⟨h1, h2⟩ := hg _ _ hr
      obtain ⟨k', w⟩ := r
      refine (SMap.wf_cons ..).2 ⟨h2, fun e he => ?_, ih hw⟩
      obtain ⟨a, ha, hae⟩ := List.mem_filterMap.1 he
      rw [(hg _ _ hae).1]
      have := hlow a ha
      simp only at h1
      omega

/-- A store of bytes keeps the canonical form. -/
theorem SMap.wf_setBytes (m : SMap Byte) (a : Nat) (bs : List Byte) (h : SMap.wf 0 m = true) :
    SMap.wf 0 (SMap.setBytes m a bs) = true := by
  induction bs generalizing m a with
  | nil => exact h
  | cons b bs ih => exact ih _ _ (SMap.wf_set 0 m a b h)

/-- A store of one beat keeps the canonical form. -/
theorem SMap.wf_setBeat (m : SMap Byte) (a : Nat) (b : Beat) (h : SMap.wf 0 m = true) :
    SMap.wf 0 (SMap.setBeat m a b) = true := SMap.wf_setBytes m a _ h

/-- A store of bytes leaves every byte outside it alone. -/
theorem SMap.get_setBytes_other (m : SMap Byte) (a j : Nat) (bs : List Byte) (hj : j < a ∨ a + bs.length ≤ j) :
    SMap.get 0 (SMap.setBytes m a bs) j = SMap.get 0 m j := by
  induction bs generalizing m a with
  | nil => rfl
  | cons b bs ih =>
    simp only [List.length_cons] at hj
    rw [SMap.setBytes, ih _ _ (by omega), SMap.get_set_other 0 m a j b (by omega)]

/-- The bytes stored are the bytes read back. -/
theorem SMap.getBytes_setBytes (m : SMap Byte) (a : Nat) (bs : List Byte) (h : SMap.wf 0 m = true) :
    SMap.getBytes (SMap.setBytes m a bs) a bs.length = bs := by
  induction bs generalizing m a with
  | nil => rfl
  | cons b bs ih =>
    have hw := SMap.wf_set 0 m a b h
    rw [SMap.setBytes, List.length_cons, SMap.getBytes, ih _ _ hw,
      SMap.get_setBytes_other _ _ _ _ (by omega), SMap.get_set_same 0 m a b h]

theorem leBytes_length (n v : Nat) : (leBytes n v).length = n := by
  induction n generalizing v with
  | zero => rfl
  | succ n ih => simp [leBytes, ih]

theorem leNat_leBytes (n v : Nat) : leNat (leBytes n v) = v % 256 ^ n := by
  induction n generalizing v with
  | zero => simp [leBytes, leNat, Nat.mod_one]
  | succ n ih =>
    simp only [leBytes, leNat, ih, BitVec.toNat_ofNat]
    rw [show v % 2 ^ 8 = v % 256 from rfl, Nat.pow_succ', Nat.mod_mul]

/-- A beat is the beat of its bytes. -/
theorem beatOf_beatBytes (b : Beat) : beatOf (beatBytes b) = b := by
  have h1 : (beatBytes b).length = 64 := leBytes_length 64 _
  rw [beatOf, List.take_of_length_le (by omega), beatBytes, leNat_leBytes]
  apply BitVec.eq_of_toNat_eq
  have h2 : (256 : Nat) ^ 64 = 2 ^ 512 := by rw [show (256 : Nat) = 2 ^ 8 from rfl, ← Nat.pow_mul]
  rw [h2, BitVec.toNat_ofNat, Nat.mod_mod, Nat.mod_eq_of_lt b.isLt]

/-- A beat reads back as it was stored. -/
theorem SMap.getBeat_setBeat (m : SMap Byte) (a : Nat) (b : Beat) (h : SMap.wf 0 m = true) :
    SMap.getBeat (SMap.setBeat m a b) a = b := by
  have h1 : (beatBytes b).length = 64 := leBytes_length 64 _
  have h2 := SMap.getBytes_setBytes m a (beatBytes b) h
  rw [h1] at h2
  rw [SMap.getBeat, SMap.setBeat, h2, beatOf_beatBytes]

/-- A store of a beat leaves every byte outside its 64 alone. -/
theorem SMap.get_setBeat_other (m : SMap Byte) (a j : Nat) (b : Beat) (hj : j < a ∨ a + 64 ≤ j) :
    SMap.get 0 (SMap.setBeat m a b) j = SMap.get 0 m j :=
  SMap.get_setBytes_other m a j _ (by rw [beatBytes, leBytes_length]; exact hj)

end Sys2Proof.Machine
end

