-- ==== Sys2Proof/Safety.lean ====
section
/-! DEFINITION. What counts as a safe run and as a state in good order, in the terms the statements use. -/

namespace Sys2Proof

/-- The first `k` steps from `s` all answer a next state. -/
def safeRun (k : Nat) (s : Machine.State) : Prop := ∃ t, core.run k s = .next t

namespace Machine

/-- The ledger ring and its copy in flash hold at most 65,536 entries (R444, R449). -/
structure RingOk (s : State) : Prop where
  ring : s.flt.ring.length ≤ 65536
  flash : ∀ l, s.trust.flash.ledger = some l → l.1.length ≤ 65536

/-- The memories of a tile are in canonical form. -/
structure Tile.MemOk (x : Tile) : Prop where
  scratch : SMap.wf 0 x.scratch = true
  hamper : SMap.wf 0 x.hamper = true

/-- The module's memory and what the two reserves hold beside it are in canonical form. -/
structure MemBlk.Ok (m : MemBlk) : Prop where
  dram : SMap.wf 0 m.dram = true
  reserve : SMap.wf 0 m.reserve = true
  tags : SMap.wf none m.tags = true
  flipDelta : SMap.wf 0 m.flipDelta = true

/-- Memory and the indexed parts are in canonical form. -/
structure Canon (s : State) : Prop where
  mem : s.mem.Ok
  tiles : SMap.wf {} s.tiles = true
  gangs : SMap.wf {} s.gangs = true
  movers : SMap.wf {} s.movers = true
  ports : SMap.wf {} s.ports = true
  sqs : SMap.wf {} s.host.sqs = true
  cqs : SMap.wf {} s.host.cqs = true
  mems : ∀ t, (s.tile t).MemOk

end Machine

end Sys2Proof
end

