-- ==== Sys2Proof/Laws/State.lean ====
section
/-! SUPPORT. Each named update of the state, field by field, and reads of the indexed parts after a write. -/

namespace Sys2Proof.Machine

variable (s : State)

/-- What `State.setTile` writes. -/
@[simp] theorem State.setTile_fields (t : Nat) (x : Tile) :
    (s.setTile t x).pending = s.pending ∧ (s.setTile t x).clk = s.clk ∧ (s.setTile t x).tm = s.tm ∧ (s.setTile t
    x).tiles = SMap.set {} s.tiles t x ∧ (s.setTile t x).gangs = s.gangs ∧ (s.setTile t x).pc = s.pc ∧ (s.setTile t
    x).stg = s.stg ∧ (s.setTile t x).mem = s.mem ∧ (s.setTile t x).movers = s.movers ∧ (s.setTile t x).ports = s.ports
    ∧ (s.setTile t x).fab = s.fab ∧ (s.setTile t x).cm = s.cm ∧ (s.setTile t x).host = s.host ∧ (s.setTile t x).trust
    = s.trust ∧ (s.setTile t x).gov = s.gov ∧ (s.setTile t x).lace = s.lace ∧ (s.setTile t x).rest = s.rest ∧
    (s.setTile t x).flt = s.flt ∧ (s.setTile t x).pins = s.pins ∧ (s.setTile t x).pre = s.pre ∧ (s.setTile t x).image
    = s.image ∧ (s.setTile t x).job = s.job ∧ (s.setTile t x).wires = s.wires ∧ (s.setTile t x).crossing = s.crossing
    ∧ (s.setTile t x).edgeOut = s.edgeOut ∧ (s.setTile t x).free = s.free :=
  ⟨rfl, rfl, rfl, rfl, rfl, rfl, rfl, rfl, rfl, rfl, rfl, rfl, rfl, rfl, rfl, rfl, rfl, rfl, rfl, rfl, rfl, rfl, rfl, rfl, rfl, rfl⟩

/-- What `State.modTile` writes. -/
@[simp] theorem State.modTile_fields (t : Nat) (f : Tile → Tile) :
    (s.modTile t f).pending = s.pending ∧ (s.modTile t f).clk = s.clk ∧ (s.modTile t f).tm = s.tm ∧ (s.modTile t
    f).tiles = SMap.set {} s.tiles t (f (s.tile t)) ∧ (s.modTile t f).gangs = s.gangs ∧ (s.modTile t f).pc = s.pc ∧
    (s.modTile t f).stg = s.stg ∧ (s.modTile t f).mem = s.mem ∧ (s.modTile t f).movers = s.movers ∧ (s.modTile t
    f).ports = s.ports ∧ (s.modTile t f).fab = s.fab ∧ (s.modTile t f).cm = s.cm ∧ (s.modTile t f).host = s.host ∧
    (s.modTile t f).trust = s.trust ∧ (s.modTile t f).gov = s.gov ∧ (s.modTile t f).lace = s.lace ∧ (s.modTile t
    f).rest = s.rest ∧ (s.modTile t f).flt = s.flt ∧ (s.modTile t f).pins = s.pins ∧ (s.modTile t f).pre = s.pre ∧
    (s.modTile t f).image = s.image ∧ (s.modTile t f).job = s.job ∧ (s.modTile t f).wires = s.wires ∧ (s.modTile t
    f).crossing = s.crossing ∧ (s.modTile t f).edgeOut = s.edgeOut ∧ (s.modTile t f).free = s.free :=
  ⟨rfl, rfl, rfl, rfl, rfl, rfl, rfl, rfl, rfl, rfl, rfl, rfl, rfl, rfl, rfl, rfl, rfl, rfl, rfl, rfl, rfl, rfl, rfl, rfl, rfl, rfl⟩

/-- What `State.setCtx` writes. -/
@[simp] theorem State.setCtx_fields (t th : Nat) (c : Ctx) :
    (s.setCtx t th c).pending = s.pending ∧ (s.setCtx t th c).clk = s.clk ∧ (s.setCtx t th c).tm = s.tm ∧ (s.setCtx t
    th c).tiles = SMap.set {} s.tiles t ((s.tile t).setCtx th c) ∧ (s.setCtx t th c).gangs = s.gangs ∧ (s.setCtx t th
    c).pc = s.pc ∧ (s.setCtx t th c).stg = s.stg ∧ (s.setCtx t th c).mem = s.mem ∧ (s.setCtx t th c).movers = s.movers
    ∧ (s.setCtx t th c).ports = s.ports ∧ (s.setCtx t th c).fab = s.fab ∧ (s.setCtx t th c).cm = s.cm ∧ (s.setCtx t th
    c).host = s.host ∧ (s.setCtx t th c).trust = s.trust ∧ (s.setCtx t th c).gov = s.gov ∧ (s.setCtx t th c).lace =
    s.lace ∧ (s.setCtx t th c).rest = s.rest ∧ (s.setCtx t th c).flt = s.flt ∧ (s.setCtx t th c).pins = s.pins ∧
    (s.setCtx t th c).pre = s.pre ∧ (s.setCtx t th c).image = s.image ∧ (s.setCtx t th c).job = s.job ∧ (s.setCtx t th
    c).wires = s.wires ∧ (s.setCtx t th c).crossing = s.crossing ∧ (s.setCtx t th c).edgeOut = s.edgeOut ∧ (s.setCtx t
    th c).free = s.free :=
  ⟨rfl, rfl, rfl, rfl, rfl, rfl, rfl, rfl, rfl, rfl, rfl, rfl, rfl, rfl, rfl, rfl, rfl, rfl, rfl, rfl, rfl, rfl, rfl, rfl, rfl, rfl⟩

/-- What `State.modGang` writes. -/
@[simp] theorem State.modGang_fields (g : Nat) (f : Gang → Gang) :
    (s.modGang g f).pending = s.pending ∧ (s.modGang g f).clk = s.clk ∧ (s.modGang g f).tm = s.tm ∧ (s.modGang g
    f).tiles = s.tiles ∧ (s.modGang g f).gangs = SMap.set {} s.gangs g (f (s.gang g)) ∧ (s.modGang g f).pc = s.pc ∧
    (s.modGang g f).stg = s.stg ∧ (s.modGang g f).mem = s.mem ∧ (s.modGang g f).movers = s.movers ∧ (s.modGang g
    f).ports = s.ports ∧ (s.modGang g f).fab = s.fab ∧ (s.modGang g f).cm = s.cm ∧ (s.modGang g f).host = s.host ∧
    (s.modGang g f).trust = s.trust ∧ (s.modGang g f).gov = s.gov ∧ (s.modGang g f).lace = s.lace ∧ (s.modGang g
    f).rest = s.rest ∧ (s.modGang g f).flt = s.flt ∧ (s.modGang g f).pins = s.pins ∧ (s.modGang g f).pre = s.pre ∧
    (s.modGang g f).image = s.image ∧ (s.modGang g f).job = s.job ∧ (s.modGang g f).wires = s.wires ∧ (s.modGang g
    f).crossing = s.crossing ∧ (s.modGang g f).edgeOut = s.edgeOut ∧ (s.modGang g f).free = s.free :=
  ⟨rfl, rfl, rfl, rfl, rfl, rfl, rfl, rfl, rfl, rfl, rfl, rfl, rfl, rfl, rfl, rfl, rfl, rfl, rfl, rfl, rfl, rfl, rfl, rfl, rfl, rfl⟩

/-- What `State.modMover` writes. -/
@[simp] theorem State.modMover_fields (m : Nat) (f : Mover → Mover) :
    (s.modMover m f).pending = s.pending ∧ (s.modMover m f).clk = s.clk ∧ (s.modMover m f).tm = s.tm ∧ (s.modMover m
    f).tiles = s.tiles ∧ (s.modMover m f).gangs = s.gangs ∧ (s.modMover m f).pc = s.pc ∧ (s.modMover m f).stg = s.stg
    ∧ (s.modMover m f).mem = s.mem ∧ (s.modMover m f).movers = SMap.set {} s.movers m (f (s.mover m)) ∧ (s.modMover m
    f).ports = s.ports ∧ (s.modMover m f).fab = s.fab ∧ (s.modMover m f).cm = s.cm ∧ (s.modMover m f).host = s.host ∧
    (s.modMover m f).trust = s.trust ∧ (s.modMover m f).gov = s.gov ∧ (s.modMover m f).lace = s.lace ∧ (s.modMover m
    f).rest = s.rest ∧ (s.modMover m f).flt = s.flt ∧ (s.modMover m f).pins = s.pins ∧ (s.modMover m f).pre = s.pre ∧
    (s.modMover m f).image = s.image ∧ (s.modMover m f).job = s.job ∧ (s.modMover m f).wires = s.wires ∧ (s.modMover m
    f).crossing = s.crossing ∧ (s.modMover m f).edgeOut = s.edgeOut ∧ (s.modMover m f).free = s.free :=
  ⟨rfl, rfl, rfl, rfl, rfl, rfl, rfl, rfl, rfl, rfl, rfl, rfl, rfl, rfl, rfl, rfl, rfl, rfl, rfl, rfl, rfl, rfl, rfl, rfl, rfl, rfl⟩

/-- What `State.modPort` writes. -/
@[simp] theorem State.modPort_fields (p : Nat) (f : Port → Port) :
    (s.modPort p f).pending = s.pending ∧ (s.modPort p f).clk = s.clk ∧ (s.modPort p f).tm = s.tm ∧ (s.modPort p
    f).tiles = s.tiles ∧ (s.modPort p f).gangs = s.gangs ∧ (s.modPort p f).pc = s.pc ∧ (s.modPort p f).stg = s.stg ∧
    (s.modPort p f).mem = s.mem ∧ (s.modPort p f).movers = s.movers ∧ (s.modPort p f).ports = SMap.set {} s.ports p (f
    (s.port p)) ∧ (s.modPort p f).fab = s.fab ∧ (s.modPort p f).cm = s.cm ∧ (s.modPort p f).host = s.host ∧ (s.modPort
    p f).trust = s.trust ∧ (s.modPort p f).gov = s.gov ∧ (s.modPort p f).lace = s.lace ∧ (s.modPort p f).rest = s.rest
    ∧ (s.modPort p f).flt = s.flt ∧ (s.modPort p f).pins = s.pins ∧ (s.modPort p f).pre = s.pre ∧ (s.modPort p
    f).image = s.image ∧ (s.modPort p f).job = s.job ∧ (s.modPort p f).wires = s.wires ∧ (s.modPort p f).crossing =
    s.crossing ∧ (s.modPort p f).edgeOut = s.edgeOut ∧ (s.modPort p f).free = s.free :=
  ⟨rfl, rfl, rfl, rfl, rfl, rfl, rfl, rfl, rfl, rfl, rfl, rfl, rfl, rfl, rfl, rfl, rfl, rfl, rfl, rfl, rfl, rfl, rfl, rfl, rfl, rfl⟩

/-- What `State.modSq` writes. -/
@[simp] theorem State.modSq_fields (q : Nat) (f : Sq → Sq) :
    (s.modSq q f).pending = s.pending ∧ (s.modSq q f).clk = s.clk ∧ (s.modSq q f).tm = s.tm ∧ (s.modSq q f).tiles =
    s.tiles ∧ (s.modSq q f).gangs = s.gangs ∧ (s.modSq q f).pc = s.pc ∧ (s.modSq q f).stg = s.stg ∧ (s.modSq q f).mem
    = s.mem ∧ (s.modSq q f).movers = s.movers ∧ (s.modSq q f).ports = s.ports ∧ (s.modSq q f).fab = s.fab ∧ (s.modSq q
    f).cm = s.cm ∧ (s.modSq q f).host = { s.host with sqs := SMap.set {} s.host.sqs q (f (s.sq q)) } ∧ (s.modSq q
    f).trust = s.trust ∧ (s.modSq q f).gov = s.gov ∧ (s.modSq q f).lace = s.lace ∧ (s.modSq q f).rest = s.rest ∧
    (s.modSq q f).flt = s.flt ∧ (s.modSq q f).pins = s.pins ∧ (s.modSq q f).pre = s.pre ∧ (s.modSq q f).image =
    s.image ∧ (s.modSq q f).job = s.job ∧ (s.modSq q f).wires = s.wires ∧ (s.modSq q f).crossing = s.crossing ∧
    (s.modSq q f).edgeOut = s.edgeOut ∧ (s.modSq q f).free = s.free :=
  ⟨rfl, rfl, rfl, rfl, rfl, rfl, rfl, rfl, rfl, rfl, rfl, rfl, rfl, rfl, rfl, rfl, rfl, rfl, rfl, rfl, rfl, rfl, rfl, rfl, rfl, rfl⟩

/-- What `State.modCq` writes. -/
@[simp] theorem State.modCq_fields (q : Nat) (f : Cq → Cq) :
    (s.modCq q f).pending = s.pending ∧ (s.modCq q f).clk = s.clk ∧ (s.modCq q f).tm = s.tm ∧ (s.modCq q f).tiles =
    s.tiles ∧ (s.modCq q f).gangs = s.gangs ∧ (s.modCq q f).pc = s.pc ∧ (s.modCq q f).stg = s.stg ∧ (s.modCq q f).mem
    = s.mem ∧ (s.modCq q f).movers = s.movers ∧ (s.modCq q f).ports = s.ports ∧ (s.modCq q f).fab = s.fab ∧ (s.modCq q
    f).cm = s.cm ∧ (s.modCq q f).host = { s.host with cqs := SMap.set {} s.host.cqs q (f (s.cq q)) } ∧ (s.modCq q
    f).trust = s.trust ∧ (s.modCq q f).gov = s.gov ∧ (s.modCq q f).lace = s.lace ∧ (s.modCq q f).rest = s.rest ∧
    (s.modCq q f).flt = s.flt ∧ (s.modCq q f).pins = s.pins ∧ (s.modCq q f).pre = s.pre ∧ (s.modCq q f).image =
    s.image ∧ (s.modCq q f).job = s.job ∧ (s.modCq q f).wires = s.wires ∧ (s.modCq q f).crossing = s.crossing ∧
    (s.modCq q f).edgeOut = s.edgeOut ∧ (s.modCq q f).free = s.free :=
  ⟨rfl, rfl, rfl, rfl, rfl, rfl, rfl, rfl, rfl, rfl, rfl, rfl, rfl, rfl, rfl, rfl, rfl, rfl, rfl, rfl, rfl, rfl, rfl, rfl, rfl, rfl⟩

/-- What `State.modStg` writes. -/
@[simp] theorem State.modStg_fields (f : StgBlk → StgBlk) :
    (s.modStg f).pending = s.pending ∧ (s.modStg f).clk = s.clk ∧ (s.modStg f).tm = s.tm ∧ (s.modStg f).tiles =
    s.tiles ∧ (s.modStg f).gangs = s.gangs ∧ (s.modStg f).pc = s.pc ∧ (s.modStg f).stg = f s.stg ∧ (s.modStg f).mem =
    s.mem ∧ (s.modStg f).movers = s.movers ∧ (s.modStg f).ports = s.ports ∧ (s.modStg f).fab = s.fab ∧ (s.modStg f).cm
    = s.cm ∧ (s.modStg f).host = s.host ∧ (s.modStg f).trust = s.trust ∧ (s.modStg f).gov = s.gov ∧ (s.modStg f).lace
    = s.lace ∧ (s.modStg f).rest = s.rest ∧ (s.modStg f).flt = s.flt ∧ (s.modStg f).pins = s.pins ∧ (s.modStg f).pre =
    s.pre ∧ (s.modStg f).image = s.image ∧ (s.modStg f).job = s.job ∧ (s.modStg f).wires = s.wires ∧ (s.modStg
    f).crossing = s.crossing ∧ (s.modStg f).edgeOut = s.edgeOut ∧ (s.modStg f).free = s.free :=
  ⟨rfl, rfl, rfl, rfl, rfl, rfl, rfl, rfl, rfl, rfl, rfl, rfl, rfl, rfl, rfl, rfl, rfl, rfl, rfl, rfl, rfl, rfl, rfl, rfl, rfl, rfl⟩

/-- What `State.modMem` writes. -/
@[simp] theorem State.modMem_fields (f : MemBlk → MemBlk) :
    (s.modMem f).pending = s.pending ∧ (s.modMem f).clk = s.clk ∧ (s.modMem f).tm = s.tm ∧ (s.modMem f).tiles =
    s.tiles ∧ (s.modMem f).gangs = s.gangs ∧ (s.modMem f).pc = s.pc ∧ (s.modMem f).stg = s.stg ∧ (s.modMem f).mem = f
    s.mem ∧ (s.modMem f).movers = s.movers ∧ (s.modMem f).ports = s.ports ∧ (s.modMem f).fab = s.fab ∧ (s.modMem f).cm
    = s.cm ∧ (s.modMem f).host = s.host ∧ (s.modMem f).trust = s.trust ∧ (s.modMem f).gov = s.gov ∧ (s.modMem f).lace
    = s.lace ∧ (s.modMem f).rest = s.rest ∧ (s.modMem f).flt = s.flt ∧ (s.modMem f).pins = s.pins ∧ (s.modMem f).pre =
    s.pre ∧ (s.modMem f).image = s.image ∧ (s.modMem f).job = s.job ∧ (s.modMem f).wires = s.wires ∧ (s.modMem
    f).crossing = s.crossing ∧ (s.modMem f).edgeOut = s.edgeOut ∧ (s.modMem f).free = s.free :=
  ⟨rfl, rfl, rfl, rfl, rfl, rfl, rfl, rfl, rfl, rfl, rfl, rfl, rfl, rfl, rfl, rfl, rfl, rfl, rfl, rfl, rfl, rfl, rfl, rfl, rfl, rfl⟩

/-- What `State.modFab` writes. -/
@[simp] theorem State.modFab_fields (f : FabBlk → FabBlk) :
    (s.modFab f).pending = s.pending ∧ (s.modFab f).clk = s.clk ∧ (s.modFab f).tm = s.tm ∧ (s.modFab f).tiles =
    s.tiles ∧ (s.modFab f).gangs = s.gangs ∧ (s.modFab f).pc = s.pc ∧ (s.modFab f).stg = s.stg ∧ (s.modFab f).mem =
    s.mem ∧ (s.modFab f).movers = s.movers ∧ (s.modFab f).ports = s.ports ∧ (s.modFab f).fab = f s.fab ∧ (s.modFab
    f).cm = s.cm ∧ (s.modFab f).host = s.host ∧ (s.modFab f).trust = s.trust ∧ (s.modFab f).gov = s.gov ∧ (s.modFab
    f).lace = s.lace ∧ (s.modFab f).rest = s.rest ∧ (s.modFab f).flt = s.flt ∧ (s.modFab f).pins = s.pins ∧ (s.modFab
    f).pre = s.pre ∧ (s.modFab f).image = s.image ∧ (s.modFab f).job = s.job ∧ (s.modFab f).wires = s.wires ∧
    (s.modFab f).crossing = s.crossing ∧ (s.modFab f).edgeOut = s.edgeOut ∧ (s.modFab f).free = s.free :=
  ⟨rfl, rfl, rfl, rfl, rfl, rfl, rfl, rfl, rfl, rfl, rfl, rfl, rfl, rfl, rfl, rfl, rfl, rfl, rfl, rfl, rfl, rfl, rfl, rfl, rfl, rfl⟩

/-- What `State.modCm` writes. -/
@[simp] theorem State.modCm_fields (f : CmBlk → CmBlk) :
    (s.modCm f).pending = s.pending ∧ (s.modCm f).clk = s.clk ∧ (s.modCm f).tm = s.tm ∧ (s.modCm f).tiles = s.tiles ∧
    (s.modCm f).gangs = s.gangs ∧ (s.modCm f).pc = s.pc ∧ (s.modCm f).stg = s.stg ∧ (s.modCm f).mem = s.mem ∧ (s.modCm
    f).movers = s.movers ∧ (s.modCm f).ports = s.ports ∧ (s.modCm f).fab = s.fab ∧ (s.modCm f).cm = f s.cm ∧ (s.modCm
    f).host = s.host ∧ (s.modCm f).trust = s.trust ∧ (s.modCm f).gov = s.gov ∧ (s.modCm f).lace = s.lace ∧ (s.modCm
    f).rest = s.rest ∧ (s.modCm f).flt = s.flt ∧ (s.modCm f).pins = s.pins ∧ (s.modCm f).pre = s.pre ∧ (s.modCm
    f).image = s.image ∧ (s.modCm f).job = s.job ∧ (s.modCm f).wires = s.wires ∧ (s.modCm f).crossing = s.crossing ∧
    (s.modCm f).edgeOut = s.edgeOut ∧ (s.modCm f).free = s.free :=
  ⟨rfl, rfl, rfl, rfl, rfl, rfl, rfl, rfl, rfl, rfl, rfl, rfl, rfl, rfl, rfl, rfl, rfl, rfl, rfl, rfl, rfl, rfl, rfl, rfl, rfl, rfl⟩

/-- What `State.modPc` writes. -/
@[simp] theorem State.modPc_fields (f : PcBlk → PcBlk) :
    (s.modPc f).pending = s.pending ∧ (s.modPc f).clk = s.clk ∧ (s.modPc f).tm = s.tm ∧ (s.modPc f).tiles = s.tiles ∧
    (s.modPc f).gangs = s.gangs ∧ (s.modPc f).pc = f s.pc ∧ (s.modPc f).stg = s.stg ∧ (s.modPc f).mem = s.mem ∧
    (s.modPc f).movers = s.movers ∧ (s.modPc f).ports = s.ports ∧ (s.modPc f).fab = s.fab ∧ (s.modPc f).cm = s.cm ∧
    (s.modPc f).host = s.host ∧ (s.modPc f).trust = s.trust ∧ (s.modPc f).gov = s.gov ∧ (s.modPc f).lace = s.lace ∧
    (s.modPc f).rest = s.rest ∧ (s.modPc f).flt = s.flt ∧ (s.modPc f).pins = s.pins ∧ (s.modPc f).pre = s.pre ∧
    (s.modPc f).image = s.image ∧ (s.modPc f).job = s.job ∧ (s.modPc f).wires = s.wires ∧ (s.modPc f).crossing =
    s.crossing ∧ (s.modPc f).edgeOut = s.edgeOut ∧ (s.modPc f).free = s.free :=
  ⟨rfl, rfl, rfl, rfl, rfl, rfl, rfl, rfl, rfl, rfl, rfl, rfl, rfl, rfl, rfl, rfl, rfl, rfl, rfl, rfl, rfl, rfl, rfl, rfl, rfl, rfl⟩

/-- What `State.modHost` writes. -/
@[simp] theorem State.modHost_fields (f : HostBlk → HostBlk) :
    (s.modHost f).pending = s.pending ∧ (s.modHost f).clk = s.clk ∧ (s.modHost f).tm = s.tm ∧ (s.modHost f).tiles =
    s.tiles ∧ (s.modHost f).gangs = s.gangs ∧ (s.modHost f).pc = s.pc ∧ (s.modHost f).stg = s.stg ∧ (s.modHost f).mem
    = s.mem ∧ (s.modHost f).movers = s.movers ∧ (s.modHost f).ports = s.ports ∧ (s.modHost f).fab = s.fab ∧ (s.modHost
    f).cm = s.cm ∧ (s.modHost f).host = f s.host ∧ (s.modHost f).trust = s.trust ∧ (s.modHost f).gov = s.gov ∧
    (s.modHost f).lace = s.lace ∧ (s.modHost f).rest = s.rest ∧ (s.modHost f).flt = s.flt ∧ (s.modHost f).pins =
    s.pins ∧ (s.modHost f).pre = s.pre ∧ (s.modHost f).image = s.image ∧ (s.modHost f).job = s.job ∧ (s.modHost
    f).wires = s.wires ∧ (s.modHost f).crossing = s.crossing ∧ (s.modHost f).edgeOut = s.edgeOut ∧ (s.modHost f).free
    = s.free :=
  ⟨rfl, rfl, rfl, rfl, rfl, rfl, rfl, rfl, rfl, rfl, rfl, rfl, rfl, rfl, rfl, rfl, rfl, rfl, rfl, rfl, rfl, rfl, rfl, rfl, rfl, rfl⟩

/-- What `State.modFlt` writes. -/
@[simp] theorem State.modFlt_fields (f : FltBlk → FltBlk) :
    (s.modFlt f).pending = s.pending ∧ (s.modFlt f).clk = s.clk ∧ (s.modFlt f).tm = s.tm ∧ (s.modFlt f).tiles =
    s.tiles ∧ (s.modFlt f).gangs = s.gangs ∧ (s.modFlt f).pc = s.pc ∧ (s.modFlt f).stg = s.stg ∧ (s.modFlt f).mem =
    s.mem ∧ (s.modFlt f).movers = s.movers ∧ (s.modFlt f).ports = s.ports ∧ (s.modFlt f).fab = s.fab ∧ (s.modFlt f).cm
    = s.cm ∧ (s.modFlt f).host = s.host ∧ (s.modFlt f).trust = s.trust ∧ (s.modFlt f).gov = s.gov ∧ (s.modFlt f).lace
    = s.lace ∧ (s.modFlt f).rest = s.rest ∧ (s.modFlt f).flt = f s.flt ∧ (s.modFlt f).pins = s.pins ∧ (s.modFlt f).pre
    = s.pre ∧ (s.modFlt f).image = s.image ∧ (s.modFlt f).job = s.job ∧ (s.modFlt f).wires = s.wires ∧ (s.modFlt
    f).crossing = s.crossing ∧ (s.modFlt f).edgeOut = s.edgeOut ∧ (s.modFlt f).free = s.free :=
  ⟨rfl, rfl, rfl, rfl, rfl, rfl, rfl, rfl, rfl, rfl, rfl, rfl, rfl, rfl, rfl, rfl, rfl, rfl, rfl, rfl, rfl, rfl, rfl, rfl, rfl, rfl⟩

/-- What `State.modGov` writes. -/
@[simp] theorem State.modGov_fields (f : GovBlk → GovBlk) :
    (s.modGov f).pending = s.pending ∧ (s.modGov f).clk = s.clk ∧ (s.modGov f).tm = s.tm ∧ (s.modGov f).tiles =
    s.tiles ∧ (s.modGov f).gangs = s.gangs ∧ (s.modGov f).pc = s.pc ∧ (s.modGov f).stg = s.stg ∧ (s.modGov f).mem =
    s.mem ∧ (s.modGov f).movers = s.movers ∧ (s.modGov f).ports = s.ports ∧ (s.modGov f).fab = s.fab ∧ (s.modGov f).cm
    = s.cm ∧ (s.modGov f).host = s.host ∧ (s.modGov f).trust = s.trust ∧ (s.modGov f).gov = f s.gov ∧ (s.modGov
    f).lace = s.lace ∧ (s.modGov f).rest = s.rest ∧ (s.modGov f).flt = s.flt ∧ (s.modGov f).pins = s.pins ∧ (s.modGov
    f).pre = s.pre ∧ (s.modGov f).image = s.image ∧ (s.modGov f).job = s.job ∧ (s.modGov f).wires = s.wires ∧
    (s.modGov f).crossing = s.crossing ∧ (s.modGov f).edgeOut = s.edgeOut ∧ (s.modGov f).free = s.free :=
  ⟨rfl, rfl, rfl, rfl, rfl, rfl, rfl, rfl, rfl, rfl, rfl, rfl, rfl, rfl, rfl, rfl, rfl, rfl, rfl, rfl, rfl, rfl, rfl, rfl, rfl, rfl⟩

/-- What `State.modTrust` writes. -/
@[simp] theorem State.modTrust_fields (f : TrustBlk → TrustBlk) :
    (s.modTrust f).pending = s.pending ∧ (s.modTrust f).clk = s.clk ∧ (s.modTrust f).tm = s.tm ∧ (s.modTrust f).tiles
    = s.tiles ∧ (s.modTrust f).gangs = s.gangs ∧ (s.modTrust f).pc = s.pc ∧ (s.modTrust f).stg = s.stg ∧ (s.modTrust
    f).mem = s.mem ∧ (s.modTrust f).movers = s.movers ∧ (s.modTrust f).ports = s.ports ∧ (s.modTrust f).fab = s.fab ∧
    (s.modTrust f).cm = s.cm ∧ (s.modTrust f).host = s.host ∧ (s.modTrust f).trust = f s.trust ∧ (s.modTrust f).gov =
    s.gov ∧ (s.modTrust f).lace = s.lace ∧ (s.modTrust f).rest = s.rest ∧ (s.modTrust f).flt = s.flt ∧ (s.modTrust
    f).pins = s.pins ∧ (s.modTrust f).pre = s.pre ∧ (s.modTrust f).image = s.image ∧ (s.modTrust f).job = s.job ∧
    (s.modTrust f).wires = s.wires ∧ (s.modTrust f).crossing = s.crossing ∧ (s.modTrust f).edgeOut = s.edgeOut ∧
    (s.modTrust f).free = s.free :=
  ⟨rfl, rfl, rfl, rfl, rfl, rfl, rfl, rfl, rfl, rfl, rfl, rfl, rfl, rfl, rfl, rfl, rfl, rfl, rfl, rfl, rfl, rfl, rfl, rfl, rfl, rfl⟩

/-- What `State.modLadder` writes. -/
@[simp] theorem State.modLadder_fields (n : Nat) (f : LadderEnt → LadderEnt) :
    (s.modLadder n f).pending = s.pending ∧ (s.modLadder n f).clk = s.clk ∧ (s.modLadder n f).tm = s.tm ∧ (s.modLadder
    n f).tiles = s.tiles ∧ (s.modLadder n f).gangs = s.gangs ∧ (s.modLadder n f).pc =
    { s.pc with ladder := SMap.upd {} s.pc.ladder n f } ∧ (s.modLadder n f).stg = s.stg ∧ (s.modLadder n f).mem = s.mem ∧ (s.modLadder n f).movers =
    s.movers ∧ (s.modLadder n f).ports = s.ports ∧ (s.modLadder n f).fab = s.fab ∧ (s.modLadder n f).cm = s.cm ∧
    (s.modLadder n f).host = s.host ∧ (s.modLadder n f).trust = s.trust ∧ (s.modLadder n f).gov = s.gov ∧ (s.modLadder
    n f).lace = s.lace ∧ (s.modLadder n f).rest = s.rest ∧ (s.modLadder n f).flt = s.flt ∧ (s.modLadder n f).pins =
    s.pins ∧ (s.modLadder n f).pre = s.pre ∧ (s.modLadder n f).image = s.image ∧ (s.modLadder n f).job = s.job ∧
    (s.modLadder n f).wires = s.wires ∧ (s.modLadder n f).crossing = s.crossing ∧ (s.modLadder n f).edgeOut =
    s.edgeOut ∧ (s.modLadder n f).free = s.free :=
  ⟨rfl, rfl, rfl, rfl, rfl, rfl, rfl, rfl, rfl, rfl, rfl, rfl, rfl, rfl, rfl, rfl, rfl, rfl, rfl, rfl, rfl, rfl, rfl, rfl, rfl, rfl⟩

/-! ## Reads after a write -/

/-- A value other than the default reads back whatever the form of the map. -/
theorem SMap.get_set_ne {α : Type} [DecidableEq α] (d : α) (m : SMap α) (k : Nat) (v : α) (hv : v ≠ d) :
    SMap.get d (SMap.set d m k v) k = v := by
  induction m with
  | nil => simp [SMap.set, SMap.get, hv]
  | cons e m ih =>
    obtain ⟨k', v'⟩ := e
    simp only [SMap.set, if_neg hv]
    split
    · simp [SMap.get]
    · split
      · simp [SMap.get]
      · next h =>
        have h2 : ¬ k' = k := fun e => h e.symm
        simp [SMap.get, h2, ih]

theorem State.tile_modTile_other (t u : Nat) (f : Tile → Tile) (h : u ≠ t) : (s.modTile t f).tile u = s.tile u :=
  SMap.get_set_other _ _ _ _ _ h

theorem State.tile_modTile_same (t : Nat) (f : Tile → Tile) (h : f (s.tile t) ≠ {}) :
    (s.modTile t f).tile t = f (s.tile t) := SMap.get_set_ne _ _ _ _ h

/-- A tile in use reads back (its gang is not the default). -/
theorem State.tile_modTile_used (t : Nat) (f : Tile → Tile) (h : (f (s.tile t)).gang.isSome) :
    (s.modTile t f).tile t = f (s.tile t) :=
  s.tile_modTile_same t f fun e => by rw [e] at h; cases h

theorem Tile.ctx_setCtx_other (x : Tile) (th h : Nat) (c : Ctx) (hh : h ≠ th) : (x.setCtx th c).ctx h = x.ctx h :=
  SMap.get_set_other _ _ _ _ _ hh

theorem Tile.ctx_setCtx_same (x : Tile) (th : Nat) (c : Ctx) (h : c ≠ Ctx.empty) : (x.setCtx th c).ctx th = c :=
  SMap.get_set_ne _ _ _ _ h

theorem State.gang_modGang_other (g h : Nat) (f : Gang → Gang) (e : h ≠ g) : (s.modGang g f).gang h = s.gang h :=
  SMap.get_set_other _ _ _ _ _ e

theorem State.gang_modGang_same (g : Nat) (f : Gang → Gang) (h : f (s.gang g) ≠ {}) :
    (s.modGang g f).gang g = f (s.gang g) := SMap.get_set_ne _ _ _ _ h

theorem State.port_modPort_other (p q : Nat) (f : Port → Port) (h : q ≠ p) : (s.modPort p f).port q = s.port q :=
  SMap.get_set_other _ _ _ _ _ h

theorem State.port_modPort_same (p : Nat) (f : Port → Port) (h : SMap.wf {} s.ports = true) :
    (s.modPort p f).port p = f (s.port p) := SMap.get_set_same _ _ _ _ h

theorem State.sq_modSq_same (q : Nat) (f : Sq → Sq) (h : SMap.wf {} s.host.sqs = true) :
    (s.modSq q f).sq q = f (s.sq q) := SMap.get_set_same _ _ _ _ h

theorem State.sq_modSq_other (q p : Nat) (f : Sq → Sq) (h : p ≠ q) : (s.modSq q f).sq p = s.sq p :=
  SMap.get_set_other _ _ _ _ _ h

theorem State.cq_modCq_same (q : Nat) (f : Cq → Cq) (h : SMap.wf {} s.host.cqs = true) :
    (s.modCq q f).cq q = f (s.cq q) := SMap.get_set_same _ _ _ _ h

theorem State.cq_modCq_other (q p : Nat) (f : Cq → Cq) (h : p ≠ q) : (s.modCq q f).cq p = s.cq p :=
  SMap.get_set_other _ _ _ _ _ h

end Sys2Proof.Machine
end

