-- ==== Sys2Proof/Certificates/Slice0/Obligations.lean ====
section
/-! DEFINITION. The statements about the model, chapter by chapter (R1 to R471). -/

namespace Sys2Proof.Claims
end Sys2Proof.Claims
open Sys2Proof Sys2Proof.Machine Sys2Proof.Claims

/-! ## Threads (R154 to R206) -/

namespace Sys2Proof.Claims
open Sys2Proof.Machine

/-- Tile `t`'s sequencer has issued one instruction of thread `th`, whose context has become `f` of it (its WAIT bit
cleared, R165): no other context, tile or block differs but the die's count of instruction events (R381), and
in the tile only the sequencer's own fields (R157, R158, R181). -/
structure ThreadStep (s s' : State) (t th : Nat) (f : Ctx → Ctx) : Prop where
  own : s'.ctx t th = f { s.ctx t th with waiting := false }
  others : ∀ h, h ≠ th → s'.ctx t h = s.ctx t h
  issued : (s'.tile t).ts = { (s.tile t).ts with issued := sat64 ((s.tile t).ts.issued + 1) }
  tile : s'.tile t = { s.tile t with threads := (s'.tile t).threads, last := (s'.tile t).last, issuedNow := true,
                                     fills := (s'.tile t).fills, ts := (s'.tile t).ts }
  tiles : ∀ u, u ≠ t → s'.tile u = s.tile u
  rest : { s' with tiles := s.tiles } = noteEvents s (32 * tileBand t + 13) 1

/-- Where `i` is what thread `th` of tile `t` issues in this cycle and the PC it leaves is legal (R188), it completes with
context `f`. -/
def Completes (s : State) (t th : Nat) (i : Instr) (f : Ctx → Ctx) : Prop :=
  canIssue s t i = true → pcOk (f (s.ctx t th)).pc = true →
    ∃ s', exec i s = .next s' ∧ ThreadStep s s' t th f

/-- The context with PC + 8 and register `sd` set to `v` of the context before. -/
def write (sd : BitVec 4) (v : Ctx → Word) (c : Ctx) : Ctx :=
  { c with regs := c.regs.set sd.toNat (v c), pc := c.pc + 8 }

/-- Register `r` of a context. -/
def get (c : Ctx) (r : BitVec 4) : Word := c.regs[r.toNat]

end Sys2Proof.Claims

/-- R188, R190, R192: NOP steps the PC; HALT leaves the thread in HALT; WAIT arms the thread's wait on EC[CNT] with target
S[SA] + IMM; SEAM leaves the thread in SEAM at its mark, its PC past it, unless another thread of the gang stands at a
different mark. -/
def Obligations.ThreadControlCompletes : Prop :=
  ∀ (s : State) (t th : Nat) (sa : BitVec 4) (cnt : Byte) (imm : Word) (tset : BitVec 2),
    Completes s t th (.nopInstruction t th) (fun c => { c with pc := c.pc + 8 }) ∧
    Completes s t th (.halt t th) (fun c => { c with pc := c.pc + 8, st := .halt }) ∧
    Completes s t th (.wait t th sa cnt imm)
      (fun c => { c with pc := c.pc + 8, wtarget := get c sa + imm, wcnt := cnt, waiting := true }) ∧
    (canIssue s t (.seam t th imm tset) = true → pcOk ((s.ctx t th).pc + 8) = true →
      markDiffers (beginIssue s t th) (s.tile t).gang imm tset = false →
      ∃ s', exec (.seam t th imm tset) s = .next s' ∧
        ThreadStep s s' t th fun c => { c with pc := c.pc + 8, st := .seam, markNo := imm, markSet := tset })

/-- R165, R190: SIGNAL with AMT other than 0 adds AMT to EC[CNT] of its own tile, counted in TS_SIG_IN and
AUD_SIG_LOCAL; no other counter, tile or block differs but the count of instruction events (R381). R102, R191:
PRESS_POINT closes the tile's open press interval with its counter and round in the issue cycle, and a new interval
opens; beside the tile only its instruction event is counted (R381). -/
def Obligations.SignalsAndPressPointsAct : Prop :=
  (∀ (s : State) (t th : Nat) (cnt amt : Byte),
     canIssue s t (.signal t th cnt amt) = true → pcOk ((s.ctx t th).pc + 8) = true → amt ≠ 0 →
       ∃ s', exec (.signal t th cnt amt) s = .next s' ∧
         s'.ctx t th = { s.ctx t th with pc := (s.ctx t th).pc + 8, waiting := false } ∧
         (∀ h, h ≠ th → s'.ctx t h = s.ctx t h) ∧
         s'.tile t = { s.tile t with threads := (s'.tile t).threads, last := (s'.tile t).last, issuedNow := true,
                                     fills := (s'.tile t).fills, ts := (s'.tile t).ts, ec := (s'.tile t).ec } ∧
         (s'.tile t).ec = SMap.upd 0 (s.tile t).ec cnt.toNat (fun v => v + amt.setWidth 32) ∧
         (s'.tile t).ts = { (s.tile t).ts with issued := sat64 ((s.tile t).ts.issued + 1)
                                               sigIn := sat64 ((s.tile t).ts.sigIn + amt.toNat) } ∧
         (∀ u, u ≠ t → s'.tile u = s.tile u) ∧
         { s' with tiles := s.tiles, flt := s.flt } = noteEvents s (32 * tileBand t + 13) 1 ∧
         s'.flt = { s.flt with sigLocal := sat64 (s.flt.sigLocal + amt.toNat) }) ∧
  (∀ (s : State) (t th : Nat) (cnt : Byte) (round : BitVec 3) (l : List Interval) (v : Interval),
     canIssue s t (.pressPoint t th cnt round) = true → pcOk ((s.ctx t th).pc + 8) = true →
     (s.tile t).press = l ++ [v] → v.closed = false → (∀ i ∈ l, i.closed = true) →
       ∃ s', exec (.pressPoint t th cnt round) s = .next s' ∧
         s'.ctx t th = { s.ctx t th with pc := (s.ctx t th).pc + 8, waiting := false } ∧
         (s'.tile t).press =
           l ++ [{ v with closed := true, cnt := cnt, round := round.toNat, closedAt := s.clk.cycle }] ++ [{ id := v.id + 1 }] ∧
         (∀ u, u ≠ t → s'.tile u = s.tile u) ∧ { s' with tiles := s.tiles } = noteEvents s (32 * tileBand t + 13) 1)

/-- Tile and thread of a scalar or control instruction, and the PC it leaves (R188); none for another command. -/
def Sys2Proof.Claims.pcAfter : Instr → Option (Nat × Nat × (Ctx → Word))
  | .jmp t th imm => some (t, th, fun _ => imm)
  | .jal t th _ imm => some (t, th, fun _ => imm)
  | .jr t th sa => some (t, th, fun c => get c sa)
  | .beq t th sa sb imm => some (t, th, fun c => if get c sa == get c sb then imm else c.pc + 8)
  | .bne t th sa sb imm => some (t, th, fun c => if get c sa != get c sb then imm else c.pc + 8)
  | .bltu t th sa sb imm => some (t, th, fun c => if decide ((get c sa).toNat < (get c sb).toNat) then imm else c.pc + 8)
  | .bgeu t th sa sb imm => some (t, th, fun c => if decide ((get c sb).toNat ≤ (get c sa).toNat) then imm else c.pc + 8)
  | .blt t th sa sb imm => some (t, th, fun c => if decide ((get c sa).toInt < (get c sb).toInt) then imm else c.pc + 8)
  | .bge t th sa sb imm => some (t, th, fun c => if decide ((get c sb).toInt ≤ (get c sa).toInt) then imm else c.pc + 8)
  | .add t th _ _ _ => some (t, th, fun c => c.pc + 8)
  | .sub t th _ _ _ => some (t, th, fun c => c.pc + 8)
  | .and t th _ _ _ => some (t, th, fun c => c.pc + 8)
  | .or t th _ _ _ => some (t, th, fun c => c.pc + 8)
  | .xor t th _ _ _ => some (t, th, fun c => c.pc + 8)
  | .shl t th _ _ _ => some (t, th, fun c => c.pc + 8)
  | .shr t th _ _ _ => some (t, th, fun c => c.pc + 8)
  | .sra t th _ _ _ => some (t, th, fun c => c.pc + 8)
  | .mul t th _ _ _ => some (t, th, fun c => c.pc + 8)
  | .sltu t th _ _ _ => some (t, th, fun c => c.pc + 8)
  | .slt t th _ _ _ => some (t, th, fun c => c.pc + 8)
  | .addi t th _ _ _ => some (t, th, fun c => c.pc + 8)
  | .li t th _ _ => some (t, th, fun c => c.pc + 8)
  | .nopInstruction t th => some (t, th, fun c => c.pc + 8)
  | .halt t th => some (t, th, fun c => c.pc + 8)
  | .wait t th _ _ _ => some (t, th, fun c => c.pc + 8)
  | .pressPoint t th _ _ => some (t, th, fun c => c.pc + 8)
  | .seam t th _ _ => some (t, th, fun c => c.pc + 8)
  | _ => none

/-- R188: ADD, SUB, AND, OR, XOR, SHL, SHR, SRA, MUL, SLTU, SLT write S[SD] from S[SA] and S[SB] and step the PC by 8.
R188, R189: ADDI, LI, RDSYS and RDTR write S[SD]; RDSYS reads the system value its code names (codes 0 to 6), RDTR the
word at S[SA] + IMM of the tile's own registers, a multiple of 4 below 64 KiB, the event counters as they stood at the
end of the previous cycle. R188: JMP, JAL and JR set the PC; BEQ, BNE, BLTU, BGEU, BLT and BGE set it to IMM where the
comparison holds and step it by 8 where it does not. R188, R168, R206: where the PC an issuing instruction of thread
`th` would leave is no multiple of 8 or lies above 0x1F_FFF8, a slot fault is taken: the thread stands in FAULT with
its PC and registers as they were, the first fault of the step stands in TS_FAULT, the gang is frozen, STG_LOCAL bit 3
is set, and the step is abandoned. -/
def Obligations.ScalarInstructionsExecute : Prop :=
  (∀ (s : State) (t th : Nat) (sd sa sb : BitVec 4),
     Completes s t th (.add t th sd sa sb) (write sd fun c => get c sa + get c sb) ∧
     Completes s t th (.sub t th sd sa sb) (write sd fun c => get c sa - get c sb) ∧
     Completes s t th (.and t th sd sa sb) (write sd fun c => get c sa &&& get c sb) ∧
     Completes s t th (.or t th sd sa sb) (write sd fun c => get c sa ||| get c sb) ∧
     Completes s t th (.xor t th sd sa sb) (write sd fun c => get c sa ^^^ get c sb) ∧
     Completes s t th (.shl t th sd sa sb) (write sd fun c => get c sa <<< ((get c sb).toNat % 32)) ∧
     Completes s t th (.shr t th sd sa sb) (write sd fun c => get c sa >>> ((get c sb).toNat % 32)) ∧
     Completes s t th (.sra t th sd sa sb) (write sd fun c => (get c sa).sshiftRight ((get c sb).toNat % 32)) ∧
     Completes s t th (.mul t th sd sa sb) (write sd fun c => get c sa * get c sb) ∧
     Completes s t th (.sltu t th sd sa sb) (write sd fun c => if (get c sa).toNat < (get c sb).toNat then 1 else 0) ∧
     Completes s t th (.slt t th sd sa sb) (write sd fun c => if (get c sa).toInt < (get c sb).toInt then 1 else 0)) ∧
  (∀ (s : State) (t th : Nat) (sd sa : BitVec 4) (imm : Word),
     Completes s t th (.addi t th sd sa imm) (write sd fun c => get c sa + imm) ∧
     Completes s t th (.li t th sd imm) (write sd fun _ => imm) ∧
     (∀ v, sysValue s t th imm = some v → Completes s t th (.rdsys t th sd imm) (write sd fun _ => v)) ∧
     (((get (s.ctx t th) sa + imm).toNat % 4 = 0 ∧ (get (s.ctx t th) sa + imm).toNat < 0x10000) →
       Completes s t th (.rdtr t th sd sa imm) (write sd fun c =>
         tileWord ((beginIssue s t th).modTile t fun x => { x with ec := x.ecPrev }) t (get c sa + imm).toNat))) ∧
  (∀ (s : State) (t th : Nat) (sd sa sb : BitVec 4) (imm : Word),
     let branch := fun (b : Ctx → Bool) (c : Ctx) => { c with pc := if b c then imm else c.pc + 8 }
     Completes s t th (.jmp t th imm) (fun c => { c with pc := imm }) ∧
     Completes s t th (.jal t th sd imm) (fun c => { c with regs := c.regs.set sd.toNat (c.pc + 8), pc := imm }) ∧
     Completes s t th (.jr t th sa) (fun c => { c with pc := get c sa }) ∧
     Completes s t th (.beq t th sa sb imm) (branch fun c => get c sa == get c sb) ∧
     Completes s t th (.bne t th sa sb imm) (branch fun c => get c sa != get c sb) ∧
     Completes s t th (.bltu t th sa sb imm) (branch fun c => decide ((get c sa).toNat < (get c sb).toNat)) ∧
     Completes s t th (.bgeu t th sa sb imm) (branch fun c => decide ((get c sb).toNat ≤ (get c sa).toNat)) ∧
     Completes s t th (.blt t th sa sb imm) (branch fun c => decide ((get c sa).toInt < (get c sb).toInt)) ∧
     Completes s t th (.bge t th sa sb imm) (branch fun c => decide ((get c sb).toInt ≤ (get c sa).toInt))) ∧
  (∀ (s : State) (t th g : Nat) (i : Instr) (next : Ctx → Word),
     canIssue s t i = true → pcAfter i = some (t, th, next) → pcOk (next (s.ctx t th)) = false →
     (s.tile t).gang = some g →
       ∃ u, exec i s = .next (abandonStep u) ∧
         (u.ctx t th).st = .fault ∧ (u.ctx t th).pc = (s.ctx t th).pc ∧ (u.ctx t th).regs = (s.ctx t th).regs ∧
         (u.tile t).ts.faults = sat32 ((s.tile t).ts.faults + 1) ∧
         (u.tile t).ts.fault = (if bitB (s.tile t).ts.fault 63 then (s.tile t).ts.fault
           else pack 64 [(0, 8, 7), (8, 8, 0xFF), (16, 8, s.slotN), (24, 12, th), (63, 1, 1)]) ∧
         (u.gang g).frozen = true ∧ bitB u.stg.loc 3 = true ∧
         (∀ v, v ≠ t → u.tile v = s.tile v) ∧ u.mem = s.mem ∧ u.trust = s.trust)

/-- The checks 4 to 6 of R195 pass for the uses `us` of a new operation of thread `th`. -/
def Sys2Proof.Claims.Fits (s : State) (t th : Nat) (us : List Use) : Prop :=
  latchFull (s.tile t) s.clk.cycle us = none ∧ ownFail s t (th / 64) us = none ∧ collides (s.tile t) us = false

/-- The thread has issued a new operation: `o` stands last among the tile's operations, in its start latch, and the
thread's PC has stepped by 8 (R162, R194, R195). -/
structure Sys2Proof.Claims.Latched (s s' : State) (t th : Nat) (o : Op) : Prop where
  last : (s'.tile t).ops.getLast? = some o
  count : (s'.tile t).ops.length = (s.tile t).ops.length + 1
  next : (s'.tile t).nextOp = (s.tile t).nextOp + 1
  own : s'.ctx t th = { s.ctx t th with pc := (s.ctx t th).pc + 8, waiting := false }
  others : ∀ h, h ≠ th → s'.ctx t h = s.ctx t h
  memory : (s'.tile t).scratch = (s.tile t).scratch ∧ (s'.tile t).hamper = (s.tile t).hamper ∧
    (s'.tile t).acc = (s.tile t).acc ∧ (s'.tile t).ec = (s.tile t).ec ∧ (s'.tile t).dl = (s.tile t).dl
  tiles : ∀ u, u ≠ t → s'.tile u = s.tile u
  rest : { s' with tiles := s.tiles, pc := s.pc } = noteEvents s (32 * tileBand t + 13) 1

/-- R162, R193 to R200: MATRIX, MATVEC and VECTOR with a valid latched descriptor whose uses are owned and free, and no
hazardous start, put the operation their descriptor plans into its start latch, PHASE giving its first cycle; a MATRIX that
the press check samples is marked and counted in PC_SAMPLED (R99 to R101). -/
def Obligations.UnitOperationsIssue : Prop :=
  ∀ (s : State) (t th : Nat) (f : TFields) (d e : Beat) (p : Plan),
    let u := beginIssue s t th
    let ts := startCycle s f.phase
    let op := fun (k : OpKind) =>
      ({ id := (s.tile t).nextOp, kind := k, thread := th, desc := p.desc, ts := ts, fin := p.fin, uses := p.uses } : Op)
    p.hazard = none → Fits u t th p.uses →
      (canIssue s t (.matrix t th f) = true → latchDesc u t th f.dl 1 = .ok d →
        addOffsets d (offRegs (u.ctx t th) f) (128, 32) (160, 32) (288, 32) = some e → planMatrix u t e ts = some p →
        let b := eligible s p.desc && sampledOp s p.desc
        ∃ s', exec (.matrix t th f) s = .next s' ∧
          Latched s s' t th { op .matrix with sampled := b, interval := if b then openInterval (s.tile t) else 0 } ∧
          s'.pc.sampled = (if b then sat32 (s.pc.sampled + 1) else s.pc.sampled)) ∧
      (canIssue s t (.matvec t th f) = true → latchDesc u t th f.dl 2 = .ok d →
        addOffsets d (offRegs (u.ctx t th) f) (128, 32) (160, 32) (192, 32) = some e → planMatvec u t e ts = some p →
        ∃ s', exec (.matvec t th f) s = .next s' ∧ Latched s s' t th (op .matvec) ∧ s'.pc = s.pc) ∧
      (canIssue s t (.vector t th f) = true → latchDesc u t th f.dl 3 = .ok d →
        addOffsets d (offRegs (u.ctx t th) f) (128, 24) (200, 24) (152, 24) = some e → planVector u t e ts = some p →
        ∃ s', exec (.vector t th f) s = .next s' ∧ Latched s s' t th (op .vector) ∧ s'.pc = s.pc)

/-- R194, R201 to R204, R254: XFER with a valid descriptor issues the transfer, and one of the write direction takes
as many outbound credits of its channel as it has beats. R193, R205: DLOAD, SEND and RECV from an aligned address
inside the scratchpad put their operation into its start latch: one beat for DLOAD, NFLIT + 1 for SEND and RECV, from
the cycle PHASE names. -/
def Obligations.TransfersAndMessagesIssue : Prop :=
  (∀ (s : State) (t th : Nat) (f : TFields) (d e : Beat) (p : Plan),
     let u := beginIssue s t th
     let ts := startCycle s f.phase
     canIssue s t (.xfer t th f) = true → bitB f.off 2 = false → latchDesc u t th f.dl 4 = .ok d →
     xferOffsets d (offRegs (u.ctx t th) f) = some e → planXfer u t e ts = some p → p.hazard = none →
     Fits u t th p.uses → (xWrite2 p.desc = true → xBeats p.desc + outUsed (s.tile t) (xChan p.desc) ≤ 512) →
       ∃ s', exec (.xfer t th f) s = .next s' ∧
         Latched s s' t th { id := (s.tile t).nextOp, kind := .xfer, thread := th, desc := p.desc, ts := ts, fin := p.fin
                             uses := p.uses } ∧ s'.pc = s.pc ∧
         ∀ c, outUsed (s'.tile t) c = outUsed (s.tile t) c +
           if xWrite2 p.desc && c == xChan p.desc then xBeats p.desc else 0) ∧
  (∀ (s : State) (t th : Nat) (f : DFields) (n : NFields),
     let u := beginIssue s t th
     let a := (get (s.ctx t th) f.sa + f.imm.setWidth 32).toNat
     let b := (get (s.ctx t th) n.sa).toNat
     let uses := fun (port : Nat) => (⟨port + n.port.toNat, startCycle s n.phase, startCycle s n.phase + n.nflit.toNat⟩ : Use) ::
       rowUses b (n.nflit.toNat + 1) (startCycle s n.phase)
     let op := fun (k : OpKind) (port : Nat) =>
       ({ id := (s.tile t).nextOp, kind := k, thread := th, ts := startCycle s n.phase
          fin := startCycle s n.phase + n.nflit.toNat, uses := uses port, addr := b, cnt := n.cnt, port := n.port
          nflit := n.nflit.toNat } : Op)
     pcOk ((s.ctx t th).pc + 8) = true →
     (canIssue s t (.dload t th f) = true → a % 64 = 0 → a + 64 ≤ 2097152 →
       Fits u t th [⟨a / 0x20000, startCycle s f.phase, startCycle s f.phase⟩] →
       ∃ s', exec (.dload t th f) s = .next s' ∧ s'.pc = s.pc ∧
         Latched s s' t th { id := (s.tile t).nextOp, kind := .dload, thread := th, ts := startCycle s f.phase
                             fin := startCycle s f.phase
                             uses := [⟨a / 0x20000, startCycle s f.phase, startCycle s f.phase⟩]
                             addr := a, cnt := f.cnt, dl := f.dl }) ∧
     (b % 64 = 0 → b + 64 * (n.nflit.toNat + 1) ≤ 2097152 →
       (canIssue s t (.send t th n) = true → Fits u t th (uses 29) →
         ∃ s', exec (.send t th n) s = .next s' ∧ s'.pc = s.pc ∧ Latched s s' t th (op .send 29)) ∧
       (canIssue s t (.recv t th n) = true → Fits u t th (uses 33) →
         ∃ s', exec (.recv t th n) s = .next s' ∧ s'.pc = s.pc ∧ Latched s s' t th (op .recv 33))))

/-! ## Unit events (R158, R162 to R166, R193, R202 to R205) -/

namespace Sys2Proof.Claims
open Sys2Proof.Machine

/-- The counters of a tile after `amt` has been added to EC[c] (R165). -/
def raised (m : SMap Word) (c amt : Nat) : SMap Word :=
  if amt = 0 then m else SMap.upd 0 m c fun v => v + BitVec.ofNat 32 amt

/-- TS_SIG_IN raised by `amt`, the tile's other TS registers as before (R181). -/
def countSig (x : Ts) (amt : Nat) : Ts := if amt = 0 then x else { x with sigIn := sat64 (x.sigIn + amt) }

/-- An operation that is over in tile `t`: it is no longer among the tile's operations, its signal of `amt` to EC[c] has been
applied, the tile is `x` but for that, no other tile differs, and of the rest of the block only AUD_SIG_LOCAL does, and what
`PC` and `STG` count (R166, R452). -/
structure Over (s s' : State) (t op c amt : Nat) (x : Tile) : Prop where
  tile : s'.tile t = { x with ops := (s.tile t).ops.filter (fun o => o.id != op), ec := raised (s.tile t).ec c amt
                              ts := countSig (s.tile t).ts amt }
  tiles : ∀ u, u ≠ t → s'.tile u = s.tile u
  audit : s'.flt.sigLocal = if amt = 0 then s.flt.sigLocal else sat64 (s.flt.sigLocal + amt)
  rest : { s' with tiles := s.tiles, pc := s.pc, stg := s.stg, flt := { s'.flt with sigLocal := s.flt.sigLocal } } = s

/-- Operation `o` of tile `t`, the one of its number, stands in its start latches and its first cycle has come, not an idle
slot. -/
def Due (s : State) (t : Nat) (o : Op) : Prop :=
  s.op? t o.id = some o ∧ (∀ p ∈ (s.tile t).ops, p.id = o.id → p = o) ∧ o.started = false ∧ o.ts ≤ s.clk.cycle ∧ tilesRun s = true ∧ idleNow s = false ∧
    (s.tile t).gang.isSome = true

/-- Operation `o` of kind `k` of tile `t` has started and the last event of its timing table has come. -/
def Finished (s : State) (t : Nat) (k : OpKind) (o : Op) : Prop :=
  s.op? t o.id = some o ∧ o.kind = k ∧ o.started = true ∧ o.fin ≤ s.clk.cycle ∧ (s.tile t).gang.isSome = true

/-- The tile's operations with `f` of operation `id`. -/
def onOp (l : List Op) (id : Nat) (f : Op → Op) : List Op := l.map fun o => if o.id == id then f o else o

/-- The flits of a send that have not left yet, in order, with the cycles in which they leave: flit i is read and leaves in
t_s + i (R205). -/
def sentFlits (x : Tile) (o : Op) : List (Nat × Beat) :=
  (List.range (o.nflit + 1 - o.got)).map fun i =>
    (o.ts + (o.got + i), SMap.getBeat x.scratch (o.addr + 64 * (o.got + i)))

/-- Step `j` of a copy between kinds 0 and 1: beat j is read, and beat j - 2 is written (R202). -/
def copyStep (d : Beat) (a : Tile × List Beat) (j : Nat) : Tile × List Beat :=
  let l := if j < xBeats d then a.2 ++ [SMap.getBeat (kindMem a.1 (xSkind d)) (xSrcAt d j)] else a.2
  (if 2 ≤ j then
      setKindMem a.1 (xDkind d) (SMap.setBeat (kindMem a.1 (xDkind d)) (xDstAt d (j - 2)) (l.getD (j - 2) 0))
    else a.1, l)

/-- The flits of `l` leave port `q` of tile `t`, each with the cycle it leaves in: towards the adjacent tile, two cycles each, or,
past the edge of the die, into the bridge channel whose slot is its own, or out of the model (R175, R176). -/
def leaving (s s' : State) (t q : Nat) (l : List (Nat × Beat)) : Prop :=
  match neighbour t q with
  | some (u, r) => s'.wires = s.wires ++ (l.map fun e => ⟨u, r, e.1 + 2, e.2⟩) ∧ s'.crossing = s.crossing ∧
      s'.edgeOut = s.edgeOut
  | none =>
    let ch := fun (c : Nat) => if q % 2 = 1 then edgeChannel s t q c else none
    s'.wires = s.wires ∧
      s'.crossing = s.crossing ++ (l.filterMap fun e =>
        (ch e.1).map fun k => ⟨(channelEnds k).2.1, k, e.1 + (channelEnds k).2.2, e.2⟩) ∧
      s'.edgeOut = s.edgeOut ++ (l.filter fun e => (ch e.1).isNone).map fun e => ⟨t, q, e.1, e.2⟩

end Sys2Proof.Claims

/-- R162, R86, R125, R193, R202 to R205: what happens as an operation leaves its start latches. A DLOAD writes the
latch of its group and raises its counter; a SEND, a RECV and a transfer that is no conversion and does not read
memory of kind 2 begin; a MATVEC, and a VECTOR that reads no accumulator, begin and see the scratchpad as it stands; a
MATRIX writes its results into the accumulators, for the vector operations in flight too. When an operation reads its
operands, within the windows of R471, and what it keeps of them is the model's choice (logs 8 and 80). R252, R201,
R249, R251: a transfer of the read direction that is no conversion and whose every beat is reached in this module's
own memory asks for all its beats in ascending order as it starts; beside its tile only the cached translations
change. -/
def Obligations.OperationsStartAndAsk : Prop :=
  (∀ (s : State) (t : Nat) (o : Op), Due s t o →
     ∀ ce ue : List Nat,
     let begun := fun (f : Op → Op) =>
       onOp (s.tile t).ops o.id fun o => f { o with started := true, ceWords := ce, ueWords := ue }
     (o.kind = .dload → ∃ s', exec (.operationStart t ⟨o.id, ce, ue⟩) s = .next s' ∧
       Over s s' t o.id o.cnt.toNat 1 { s.tile t with
         dl := SMap.set none (s.tile t).dl (2 * (o.thread / 64) + o.dl.toNat) (some (SMap.getBeat (s.tile t).scratch o.addr)) }) ∧
     ((o.kind = .send ∨ o.kind = .recv ∨ (o.kind = .xfer ∧ xConv o.desc = false ∧ xRead2 o.desc = false)) →
       ∃ s', exec (.operationStart t ⟨o.id, ce, ue⟩) s = .next s' ∧ s'.tile t = { s.tile t with ops := begun id } ∧
         (∀ u, u ≠ t → s'.tile u = s.tile u) ∧ { s' with tiles := s.tiles } = s) ∧
     ((o.kind = .matvec ∨ (o.kind = .vector ∧ readsAcc o = false)) →
       ∃ s', exec (.operationStart t ⟨o.id, ce, ue⟩) s = .next s' ∧
         s'.tile t = { s.tile t with ops := begun fun o => { o with seen := some ((s.tile t).scratch, []) } } ∧
         (∀ u, u ≠ t → s'.tile u = s.tile u) ∧ { s' with tiles := s.tiles } = s) ∧
     (o.kind = .matrix →
       let r := runMatrix (seenBy { s.tile t with ops := begun id } { o with started := true, ceWords := ce, ueWords := ue })
         o.desc
       ∃ s', exec (.operationStart t ⟨o.id, ce, ue⟩) s = .next s' ∧
         s'.tile t = { s.tile t with acc := r.acc, mxs := r.mxs, kfs := r.kfs, ops := (s'.tile t).ops } ∧
         (∃ p ∈ (s'.tile t).ops, p.id = o.id ∧ p.started = true ∧ p.reqs = r.reqs) ∧
         (∀ u, u ≠ t → s'.tile u = s.tile u) ∧ { s' with tiles := s.tiles } = s)) ∧
  (∀ (s : State) (t : Nat) (o : Op) (ga : Nat → Nat),
     Due s t o → o.kind = .xfer → xConv o.desc = false → xRead2 o.desc = true → o.stopped = false → o.held = none → o.reqd = 0 → o.asked = [] →
     (∀ b, b < xBeats o.desc → reach s (dieOfTile t) (xSrcAt o.desc b) false false = .ok (ga b) ∧ gaMod (ga b) = s.self ∧
       ∀ w, placeOf (gaOff (ga b)) ≠ .hwin w) →
       ∀ ce ue : List Nat, ∃ s', exec (.operationStart t ⟨o.id, ce, ue⟩) s = .next s' ∧
         s'.tile t = { s.tile t with ops := onOp (s.tile t).ops o.id fun o => { o with
           started := true, ceWords := ce, ueWords := ue
           asked := (List.range (xBeats o.desc)).map fun b => (b, ga b), reqd := xBeats o.desc } } ∧
         (∀ u, u ≠ t → s'.tile u = s.tile u) ∧ { s' with tiles := s.tiles, mem := { s'.mem with tlb := s.mem.tlb } } = s)

/-- R166, R89, R92, R148, R205: a MATRIX, MATVEC, VECTOR, SEND or RECV that has run its course is over; its completion signal
of AMT (1 for SEND and RECV, which sends first what is left of its flits) goes to its counter, and its operation counter MXS_OP_COUNT or VRS_OP_COUNT rises. A MATRIX has
changed nothing else of its tile but what the press check keeps, a MATVEC only the scratchpad and its status, a VECTOR also
nothing outside the scratchpad and the status blocks.
In which cycle of R471's windows results are written and counts rise is the model's choice (logs 8 and 80). -/
def Obligations.CompletionsSignal : Prop :=
  ∀ (s : State) (t : Nat) (o : Op) (k : OpKind), Finished s t k o →
    (k = .matrix → ∃ s', exec (.matrixComplete t o.id) s = .next s' ∧
      Over s s' t o.id (dCnt o.desc) (dAmt o.desc) { s.tile t with
        mxs := { (s.tile t).mxs with ops := sat32 ((s.tile t).mxs.ops + 1) }, press := (s'.tile t).press } ∧
      s'.stg = s.stg ∧ (o.sampled = false → o.reqs = [] → (s'.tile t).press = (s.tile t).press ∧ s'.pc = s.pc)) ∧
    (k = .matvec → ∃ s', exec (.matvecComplete t o.id) s = .next s' ∧
      Over s s' t o.id (dCnt o.desc) (dAmt o.desc) { s.tile t with
        scratch := (s'.tile t).scratch, kfs := (s'.tile t).kfs, mxs := (s'.tile t).mxs, press := (s'.tile t).press } ∧
      s'.stg = s.stg ∧ (s'.tile t).mxs.ops = sat32 ((s.tile t).mxs.ops + 1) ∧
      (s'.tile t).scratch = (runMatvec s (seenBy (s.tile t) o) (s.tile t) o.desc).1.scratch) ∧
    (k = .vector → ∃ s', exec (.vectorComplete t o.id) s = .next s' ∧
      Over s s' t o.id (dCnt o.desc) (dAmt o.desc) { s.tile t with
        scratch := (s'.tile t).scratch, kfs := (s'.tile t).kfs, vrs := (s'.tile t).vrs, press := (s'.tile t).press } ∧
      s'.stg = s.stg ∧ (s'.tile t).vrs.ops = sat32 ((s.tile t).vrs.ops + 1) ∧
      (s'.tile t).scratch = (runVector s (s.tile t) o).x.scratch) ∧
    (k = .send → ∃ s', exec (.sendComplete t o.id) s = .next s' ∧
      Over { s with wires := s'.wires, crossing := s'.crossing, edgeOut := s'.edgeOut } s' t o.id o.cnt.toNat 1 (s.tile t) ∧
      leaving s s' t o.port.toNat (sentFlits (s.tile t) o) ∧ s'.pc = s.pc ∧ s'.stg = s.stg) ∧
    (k = .recv → o.bad = true ∨ o.got = o.nflit + 1 → ∃ s', exec (.recvComplete t o.id) s = .next s' ∧
      Over s s' t o.id o.cnt.toNat (if o.bad then 0 else 1) (s.tile t) ∧ s'.pc = s.pc ∧ s'.stg = s.stg)

/-- R202, R253: a byte copy between the scratchpad and the hamper moves every beat of its block, beat j read two steps
before it is written: one whose beats have all been read writes those it still holds, one that has moved none yet
makes every step. It is over with its completion signal, no record of a fault of it that was tried again stays (R260),
and a remote signal it carries follows. R253, R254, R258, R260: a transfer with a side of kind 2 completes once none
of its beats is pending, held by a fault or to be read again, and all have been requested or it has been ended; before
that XFER_COMPLETE changes nothing. -/
def Obligations.CopiesAndTransfersComplete : Prop :=
  (∀ (s : State) (t : Nat) (o : Op), Finished s t .xfer o → (∀ p ∈ (s.tile t).ops, p.id = o.id → p = o) →
     xRead2 o.desc = false → xWrite2 o.desc = false → xConv o.desc = false → o.stopped = false →
       let x := s.tile t
       let ends := fun (ce ue : List Nat) (y : Tile) => ∃ u, exec (.xferComplete t o.id ce ue) s =
           .next (if xRsig o.desc then
             signalTo u x.gang (xRmod o.desc) (xRtile o.desc) (xRcnt o.desc) (xRamt o.desc) else u) ∧
         Over (retryGone s false t o.id) u t o.id (dCnt o.desc) (dAmt o.desc) y ∧ u.pc = s.pc ∧ { u.stg with hwm := s.stg.hwm, ce := s.stg.ce } = s.stg
       (xBeats o.desc ≤ o.reqd → o.buf.length ≤ xBeats o.desc →
         ∀ ce ue : List Nat, ends ce ue (setKindMem x (xDkind o.desc)
           (o.buf.foldl (fun m e => SMap.setBeat m e.2.1 e.2.2.1) (kindMem x (xDkind o.desc))))) ∧
       (o.reqd = 0 → o.done = 0 → o.buf = [] → o.ceWords = [] → o.ueWords = [] →
         ends [] [] ((List.range (xBeats o.desc + 2)).foldl (copyStep o.desc) (x, [])).1)) ∧
  (∀ (s : State) (t : Nat) (o : Op), Finished s t .xfer o → xKind2 o = true →
     let done := o.asked = [] ∧ o.buf = [] ∧ opOut s t o.id = [] ∧ refills s t o.id = false ∧ o.held = none ∧
       (o.stopped = true ∨ xBeats o.desc ≤ o.reqd)
     ∀ ce ue : List Nat,
     (done → ∃ u, exec (.xferComplete t o.id ce ue) s =
         .next (if xRsig o.desc && !o.stopped then
           signalTo u (s.tile t).gang (xRmod o.desc) (xRtile o.desc) (xRcnt o.desc) (xRamt o.desc) else u) ∧
       Over (retryGone s false t o.id) u t o.id (dCnt o.desc) (dAmt o.desc) (s.tile t) ∧ u.pc = s.pc ∧ u.stg = s.stg) ∧
     (¬ done → exec (.xferComplete t o.id ce ue) s = .next s))

/-- R164, R175, R176, R205, R158: a flit on its way that arrives in an inbound port leaves by the outbound port that forwards it,
or is stored by the receive whose cycle this is; with neither it is a slot fault of source 5. With none on its way, a flit that
a bridge has carried to this die enters in a cycle that drains it to the port, one in each such cycle (R160), and nothing enters in another cycle. A fetch
cycle of a bank serves its oldest fill request.
What comes in at a port where nothing is due, the order of the bridges' channels, and that a flit no channel takes is recorded as leaving the die, are the model's choices (logs 16, 46 and 78). -/
def Obligations.FlitsAndFills : Prop :=
  ∀ (s : State) (t : Nat) (port : BitVec 2) (w : Wire),
    tilesRun s = true → idleNow s = false → (s.tile t).gang.isSome = true →
    (s.wires.find? (fun w => w.tile == t && w.port == port.toNat && decide (w.at_ ≤ s.clk.cycle)) = some w →
      (∀ q, forwardPort s t port.toNat = some q → ∃ s', exec (.inboundFlit t port w.flit) s = .next s' ∧
        { s' with wires := s.wires, crossing := s.crossing, edgeOut := s.edgeOut } = s ∧
        leaving { s with wires := s.wires.erase w } s' t q [(s.clk.cycle, w.flit)]) ∧
      (∀ o, forwardPort s t port.toNat = none → receiver s t port.toNat = some o → o.bad = false →
        ∃ s', exec (.inboundFlit t port w.flit) s = .next s' ∧
          s'.tile t = { s.tile t with
            scratch := SMap.setBeat (s.tile t).scratch (o.addr + 64 * (s.clk.cycle - o.ts)) w.flit
            ops := onOp (s.tile t).ops o.id fun o' => { o' with got := s.clk.cycle - o.ts + 1 } } ∧
          (∀ u, u ≠ t → s'.tile u = s.tile u) ∧ { s' with tiles := s.tiles, wires := s.wires } = s) ∧
      (forwardPort s t port.toNat = none → receiver s t port.toNat = none →
        exec (.inboundFlit t port w.flit) s =
          .next (slotFault { s with wires := s.wires.erase w } t none 5 0xFF s.slotN 0))) ∧
    (s.wires.find? (fun w => w.tile == t && w.port == port.toNat && decide (w.at_ ≤ s.clk.cycle)) = none →
      (∀ f, drainsTo s t port.toNat = false → exec (.inboundFlit t port f) s = .next s) ∧
      (∀ b o, drainsTo s t port.toNat = true →
        s.crossing.find? (fun c => c.die == t / 512 && decide (c.at_ ≤ s.clk.cycle) && c.flit == b.flit) = some b →
        forwardPort s t port.toNat = none → receiver s t port.toNat = some o → o.bad = false →
        ∃ s', exec (.inboundFlit t port b.flit) s = .next s' ∧
          s'.tile t = { s.tile t with
            scratch := SMap.setBeat (s.tile t).scratch (o.addr + 64 * (s.clk.cycle - o.ts)) b.flit
            slotUsed := (33 + port.toNat) :: (s.tile t).slotUsed
            ops := onOp (s.tile t).ops o.id fun o' => { o' with got := s.clk.cycle - o.ts + 1 } } ∧
          (∀ u, u ≠ t → s'.tile u = s.tile u) ∧
          { s' with tiles := s.tiles, crossing := s.crossing } = s ∧ s'.crossing = s.crossing.erase b)) ∧
    (∀ bank f, owner s t bank s.clk.cycle = 0x43 → (s.tile t).slotUsed.contains bank = false →
      (s.tile t).fills.find? (fun f => f.1 / 0x20000 == bank && decide (f.2 < s.clk.cycle)) = some f →
      ∃ s', exec (.fetchFill t bank) s = .next s' ∧
        s'.tile t = { s.tile t with
          fills := (s.tile t).fills.erase f, slotUsed := bank :: (s.tile t).slotUsed
          fetch := SMap.set none (s.tile t).fetch (f.1 % 2 ^ 32 / 64 % 64)
            (some ⟨f.1 % 2 ^ 32 / 4096 % 512, SMap.getBeat (s.tile t).scratch f.1⟩) } ∧
        (∀ u, u ≠ t → s'.tile u = s.tile u) ∧ { s' with tiles := s.tiles } = s)

/-! ## Seams, press checks, the step guard (R101 to R120, R170 to R173, R215, R226 to R230) -/

/-- Ladder entry `n` is named by an operand of descriptor `d` (R107). -/
def Sys2Proof.Claims.names (d : Beat) (n : Nat) : Prop :=
  (mLva d = true ∧ mLadA d = n) ∨ (mLvb d = true ∧ mLadB d = n)

/-- R171, R158, R193, R181: a gang whose threads all stand at a mark, none of its units busy, takes its seam: from
that cycle each of its tiles has TS_SEAM at the mark's number and empty fetch buffer and descriptor latches; nothing
else of a tile differs. The seam ends the gang's step where the mark has bit 31 set (R216, R226). R171, R102, R110,
R120: in the cycle after its take a gang's press intervals are closed and its PCT registers cleared, each tile having
one new interval; in the cycle after that the table set of its mark is active; other tiles keep what they have. R171,
R172: with nothing holding the gang, in a cycle of slot index 0 at least 8 cycles after the take, its threads leave
the seam: each runs on at its PC, which is past the mark, the ring position is the last, no thread elsewhere moves. -/
def Obligations.GangsTakeAndLeaveSeams : Prop :=
  (∀ (s : State) (g : Nat) (no : Word) (ts : BitVec 2), Canon s →
     gangMark s g = some (no, ts) → canTake s g = true →
       ∃ u, exec (.seamTake g) s = .next (stepSeam u g no) ∧
         u.gang g = { s.gang g with seamAt := some s.clk.cycle, markSet := ts } ∧ (∀ h, h ≠ g → u.gang h = s.gang h) ∧
         (∀ t, (s.tile t).gang = some g → u.tile t = { s.tile t with
           fetch := [], fills := [], dl := [], dlPrev := [], ts := { (s.tile t).ts with seam := no } }) ∧
         (∀ t, (s.tile t).gang ≠ some g → u.tile t = s.tile t) ∧ { u with tiles := s.tiles, gangs := s.gangs } = s) ∧
  (∀ (s : State) (g t0 : Nat), Canon s → (s.gang g).seamAt = some t0 →
     (s.clk.cycle = t0 + 1 →
       (∀ t, (s.tile t).gang = some g →
         let x := (seamCycle s g).tile t
         x.raises = [] ∧ x.pctVerdict = 0 ∧ x.pressCycles = 0 ∧ (∃ n, x.press = [{ id := n }]) ∧
         x.scratch = (s.tile t).scratch ∧ x.hamper = (s.tile t).hamper ∧ x.acc = (s.tile t).acc ∧
         x.threads = (s.tile t).threads ∧ x.tset = (s.tile t).tset) ∧
       (∀ t, (s.tile t).gang ≠ some g → (seamCycle s g).tile t = s.tile t)) ∧
     (s.clk.cycle = t0 + 2 →
       (∀ t, (s.tile t).gang = some g → (seamCycle s g).tile t = { s.tile t with tset := (s.gang g).markSet }) ∧
       (∀ t, (s.tile t).gang ≠ some g → (seamCycle s g).tile t = s.tile t) ∧
       { seamCycle s g with tiles := s.tiles } = s) ∧
     (s.clk.cycle ≠ t0 + 1 → s.clk.cycle ≠ t0 + 2 → seamCycle s g = s)) ∧
  (∀ (s : State) (g t0 : Nat), Canon s → (s.gang g).seamAt = some t0 → tilesRun s = true → idleNow s = false → s.clk.slot = 0 →
     t0 + 8 ≤ s.clk.cycle → holdDue s = false → (∀ t, (s.tile t).gang = some g → (s.tile t).breaches = 0) →
       ∃ s', exec (.seamLeave g) s = .next s' ∧ (s'.gang g).seamAt = none ∧ (∀ h, h ≠ g → s'.gang h = s.gang h) ∧
         (∀ t, (s.tile t).gang = some g → s'.tile t = { s.tile t with
           last := (s.tile t).ring.length - 1
           threads := (s.tile t).threads.map fun c =>
             if c.2.st == .seam then (c.1, { c.2 with st := .run }) else c }) ∧
         (∀ t, (s.tile t).gang ≠ some g → s'.tile t = s.tile t) ∧
         s'.flt = { s.flt with darnHold := s.flt.darnHold.erase g } ∧
         { s' with tiles := s.tiles, gangs := s.gangs, flt := s.flt } = s)

/-- R103, R105, R106, R107, R118: a check that has had its press-owned cycles compares the operation's snapshot with
the press engine's results on the scratchpad `m` as its product cycles read it: the entry is marked checked, the
interval's checks go up by one, PC counts the check, and a failed one is counted and attaches to the interval one
request, of source check, that names, of the operands' ladder entries below their CEIL, those at the lowest effective
rung. Nothing else of the tile changes, its scratchpad and threads not either, and no other tile or block. R104, R120:
the verdict of the oldest closed interval, all its checks made and none of its operations pending, removes the
interval, writes PCT_VERDICT and adds 1 to the counter of its press point. With no request open it raises nothing;
with one request that names an entry of the gang's own below CEIL and not yet listed, PCT_RAISE_LIST, of fewer than 8,
takes that entry one rung up and PC_RAISE counts it (R107, R108, R118). -/
def Obligations.PressChecksDecide : Prop :=
  (∀ (s : State) (t : Nat) (v : Interval) (e : PressEnt) (m : SMap Byte),
     currentCheck (s.tile t) = some (v, e) → e.snap.isSome = true → (s.tile t).pressOn = some (v.id, e.op, m) →
     8 * mJ e.desc + 24 ≤ (s.tile t).pressCycles → (s.tile t).gang.isSome = true →
       let w := (outElems e.desc).map fun p => pressElement { s.tile t with scratch := m } e.desc p.1 p.2
       let r := pressCompare ((e.snap.getD []).map ofA36) w (threshOf s (opRung e.desc))
       let req : List EscReq := if r.1 = .fail then [⟨.check, checkEntries s t e.desc⟩] else []
       ∃ s', exec (.pressCheckComplete t) s = .next s' ∧
         s'.tile t = { s.tile t with
           pressCycles := 0, pressOn := none
           press := (s.tile t).press.map fun i =>
             if i.id = v.id then
               { i with ents := i.ents.map (fun a => if a.op = e.op then { a with checked := true } else a)
                        checks := i.checks + 1, reqs := i.reqs ++ req, failed := i.failed || r.1 == .fail }
             else i } ∧
         s'.pc = { s.pc with
           checked := sat32 (s.pc.checked + 1), maxDq := max s.pc.maxDq (r.2.getD 0)
           fail := if r.1 = .fail then sat32 (s.pc.fail + 1) else s.pc.fail
           wide := if r.1 = .wide then sat32 (s.pc.wide + 1) else s.pc.wide
           wideFlag := s.pc.wideFlag || r.1 == .wide, named := s'.pc.named } ∧
         (∀ u, u ≠ t → s'.tile u = s.tile u) ∧ { s' with tiles := s.tiles, pc := s.pc } = s ∧
         ∀ n, n ∈ checkEntries s t e.desc ↔
           names e.desc n ∧ heldRung s (s.tile t) n < (s.ladder n).ceil ∧
             ∀ k, names e.desc k → heldRung s (s.tile t) k < (s.ladder k).ceil →
               heldRung s (s.tile t) n ≤ heldRung s (s.tile t) k) ∧
  (∀ (s : State) (t : Nat) (v : Interval) (l : List Interval),
     (s.tile t).press = v :: l → v.closed = true → v.pend = 0 → (∀ e ∈ v.ents, e.checked = true) →
     v.closedAt + 1 ≤ s.clk.cycle → (s.tile t).gang.isSome = true →
       let after := fun (raisedBit : Nat) (rs : List Raise) => { s.tile t with
         pctVerdict := pack 32 [(0, 1, 1), (1, 1, raisedBit), (4, 4, v.checks), (8, 4, min 15 v.skipped)]
         press := (v :: l).filter (fun i => i.id != v.id), ec := raised (s.tile t).ec v.cnt.toNat 1
         ts := countSig (s.tile t).ts 1, raises := rs }
       (v.reqs = [] → ∃ s', exec (.pressVerdict t) s = .next s' ∧ s'.tile t = after 0 (s.tile t).raises ∧
         (∀ u, u ≠ t → s'.tile u = s.tile u) ∧ s'.pc = s.pc ∧
         { s' with tiles := s.tiles, flt := { s'.flt with sigLocal := s.flt.sigLocal } } = s) ∧
       (∀ n, v.reqs = [⟨.pool, [n]⟩] → s.refMode = false → (s.ladder n).jobwide = false →
         (s.ladder n).rung < (s.ladder n).ceil → (∀ e ∈ (s.tile t).raises, e.entry ≠ n) → (s.tile t).raises.length < 8 →
         ∃ s', exec (.pressVerdict t) s = .next s' ∧
           s'.tile t = after 1 ((s.tile t).raises ++ [⟨n, (s.ladder n).rung + 1, (s.ladder n).scope⟩]) ∧
           (∀ u, u ≠ t → s'.tile u = s.tile u) ∧ s'.pc = { s.pc with raise := sat32 (s.pc.raise + 1) } ∧
           { s' with tiles := s.tiles, pc := s.pc, flt := { s'.flt with sigLocal := s.flt.sigLocal } } = s))

/-- R215, R228: in the first cycle with slot index 255 that ends more than 1 µs after STEP_RUN was taken, EC[0] of
every tile of every named gang rises by 1 and the deadline's timer starts. R228: a step still RUNNING after its
deadline sets STG_LOCAL bit 7 and is abandoned; one within its deadline, or with none, goes on. R229, R325, R326:
abandoning a RUNNING step sets STG_LOCAL bit 8, counts STG_ABANDON, freezes every gang and leaves the module in
ABANDONED; parity, STG_STEP and the bytes of the tiles' memories are as before. In another state it changes nothing.
-/
def Obligations.StepsStartAndAbandon : Prop :=
  (∀ (s : State) (t0 : Nat), Canon s → s.stg.startAt = some t0 → tilesRun s = true → idleNow s = false → s.clk.slot = 255 →
     s.stg.st = .running → s.endsAfter (t0 + 1000) = true → s.pre.saved = false →
       ∃ s', exec .stepStartSignal s = .next s' ∧
         s'.stg = { s.stg with startAt := none, timer := some s.ns, excluded := 0, exclFrom := none } ∧
         (∀ t g, (s.tile t).gang = some g → bitB s.stg.gangs g = true →
           (s'.tile t).ec = SMap.upd 0 (s.tile t).ec 0 (fun v => v + 1) ∧ (s'.tile t).threads = (s.tile t).threads) ∧
         (∀ t, (∀ g, (s.tile t).gang = some g → bitB s.stg.gangs g = false) → s'.tile t = s.tile t) ∧
         { s' with tiles := s.tiles, stg := s.stg, flt := s.flt } = s) ∧
  (∀ (s : State), s.stg.st = .running →
     (s.stg.deadlineNow ≠ 0 ∧ 1000 * s.stg.deadlineNow < stepNs s →
       ∃ u, exec .deadlineCheck s = .next (abandonStep u) ∧ bitB u.stg.loc 7 = true ∧
         { u with stg := { u.stg with loc := s.stg.loc } } = s) ∧
     ((s.stg.deadlineNow = 0 ∨ stepNs s ≤ 1000 * s.stg.deadlineNow) → exec .deadlineCheck s = .next s)) ∧
  (∀ (s : State), Canon s →
     (s.stg.st = .running →
       (abandonStep s).stg.st = .abandoned ∧ bitB (abandonStep s).stg.loc 8 = true ∧
       (abandonStep s).stg.abandons = sat32 (s.stg.abandons + 1) ∧ (abandonStep s).stg.parity = s.stg.parity ∧
       (abandonStep s).stg.step = s.stg.step ∧ (abandonStep s).stg.timer = none ∧
       (∀ t g, (s.tile t).gang = some g → ((abandonStep s).gang g).frozen = true) ∧
       (∀ t, ((abandonStep s).tile t).scratch = (s.tile t).scratch ∧ ((abandonStep s).tile t).hamper = (s.tile t).hamper) ∧
       (abandonStep s).mem.dram = s.mem.dram) ∧
     (s.stg.st ≠ .running → abandonStep s = s))

/-- R229, R230, R264: once the abandoned step's verdict is known and no operation has started and not ended, rewind reloads every
used tile from the image as its bytes stand at KEEP (contexts, ring, table sets, counters, and the scratchpad bytes its SCRATCH_INIT names), clears
the freeze and returns the module to IDLE, its step reported as discarded; the bytes of the tiers stay, and where no beat of the image can read in error so
does the whole memory block. -/
def Obligations.RewindReloadsTiles : Prop :=
  ∀ (s : State) (k : Kept), Canon s → s.stg.st = .abandoned → s.stg.rewindDue = true → s.image = some k →
    (∀ t, ∀ o ∈ (s.tile t).ops, o.started = false) →
      ∃ u, exec .rewind s = .next (reportStep u true false) ∧ u.stg.st = .idle ∧ u.stg.rewindDue = false ∧
        u.gangs = [] ∧ u.stg.parity = s.stg.parity ∧ u.stg.step = s.stg.step ∧ u.mem.dram = s.mem.dram ∧
        (suspects s k.keep k.size = [] → u.mem = s.mem) ∧
        (∀ t, (s.tile t).gang.isSome = true →
          let i := imgTile (keptNow s k).img t
          (u.tile t).threads = i.contexts ∧ (u.tile t).ring = i.ring ∧ (u.tile t).sets = imgSets i ∧ (u.tile t).tset = 0 ∧
          (u.tile t).ec = i.counters ∧ (u.tile t).ops = [] ∧ (u.tile t).fetch = [] ∧ (u.tile t).dl = [] ∧
          (u.tile t).scratch = i.scratch.foldl (fun m e => SMap.setBytes m e.1 e.2) (s.tile t).scratch ∧
          (u.tile t).hamper = (s.tile t).hamper) ∧
        (∀ t, (s.tile t).gang = none → u.tile t = s.tile t)

/-! ## Commit rounds (R315, R322 to R329) -/

namespace Sys2Proof.Claims
open Sys2Proof.Machine

/-- Message `m` of opcode `opc` for step `step` waits whole at port `p` on channel 15, the next to be performed. -/
def Waits (s : State) (p opc step : Nat) (m : Msg) : Prop :=
  p < 18 ∧ mOpc m = opc ∧ mArg m = step ∧ waiting s p m = some (15, m)

/-- The block once the message has been taken from its port and its credits are due to the peer (R272, R274). -/
def taken (s : State) (p : Nat) (m : Msg) : State :=
  oweCredits (s.modPort p fun x => { x with inMsgs := x.inMsgs.erase (15, m) }) p 15 (1 + m.data.length)

end Sys2Proof.Claims

/-- R315, R323: a TALLY for the step in progress joins those held, with its port, digest and bytes, and is compared
once the module is locally complete; a VOTE of a child not heard yet joins the votes, CM_VOTES rising by its COUNT.
Either may complete this module's own vote. R315: comparing a TALLY with the receive tally of its port sets STG_LOCAL
bit 5, counts CM_TALLY_FAIL and names the first failing port in CM_STATUS where digest or bytes differ, and only marks
the port as compared where both are equal. -/
def Obligations.TalliesAndVotesJoin : Prop :=
  (∀ (s : State) (p : Nat) (m : Msg), Canon s →
     (Waits s p 0x28 (stepArg s) m → ∃ u, exec (.tally p m) s = .next (tryVote (compareTallies u)) ∧
       u.cm = { s.cm with tallies := s.cm.tallies ++ [(p, BitVec.ofNat 64 (mOp0 m), mOp1 m)] } ∧
       u.ports = (taken s p m).ports ∧ { u with ports := s.ports, cm := s.cm } = s) ∧
     (Waits s p 0x29 (stepArg s) m → bitB s.cm.child p = true → (∀ v ∈ s.cm.childVotes, v.1 ≠ p) →
       ∃ u, exec (.vote p m) s = .next (tryVote u) ∧
         u.cm = { s.cm with childVotes := s.cm.childVotes ++ [(p, aggOf m)], votes := sat32 (s.cm.votes + (aggOf m).count) } ∧
         u.ports = (taken s p m).ports ∧ { u with ports := s.ports, cm := s.cm } = s)) ∧
  (∀ (s : State) (p : Nat) (d : DWord) (n : Nat), s.bound = true → p ∉ s.cm.compared →
     let same := SMap.get 0 s.cm.rxTally p = d ∧ SMap.get 0 s.cm.rxBytes p = n
     (same → compareTally s (p, d, n) = { s with cm := { s.cm with compared := p :: s.cm.compared } }) ∧
     (¬ same → bitB (compareTally s (p, d, n)).stg.loc 5 = true ∧
       (compareTally s (p, d, n)).cm = { s.cm with
         compared := p :: s.cm.compared, tallyFail := sat32 (s.cm.tallyFail + 1)
         tallyPort := if s.cm.tallyPort = 0x1F then p else s.cm.tallyPort }))

/-- R231, R324, R325: a module in LOCAL_DONE that receives RESULT with COMMIT for its step from its parent flips: it
is COMMITTING, parity inverted, STG_STEP one up, STG_COMMIT_COUNT one up; a RESULT without COMMIT leaves parity and
STG_STEP, counts STG_DISCARD and returns the module to IDLE. The RESULT is kept; memory is as before where no
completion queue stands in the exchange area (R336). R327, R329, R231: a FLIP_ACK of a child's subtree is held with
its count and CM_ACKS rises by it; RELEASE for the step in commit ends it: the module is IDLE, its STG_VERDICT that of
the RESULT it kept, and RELEASE is kept for those who ask. R325, R229, R326, R328, R329: a QUERY for a step whose
RESULT is not held is remembered with its port; an ABANDON for the step in progress abandons a RUNNING module's step,
lets one in LOCAL_DONE vote without the tallies it still awaits, and is noted in IDLE, COMMITTING and ABANDONED; a
module that has waited longer than CM_ROUND_TIMEOUT_US is STALLED and asks; one held in COMMITTING as long counts
CM_HELD and stays there. -/
def Obligations.ResultsReachEveryMember : Prop :=
  (∀ (s : State) (p : Nat) (m : Msg), Canon s → Waits s p 0x2A (roundStep s) m → p = s.cm.parent → s.stg.st = .localDone →
     s.stg.rewindDue = false →
       ∃ s', exec (.result p m) s = .next s' ∧ (∃ r ∈ s'.cm.results, r.step.toNat = roundStep s) ∧
         (resultCommit m = true →
           s'.stg.st = .committing ∧ s'.stg.parity = !s.stg.parity ∧ s'.stg.step = s.stg.step + 1 ∧
           s'.stg.commits = sat32 (s.stg.commits + 1)) ∧
         (resultCommit m = false →
           s'.stg.st = .idle ∧ s'.stg.parity = s.stg.parity ∧ s'.stg.step = s.stg.step ∧
           s'.stg.discards = sat32 (s.stg.discards + 1) ∧ s'.stg.commits = s.stg.commits) ∧
         s'.tiles = s.tiles ∧ ((∀ k, bitB (s.cq k).base 0 = false) → s'.mem.dram = s.mem.dram)) ∧
  (∀ (s : State) (p : Nat) (m : Msg), Canon s → s.stg.st = .committing →
     (Waits s p 0x2B (roundStep s) m → bitB s.cm.child p = true → (∀ a ∈ s.cm.childAcks, a.1 ≠ p) →
       ∃ u, exec (.flipAck p m) s = .next (tryAck u) ∧
         u.cm = { s.cm with childAcks := s.cm.childAcks ++ [(p, fldN m.hdr 224 16, bitB m.hdr 192)]
                            acks := sat32 (s.cm.acks + fldN m.hdr 224 16) } ∧
         u.ports = (taken s p m).ports ∧ { u with ports := s.ports, cm := s.cm } = s) ∧
     (Waits s p 0x2C (roundStep s) m → s.cm.flippedAt.isSome = true →
       ∃ s', exec (.release p m) s = .next s' ∧ s'.stg.st = .idle ∧ s'.stg.parity = s.stg.parity ∧ s'.stg.step = s.stg.step ∧
         s'.stg.rollfwds = (if bitB m.hdr 192 then sat32 (s.stg.rollfwds + 1) else s.stg.rollfwds) ∧
         (∀ r, s.cm.results.find? (fun r => r.step.toNat == roundStep s) = some r → s'.stg.verdict = (aggOf r.msg).or_) ∧
         s'.cm.flippedAt = none ∧ s'.cm.childAcks = [] ∧ s'.cm.rolled = bitB m.hdr 192 ∧
         (∃ r ∈ s'.cm.releases, r = (BitVec.ofNat 32 (roundStep s), bitB m.hdr 192)) ∧
         s'.tiles = s.tiles ∧ ((∀ k, bitB (s.cq k).base 0 = false) → s'.mem = s.mem))) ∧
  (∀ (s : State) (p : Nat) (m : Msg), Canon s →
     (∀ n, Waits s p 0x2D n m → s.cm.results = [] → s.cm.releases = [] →
       ∃ s', exec (.query p m) s = .next s' ∧
         s'.cm = { s.cm with queriers := s.cm.queriers ++ [(p, BitVec.ofNat 32 n)] } ∧ s'.ports = (taken s p m).ports ∧
         { s' with ports := s.ports, cm := s.cm } = s) ∧
     (Waits s p 0x2E (stepArg s) m → ∃ u, u.cm = { s.cm with abandonSeen := true } ∧ u.ports = (taken s p m).ports ∧
       { u with ports := s.ports, cm := s.cm } = s ∧
       (s.stg.st = .running → exec (.abandon p m) s = .next (abandonStep u)) ∧
       (s.stg.st = .localDone → exec (.abandon p m) s = .next (tryVote u)) ∧
       ((s.stg.st = .idle ∨ s.stg.st = .committing ∨ s.stg.st = .abandoned) → exec (.abandon p m) s = .next u)) ∧
     (∀ v, s.cm.votedAt = some v → waitsResult s = true → s.cm.stalled = false →
       v + 1000 * s.cm.roundTimeout.toNat < s.ns → ∃ s', exec .roundTimeout s = .next s' ∧ s'.cm.stalled = true ∧
         s'.stg = s.stg ∧ s'.tiles = s.tiles) ∧
     (∀ f, s.cm.flippedAt = some f → s.stg.st = .committing → s.cm.held = false →
       f + 1000 * s.cm.roundTimeout.toNat < s.ns → ∃ s', exec .commitHoldTimeout s = .next s' ∧
         s'.cm = { s.cm with held := true, heldCount := sat32 (s.cm.heldCount + 1) } ∧ s'.stg = s.stg ∧ s'.tiles = s.tiles))

/-! ## Fabric links (R269 to R277, R284, R291 to R298) -/

namespace Sys2Proof.Claims
open Sys2Proof.Machine

/-- Port `p` of `s` has become `x`; nothing else of the block differs. -/
def OnlyPort (s s' : State) (p : Nat) (x : Port) : Prop := s'.ports = SMap.set {} s.ports p x ∧ { s' with ports := s.ports } = s

/-- The port carries frames: main rails on, state WAIT, UP or SWAP. -/
def Carries (s : State) (p : Nat) : Prop :=
  s.pins.mainOn = true ∧ ((s.port p).st = .wait ∨ (s.port p).st = .up ∨ (s.port p).st = .swap)

/-- CRC-32C of the frame's header and flit is the one it carries (R269). -/
def CrcGood (f : Frame) : Prop := crc32c (leBytes 8 f.hdr.toNat ++ beatBytes f.flit) = f.crc

/-- Link control flit `flit` of type `ty` waits at port `p`. -/
def Control (s : State) (p ty : Nat) (flit : Beat) : Prop := fldN flit 0 8 = ty ∧ flit ∈ (s.port p).inCtl

/-- The port with that flit taken. -/
def uncontrol (s : State) (p : Nat) (flit : Beat) : Port := { s.port p with inCtl := (s.port p).inCtl.erase flit }

/-- The port once the header of the next good frame has been taken (R270, R271, R274). -/
def headed (s : State) (p : Nat) (h : DWord) : Port :=
  let x := s.port p
  let y := { x with ackRx := x.ackRx + 1, nak := false, nakRun := 0
                    rxMapFrom := if x.rxMapFrom = some (x.ackRx + 1) then none else x.rxMapFrom }
  let y := if portUp s p then
      { y with credit := SMap.upd 0 x.credit (fldN h 40 4) fun c => c + fldN h 44 6, crIn := sat64 (x.crIn + fldN h 44 6) }
    else y
  if bitB h 23 && x.replay.isEmpty then
    { y with replay := (x.kept.takeWhile fun k => fld k.hdr 0 16 != fld h 24 16).reverse }
  else y

end Sys2Proof.Claims

/-- R270, R271, R274, R282, R284, R291, R302: a frame that fails its CRC counts FP_CRC_FAIL and asks for replay; a
duplicate of a frame already received, or any frame while a replay is awaited that is not the next one, changes
nothing. The frame after the last good one is acknowledged, in an UP port returns the credits it carries, and with NAK
set sends again every frame after the one it acknowledges. Without TOKEN, one of link control joins the link control
flits received. With TOKEN its flit joins those of its channel; with the last flit of its message, the message is
opened: one that passes its ICV, is for this module and came by its direct link stands among the received messages,
one that fails it counts FP_ICV_FAIL and is asked for again from its header frame on. A flit and a link control frame
each count as an event of the link (R381). R269, R270, R271, R275, R276, R274: a frame time puts on the link the next
frame of a replay, or the frame its schedule entry gives: a plain entry, or one of KIND 1 that the links limiter holds
back, an idle frame, one of KIND 1 the next flit of the message leaving on its channel, at the cost of one credit, and
a detour slot with nothing else to carry the LANE_SWAP that is not answered yet. Each new frame has the next FSN, its
CRC-32C and its parity (R269), and the schedule position moves on modulo 4,096. What the limiter holds back is counted
(R386), a flit and a link control frame are events of the link (R381), and a mover whose last message has left is then
over (R387, R292). -/
def Obligations.FramesCrossLinks : Prop :=
  (∀ (s : State) (p : Nat) (f : Frame), Canon s → Carries s p → f.corrected = [] →
     let x := s.port p
     let y := headed s p f.hdr
     let vc := fldN f.hdr 19 4
     let old := SMap.get [] x.inFlits vc
     let fs := old ++ [f.flit]
     let idx := if old.isEmpty then headerIdx x vc else SMap.get 0 x.inIdx vc
     let z := { y with
       rxFlit := sat64 (x.rxFlit + 1), buffered := SMap.upd 0 x.buffered vc fun b => b + 1
       inFlits := SMap.set [] x.inFlits vc fs, inIdx := SMap.set 0 x.inIdx vc idx
       inFsn := if old.isEmpty then SMap.set 0 x.inFsn vc (fldN f.hdr 0 16) else x.inFsn }
     let hf := SMap.get 0 z.inFsn vc
     let u := noteEvents s 16 1
     (¬ CrcGood f → x.nak = false → ∃ s', exec (.frameReceive p f) s = .next s' ∧
       OnlyPort s s' p { x with crcFail := sat32 (x.crcFail + 1), nak := true, nakRun := 0, replays := sat32 (x.replays + 1) }) ∧
     (CrcGood f → fld f.hdr 0 16 ≠ x.ackRx + 1 →
       (x.nak = true ∨ 2 ^ 15 ≤ (fld f.hdr 0 16 - (x.ackRx + 1)).toNat) → exec (.frameReceive p f) s = .next s) ∧
     (CrcGood f → fld f.hdr 0 16 = x.ackRx + 1 → x.icvTo = none →
       (bitB f.hdr 16 = false → fldN f.hdr 17 2 ≠ 2 → ∃ s', exec (.frameReceive p f) s = .next s' ∧ OnlyPort s s' p y) ∧
       (bitB f.hdr 16 = false → fldN f.hdr 17 2 = 2 → ∃ s', exec (.frameReceive p f) s = .next s' ∧
         OnlyPort u s' p { y with inCtl := x.inCtl ++ [f.flit] }) ∧
       (bitB f.hdr 16 = true → portUp s p = false → ∃ s', exec (.frameReceive p f) s = .next s' ∧ OnlyPort u s' p y) ∧
       (bitB f.hdr 16 = true → portUp s p = true →
         (fs.length < 1 + fldN (fs.headD 0) 8 5 → ∃ s', exec (.frameReceive p f) s = .next s' ∧ OnlyPort u s' p z) ∧
         (1 + fldN (fs.headD 0) 8 5 ≤ fs.length →
           (∀ m c, openMsg s p idx fs = some m → mDetour m = false → classOf (mOpc m) = some c → c < 2 →
             mDst m = s.self → mOpc m ≠ 0x25 → s.fab.departed.contains (mSrc m) = false →
             ∃ s', exec (.frameReceive p f) s = .next s' ∧
               OnlyPort u s' p { z with
                 inFlits := SMap.set [] z.inFlits vc [], rxMsg := sat64 (x.rxMsg + 1), accepted := x.accepted + 1
                 icvBad := (if x.icvBad = some (BitVec.ofNat 16 hf) then none else x.icvBad), inMsgs := x.inMsgs ++ [(vc, m)] }) ∧
           (openMsg s p idx fs = none → x.icvBad ≠ some (BitVec.ofNat 16 hf) →
             ∃ s', exec (.frameReceive p f) s = .next s' ∧ { s' with ports := s.ports } = u ∧
               (s'.port p).icvFail = sat32 (x.icvFail + 1) ∧ (s'.port p).nak = true ∧
               (s'.port p).ackRx = BitVec.ofNat 16 hf - 1 ∧ (s'.port p).inMsgs = x.inMsgs ∧
               (s'.port p).rxMsg = x.rxMsg))))) ∧
  (∀ (s : State) (p : Nat), Canon s → transmits s p = true →
     let x := s.port p
     (∀ f r, x.replay = f :: r → ∃ s', exec (.frameSend p) s = .next (settleMovers s') ∧
       OnlyPort s s' p { x with replay := r, lastOut := some f }) ∧
     (x.replay = [] → (slotEntry s p < 0x1000 ∨ (slotEntry s p < 0x2000 ∧ linkLimited s = true)) → ∃ s', exec (.frameSend p) s = .next (settleMovers s') ∧
       (s'.port p).fsn = x.fsn + 1 ∧ (s'.port p).slot = (x.slot + 1) % 4096 ∧ (s'.port p).credit = x.credit ∧
       (∃ f, (s'.port p).lastOut = some f ∧ f = frameOf f.hdr 0 ∧ fld f.hdr 0 16 = x.fsn ∧ bitB f.hdr 16 = false ∧
         (s'.port p).kept = (f :: x.kept).take 8192) ∧
       s'.gov = { s.gov with heldFlit := s.gov.heldFlit + if slotEntry s p < 0x1000 ∨ portUp s p = false ∨
         (SMap.get [] x.outFlits (slotEntry s p % 16) = [] ∧ ∀ e ∈ x.outq, e.1 ≠ slotEntry s p % 16) then 0 else 1 } ∧
       { s' with ports := s.ports, gov := s.gov } = s) ∧
     (∀ vc g r, x.replay = [] → slotEntry s p = 0x1000 + vc → vc < 16 → portUp s p = true → linkLimited s = false →
       x.detVc = none →
       SMap.get [] x.outFlits vc = g :: r → ∃ s', exec (.frameSend p) s = .next (settleMovers s') ∧
         (s'.port p).fsn = x.fsn + 1 ∧ (s'.port p).slot = (x.slot + 1) % 4096 ∧
         (s'.port p).credit = SMap.upd 0 x.credit vc (fun c => c - 1) ∧ (s'.port p).txFlit = sat64 (x.txFlit + 1) ∧
         (s'.port p).txUp = sat64 (x.txUp + 1) ∧ (s'.port p).outFlits = SMap.set [] x.outFlits vc r ∧
         (∃ f, (s'.port p).lastOut = some f ∧ f = frameOf f.hdr g ∧ fld f.hdr 0 16 = x.fsn ∧ bitB f.hdr 16 = true ∧
           fldN f.hdr 19 4 = vc) ∧
         s'.gov = { (noteEvents s 16 1).gov with linkUsed := s.gov.linkUsed + 1 } ∧ { s' with ports := s.ports, gov := s.gov } = s) ∧
     (∀ l, x.replay = [] → slotEntry s p / 0x1000 = 2 → x.ctlq = [] → x.swapAsked = some l →
       ∃ s', exec (.frameSend p) s = .next (settleMovers s') ∧ (s'.port p).swapAsked = some l ∧
         (∃ f, (s'.port p).lastOut = some f ∧ f = frameOf f.hdr (laneSwapFlit l) ∧ bitB f.hdr 16 = false ∧ fldN f.hdr 17 2 = 2) ∧
         { s' with ports := s.ports } = noteEvents s 16 1))

/-- R298, R274: a HELLO that names the peer the FABRIC section gives the port, with the job's digest and READY, brings
a port in WAIT to UP with full credits and the next epoch; one that does not match sets HELLO_BAD and leaves the port
in WAIT. R292, R293, R297: LANE_SWAP for a lane of a direction whose spare is free marks the transmit lane, counts the
swap and is answered; LANE_ACK of the lane asked for marks the receive lane, names the first frame on the new map and
brings the port from SWAP back to UP; DOWN fails the port with cause 5; RETRAINED at a detoured port raises the epoch
to the peer's where that is higher, and with this end retrained too and its buffer empty this end says so, once, and
sets every channel's credits to its allotment. That the new map takes effect 32 frames on, and the cause numbers of
DOWN, 1 to 5 in the order of R293's list, are the model's choices (log 66). -/
def Obligations.LinksComeUpAndAct : Prop :=
  (∀ (s : State) (p : Nat) (flit : Beat), Canon s → Control s p 1 flit → (s.port p).st = .wait → s.bound = true →
     (s.portCfg p).role ≠ 0 →
       let agrees := fldN flit 8 16 = (s.portCfg p).peerMod ∧ fldN flit 24 8 = (s.portCfg p).peerPort ∧
         fld flit 32 256 = jobDigest s
       (agrees → fldN flit 288 8 = 1 → ∃ s', exec (.hello p flit) s = .next s' ∧ (s'.port p).st = .up ∧
         (s'.port p).epoch = (s.port p).epoch + 1 ∧ (s'.port p).helloBad = false ∧
         (∀ v, v < 16 → SMap.get 0 (s'.port p).credit v = (s.portCfg p).allot.getD v 0) ∧
         { s' with ports := s.ports } = s) ∧
       (¬ agrees → ∃ s', exec (.hello p flit) s = .next s' ∧ (s'.port p).st = .wait ∧ (s'.port p).helloBad = true ∧
         { s' with ports := s.ports, flt := s.flt } = s)) ∧
  (∀ (s : State) (p : Nat) (flit : Beat), Canon s →
     let x := s.port p
     let lane := fldN flit 8 8
     (Control s p 2 flit → lane < 9 → x.lanesTx = 0 → ∃ s', exec (.laneSwap p flit) s = .next s' ∧
       (s'.port p).lanesTx = BitVec.ofNat 9 (2 ^ lane) ∧ (s'.port p).txMapFrom = some (x.fsn + 32) ∧
       (s'.port p).ctlq = x.ctlq ++ [pack 512 [(0, 8, 3), (8, 8, lane), (16, 16, (x.fsn + 32).toNat)]] ∧
       s'.fab.laneSwaps = sat32 (s.fab.laneSwaps + 1) ∧ s'.tiles = s.tiles ∧ s'.mem = s.mem) ∧
     (Control s p 3 flit → lane < 9 → x.swapAsked = some lane → ∃ s', exec (.laneAck p flit) s = .next s' ∧
       (s'.port p).lanesRx = x.lanesRx ||| BitVec.ofNat 9 (2 ^ lane) ∧ (s'.port p).swapAsked = none ∧
       (s'.port p).rxMapFrom = some (fld flit 16 16) ∧
       (s'.port p).st = (if x.st = .swap then .up else x.st) ∧ s'.fab.laneSwaps = sat32 (s.fab.laneSwaps + 1) ∧
       s'.tiles = s.tiles ∧ s'.mem = s.mem) ∧
     (Control s p 4 flit → ∃ u, OnlyPort s u p (uncontrol s p flit) ∧ exec (.down p flit) s = .next (portFail u p 5)) ∧
     (Control s p 5 flit → x.st = .detoured → ∃ s', exec (.retrained p flit) s = .next s' ∧
       let y := { uncontrol s p flit with retrIn := true, epoch := max x.epoch (fldN flit 8 32) }
       let z := if x.retrSaid then y
         else { y with retrSaid := true, ctlq := x.ctlq ++ [pack 512 [(0, 8, 5), (8, 32, y.epoch)]] }
       OnlyPort s s' p (if x.retrOut && inboundEmpty s p then { z with credit := fullCredits s p, owed := [], buffered := [] }
         else y)))

/-- R292, R293: the first lane of a receiver to lose lock, or to have met more than FAB_LANE_LIMIT corrected bytes in
the window of 1 ms in progress, puts an UP port in SWAP and asks the peer for the spare lane; a second one, with the
spare in service, fails the port with cause 1; fewer corrected bytes, or a window that is over, change nothing. When
the window begins is the model's choice (log 70), and so is the cause number (log 66). R293, R294, R295, R297, R298:
an UP port that hears no frame for 1 µs is DETOURED, its failures counted in FP_DOWN_COUNT, DOWN with cause 4 queued
for the peer; an untrained port that trains is in WAIT and, with a job bound, says HELLO; a detoured port that has
retrained at both ends begins its return, with full credits, once both buffers are empty and both modules at rest. A
retry of the training changes no register (log 41); the sequence number 0 after training and the cause number 4 are
the model's choices (log 66). -/
def Obligations.LanesAndPortsFail : Prop :=
  (∀ (s : State) (p lane : Nat), Canon s → lane < 9 → (s.port p).st = .up →
     let x := s.port p
     let past := s.ns < x.laneWin + 1000000 ∧ s.fab.laneLimit.toNat < SMap.get 0 x.laneCorr lane
     let asked := fun (s' : State) => OnlyPort s s' p { x with swapAsked := some lane, st := .swap }
     (x.lanesRx = 0 → x.swapAsked = none →
       (∃ s', exec (.laneLockLoss p lane) s = .next s' ∧ asked s') ∧
       (past → ∃ s', exec (.laneErrorWindow p lane (SMap.get 0 x.laneCorr lane)) s = .next s' ∧ asked s')) ∧
     (x.lanesRx ≠ 0 → bitB x.lanesRx lane = false → x.swapAsked = none →
       exec (.laneLockLoss p lane) s = .next (portFail s p 1) ∧
       (past → exec (.laneErrorWindow p lane (SMap.get 0 x.laneCorr lane)) s = .next (portFail s p 1))) ∧
     (∀ n : Nat, ¬ past ∨ n ≠ SMap.get 0 x.laneCorr lane → exec (.laneErrorWindow p lane n) s = .next s)) ∧
  (∀ (s : State) (p : Nat), Canon s →
     let x := s.port p
     (x.st = .up → ∃ s', exec (.linkSilence p) s = .next s' ∧ (s'.port p).st = .detoured ∧
       (s'.port p).downCount = sat32 (x.downCount + 1) ∧ (s'.port p).ctlq = [pack 512 [(0, 8, 4), (8, 8, 4)]] ∧
       (s'.port p).failAt = some s.ns ∧ s'.tiles = s.tiles ∧ s'.mem = s.mem ∧ s'.stg = s.stg) ∧
     (p < 18 → x.st = .off → s.pins.mainOn = true → s.trust.phyOk = true → s.bound = true → (s.portCfg p).role ≠ 0 →
       (∀ q, (s.sq q).cur = none) → ∃ s', exec (.portTrained p) s = .next s' ∧ (s'.port p).st = .wait ∧
       (s'.port p).fsn = 0 ∧ (s'.port p).ctlq = [helloFlit s p] ∧ { s' with ports := s.ports } = s) ∧
     (x.st = .detoured → x.retrIn = true → x.retrOut = true → x.retrSaid = true → x.resynced = true → inboundEmpty s p = true → restful s = true →
       x.returning = false → ∃ s', exec (.portReturn p true) s = .next s' ∧ (s'.port p).returning = true ∧
       (s'.port p).st = .detoured ∧ (s'.port p).failAt = some s.ns ∧ (s'.port p).epoch = x.epoch ∧
       (∀ v, v < 16 → SMap.get 0 (s'.port p).credit v = (s.portCfg p).allot.getD v 0) ∧ { s' with ports := s.ports } = s) ∧
     exec .fabricTrainRetry s = .next s)

/-! ## Movers (R254 to R258, R287, R306 to R318) -/

namespace Sys2Proof.Claims
open Sys2Proof.Machine

/-- Job mover `m` is free and `e` is the first descriptor of its queue, `q` the rest. -/
def AtHead (s : State) (m : Nat) (e : MvEnt) (q : List MvEnt) : Prop :=
  m % 16 < 12 ∧ s.mover m = { queue := e :: q, done := (s.mover m).done } ∧ (∀ r ∈ s.fab.outstanding, r.mover ≠ m) ∧
    (∀ d ∈ s.fab.drain, d.after ≠ .mover m) ∧ s.pins.mainOn = true ∧ s.rest.st = .awake

/-- Global address `ga` lies in this module's near tier. -/
def Near (s : State) (ga : Nat) : Prop := gaMod ga = s.self ∧ gaOff ga < 0x4000000000

/-- The near-tier beat at `ga` reads without an error: its channel in service, not poisoned, its granule's tag, where it has one,
that of its bytes (R264). -/
def Readable (s : State) (ga : Nat) : Prop :=
  chanDead s (gaOff ga) = false ∧ SMap.get false s.mem.poison (gaOff ga / 64) = false ∧ tagMatches s (gaOff ga) = true

/-- Virtual address `va` is reached by mover `m` for reads, in this module's near tier, at the global address given, and its beat
reads without an error. -/
def Reads (s : State) (m va ga : Nat) : Prop := reach s (dieOfMover m) va false false = .ok ga ∧ Near s ga ∧ Readable s ga

/-- The same for writes. -/
def Writes (s : State) (m va ga : Nat) : Prop := reach s (dieOfMover m) va true false = .ok ga ∧ Near s ga

/-- The controller's place of the byte at near-tier global address `ga` (R265). -/
def at_ (s : State) (ga : Nat) : Nat := memOff s (gaOff ga)

/-- Beats copied one after the other, each read as the earlier writes left memory. -/
def copied (m : SMap Byte) (l : List (Nat × Nat)) : SMap Byte :=
  l.foldl (fun m b => SMap.setBeat m b.2 (SMap.getBeat m b.1)) m

/-- Mover `m` has run its descriptor: the queue moves on and MV_DONE rises (R255). -/
def moved (s : State) (m : Nat) (q : List MvEnt) : SMap Mover :=
  SMap.set {} s.movers m { queue := q, done := sat32 ((s.mover m).done + 1) }

/-- The governor of `s`, its event counts those of `u` put back (R381). -/
def events (s u : State) : GovBlk := { u.gov with events := s.gov.events }

end Sys2Proof.Claims

/-- R256, R253: a copy descriptor whose beats are all reached in the near tier, in granules without tags, copies them
in ascending order, and changes no other byte; beside that only the memory events are counted (R381). The descriptor
is over, no record of a fault of it that was tried again stays (R260), and its completion signal is applied, at this
module or, with DREMOTE, the one it names. R287: an atomic descriptor without a returned value whose target is reached
in the near tier replaces its 4 or 8 bytes by the operation's result on the bytes that stand there and its operands,
and changes no other byte; where the granule has a tag, the tag of the new bytes is written (R263). -/
def Obligations.MoversCopyAndUpdate : Prop :=
  (∀ (s : State) (m : Nat) (e : MvEnt) (q : List MvEnt) (win : List (Beat × Bool)) (src dst : Nat → Nat),
     Canon s → AtHead s m e q → mvType e.desc = 5 → copyValid e.desc = true → s.mem.poison = [] →
     (∀ b, b < mvBeats e.desc → Reads s m (mvSrcAt e.desc b) (src b) ∧ Writes s m (mvDstAt e.desc b) (dst b) ∧
       tagged s (gaOff (dst b)) = false) →
       ∃ u, exec (.moverCopy m win) s = .next (signalTo u (some e.gang)
           (if bitB e.desc 8 then s.self else fldN e.desc 177 15) (fldN e.desc 192 10) (dCnt e.desc) (dAmt e.desc)) ∧
         u.mem.dram = copied s.mem.dram ((List.range (mvBeats e.desc)).map fun b => (at_ s (src b), at_ s (dst b))) ∧
         { u.mem with dram := s.mem.dram, tlb := s.mem.tlb } = (retryGone s true m 0).mem ∧
         u.movers = moved s m q ∧ { u with mem := s.mem, movers := s.movers, gov := events s u } = s) ∧
  (∀ (s : State) (m : Nat) (e : MvEnt) (q : List MvEnt) (ga : Nat),
     Canon s → AtHead s m e q → mvType e.desc = 6 → atomicValid e.desc = true → aRet e.desc = false →
     Writes s m (aTarget e.desc) ga → Readable s ga → (tagged s (gaOff ga) = true →
       ∀ i, i < 8 → chanDead s (gaOff ga / 512 * 512 + 64 * i) = false ∧
         SMap.get false s.mem.poison (gaOff ga / 512 * 8 + i) = false) →
       let n := if aW64 e.desc then 8 else 4
       let old := fldN (SMap.getBeat s.mem.dram (memOff s (gaOff ga / 64 * 64))) (8 * (gaOff ga % 64)) 64 % 2 ^ (8 * n)
       let new := leBytes n (atomicNew (aOp e.desc) (8 * n) old (aOp0 e.desc) (aOp1 e.desc))
       ∃ u, exec (.atomicDescriptor m) s = .next (signalTo u (some e.gang)
           (if bitB e.desc 8 then s.self else fldN e.desc 256 15) (fldN e.desc 271 10) (dCnt e.desc) (dAmt e.desc)) ∧
         u.mem.dram = SMap.setBytes s.mem.dram (at_ s ga) new ∧
         { u.mem with dram := s.mem.dram, tags := s.mem.tags, tlb := s.mem.tlb } = (retryGone s true m 0).mem ∧
         (tagged s (gaOff ga) = true → SMap.get none u.mem.tags (tagOff s (gaOff ga) / 8) = some (granuleTag u (gaOff ga))) ∧
         (tagged s (gaOff ga) = false → u.mem.tags = s.mem.tags) ∧
         u.movers = moved s m q ∧ { u with mem := s.mem, movers := s.movers, gov := events s u } = s)

/-- R306 to R308, R314: a collective descriptor of one message sends the beats of its source region, read in order, to
the module its destination lies in whole, on that module's port: CPUT with the stream's next SEQ; the port's transmit
tally takes in the data at the destination's position and its byte count. A signal that the message carries counts as
sent in AUD_SIG_SENT (R454). R318: a permutation descriptor of the send direction whose table has one entry takes the
entry's beats, read in the near tier, into the digest and byte count of data permuted out, at the positions the entry
names; memory is unchanged. R254, R255: the next beat of a write-direction transfer whose translation takes it to the
enqueue offset of a mover with room becomes the last descriptor of that mover's queue, and its outbound credit returns
to EC[254] or EC[255] of the tile. -/
def Obligations.CollectiveDescriptorsAct : Prop :=
  (∀ (s : State) (m p ga : Nat) (e : MvEnt) (q : List MvEnt) (win : List (Beat × Bool)) (src : Nat → Nat),
     Canon s → AtHead s m e q → mvType e.desc = 7 → collValid e.desc = true → mvLen e.desc ≤ 1024 →
     (∀ b, b < mvLen e.desc / 64 → Reads s m (mvSrc e.desc + 64 * b) (src b)) →
     (∀ b, b < mvLen e.desc / 64 → gaMod (ga + 64 * b) = gaMod ga ∧
       reach s (dieOfMover m) (mvDst e.desc + 64 * b) true false = .ok (ga + 64 * b)) →
     gaMod ga ≠ s.self → collPort s (gaMod ga) = some p →
     (s.port p).st = .up → s.self < 2 ^ 15 →
       let data := (List.range (mvLen e.desc / 64)).map fun b => SMap.getBeat s.mem.dram (at_ s (src b))
       ∃ s' msg, exec (.collectiveDescriptor m win) s = .next s' ∧
         (s'.port p).outq = (s.port p).outq ++ [(14, msg)] ∧ mOpc msg = 0x10 ∧ mAddr msg = ga ∧ msg.data = data ∧
         fldN msg.hdr 160 16 = cCid e.desc ∧ fldN msg.hdr 192 32 = SMap.get 0 s.cm.txSeq (65536 * p + cCid e.desc) % 2 ^ 32 ∧
         s'.cm.txSeq = SMap.upd 0 s.cm.txSeq (65536 * p + cCid e.desc) (fun n => n + 1) ∧
         s'.cm.txTally = SMap.upd 0 s.cm.txTally p (fun t =>
           digestWords t s.cm.key (cCid e.desc) (ga / 8 % 2 ^ 39) (data.flatMap beatWords)) ∧
         s'.cm.txBytes = SMap.upd 0 s.cm.txBytes p (fun n => n + mvLen e.desc) ∧
         { s'.mem with tlb := s.mem.tlb } = s.mem ∧ s'.tiles = s.tiles ∧
         s'.flt = { s.flt with sigSent := if cRsig e.desc then sat64 (s.flt.sigSent + cRamt e.desc) else s.flt.sigSent }) ∧
  (∀ (s : State) (m : Nat) (e : MvEnt) (q : List MvEnt) (win : List (Beat × Bool)) (tb : Nat) (src : Nat → Nat),
     Canon s → AtHead s m e q → mvType e.desc = 8 → permValid e.desc = true → pDir e.desc = false → pNent e.desc = 1 →
     Reads s m (pTable e.desc) tb →
     let ent : BitVec 256 := fld (SMap.getBeat s.mem.dram (at_ s tb)) 0 256
     (∀ b, b < peLen ent / 64 → Reads s m (peSrc ent + 64 * b) (src b)) →
       ∃ u, exec (.permutationDescriptor m win) s = .next (signalTo u (some e.gang)
           (fldN e.desc 112 15) (fldN e.desc 127 10) (dCnt e.desc) (dAmt e.desc)) ∧
         u.cm = { s.cm with
           permOutDig := (List.range (peLen ent / 64)).foldl (fun d j =>
             digestWords d s.cm.key 0 (pePos ent j) (beatWords (SMap.getBeat s.mem.dram (at_ s (src j))))) s.cm.permOutDig
           permOutBytes := s.cm.permOutBytes + BitVec.ofNat 64 (64 * (peLen ent / 64)) } ∧
         u.movers = moved s m q ∧ { u.mem with tlb := s.mem.tlb } = (retryGone s true m 0).mem ∧
         { u with cm := s.cm, movers := s.movers, mem := s.mem, gov := events s u } = s) ∧
  (∀ (s : State) (t m b va ga : Nat) (o : Op) (d : Beat) (x : Bool),
     s.op? t o.id = some o → xKind2 o = true → xWrite2 o.desc = true → o.started = true → o.held = none →
     tilesRun s = true → (s.tile t).gang.isSome = true → lowBeat o = some (b, va, d, x) →
     translate s (dieOfTile t) va true false = .ok ga → s.stg.st ≠ .abandoned → gaMod ga = s.self → placeOf (gaOff ga) = .mover m (gaOff ga % 0x1000) → gaFault s ga true = none →
       ∃ s', exec (.mvEnq t o.id m d) s = .next s' ∧
         (s'.mover m).queue = (s.mover m).queue ++ [⟨d, t, (s.tile t).gang.getD 0⟩] ∧
         outUsed (s'.tile t) (xChan o.desc) = outUsed (s.tile t) (xChan o.desc) - 1 ∧
         (s'.tile t).ec = raised (s.tile t).ec (if xChan o.desc then 255 else 254) 1 ∧
         (s'.tile t).scratch = (s.tile t).scratch ∧ (∀ u, u ≠ t → s'.tile u = s.tile u) ∧ s'.mem = s.mem)

/-! ## Requests and responses of other modules (R237, R252, R279 to R288, R295, R299) -/

namespace Sys2Proof.Claims
open Sys2Proof.Machine

/-- Message `m` of opcode `opc` waits whole at port `p`, on channel `vc` or, with 16, by detour, the next to be performed. -/
def Comes (s : State) (p opc vc : Nat) (m : Msg) : Prop := p < 18 ∧ mOpc m = opc ∧ waiting s p m = some (vc, m)

/-- Message `m` of opcode `opc` waits whole at port `p` on channel `vc`, the next to be performed and not held, and the boundary
drains traffic. -/
def Arrives (s : State) (p opc vc : Nat) (m : Msg) : Prop :=
  Comes s p opc vc m ∧ vc < 16 ∧ msgHeld s p m = false ∧ boundaryOpen s = true

/-- The block once that message has been taken, its credits due to the peer. -/
def accepted (s : State) (p vc : Nat) (m : Msg) : State :=
  oweCredits (s.modPort p fun x => { x with inMsgs := x.inMsgs.erase (vc, m) }) p vc (1 + m.data.length)

/-- A request is performed: taken from its port and counted, the step not abandoned; beyond that `u` differs from `s` in
`tiles`, `mem`, `flt` and the counts of memory events (R381) only. -/
def Performed (s u : State) (p vc : Nat) (m : Msg) : Prop :=
  u.ports = (accepted s p vc m).ports ∧ u.fab = { s.fab with reqRecv := sat64 (s.fab.reqRecv + 1), sigApplied := u.fab.sigApplied } ∧
    { u with ports := s.ports, fab := s.fab, tiles := s.tiles, mem := s.mem, flt := s.flt, gov := events s u } = s

/-- Where the granule of near-tier address `ga` has a tag, its beats read without an error, so that the tag of its new bytes can be
formed (R263, R264). -/
def Sound (s : State) (ga : Nat) : Prop :=
  tagged s (gaOff ga) = true → tagMatches s (gaOff ga) = true ∧
    ∀ i, i < 8 → chanDead s (gaOff ga / 512 * 512 + 64 * i) = false ∧
      SMap.get false s.mem.poison (gaOff ga / 512 * 8 + i) = false

/-- A request that addresses `n` beats of this module's near tier, none of them refused. -/
def NearRange (s : State) (m : Msg) (n : Nat) (wr : Bool) : Prop :=
  gaOff (mAddr m) + 64 * n < 0x4000000000 ∧ ∀ a ∈ reqBeats m n, remoteRefused s a wr = false ∧ Near s a

/-- Response `m` to outstanding request `r` has been taken in: the tag is free, FAB_RSP_RECV counts it. -/
def Answered (s u : State) (p vc : Nat) (m : Msg) (r : OutReq) : Prop :=
  u.ports = (accepted s p vc m).ports ∧ u.fab.outstanding = s.fab.outstanding.filter (fun q => q.tag != r.tag) ∧
    u.fab.rspRecv = sat64 (s.fab.rspRecv + 1)

/-- Request `r` is the outstanding one response `m` names, and is still wanted. -/
def Wanted (s : State) (m : Msg) (r : OutReq) : Prop :=
  s.fab.outstanding.find? (fun q => q.tag == mTag m) = some r ∧ r.dead = false

/-- Message `m` for the peer of detoured port `p` has been queued: marked DETOUR, with that peer as VIA, at the port that the next
detour pair of `p` names, or, with no such port up, at `p` itself (R294, R295). -/
def DetourQueued (u s' : State) (p : Nat) (m : Msg) : Prop :=
  match detourPair u p with
  | some d =>
    let n := mSet (mSet m 16 1 1) 17 15 (u.portCfg p).peerMod
    (s'.port d.2.1).detq = (u.port d.2.1).detq ++ [(channelOf (mOpc n) (mHops n) true, n)]
  | none => (s'.port p).outq = (u.port p).outq ++ [(channelOf (mOpc m) (mHops m) false, m)]

/-- This module's message of opcode `opc` and operand `op0` to the peer of port `p`, over the direct link (R279, R295). -/
def toPeer (s : State) (p opc op0 : Nat) : Msg :=
  mSet (mSet (mkMsg s opc 0 0 0 0 op0 0 []) 48 15 (s.portCfg p).peerMod) 13 3 1

end Sys2Proof.Claims

/-- R280, R285, R286, R287, R264: a WRITE to the near tier stores its flits in order and is acknowledged; a READ
answers with the beats as they stand; an ATOMIC replaces its granule by the operation's result and answers with the
old value. No other byte changes. Where a granule has a tag, that of its new bytes is written. R288, R166, R173: a
SIGNAL for a counter of a used tile of this module adds its amount to that counter, counted in FAB_SIG_APPLIED and
AUD_SIG_REMOTE, in TS_LATE_SIG too where the tile's gang is at its seam, and is acknowledged; one whose gang's context
is saved is acknowledged and counted in both, and stays in the inbound buffer, its credit unreturned; one for a tile
the job does not use is acknowledged and counted in FAB_SIG_DROP and AUD_SIG_DROPPED. R237, R285, R287, R288, R229: a
request for an address this module does not open to its peers, an ATOMIC with a reserved operation or out of its
alignment too, has no effect but an ERROR response of CODE 1; while the step is abandoned every WRITE, READ and ATOMIC
is answered with CODE 4, and so is a SIGNAL, which counts in FAB_SIG_DROP and AUD_SIG_DROPPED. -/
def Obligations.RemoteRequestsServed : Prop :=
  (∀ (s : State) (p vc : Nat) (m : Msg), Canon s → s.stg.st ≠ .abandoned → s.mem.poison = [] →
     (Arrives s p 1 vc m → mAddr m % 64 = 0 → NearRange s m m.data.length true →
       (∀ a ∈ reqBeats m m.data.length, Sound s a) →
       ∃ u, exec (.write p m) s = .next (respond u m 0x81 0 0 []) ∧ Performed s u p vc m ∧ u.tiles = s.tiles ∧ u.flt = s.flt ∧
         u.mem.dram = m.data.zipIdx.foldl (fun d b => SMap.setBeat d (at_ s (mAddr m + 64 * b.2)) b.1) s.mem.dram ∧
         { u.mem with dram := s.mem.dram, tags := s.mem.tags } = s.mem) ∧
     (Arrives s p 2 vc m → mAddr m % 64 = 0 → 1 ≤ mArg m % 32 → mArg m % 32 ≤ 16 → NearRange s m (mArg m % 32) false →
       (∀ a ∈ reqBeats m (mArg m % 32), Readable s a) →
       ∃ u, exec (.read p m) s = .next (respond u m 0x82 0 0
           ((List.range (mArg m % 32)).map fun i => SMap.getBeat s.mem.dram (at_ s (mAddr m + 64 * i)))) ∧
         Performed s u p vc m ∧ u.tiles = s.tiles ∧ u.flt = s.flt ∧ u.mem = s.mem) ∧
     (Arrives s p 3 vc m → mCode m < 8 → mAddr m % (if mW64 m then 8 else 4) = 0 → remoteRefused s (mAddr m) true = false →
       Near s (mAddr m) → Readable s (mAddr m) → Sound s (mAddr m) →
       let n := if mW64 m then 8 else 4
       let old := fldN (SMap.getBeat s.mem.dram (memOff s (gaOff (mAddr m) / 64 * 64))) (8 * (gaOff (mAddr m) % 64)) 64 % 2 ^ (8 * n)
       let new := leBytes n (atomicNew (mCode m) (8 * n) old (mOp0 m) (mOp1 m))
       ∃ u, exec (.atomic p m) s = .next (respond u m 0x83 0 old []) ∧ Performed s u p vc m ∧ u.tiles = s.tiles ∧
         u.flt = s.flt ∧ u.mem.dram = SMap.setBytes s.mem.dram (at_ s (mAddr m)) new ∧
         { u.mem with dram := s.mem.dram, tags := s.mem.tags } = s.mem)) ∧
  (∀ (s : State) (p vc t c g : Nat) (m : Msg), Arrives s p 4 vc m → s.stg.st ≠ .abandoned → mAddr m / 2 ^ 57 = 64 →
     gaMod (mAddr m) = s.self → ecOf (mAddr m) = some (t, c) → mArg m % 256 ≠ 0 →
     ((s.tile t).gang = some g → s.pre.saved = true → ∃ u, exec (.remoteSignal p m) s = .next (respond u m 0x81 0 0 []) ∧
         u.fab = { s.fab with reqRecv := sat64 (s.fab.reqRecv + 1), sigApplied := sat64 (s.fab.sigApplied + 1), sigHeld := s.fab.sigHeld ++ [(p, m)] } ∧
         u.flt = { s.flt with sigRemote := sat64 (s.flt.sigRemote + mArg m % 256) } ∧ { u with fab := s.fab, flt := s.flt } = s) ∧
     ((s.tile t).gang = some g → s.pre.saved = false →
       ∃ u, exec (.remoteSignal p m) s = .next (respond u m 0x81 0 0 []) ∧ Performed s u p vc m ∧
         u.fab.sigApplied = sat64 (s.fab.sigApplied + 1) ∧ u.flt = { s.flt with sigRemote := sat64 (s.flt.sigRemote + mArg m % 256) } ∧
         (u.tile t).ec = raised (s.tile t).ec c (mArg m % 256) ∧
         (u.tile t).ts.lateSig = (if atSeam s g then sat32 ((s.tile t).ts.lateSig + 1) else (s.tile t).ts.lateSig) ∧
         (∀ v, v ≠ t → u.tile v = s.tile v) ∧ u.mem = s.mem) ∧
     ((s.tile t).gang = none →
       ∃ u, exec (.remoteSignal p m) s = .next (respond u m 0x81 0 0 []) ∧ u.ports = (accepted s p vc m).ports ∧
         u.fab = { s.fab with reqRecv := sat64 (s.fab.reqRecv + 1), sigDrop := sat32 (s.fab.sigDrop + 1) } ∧
         u.flt.sigDropped = sat64 (s.flt.sigDropped + mArg m % 256) ∧ u.tiles = s.tiles ∧ u.mem = s.mem)) ∧
  (∀ (s : State) (p vc : Nat) (m : Msg),
     let ends := fun (i : Instr) (code : Nat) => ∃ u, exec i s = .next (respond u m 0x84 code 0 []) ∧
       Performed s u p vc m ∧ u.mem = s.mem ∧ u.tiles = s.tiles ∧ u.flt = s.flt
     (s.stg.st ≠ .abandoned →
       (farDown s m = none →
         (Arrives s p 1 vc m → (∃ a ∈ reqBeats m m.data.length, remoteRefused s a true = true) → ends (.write p m) 1) ∧
         (Arrives s p 2 vc m → (∃ a ∈ reqBeats m (mArg m % 32), remoteRefused s a false = true) → ends (.read p m) 1) ∧
         (Arrives s p 3 vc m → (remoteRefused s (mAddr m) true = true ∨ atomicPlace (gaOff (mAddr m)) = false ∨
           mAddr m % (if mW64 m then 8 else 4) ≠ 0 ∨ 8 ≤ mCode m) → ends (.atomic p m) 1)) ∧
       (Arrives s p 4 vc m → (mAddr m / 2 ^ 57 ≠ 64 ∨ gaMod (mAddr m) ≠ s.self ∨ ecOf (mAddr m) = none) →
         ends (.remoteSignal p m) 1)) ∧
     (s.stg.st = .abandoned →
       (Arrives s p 1 vc m → ends (.write p m) 4) ∧ (Arrives s p 2 vc m → ends (.read p m) 4) ∧
       (Arrives s p 3 vc m → ends (.atomic p m) 4) ∧
       (Arrives s p 4 vc m → ∃ u, exec (.remoteSignal p m) s = .next u ∧ u.tiles = s.tiles ∧ u.mem = s.mem ∧
         u.fab.sigDrop = sat32 (s.fab.sigDrop + 1) ∧ u.flt = { s.flt with
           sigDropped := sat64 (s.flt.sigDropped + mArg m % 256) } ∧
         u.ports = (respond { s with ports := (accepted s p vc m).ports } m 0x84 4 0 []).ports)))

/-- R280, R252, R253, R287, R279, R257: a response frees its request's tag. ACK changes nothing else; READ_RESP gives the beat to the
transfer or mover that asked for it; ATOMIC_RESP gives the old value to its mover; ERROR is counted in FAB_ERR_RSP and holds the
transfer with an ADDRESS fault at its beat. What waited for a free tag then goes on. -/
def Obligations.ResponsesFreeTheirTag : Prop :=
  ∀ (s : State) (p vc : Nat) (m : Msg) (r : OutReq), Wanted s m r →
    (Arrives s p 0x81 vc m → ∃ u, exec (.ack p m) s = .next (resumeAll u) ∧ Answered s u p vc m r ∧
      { u with ports := s.ports, fab := s.fab } = s) ∧
    (Arrives s p 0x82 vc m → r.op = none → r.mover < 255 → ∃ u, exec (.readResp p m) s = .next (resumeAll u) ∧
      Answered s u p vc m r ∧ (u.mover r.mover).got = some (m.data.headD 0, mCode m == 1) ∧
      (u.mover r.mover).queue = (s.mover r.mover).queue ∧ u.tiles = s.tiles ∧ u.mem = s.mem) ∧
    (∀ t o, Arrives s p 0x82 vc m → r.op = some (t, o.id) → r.nbeats = 1 → m.data.length = 1 → s.op? t o.id = some o →
      mCode m = 0 → xDkind o.desc = 0 → inSpill s (xSrcAt o.desc r.beat) = false →
      ∃ u, exec (.readResp p m) s = .next (resumeAll u) ∧ Answered s u p vc m r ∧
        (u.tile t).ops = onOp (s.tile t).ops o.id (fun o' => { o' with
          buf := o'.buf ++ [(r.beat, xDstAt o.desc r.beat, m.data.headD 0, false)] }) ∧
        (u.tile t).scratch = (s.tile t).scratch ∧ u.mem = s.mem) ∧
    (Arrives s p 0x83 vc m → r.op = none → r.mover < 255 → ∃ u, exec (.atomicResp p m) s = .next (resumeAll u) ∧
      Answered s u p vc m r ∧ (u.mover r.mover).got = some (BitVec.ofNat 512 (mOp0 m), false) ∧
      (u.mover r.mover).queue = (s.mover r.mover).queue ∧ u.tiles = s.tiles ∧ u.mem = s.mem) ∧
    (∀ t o, Arrives s p 0x84 vc m → r.op = some (t, o.id) → s.op? t o.id = some o → o.held = none →
      faultsOf s false t o.id = [] → (∀ f ∈ s.mem.retried, f.op ≠ o.id) → ∃ u, exec (.error p m) s = .next (resumeAll u) ∧ u.fab.errRsp = sat32 (s.fab.errRsp + 1) ∧
        (∃ n, (u.op? t o.id).map (·.held) = some (some n) ∧ ∃ f ∈ u.mem.faults, f.n = n ∧ f.code = 4 ∧ f.beat = r.beat) ∧
        u.mem.faultCount = sat32 (s.mem.faultCount + 1) ∧ u.mem.dram = s.mem.dram)

/-- R299, R437, R295, R297: LEAVE from a module adds it to those that have left and counts it as lost, its ports are LOST, this
module's own requests to it end with ERROR, and no request for it waits at a port any more. RESYNC for an UP port fails it, and the
RESYNC_REPLY that names the messages accepted in the epoch is queued, by detour where one can carry it. RESYNC_REPLY at a detoured
port empties its queues, and what was not accepted goes on by detour, counted in FP_RESENT; at a port that is returning it
brings it back to UP with full credits. Without it for 100 µs the port is LOST. -/
def Obligations.MembersLeaveAndPortsResync : Prop :=
  ∀ (s : State) (p vc : Nat) (m : Msg), Canon s →
    (Comes s p 0x20 vc m → mSrc m ∉ s.fab.departed →
      ∃ u, exec (.leave p m) s = .next (memberLost u (mSrc m)) ∧ u.fab.departed = s.fab.departed ++ [mSrc m] ∧
        (∀ q, q < 18 → (s.portCfg q).role ≠ 0 → (s.portCfg q).peerMod = mSrc m → (s.port q).st ≠ .off → (u.port q).st = .lost) ∧
        (∀ r ∈ s.fab.outstanding, r.dst = mSrc m → ∃ e ∈ u.fab.loopback, mOpc e = 0x84 ∧ mCode e = 2 ∧ mTag e = r.tag % 2 ^ 16) ∧
        (∀ q, ∀ e ∈ (u.port q).outq ++ (u.port q).detq, mDst e.2 = mSrc m → classOf (mOpc e.2) ≠ some 0) ∧
        u.tiles = s.tiles ∧ u.mem = s.mem ∧ u.stg = s.stg) ∧
    (Comes s p 0x21 vc m → (s.port p).st = .up →
      ∃ u s', exec (.resync p m) s = .next s' ∧ (u.port p).st = .detoured ∧
        (u.port p).downCount = sat32 ((s.port p).downCount + 1) ∧ (u.port p).accepted = (s.port p).accepted ∧
        DetourQueued u s' p (toPeer s p 0x22 (s.port p).accepted) ∧ (s'.port p).st = .detoured ∧
        s'.tiles = s.tiles ∧ s'.mem = s.mem ∧ s'.stg = s.stg) ∧
    (Comes s p 0x22 vc m → (s.port p).st = .detoured → (s.port p).returning = true → (s.port p).matched = true →
      (∀ q, q ≠ p → (s.port q).st ≠ .detoured) →
      ∃ s', exec (.resyncReply p m) s = .next s' ∧ (s'.port p).st = .up ∧ (s'.port p).returning = false ∧
        (s'.port p).epoch = (s.port p).epoch ∧
        (∀ v, v < 16 → SMap.get 0 (s'.port p).credit v = (s.portCfg p).allot.getD v 0) ∧ { s' with ports := s.ports } = s) ∧
    (Comes s p 0x22 vc m → (s.port p).st = .detoured → (s.port p).returning = false → (s.port p).resynced = false →
      (∀ q, (s.sq q).cur = none) → s.stg.st ≠ .localDone →
      let x := (accepted s p vc m).port p
      let lost := (x.sentLog.reverse.drop (mOp0 m)) ++ x.outCur.filterMap (·.2) ++ x.outq.map (·.2) ++ x.detq.map (·.2)
      let u := (accepted s p vc m).modPort p fun x =>
        { x with outq := [], outCur := [], outFlits := [], detq := [], detVc := none, sentLog := [], resynced := true
                 resent := sat32 (x.resent + lost.length) }
      ∃ s', exec (.resyncReply p m) s = .next s' ∧ s'.ports = (lost.foldl (resend p) u).ports ∧
        (s'.port p).resent = sat32 ((s.port p).resent + lost.length) ∧
        (∀ n, lost = [n] → mDetour n = false → DetourQueued u s' p n) ∧
        s'.fab.detours = sat32 (s.fab.detours + 1) ∧ s'.tiles = s.tiles ∧ s'.mem = s.mem ∧ s'.stg = s.stg) ∧
    (∀ f, (s.port p).st = .detoured → (s.port p).resynced = false → (s.port p).failAt = some f → f + 100000 ≤ s.ns →
      ∃ u, exec (.resyncTimeout p) s = .next (portCfgDone (memberLost u (s.portCfg p).peerMod) p 0) ∧ (u.port p).st = .lost ∧
        u.tiles = s.tiles ∧ u.mem = s.mem ∧ u.stg = s.stg)

/-! ## Collectives received, transfers, pre-emption (R172 to R174, R240, R252 to R265, R285, R306 to R317, R370) -/

namespace Sys2Proof.Claims
open Sys2Proof.Machine

/-- A transfer of tile `t` has ended with ERROR: DATA is set, its fault is gone, no byte of the tiers has changed. -/
def EndedInError (s s' : State) (n : Nat) : Prop :=
  bitB s'.stg.loc 6 = true ∧ (∀ f ∈ s'.mem.faults, f.n ≠ n) ∧ s'.mem.dram = s.mem.dram

/-- Fault `f`, that at the lowest beat of operation `o` of tile `t`, holds it. -/
def Holds (s : State) (f : FaultRec) (t : Nat) (o : Op) : Prop :=
  faultOf s f.n = some f ∧ f.mover = false ∧ f.unit = t ∧ f.op = o.id ∧ lowFault (faultsOf s false t o.id) = some f ∧
    s.op? t o.id = some o ∧ o.held = some f.n ∧ s.bound = true

end Sys2Proof.Claims

namespace Sys2Proof.Claims
open Sys2Proof.Machine

/-- The receive tally and byte count of port `p` with CPUT `m` taken in (R314). -/
def tallied (p : Nat) (m : Msg) (c : CmBlk) : CmBlk := { c with
  rxTally := SMap.upd 0 c.rxTally p fun t => digestWords t c.key (pCid m) (mAddr m / 8 % 2 ^ 39) (m.data.flatMap beatWords)
  rxBytes := SMap.upd 0 c.rxBytes p fun n => n + 64 * m.data.length }

/-- The near-tier bytes with those of `m` stored. -/
def stored (s : State) (m : Msg) : SMap Byte :=
  m.data.zipIdx.foldl (fun d b => SMap.setBeat d (at_ s (mAddr m + 64 * b.2)) b.1) s.mem.dram

/-- CPUT `m` has been written and has left its port, or, where its signal waits for a saved gang, stays in the inbound buffer (R173,
R309); beyond that only the collectives differ and the count of memory events. -/
def CputStored (s u : State) (p vc : Nat) (m : Msg) : Prop :=
  u.mem.dram = stored s m ∧ { u.mem with dram := s.mem.dram, tags := s.mem.tags } = s.mem ∧
    (cputSaved s m = true → u.ports = s.ports ∧ u.fab = { s.fab with sigHeld := s.fab.sigHeld ++ [(p, m)] }) ∧
    (cputSaved s m = false → u.ports = (accepted s p vc m).ports ∧ u.fab = s.fab) ∧
    { u with mem := s.mem, cm := s.cm, ports := s.ports, fab := s.fab, gov := events s u } = s

/-- The shard record of `m` with its words added to the digest of its pass (R317). -/
def joined (s : State) (m : Msg) : Shard :=
  let r := SMap.get {} s.cm.shards (pGkey m)
  let add := fun d => digestWords d s.cm.key (pGkey m) (8 * pSoff m) (m.data.flatMap beatWords)
  { r with
    seen := true, version := if r.seen then r.version else pVersion m
    d0 := if pGpass m then r.d0 else add r.d0, d1 := if pGpass m then add r.d1 else r.d1 }

/-- STG_LOCAL.SHARD is set, CM_SHARD_FAIL counts, and a step that was running is abandoned (R316). -/
def ShardFails (s s' : State) : Prop :=
  bitB s'.stg.loc 4 = true ∧ s'.cm.shardFail = sat32 (s.cm.shardFail + 1) ∧ (s.stg.st = .running → s'.stg.st = .abandoned)

end Sys2Proof.Claims

/-- R309, R314, R306, R173, R316, R317: a CPUT for the near tier stores its flits, joins the receive tally and byte count of its
port and takes its place in its stream; one that carries the stream's signal adds to the counter it names once every earlier
message of the stream has been accepted, and one whose signal is for a saved gang keeps its place in the inbound buffer. With
GATHER its words join the digest of its pass in the shard record of its GKEY; another VERSION than this module's sets
STG_LOCAL.SHARD, counts in CM_SHARD_FAIL and abandons the step, and so does, once every message up to one with GEND and GPASS 1
has been accepted, a pass 0 without its end or with another digest. One for an address no collective may write stores nothing, sets
STG_LOCAL bit 6 and counts CM_COLL_DROP. -/
def Obligations.CollectiveDataAccepted : Prop :=
  ∀ (s : State) (p vc : Nat) (m : Msg), Canon s → Arrives s p 0x10 vc m → s.stg.st ≠ .abandoned → mDst m = s.self →
    s.bound = true →
    let st := streamOf s p (pCid m)
    let next : Stream := { st with seqs := pSeq m :: st.seqs }
    let due := pLast m && seqDone next (pSeq m)
    let r := joined s m
    (mAddr m % 64 = 0 → gaOff (mAddr m) + 64 * m.data.length < 0x4000000000 → (reqBeats m m.data.length).all (cputOk s) = true →
      s.mem.poison = [] → (∀ a ∈ reqBeats m m.data.length, Sound s a) → SMap.wf {} s.cm.shards = true →
      st.sigs = [] → st.ends = [] →
      (pGather m = false → pGend m = false →
        ∃ u, exec (.cput p m) s = .next (if due then signalRemote u (pRtile m) (pRcnt m) (pRamt m) else u) ∧
          CputStored s u p vc m ∧ u.cm = { tallied p m s.cm with streams := u.cm.streams } ∧
          streamOf u p (pCid m) =
            { next with sigs := if pLast m && !due then [(pSeq m, pRtile m, pRcnt m, pRamt m)] else [] }) ∧
      (pGather m = true → pLast m = false →
        (pVersion m = (s.stg.step - 1).setWidth 32 →
          (pGend m = false → ∃ u, exec (.cput p m) s = .next u ∧ CputStored s u p vc m ∧
            u.cm = { tallied p m s.cm with streams := u.cm.streams, shards := SMap.set {} s.cm.shards (pGkey m) r }) ∧
          (pGend m = true → pGpass m = false → seqDone next (pSeq m) = true →
            ∃ u, exec (.cput p m) s = .next u ∧ CputStored s u p vc m ∧
              SMap.get {} u.cm.shards (pGkey m) = { r with p0End := true }) ∧
          (pGend m = true → pGpass m = true → seqDone next (pSeq m) = true →
            (r.p0End = true → r.d0 = r.d1 → ∃ u, exec (.cput p m) s = .next u ∧ CputStored s u p vc m ∧
              SMap.get {} u.cm.shards (pGkey m) = { r with p1End := true }) ∧
            (r.p0End = false ∨ r.d0 ≠ r.d1 → ∃ s', exec (.cput p m) s = .next s' ∧ ShardFails s s' ∧
              s'.mem.dram = stored s m))) ∧
        (pVersion m ≠ (s.stg.step - 1).setWidth 32 → pGend m = false → ∃ s', exec (.cput p m) s = .next s' ∧
          ShardFails s s' ∧ s'.mem.dram = stored s m))) ∧
    ((reqBeats m m.data.length).all (cputOk s) = false →
      ∃ s', exec (.cput p m) s = .next s' ∧ bitB s'.stg.loc 6 = true ∧
        s'.cm = { tallied p m s.cm with collDrop := sat32 (s.cm.collDrop + 1) } ∧ s'.mem = s.mem ∧ s'.tiles = s.tiles)

/-- R252, R264, R265, R386, R387, R443: a near-tier beat that returns to a transfer into the scratchpad waits with its
data, and with what the device returns wrong and no tag tells, for its bank's DRAIN slot; one that returns
uncorrectable waits poisoned, sets STG_LOCAL bit 6 and counts MEM_NEAR_UE. Where the window's near-tier beats are
spent nothing moves but the count of what is held back (R386, R387). With 1,024 in the tile's place the errors meet
the near-tier beat whoever reads it next; a corrected one counts for its page and, within its hour, for its physical
channel (R443). That the hour begins with its first error is the model's choice (log 81). What errors a beat meets is
an operand (log 10). R241, R252 to R254: a DRAIN slot of a bank writes the waiting beat of the oldest operation to the
scratchpad; the lowest beat of an outbound buffer that is reached in the near tier is written there while the window
has near-tier beats left (R387), and its credit returns to EC[254] or EC[255]. With no transfer's beat waiting the
slot writes the oldest beat that a mover or a peer has sent to the bank. -/
def Obligations.BeatsReturnAndDrain : Prop :=
  (∀ (s : State) (t beat ga : Nat) (o : Op) (win bad : Beat) (ok ce ue : Bool), Canon s →
     (t < 1024 → s.op? t o.id = some o → (∀ p ∈ (s.tile t).ops, p.id = o.id → p = o) →
     o.asked.find? (fun a => a.1 == beat) = some (beat, ga) → gaOff ga < 0x4000000000 → chanDead s (gaOff ga) = false →
     gaOff ga % 64 = 0 →
     ((bad = 0 ∧ tagMatches s (gaOff ga) = true) ∨ tagged s (gaOff ga) = false) →
     SMap.get false s.mem.poison (gaOff ga / 64) = false → xDkind o.desc = 0 → inSpill s (xSrcAt o.desc beat) = false →
     s.bound = true →
       let d := SMap.getBeat s.mem.dram (at_ s ga) ^^^ bad
       (memFull s = true → exec (.memoryBeatReturn t o.id beat win ok false ⟨ue, bad⟩) s =
         .next { s with gov := { s.gov with heldBeat := s.gov.heldBeat + 1 } }) ∧
       (memFull s = false → ∃ s', exec (.memoryBeatReturn t o.id beat win ok false ⟨ue, bad⟩) s = .next s' ∧
         (s'.tile t).ops = onOp (s.tile t).ops o.id (fun o => { o with
           asked := o.asked.filter (fun a => a.1 != beat)
           buf := o.buf ++ [(beat, xDstAt o.desc beat, d, ue)] }) ∧
         (s'.tile t).scratch = (s.tile t).scratch ∧ (s'.tile t).hamper = (s.tile t).hamper ∧ (∀ u, u ≠ t → s'.tile u = s.tile u) ∧
         s'.mem.dram = (if bad = 0 then s.mem.dram else SMap.setBeat s.mem.dram (at_ s ga) d) ∧
         (ue = false → s'.stg = s.stg ∧ { s'.mem with dram := s.mem.dram } = s.mem) ∧
         (ue = true → bitB s'.stg.loc 6 = true ∧ s'.mem.nearUe = sat32 (s.mem.nearUe + 1)))) ∧
     (64 * beat < 0x4000000000 → s.pins.mainOn = true →
       ∃ s', exec (.memoryBeatReturn 1024 o.id beat win ok ce ⟨ue, bad⟩) s = .next s' ∧ s'.tiles = s.tiles ∧
         (ue = true → SMap.get false s'.mem.poison beat = true) ∧
         s'.mem.nearCe = (if ce then sat32 (s.mem.nearCe + 1) else s.mem.nearCe) ∧ (ce = false → s'.flt = s.flt) ∧
         (ce = true → s.ns - s.flt.chanHour < 3600000000000 → s'.flt = { s.flt with
           chanCe := SMap.upd 0 s.flt.chanCe (physChan s (chanKey (64 * beat))) fun n => n + 1 }) ∧
         { s' with mem := s.mem, flt := s.flt } = s)) ∧
  (∀ (s : State) (t : Nat) (o : Op), (s.tile t).gang.isSome = true →
     (∀ bank b a d, bankSlot s t bank 0x42 = true → drainOwn s t bank = some (o, b, a, d) →
       ∃ s', exec (.inboundDrain t bank) s = .next s' ∧
         s'.tile t = { s.tile t with
           scratch := SMap.setBeat (s.tile t).scratch a d, slotUsed := bank :: (s.tile t).slotUsed
           ops := onOp (s.tile t).ops o.id fun o => { o with buf := o.buf.filter (fun e => e.1 != b), done := o.done + 1 } } ∧
         (∀ u, u ≠ t → s'.tile u = s.tile u) ∧ { s' with tiles := s.tiles } = s) ∧
     (∀ bank e, bankSlot s t bank 0x42 = true → drainOwn s t bank = none →
       s.fab.drain.find? (fun e => e.tile == t && e.addr / 0x20000 == bank && !e.done) = some e → e.rd = false →
       ∃ u, exec (.inboundDrain t bank) s = .next (drainAfter u e) ∧ u.fab = { s.fab with drain := s.fab.drain.erase e } ∧
         u.tile t = { s.tile t with
           scratch := SMap.setBeat (s.tile t).scratch e.addr e.data, slotUsed := bank :: (s.tile t).slotUsed } ∧
         (∀ v, v ≠ t → u.tile v = s.tile v) ∧ { u with tiles := s.tiles, fab := s.fab } = s) ∧
     (∀ chan b va d x ga, s.pins.mainOn = true → drainOut s t chan = some o → lowBeat o = some (b, va, d, x) →
       reach s (dieOfTile t) va true false = .ok ga → gaMod ga = s.self → gaOff ga < 0x4000000000 → inSpill s va = false →
       (memFull s = true → exec (.outboundBeatDrain t chan) s = .next (heldBack (tlbNote s (dieOfTile t) va) (gaOff ga))) ∧
       (memFull s = false → ∃ s', exec (.outboundBeatDrain t chan) s = .next s' ∧ s'.mem.dram = SMap.setBeat s.mem.dram (at_ s ga) d ∧
         outUsed (s'.tile t) (xChan o.desc) = outUsed (s.tile t) (xChan o.desc) - 1 ∧
         (s'.tile t).ops = onOp (s.tile t).ops o.id (fun o => { o with buf := o.buf.filter (fun e => e.1 != b), done := o.done + 1 }) ∧
         (s'.tile t).ec = raised (s.tile t).ec (if xChan o.desc then 255 else 254) 1 ∧
         (s'.tile t).scratch = (s.tile t).scratch ∧ (∀ u, u ≠ t → s'.tile u = s.tile u) ∧ s'.stg = s.stg)))

/-- R257 to R260, R264: firmware ends with ERROR at once a fault of a transfer that no retry can mend, and one of the
far tier or the host window once its limit has passed, not before: the rest is dropped and STG_LOCAL bit 6 set. A
far-tier beat without response for 100 µs holds its transfer with FAR_MISS; where a retry of the same fault went
before, the record of that fault stands again, its limit running on, and no other is counted. R260, R257: RETRY of a
FAR_MISS that alone holds a transfer and whose beat is now served drops the fault, keeps its record for the case that
the same fault comes again, and lets the transfer's requests go on. -/
def Obligations.FaultsEndOrRetry : Prop :=
  (∀ (s : State) (f : FaultRec) (t : Nat) (o : Op),
     (Holds s f t o → f.code ≠ 2 → f.code ≠ 5 → f.code ≠ 6 →
       ∃ s', exec (.faultError f.n) s = .next s' ∧ EndedInError s s' f.n) ∧
     (Holds s f t o → f.code = 5 →
       (f.at_ + 1000 * s.mem.farLimit.toNat ≤ s.ns → ∃ s', exec (.farMissLimit f.n) s = .next s' ∧ EndedInError s s' f.n) ∧
       (s.ns < f.at_ + 1000 * s.mem.farLimit.toNat → exec (.farMissLimit f.n) s = .next s)) ∧
     (Holds s f t o → f.code = 6 →
       (f.at_ + 1000 * s.mem.hwinLimit.toNat ≤ s.ns → ∃ s', exec (.hwinLimit f.n) s = .next s' ∧ EndedInError s s' f.n) ∧
       (s.ns < f.at_ + 1000 * s.mem.hwinLimit.toNat → exec (.hwinLimit f.n) s = .next s)) ∧
     (∀ beat ga q a, t < 1024 → s.op? t o.id = some o → o.held = none → faultsOf s false t o.id = [] → gaMod ga = s.self →
       o.asked.find? (fun b => b.1 == beat) = some (beat, ga) → placeOf (gaOff ga) = .far q a →
       let again := retriedAs s 5 false false t o.id beat
       (∀ f, again = some f → ∃ s', exec (.farResponseTimeout t o.id beat) s = .next s' ∧
         (s'.op? t o.id).map (·.held) = some (some f.n) ∧ s'.mem.faults = s.mem.faults ++ [f] ∧
         s'.mem.faultCount = s.mem.faultCount ∧ s'.mem.dram = s.mem.dram ∧ s'.stg = s.stg) ∧
       (again = none → ∃ s', exec (.farResponseTimeout t o.id beat) s = .next s' ∧
         (s'.op? t o.id).map (·.held) = some (some s.mem.nextFault) ∧
         (∃ r ∈ s'.mem.faults, r.n = s.mem.nextFault ∧ r.code = 5 ∧ r.beat = beat ∧ r.ga = ga) ∧
         s'.mem.faultCount = sat32 (s.mem.faultCount + 1) ∧ s'.mem.dram = s.mem.dram ∧ s'.stg = s.stg))) ∧
  (∀ (s : State) (f : FaultRec) (t : Nat) (o : Op) (ga : Nat), Holds s f t o → faultsOf s false t o.id = [f] → f.code = 5 →
     f.win = false → f.saved = false → reach s (dieOfTile t) f.va f.dir false = .ok ga →
       ∃ u, exec (.faultRetry f.n) s = .next (requestAll u t o.id) ∧
         (u.tile t).ops = onOp (s.tile t).ops o.id (fun o => { o with held := none }) ∧
         u.mem = { s.mem with faults := s.mem.faults.filter (fun g => g.n != f.n), retried := s.mem.retried ++ [f] } ∧ u.stg = s.stg)

/-- R240, R285, R265, R432, R255: a far-tier port goes out of service and, with a capacity, comes back; an expander that enumerates gives the port
its capacity, 512 GiB at most, and puts it under IDE only where the board record names a filled PSK slot for it; a request held for such a port longer than MEM_FAR_LIMIT_US is answered with ERROR; a near page due
is retired while no step runs, its bytes copied to the half's next spare page and its remap recorded, a run of firmware's mover of
its die (R255).
Where a spare page stands is the model's choice (log 21). -/
def Obligations.FarPortsAndPages : Prop :=
  ∀ (s : State) (p cap page : Nat) (ide : Bool) (h : HeldReq),
    (p < 4 → (∀ t, ∀ o ∈ (s.tile t).ops, farAsked o p = none) → Canon s →
      ∃ s', exec (.farPortDown p) s = .next s' ∧ s'.mem = { s.mem with farUp := SMap.set false s.mem.farUp p false } ∧
        { s' with mem := s.mem } = s) ∧
    (p < 4 → SMap.get 0 s.mem.farCap p ≠ 0 → s.mem.heldReqs = [] → s.mem.faults = [] →
      ∃ s', exec (.farPortUp p) s = .next s' ∧ s'.mem = { s.mem with farUp := SMap.set false s.mem.farUp p true } ∧
        { s' with mem := s.mem } = s) ∧
    (p < 4 → s.pins.mainOn = true → ∃ s', exec (.farPortEnumerated p cap ide) s = .next s' ∧
      s'.mem.farUp = SMap.set false s.mem.farUp p (decide (cap ≠ 0)) ∧
      s'.mem.farCap = SMap.set 0 s.mem.farCap p (min cap 512) ∧
      s'.mem.farIde = SMap.set false s.mem.farIde p (ide && farSlotOk s p cap) ∧ s'.mem.dram = s.mem.dram ∧ { s' with mem := s.mem } = s) ∧
    (s.mem.heldReqs.find? (fun r => r.n == h.n) = some h → h.port < 18 → (∃ vc,
      waiting (s.modMem fun m => { m with heldReqs := m.heldReqs.filter fun r => r.n != h.n }) h.port h.msg = some (vc, h.msg)) →
      h.at_ + 1000 * s.mem.farLimit.toNat ≤ s.ns →
      ∃ u, exec (.farRequestTimeout h.n) s = .next (respond u h.msg 0x84 1 0 []) ∧ (∀ r ∈ u.mem.heldReqs, r.n ≠ h.n) ∧
        u.mem.dram = s.mem.dram ∧ u.tiles = s.tiles) ∧
    (restful s = true → page ∈ s.mem.retireDue → remapsUsed s page < 4096 →
      ∃ s', exec (.pageRetire page) s = .next s' ∧
        s'.mem.retired = s.mem.retired + (if SMap.get 0 s.trust.board.remap page = 0 then 1 else 0) ∧
        s'.mem.retireDue = s.mem.retireDue.erase page ∧
        (s'.mover (16 * (page / 0x200000 % 2) + 12)).done = sat32 ((s.mover (16 * (page / 0x200000 % 2) + 12)).done + 1) ∧
        s'.trust.board.remap = SMap.set 0 s.trust.board.remap page (remapsUsed s page + 1) ∧
        s'.mem.dram = copyPage s.mem.dram (memOff s (page * 0x10000))
          (spareBase (page / 0x200000) + remapsUsed s page * 0x10000) ∧ s'.tiles = s.tiles ∧ s'.stg = s.stg)

/-- R87, R172, R174, R229, R261, R262, R370: once every gang is held a pending pre-emption saves the context: a RUNNING module is PREEMPTED, its
STEP_RUN completes with 0x0301, the accumulators read +0 afterwards, held faults are saved, and the SAVE regions hold the
context. PREEMPT completes with 3,394 KiB for
each used tile as the save ends. As the restore ends each used tile has the memories its SAVE region holds and the step goes on, reported by RESUME, unless STG_LOCAL holds a cause to
abandon it.
The layout of the SAVE regions is the model's choice (log 24). -/
def Obligations.PreemptSavesAndRestores : Prop :=
  ∀ (s : State) (q r : Nat), Canon s →
    (s.pre.pending = some q → s.stg.st = .running → s.stg.reporter = some r → darnPending s = false → s.flt.darning = none →
      (∀ g ∈ s.gangList, preHeld s g = true) →
      ∃ s' u, exec .preemptSave s = .next s' ∧ s'.stg = { s.stg with
          st := .preempted, midStep := true, reporter := none, lastStatus := 0x0301 } ∧
        s'.pre = { s.pre with pending := none, saving := true, saved := true, saveQ := some q } ∧
        s'.host = (complete u r 0x0301 (stepInfo s) s.stg.step.toNat).host ∧ u.host = s.host ∧
        u.mem = (saveContext (saveFaults (dropAcc (beginHold s)))).mem ∧
        (∀ t, (s.tile t).gang.isSome = true → (s'.tile t).acc = [] ∧ (s'.tile t).scratch = (s.tile t).scratch ∧
          (s'.tile t).hamper = (s.tile t).hamper ∧ (s'.tile t).threads = (s.tile t).threads ∧ (s'.tile t).ec = (s.tile t).ec) ∧
        (∀ f ∈ s'.mem.faults, ofCopy f = false → f.saved = true)) ∧
    (s.pre.saveQ = some q → s.pre.saving = true →
      ∃ u, exec .saveComplete s = .next (complete u q 0 (3475456 * s.usedTiles.length) 0) ∧
        u.pre = { s.pre with saving := false, saveQ := none } ∧ { u with pre := s.pre } = s) ∧
    (s.pre.restoring = some q → s.stg.st = .preempted →
      ∃ u, exec .restoreComplete s = .next (if u.stg.loc &&& 0x198 = 0 then u else abandonStep u) ∧ u.pre = {} ∧
        u.stg.st = .running ∧ u.stg.reporter = some q ∧ u.stg.parity = s.stg.parity ∧ u.stg.step = s.stg.step ∧
        (∀ t, (s.tile t).gang.isSome = true → (u.tile t).scratch = rangeGet s (saveAt s t) 0x200000 ∧
          (u.tile t).hamper = rangeGet s (saveAt s t + 0x200000) 0x100000) ∧ (∀ f ∈ u.mem.faults, f.saved = false) ∧
        u.fab.heldSigs = [] ∧ (∀ g ∈ s.gangList, (u.gang g).heldQuiet = false) ∧ u.mem.dram = s.mem.dram)

/-! ## Queues, the host's reads and writes, the link (R7 to R12, R333 to R359) -/

namespace Sys2Proof.Claims
open Sys2Proof.Machine

/-- Submission queue `q` has become `x`; nothing else of the block differs. -/
def OnlySq (s s' : State) (q : Nat) (x : Sq) : Prop :=
  s' = { s with host := { s.host with sqs := SMap.set {} s.host.sqs q x } }

/-- Completion queue `q` has become `c`; nothing else of the block differs. -/
def OnlyCq (s s' : State) (q : Nat) (c : Cq) : Prop :=
  s' = { s with host := { s.host with cqs := SMap.set {} s.host.cqs q c } }

end Sys2Proof.Claims

/-- R340, R341, R346: enabling a queue whose SIZE, BASE and (for an SQ) CQ are in order starts it afresh: HEAD, TAIL
and count 0, EPOCH one up; a CQ with PHASE 1. One whose reserved fields were written as 1 is not enabled, and CFG_ERR
says so. A CQ that an enabled SQ names is not disabled. A disabled SQ keeps its command; SQ_RESUME clears STOPPED.
R342: a tail doorbell below SIZE of an enabled SQ sets its tail; a head doorbell below SIZE of an enabled CQ frees the
slots up to it; one to a disabled queue, or of SIZE or more, sets INT_STATUS bit 1 and moves no queue. -/
def Obligations.QueuesOpenAndMove : Prop :=
  (∀ (s : State) (q : Nat), Canon s →
     ((s.sq q).en = false → (s.sq q).resvBase = false → (s.sq q).resvCfg = false → sizeOk (s.sq q).cfg = true →
       baseOk (s.sq q).base (256 * qSize (s.sq q).cfg) = true →
       (s.cq (cqOf (s.sq q))).en = true → ∃ s', exec (.sqEnable q) s = .next s' ∧ OnlySq s s' q { s.sq q with
         en := true, head := 0, passN := 0, tail := 0, taken := 0, epoch := ((s.sq q).epoch + 1) % 256, stopped := false
         fails := 0, cfgErr := false }) ∧
     ((s.sq q).en = false → (s.sq q).resvBase = true ∨ (s.sq q).resvCfg = true → ∃ s', exec (.sqEnable q) s = .next s' ∧
       s'.sq q = { s.sq q with cfgErr := true } ∧ bitB s'.host.intStatus 3 = true ∧ s'.host.cqs = s.host.cqs) ∧
     ((s.cq q).en = false → (s.cq q).resvBase = false → (s.cq q).resvCfg = false → sizeOk (s.cq q).cfg = true →
       baseOk (s.cq q).base (32 * qSize (s.cq q).cfg) = true →
       1 ≤ fldN (s.cq q).cfg 16 6 → (∀ i, (s.sq i).cur = none) → ∃ s', exec (.cqEnable q) s = .next s' ∧
       OnlyCq s s' q { s.cq q with en := true, tail := 0, phase := true, head := 0, used := 0, reserved := 0, cfgErr := false }) ∧
     ((s.sq q).en = true → (s.sq q).fails = 0 → ∃ s', exec (.sqDisable q) s = .next s' ∧
       OnlySq s s' q { s.sq q with en := false }) ∧
     ((s.cq q).en = true → (∀ i, (s.sq i).en = true → cqOf (s.sq i) ≠ q) → ∃ s', exec (.cqDisable q) s = .next s' ∧
       OnlyCq s s' q { s.cq q with en := false }) ∧
     (∀ i, i < 16 → (s.cq q).en = true → (s.sq i).en = true → cqOf (s.sq i) = q →
       ∃ s', exec (.cqDisable q) s = .next s' ∧ (s'.cq q).en = true ∧ (s'.cq q).cfgErr = true ∧ bitB s'.host.intStatus 3 = true) ∧
     (∃ s', exec (.sqResume q) s = .next s' ∧ OnlySq s s' q { s.sq q with stopped := false })) ∧
  (∀ (s : State) (q : Nat) (v : Word),
     let pos := fldN v 0 12
     ((s.sq q).en = true → pos < qSize (s.sq q).cfg → ∃ s', exec (.sqTail q v) s = .next s' ∧
       OnlySq s s' q { s.sq q with tail := pos }) ∧
     ((s.cq q).en = true → pos < qSize (s.cq q).cfg → ∃ s', exec (.cqHead q v) s = .next s' ∧
       OnlyCq s s' q { s.cq q with
         head := pos, used := (s.cq q).used - (pos + qSize (s.cq q).cfg - (s.cq q).head) % qSize (s.cq q).cfg }) ∧
     ((s.sq q).en = false ∨ qSize (s.sq q).cfg ≤ pos → ∃ s', exec (.sqTail q v) s = .next s' ∧
       bitB s'.host.intStatus 1 = true ∧ s'.host.sqs = s.host.sqs ∧ s'.host.cqs = s.host.cqs) ∧
     ((s.cq q).en = false ∨ qSize (s.cq q).cfg ≤ pos → ∃ s', exec (.cqHead q v) s = .next s' ∧
       bitB s'.host.intStatus 1 = true ∧ s'.host.sqs = s.host.sqs ∧ s'.host.cqs = s.host.cqs))

/-- R335, R336, R339, R352 to R354, R358, R408, R466: HWT_INVAL drops the cached entries of its range, the host's
table holding the entries the host has written; LLR_CLEAR clears LLR unless it was set in this very cycle (R8); a read
of TIME_NOW latches the fraction; a snoop is answered as a miss; a write at an address that the HDM decoder maps
changes its 64 B line of the exchange area and no other byte, a read there answers with the line, both counted as
memory events (R381), and an address it does not map changes nothing; a configuration request before t_b + 60 ms is
answered with retry status, after it with vendor and device. That the host's writes to its table reach the module with
HWT_INVAL (log 7), and where the decoder's registers lie (log 51), are the model's choices. R9 to R12, R118, R267,
R338, R385, R407: a naturally aligned register write of 4 bytes changes the register at its offset and no other; one
that is not aligned, or made with the rails off, has no effect. Shown for the SQ doorbell, INT_ENABLE, INT_STATUS
(each 1 clears its bit, but one set in this very cycle, R8), GOV_CAP_MW (kept where the value is out of range) and
PC_THRESH_A. -/
def Obligations.HostAccessesAct : Prop :=
  (∀ (s : State) (v addr : DWord) (ents : SMap DWord) (off hpa : Nat) (line : Beat),
     let a := 0x1FF0000000 + off / 64 * 64
     let base := s.host.hdm.toNat / 0x10000000 * 0x10000000
     let kept := s.host.hwtCache.filter fun e => decide (e.1 < fldN v 21 19) || decide (fldN v 21 19 + fldN v 1 20 < e.1)
     (bitB v 0 = true → s.mem.faults = [] → ∃ s', exec (.hwtInval v ents) s = .next s' ∧
       s'.host = { s.host with
         hostMem := ents.foldl (fun m e => SMap.set none m (s.host.hwtBase.toNat / 8 + e.1) (some e.2)) s.host.hostMem
         hwtCache := kept } ∧ { s' with host := s.host } = s) ∧
     (∃ s', exec .llrClear s = .next s' ∧ s' = { s with host := { s.host with llr := s.host.llr && s.host.llrNow } }) ∧
     (∃ s', exec .timeNowRead s = .next s' ∧ s' = { s with tm := { s.tm with frac := fld s.tm.now 16 16 } }) ∧
     (∃ s', exec (.h2dSnoop addr) s = .next s' ∧ s' = { s with host := { s.host with out := s.host.out ++ [.snoopMiss addr] } }) ∧
     (off < 0x10000000 → s.mem.poison = [] → Sound s a → ∃ s', exec (.exchangeAreaAccess true (base + off) line) s = .next s' ∧
       s'.mem.dram = SMap.setBeat s.mem.dram (memOff s a) line ∧ { s'.mem with dram := s.mem.dram, tags := s.mem.tags } = s.mem ∧
       { s' with mem := s.mem, gov := events s s' } = s) ∧
     (off < 0x10000000 → s.mem.poison = [] → chanDead s a = false → tagMatches s a = true →
       ∃ s', exec (.exchangeAreaAccess false (base + off) line) s = .next s' ∧
       { s' with gov := events s s' } =
         { s with host := { s.host with out := s.host.out ++ [.xarea off (SMap.getBeat s.mem.dram (memOff s a))] } }) ∧
     (∀ wr, hpa < base ∨ base + 0x10000000 ≤ hpa → exec (.exchangeAreaAccess wr hpa line) s = .next s) ∧
     (∃ s', exec .configRequest s = .next s' ∧ { s' with host := s.host } = s ∧
       s'.host = { s.host with
         out := s.host.out ++ [if s.pins.tb.all (fun t => decide (s.ns < t + 60000000)) then .configRetry
           else .configOk ((0x4480 : BitVec 16) ++ Config.vendorId)] })) ∧
  (∀ (s : State) (v : DWord), s.pins.mainOn = true →
     let w : Word := v.setWidth 32
     (∃ s', exec (.registerWrite .bar0 0x20008 4 v) s = .next s' ∧ s' = { s with host := { s.host with intEnable := w &&& 0x1F } }) ∧
     (∃ s', exec (.registerWrite .bar0 0x20004 4 v) s = .next s' ∧
       s' = { s with host := { s.host with intStatus := s.host.intStatus &&& ~~~(w.setWidth 5 &&& ~~~s.host.intNow) } }) ∧
     (∃ s', exec (.registerWrite .bar0 0x40008 4 v) s = .next s' ∧ s' = { s with gov := { s.gov with
       cap := if 1 ≤ w.toNat ∧ w.toNat ≤ 2000000 then w else s.gov.cap } }) ∧
     (∃ s', exec (.registerWrite .bar4 0x4000008 4 v) s = .next s' ∧ s' = { s with pc := { s.pc with thA := w } }) ∧
     (∀ q, q < 16 → exec (.registerWrite .bar0 (0x1000 + 0x100 * q) 4 v) s = exec (.sqTail q w) s) ∧
     (∀ who off, off % 4 ≠ 0 → exec (.registerWrite who off 4 v) s = .next s) ∧
     (∀ who off width, exec (.registerWrite who off width v) { s with pins := { s.pins with mainOn := false } } =
       .next { s with pins := { s.pins with mainOn := false } }))

/-- R333, R355 to R359, R462, R464: LINK_DOWN holds traffic toward the host; LINK_UP sends what was held, in order,
and shows width and rate; a host event that loses the link, once READY has been set, is a link-loss reset with its
cause, a link down for 2 ms from that instant on, be it noticed as the link comes back, and before READY touches the
upstream port alone; a function-level reset or CXL reset is a link-loss reset from the main rails on, before READY
too, but not while the module is held by a fatal fault (log 81). R357, R431, R266, R422, R409: a link-loss reset
unbinds the job, unloads the image, erases the session and the job's keys, resets every queue, zeroes the exchange
area, starts the scrub, and says so in LLR, LLR_CAUSE, LLR_TIME (the instant `t0` of the loss), LLR_COUNT and
LLR_DROPPED (what was held for the host). A lacing round in progress ends (R409). -/
def Obligations.LinkLossResetsBlock : Prop :=
  (∀ (s : State) (lanes rate : Nat),
     (s.host.linkUp = true → ∃ s', exec .linkDown s = .next s' ∧
       s' = { s with host := { s.host with linkUp := false, downSince := some s.ns } }) ∧
     (s.host.linkUp = false → s.pins.hostPerst = false → s.pins.mainOn = true → lanes = 16 ∨ lanes = 8 ∨ lanes = 4 →
       rate = 64 ∨ rate = 32 ∨ rate = 16 ∨ rate = 8 → s.mem.faults = [] → (∀ t, s.host.downSince = some t → s.ns < t + 2000000) →
       ∃ s', exec (.linkUp lanes rate) s = .next s' ∧ s'.host.linkUp = true ∧ s'.host.width = lanes ∧ s'.host.rate = 2 * rate ∧
         s'.host.out = s.host.out ++ s.host.heldOut ∧ s'.host.heldOut = [] ∧ s'.tiles = s.tiles ∧ s'.mem = s.mem) ∧
     (∀ t, s.host.linkUp = false → s.pins.hostPerst = false → s.pins.mainOn = true → lanes = 16 → rate = 64 →
       s.host.downSince = some t → t + 2000000 ≤ s.ns → s.host.wasReady = true → s.pins.phase = .up →
       ∃ s', exec (.linkUp lanes rate) s = .next s' ∧ s'.host.linkUp = true ∧ s'.host.llr = true ∧ s'.host.llrCause = 1 ∧
         s'.host.llrTime = BitVec.ofNat 64 (t + 2000000) ∧ s'.stg.st = .unbound ∧ s'.image = none) ∧
     (∀ t, s.host.downSince = some t → t + 2000000 ≤ s.ns → s.host.wasReady = true → s.pins.phase = .up →
       ∃ u, exec .linkDownTimeout s = .next (linkLoss u 1 (t + 2000000)) ∧ u.host = { s.host with downSince := none } ∧ { u with host := s.host } = s) ∧
     (s.pins.hostPerst = false → s.host.wasReady = true → s.pins.phase = .up → ∃ u,
       exec .hostPerstAssert s = .next (linkLoss u 2 s.ns) ∧ u.pins = { s.pins with hostPerst := true } ∧ u.host.linkUp = false ∧
       u.tiles = s.tiles ∧ u.mem = s.mem) ∧
     (∃ s', exec .hostPerstDeassert s = .next s' ∧ s' = { s with pins := { s.pins with hostPerst := false } }) ∧
     (s.host.wasReady = true → s.pins.phase = .up → exec .hotReset s = .next (linkLoss s 3 s.ns)) ∧
     (s.host.wasReady = false → exec .hotReset s = .next s) ∧
     (s.pins.mainOn = true → s.pins.phase ≠ .fatalHold → exec .functionLevelReset s = .next (linkLoss s 4 s.ns) ∧
       exec .cxlReset s = .next (linkLoss s 5 s.ns)) ∧
     (s.pins.mainOn = false ∨ s.pins.phase = .fatalHold → exec .functionLevelReset s = .next s ∧ exec .cxlReset s = .next s)) ∧
  (∀ (s : State) (cause t0 : Nat),
     let t := linkLoss s cause t0
     t.stg.st = .unbound ∧ t.image = none ∧ (s.bound = true → t.job = none ∧ t.trust.jobKeys = none ∧ t.trust.fabricKey = none) ∧
     t.trust.session = none ∧ (∀ q, t.sq q = {} ∧ t.cq q = {}) ∧ t.mem.scrub = true ∧
     (∀ a, 0x1FF0000000 ≤ a → a < 0x2000000000 → SMap.get 0 t.mem.dram a = 0) ∧
     t.host.llr = true ∧ t.host.llrCause = cause ∧ t.host.llrTime = BitVec.ofNat 64 t0 ∧
     t.host.llrCount = sat32 (s.host.llrCount + 1) ∧ t.host.llrDropped = sat32 (hostHeld s) ∧ t.lace.offers = [] ∧ t.lace.due = none ∧ t.host.heldOut = [] ∧ t.tm.now = s.tm.now ∧ t.trust.flash.idIdx = s.trust.flash.idIdx)

/-! ## Commands of the submission queues (R343 to R350, R360 to R376, R450 to R453) -/

namespace Sys2Proof.Claims
open Sys2Proof.Machine

/-- Entry `e` of opcode `op` stands at HEAD of queue `q` with the phase of its pass and its CRC right, it is the queue's turn (or
the entry is read again), every queue is free, the module is awake, and the common checks pass. -/
def Offered (s : State) (q : Nat) (e : BitVec 2048) (op : Nat) : Prop :=
  Canon s ∧ mayRead s q e = true ∧ entryOk (s.sq q) e = true ∧ entOpcode e = op ∧ (∀ i, (s.sq i).cur = none) ∧
    s.rest.st = .awake ∧ cmdHeld s q = false ∧ commonCheck s e = 0

/-- The block with entry `e` of queue `q` taken as command `c` in the queue's turn: where the queue lies in the exchange area the
host's copies of the entry's lines are taken back first (R336, R343). -/
def taking (s : State) (q : Nat) (c : Instr) (e : BitVec 2048) : State := takeEntry (turnOver (snoopEntry s q) q) q c e

/-- Command `c`, the entry `e` at HEAD of queue `q`, is taken and leads to what `f` makes of the block with the entry taken. -/
def Runs (s : State) (q : Nat) (e : BitVec 2048) (c : Instr) (f : State → State) : Prop :=
  exec c s = .next (f (taking s q c e))

end Sys2Proof.Claims

/-- R360 to R362, R364, R365, R366, R373, R376, R421, R424, R448, R453: NOP, IDENTIFY, ATTEST, POWER_QUERY, LEDGER_READ, AUDIT_READ (a
snapshot taken) and PORT_STATUS complete at once with status 0 and change nothing but what is counted of them: ATTEST the leaf it
used and its nonce, AUDIT_READ the mask of its checks. -/
def Obligations.QueriesComplete : Prop :=
  ∀ (s : State) (q : Nat) (e : BitVec 2048),
    (Offered s q e 0x0001 → Runs s q e (.nop q e) fun u => complete u q 0 (entParam e 0x20 64) 0) ∧
    (Offered s q e 0x0002 → Runs s q e (.identify q e) fun u => complete u q 0 0x00A14480 0 (some (identRecord u))) ∧
    (∀ d leaf, Offered s q e 0x0102 → s.trust.ak = some (d, leaf) → leaf < 1024 → s.trust.idExhausted = false →
      ∃ r, Runs s q e (.attest q e) fun u => complete { u with trust := { u.trust with
        ak := some (d, leaf + 1), nonces := (BitVec.ofNat 256 (leNat (entPayload e)) :: u.trust.nonces).take 16 } } q 0 leaf 0 (some r)) ∧
    (Offered s q e 0x0401 → ∃ r, Runs s q e (.powerQuery q e) fun u =>
      complete u q 0 (u.gov.meas % 2 ^ 32 + u.gov.op * 2 ^ 32) 0 (some r)) ∧
    (Offered s q e 0x0501 → 1 ≤ entParam e 0x28 32 → entParam e 0x28 32 ≤ 65536 →
      let old := s.flt.next - s.flt.ring.length
      Runs s q e (.ledgerRead q e) fun u => complete u q 0 old 0 (some
        (((s.flt.ring.drop (entParam e 0x20 64 - old)).take (entParam e 0x28 32)).flatMap fun x => leBytes 32 x.toNat))) ∧
    (Offered s q e 0x0502 → s.flt.snapGen ≠ 0 → ∃ m r, Runs s q e (.auditRead q e) fun u =>
      complete { u with flt := { u.flt with audMask := BitVec.ofNat 5 m } } q 0 m 0 (some r)) ∧
    (Offered s q e 0x0701 → entParam e 0x20 8 < 18 → ∃ r, Runs s q e (.portStatus q e) fun u =>
      complete u q 0 (fpStatus u (entParam e 0x20 8)) 0 (some r))

/-- R366, R369, R367, R424, R431, R422: the first fragment of an opening message that has more to come gives the next
handle and completes; a later one is put after it and completes with the bytes held; the last opens the session where
the message has its length and magic, answers a nonce that ATTEST took, decapsulates and authenticates, and completes
with the handle and the reply, and otherwise ends it with 0x0202. SESSION_CLOSE with no image loaded erases the
session; IMAGE_UNLOAD with no job bound drops the image and its measurement; JOB_RELEASE of an IDLE module and,
whatever runs, with FORCE, leaves the job: UNBOUND, its keys erased, the scrub started. R24, R367, R368, R353, R428,
R430, R179: IMAGE_LOAD decrypts its window extent; an image in order and authenticated is kept, its bytes at KEEP, its
measurement extended; a tag that fails before any granule was written ends the load with 0x0202 and nothing kept, one
that fails from granule `g` on with the bytes before it standing at KEEP. JOB_BIND of a configuration in order binds
the job: IDLE at the configuration's step and parity, deadline, tree and ladder as it gives them, every tile of the
tile map loaded from the bytes kept (its gang, its press's first interval), every other tile empty but for a fault
found in it. -/
def Obligations.SessionsImagesAndJobs : Prop :=
  (∀ (s : State) (q : Nat) (e : BitVec 2048),
     (Offered s q e 0x0100 → s.trust.frags = none → s.trust.session = none → entParam e 0x24 32 = 0 → entSession e = 0 →
       (entPayload e).length < entParam e 0x20 32 → entParam e 0x20 32 ≤ 8192 →
       Runs s q e (.sessionOpen q e) fun u => complete { u with trust := { u.trust with
         nextHandle := s.trust.nextHandle + 1
         frags := some ⟨q, s.trust.nextHandle, entParam e 0x20 32, entPayload e⟩ } } q 0 s.trust.nextHandle 0) ∧
     (∀ f, Offered s q e 0x0100 → s.trust.frags = some f → f.queue = q → f.msglen = entParam e 0x20 32 →
       f.bytes.length = entParam e 0x24 32 → entSession e = f.handle →
       let msg := f.bytes ++ entPayload e
       let nonce := (msg.drop 8).take 32
       let asked := msg.length = 1688 ∧ leNat (msg.take 4) = 0x4F535A54 ∧ ∃ x ∈ s.trust.nonces, leBytes 32 x.toNat = nonce
       let shared := fun k => (Config.kemDecap k ((msg.drop 0x28).take 1568)).setWidth 512
       let opened := fun k => gcmOpen (kdf 256 (shared k) nonce "ZT-B4480 JS") (leBytes 12 0) (msg.take 0x648)
         ((msg.drop 0x648).take 32) ((msg.drop 0x668).take 16)
       (msg.length < f.msglen → Runs s q e (.sessionOpen q e) fun u =>
         complete { u with trust := { u.trust with frags := some { f with bytes := msg } } } q 0 msg.length 0) ∧
       (∀ k js, msg.length = f.msglen → asked → s.trust.kem = some k → opened k = some js →
         let dn := leBytes 32 (Config.trng s.trust.draws).toNat
         let ks := kdf 256 (shared k) (dn ++ nonce) "ZT-B4480 SESSION"
         let digest := Config.shake256 msg
         Runs s q e (.sessionOpen q e) fun u => complete { u with trust := { u.trust with
           frags := none, draws := u.trust.draws + 1, session := some (f.handle, ks, beatOf js, 0)
           meas := SMap.upd 0 u.trust.meas 6 fun m => Config.shake256 (beatBytes m ++ beatBytes digest) } } q 0 f.handle 0
           (some (leBytes 4 f.handle ++ leBytes 4 0 ++ dn ++ (beatBytes (kdf 256 ks (beatBytes digest) "ZT-B4480 CONFIRM")).take 32))) ∧
       (msg.length = f.msglen → (asked → s.trust.kem = none ∨ ∃ k, s.trust.kem = some k ∧ opened k = none) →
         Runs s q e (.sessionOpen q e) fun u => complete { u with trust := { u.trust with frags := none } } q 0x0202 0 0)) ∧
     (Offered s q e 0x0101 → s.bound = false → s.image = none → Runs s q e (.sessionClose q e) fun u =>
       complete { u with trust := { u.trust with session := none, frags := none, meas := SMap.set 0 u.trust.meas 6 0 } } q 0 0 0) ∧
     (Offered s q e 0x0201 → s.image.isSome = true → s.bound = false → Runs s q e (.imageUnload q e) fun u =>
       complete { u with image := none, trust := { u.trust with meas := SMap.set 0 u.trust.meas 4 0 } } q 0 0 0) ∧
     (Offered s q e 0x0211 → bitB e 0x100 = false → s.stg.st = .idle → ∃ v, Runs s q e (.jobRelease q e) (fun _ => complete v q 0 0 0) ∧
       v.stg.st = .unbound ∧ v.job = none ∧ v.trust.jobKeys = none ∧ v.trust.fabricKey = none ∧ v.mem.scrub = true ∧
       v.image = s.image ∧ v.mem.dram = s.mem.dram) ∧
     (Offered s q e 0x0211 → bitB e 0x100 = true → s.bound = true → ∃ v, Runs s q e (.jobReleaseForce q e) (fun _ => complete v q 0 0 0) ∧
       v.stg.st = .unbound ∧ v.job = none ∧ v.trust.jobKeys = none ∧ v.trust.fabricKey = none ∧ v.mem.scrub = true ∧
       v.image = s.image ∧ v.mem.dram = s.mem.dram)) ∧
  (∀ (s v : State) (q : Nat) (e : BitVec 2048),
     let woff := entParam e 0x20 64
     (∀ (bytes : SMap Byte) tags, let size := entParam e 0x28 64; let keep := entParam e 0x30 64
       let plain := winPlain v woff size bytes; let img := imageOf plain;
       Offered s q e 0x0200 → s.image = none → extentOk woff size = true → 256 ≤ size → size ≤ 2 ^ 34 → keep % 0x10000 = 0 →
       nearRange true keep (roundUp size 0x10000) = true → winAll (taking s q (.imageLoad q e bytes tags) e) q woff size = (v, true) →
       (tags = .pass → imageOk img size = true → imageAuthOk s img = true →
         ∃ w, exec (.imageLoad q e bytes tags) s = .next (complete w q 0 img.imageSize 0 (some (beatBytes img.digest))) ∧
           w.image = some ⟨img, keep, size⟩ ∧ w.mem = (rangePut v keep size plain).mem ∧
           w.trust = { v.trust with
             meas := SMap.upd 0 v.trust.meas 4 fun m => Config.shake256 (beatBytes m ++ beatBytes img.digest) } ∧
           { w with image := v.image, mem := v.mem, trust := v.trust } = v) ∧
       (tags = .failCheck ∨ tags = .failWrite 0 → exec (.imageLoad q e bytes tags) s = .next (complete v q 0x0202 0 0)) ∧
       (∀ g, tags = .failWrite (g + 1) → let n := 512 * (g + 1) - woff % 512
         n < size → exec (.imageLoad q e bytes tags) s = .next (complete (rangePut v keep n plain) q 0x0202 n 0))) ∧
     (∀ k (bytes : SMap Byte), let size := entParam e 0x28 32; let cfg := jobCfgOf (winPlain v woff size bytes) size
       let k' := keptNow v k; let u := countReads v k.keep k.size;
       Offered s q e 0x0210 → s.image = some k → s.bound = false → extentOk woff size = true → 0x1100 ≤ size → size ≤ 2 ^ 22 →
       s.mem.scrub = false → s.pins.full = true → winAll (taking s q (.jobBind q e bytes .pass) e) q woff size = (v, true) →
       bindOk u k' cfg size = true →
       ∃ w, exec (.jobBind q e bytes .pass) s = .next (complete w q 0 (portsUp w) 0) ∧ w.job = some cfg ∧ w.stg.st = .idle ∧
         w.stg.step = cfg.step ∧ w.stg.parity = cfg.parity ∧ w.stg.deadlineUs = BitVec.ofNat 32 cfg.deadlineUs ∧
         w.cm.parent = cfg.parent ∧ w.cm.child = BitVec.ofNat 18 cfg.child ∧ w.cm.jobSize = cfg.jobSize ∧
         w.pc.ladder = bindLadder (ladderWords k'.img cfg) ∧ w.tm.incr = jobIncr s.tm.incr ∧
         (∀ t, t ∈ mappedTiles k'.img → w.tile t = { loadTile (imgTile k'.img t) {} with
           gang := some (SMap.get 0 k'.img.tileMap t), press := [{ id := 0 }]
           failing := (s.tile t).failing, hardFail := (s.tile t).hardFail }) ∧
         (∀ t, t ∉ mappedTiles k'.img → w.tile t = { failing := (s.tile t).failing, hardFail := (s.tile t).hardFail }) ∧
         w.mem.dram = s.mem.dram ∧ w.image = s.image))

/-- R215, R214, R370, R373, R450: STEP_RUN for the step that stands in STG_STEP and gangs the tile map uses starts the step: RUNNING,
STG_LOCAL and the done gangs cleared, the named gangs written, and the KFS, MXS and VRS blocks of every used tile cleared; it
does not yet complete. PREEMPT and REST_ENTER are noted and wait; RESUME of a saved context starts the restore; a snapshot at
an instant 10 µs to 1 s ahead is noted, one with MODE 1 and no job is taken at once. -/
def Obligations.StepsAndWaitsBegin : Prop :=
  ∀ (s : State) (q : Nat) (e : BitVec 2048),
    (Offered s q e 0x0220 → s.stg.st = .idle → s.flt.rebind = false → s.pre.saved = false →
      entParam e 0x20 64 = s.stg.step.toNat →
      let gangs : DWord := BitVec.ofNat 64 (entParam e 0x28 64)
      gangs ≠ 0 → gangs &&& ~~~(gangMask s) = 0 →
      ∃ s', exec (.stepRun q e) s = .next s' ∧ s'.stg.st = .running ∧ s'.stg.loc = 0 ∧ s'.stg.gangDone = 0 ∧ s'.stg.gangs = gangs ∧
        s'.stg.startAt = some s.ns ∧ s'.stg.reporter = some q ∧ s'.stg.step = s.stg.step ∧ s'.stg.parity = s.stg.parity ∧
        (∀ t, (s.tile t).gang.isSome = true → s'.tile t = { s.tile t with
          kfs := {}, mxs := {}, vrs := {}, ts := { (s.tile t).ts with fault := 0 } }) ∧
        (∀ t, (s.tile t).gang = none → s'.tile t = s.tile t) ∧ s'.mem.dram = s.mem.dram) ∧
    (Offered s q e 0x0221 → s.stg.st = .running ∨ s.stg.st = .idle → s.pre.pending = none → s.pre.saved = false →
      Runs s q e (.preempt q e) fun u => { u with pre := { u.pre with pending := some q } }) ∧
    (Offered s q e 0x0222 → s.pre.saved = true → s.pre.saving = false → s.pre.restoring = none → s.flt.rebind = false →
      Runs s q e (.resume q e) fun u => { u with pre := { u.pre with restoring := some q } }) ∧
    (Offered s q e 0x0410 → s.stg.st ≠ .localDone → s.stg.st ≠ .committing →
      Runs s q e (.restEnter q e) fun u => { u with rest := { u.rest with st := .pending, queue := some q } }) ∧
    (Offered s q e 0x0500 → s.flt.snapPend = none → entParam e 0x28 8 = 0 → s.ns + 10000 ≤ entParam e 0x20 64 →
      entParam e 0x20 64 ≤ s.ns + 1000000000 → Runs s q e (.countersSnapshotInstant q e) fun u =>
        { u with flt := { u.flt with snapPend := some (q, false, entParam e 0x20 64) } }) ∧
    (Offered s q e 0x0500 → s.flt.snapPend = none → entParam e 0x28 8 = 1 → s.bound = false →
      ∃ v i, Runs s q e (.countersSnapshotSeam q e) (fun _ => complete v q 0 i 0) ∧ v.flt.snapGen = s.flt.snapGen + 1 ∧
        v.flt.snapPend = none ∧ v.tiles = s.tiles ∧ v.mem = s.mem ∧ v.stg = s.stg) ∧
    (∀ at_ k, s.flt.snapPend = some (q, false, at_) → at_ ≤ s.ns → (s.sq q).cur = some k → entOpcode k.entry = 0x0500 →
      ∃ v i, exec .snapshotCopy s = .next (complete v q 0 i 0) ∧ v.flt.snapGen = s.flt.snapGen + 1 ∧ v.flt.snapPend = none ∧
        v.tiles = s.tiles ∧ v.mem = s.mem ∧ v.stg = s.stg) ∧
    (∀ at_ k, s.flt.snapPend = some (q, true, at_) → s.bound = false → (s.sq q).cur = some k → entOpcode k.entry = 0x0500 →
      ∃ v i, exec .snapshotSeamCopy s = .next (complete v q 0 i 0) ∧ v.flt.snapGen = s.flt.snapGen + 1 ∧ v.flt.snapPend = none ∧
        v.tiles = s.tiles ∧ v.mem = s.mem ∧ v.stg = s.stg)

/-- R24, R255, R363, R371, R372, R427 to R429: COPY_IN writes the lines of its window extent, decrypted, to the addresses of its
destination and completes with the bytes copied; COPY_OUT of one granule reads its source, puts the eight lines it
encrypts and the granule's tag over them in host memory, and changes no byte here; WRITE_INLINE whose payload authenticates writes its bytes, and
otherwise none, the session's count of them (R429) as it was. -/
def Obligations.CopiesMoveBytes : Prop :=
  ∀ (s : State) (q n : Nat) (e : BitVec 2048) (ga : Nat → Nat), let m := copyMover q
    s.mem.poison = [] → s.mover m = { done := n } → (∀ r ∈ s.fab.outstanding, r.mover ≠ m) →
    (∀ d ∈ s.fab.drain, d.after ≠ .mover m) →
    let near := fun (va : Nat) (wr : Bool) (i : Nat) => reach s (dieOfMover m) (va + 64 * i) wr true = .ok (ga i) ∧ Near s (ga i)
    (∀ lines, let woff := entParam e 0x20 64; let va := entParam e 0x28 64;
      Offered s q e 0x0300 → copyOk s e = true → entParam e 0x30 64 = 64 * lines.length → bitB e 0x1DA = false →
      (∀ i, i < lines.length → near va true i ∧ Sound s (ga i) ∧ hwinOk s (woff + 64 * i) false = true) →
      ∃ v, exec (.copyIn q e lines .pass) s = .next (complete v q 0 (64 * lines.length) 0) ∧
        v.mem.dram = lines.zipIdx.foldl
          (fun d b => SMap.setBeat d (at_ s (ga b.2)) (winOpen s (woff + 64 * b.2) b.1)) s.mem.dram ∧
        { v.mem with dram := s.mem.dram, tags := s.mem.tags, tlb := s.mem.tlb } = s.mem ∧ v.tiles = s.tiles ∧ v.stg = s.stg) ∧
    (let woff := entParam e 0x20 64; let va := entParam e 0x28 64;
      Offered s q e 0x0301 → copyOk s e = true → entParam e 0x30 64 = 512 → woff % 512 = 0 → s.host.linkUp = true →
      (∀ i, i < 8 → near va false i ∧ Readable s (ga i)) → hwinOk s woff true = true →
      ∃ v, exec (.copyOut q e) s = .next (complete v q 0 512 0) ∧ { v.mem with tlb := s.mem.tlb } = s.mem ∧
        v.tiles = s.tiles ∧ v.stg = s.stg ∧
        let line := fun i => winSeal s (woff + 64 * i) (SMap.getBeat s.mem.dram (at_ s (ga i)))
        let ct := (List.range 8).flatMap fun i => beatBytes (line i)
        v.host.out = (taking s q (.copyOut q e) e).host.out ++
          (List.range 8).map (fun i => HostOut.window (woff + 64 * i) (hwinAddr s (woff + 64 * i)) (line i)) ++
          [.wtag (woff / 512) (wtagAddr s (woff / 512))
            ((kdf 128 (keyWt s) (leBytes 8 (woff / 512) ++ ct) "ZT-B4480 WTAG").setWidth 128)]) ∧
    (let va := entParam e 0x20 64; let n := entPlen e - 16;
      Offered s q e 0x0302 → copyOk s e = true → bitB e 0x15A = false →
      (∀ i, 64 * i < va % 64 + n →
        reach s (dieOfMover m) (va / 64 * 64 + 64 * i) true true = .ok (ga 0 + 64 * i) ∧ Near s (ga 0 + 64 * i) ∧
          Sound s (ga 0 + 64 * i)) →
      gaOff (ga 0) + 256 < 0x4000000000 → ga 0 % 64 = 0 →
      (∀ i, i < 256 → memOff s (gaOff (ga 0) + i) = at_ s (ga 0) + i) →
      match inlinePlain s e with
      | none => ∃ v, exec (.writeInline q e) s = .next (complete v q 0x0202 0 0) ∧ v.mem = s.mem ∧ v.tiles = s.tiles ∧ v.trust = s.trust
      | some bs => bs.length ≤ n → ∃ v, exec (.writeInline q e) s = .next (complete v q 0 bs.length 0) ∧ v.tiles = s.tiles ∧
          v.trust = { s.trust with session := s.trust.session.map fun x => (x.1, x.2.1, x.2.2.1, x.2.2.2 + 1) } ∧
          v.mem.dram = SMap.setBytes s.mem.dram (at_ s (ga 0) + va % 64) bs)

/-- R373, R385, R375, R414, R293, R294, R376: POWER_SET sets the cap and the priority order its VALID names; one that sets the
order alone completes at once, one whose cap is below 180 W at once with status 0x0501; any other waits for the window in which its
cap is in force and completes with it. FIRMWARE_STAGE decrypts its extent and writes the package to the bank not active: with
status 0 and the package's version where its header, its vendor signature and its SVN are good, else with 0x0602. FIRMWARE_ACTIVATE of a staged
package makes the restart due; PORT_CONFIG takes an UP port out of service and waits, and of one in service or in WAIT completes
its return at once.
That the order is in force from the row on, and the cap's row waits, is the model's reading (log 53). -/
def Obligations.SettingsCommandsAct : Prop :=
  ∀ (s : State) (q : Nat) (e : BitVec 2048),
    (let cap := entParam e 0x20 32; let order := entParam e 0x24 8
      let sets := fun (u : State) (c o : Bool) => { u with gov := { u.gov with
        cap := if c then BitVec.ofNat 32 cap else u.gov.cap
        ctrl := if o && decide (order ≤ 5) then setFld u.gov.ctrl 0 3 order else u.gov.ctrl } };
      Offered s q e 0x0400 →
      (entParam e 0x25 8 = 2 → order ≤ 7 → Runs s q e (.powerSet q e) fun u =>
        complete (sets u false true) q 0 (capInForce u) 0) ∧
      (∀ both : Bool, entParam e 0x25 8 = (if both then 3 else 1) → 1 ≤ cap → cap ≤ 2000000 → (both = true → order ≤ 7) →
        let now := min cap s.gov.bmcCap.toNat
        (cap < 180000 → Runs s q e (.powerSet q e) fun u => complete (sets u true both) q 0x0501 now 0) ∧
        (180000 ≤ cap → s.gov.effCap = now → Runs s q e (.powerSet q e) fun u => complete (sets u true both) q 0 now 0) ∧
        (180000 ≤ cap → s.gov.effCap ≠ now → ∃ s', exec (.powerSet q e) s = .next s' ∧ (∃ k, (s'.sq q).cur = some k ∧
            k.waiting = true ∧ k.applied = true) ∧ { s' with host := s.host } = sets s true both))) ∧
    (∀ fw v, let woff := entParam e 0x20 64; let size := entParam e 0x28 32;
      Offered s q e 0x0600 → s.trust.pldmHolds = false → extentOk woff size = true → 4096 ≤ size → size ≤ 2 ^ 26 →
      winAll (taking s q (.firmwareStage q e fw true) e) q woff size = (v, true) → 
      let p := winPkg v woff size fw.bytes
      let good := fwOk s p
      ∃ w, exec (.firmwareStage q e fw true) s =
          .next (complete w q (if good then 0 else 0x0602) (if good then (pkgVersion p).toNat else 0) 0) ∧ w.trust.staged = good ∧
        (if s.trust.flash.active1 then w.trust.flash.bank0 = some p ∧ w.trust.flash.bank1 = s.trust.flash.bank1
          else w.trust.flash.bank1 = some p ∧ w.trust.flash.bank0 = s.trust.flash.bank0) ∧ w.tiles = s.tiles ∧ w.mem = s.mem) ∧
    (Offered s q e 0x0601 → s.bound = false → s.image = none → s.trust.staged = true → ∃ i,
      Runs s q e (.firmwareActivate q e) fun u => complete { u with trust := { u.trust with restartDue := true } } q 0 i 0) ∧
    (let p := entParam e 0x20 8;
      Offered s q e 0x0700 → entParam e 0x21 8 = 0 → p < 18 → (s.port p).st = .up →
      ∃ s', exec (.portConfigOut q e) s = .next s' ∧ (s'.port p).st = .detoured ∧ (∃ k, (s'.sq q).cur = some k ∧ k.waiting = true) ∧
        s'.tiles = s.tiles ∧ s'.mem = s.mem ∧ s'.stg = s.stg) ∧
    (let p := entParam e 0x20 8;
      Offered s q e 0x0700 → entParam e 0x21 8 = 1 → p < 18 → (s.port p).st = .up ∨ (s.port p).st = .wait →
      Runs s q e (.portConfigReturn q e) fun u => complete u q 0 (fpStatus u p) 0)

/-- R343, R346, R350: taking an entry reserves a slot of the queue's CQ, moves HEAD on modulo SIZE (a pass more as it
wraps), counts SQ_TAKEN, and gives the command the generation EPOCH·2^48 + count. While it is another queue's turn a
queue's entry is not read. R343, R348, R349, R336: a completion without a result, its CQ's interrupt off, writes one
entry of the command's identifier, status, queue and generation at TAIL of its CQ with the CQ's PHASE, in the exchange
area's memory where the CQ lies there (and its line's granule, where it has a tag, reads without an error), moves TAIL
on modulo SIZE (PHASE inverted as it wraps), and frees the queue. R345, R346: an entry that is wrong reserves its slot
once and is read again; on a re-read that finds it right the command is taken (here NOP). Where the queue lies in the
exchange area the host's copies of the entry's lines are taken back before every read (R336); at the seventeenth
failure the queue stops, with INT_STATUS bit 2 set. -/
def Obligations.EntriesTakenAndCompleted : Prop :=
  (∀ (s : State) (q : Nat) (c : Instr) (e : BitVec 2048), (s.sq q).fails = 0 →
     let x := s.sq q
     let t := takeEntry s q c e
     let wrap := decide (qSize x.cfg ≤ x.head + 1)
     (t.sq q).head = (if wrap then 0 else x.head + 1) ∧ (t.sq q).passN = (if wrap then x.passN + 1 else x.passN) ∧
       (t.sq q).taken = x.taken + 1 ∧
       (t.sq q).cur = some { cmd := c, entry := e, gen := x.epoch * 2 ^ 48 + (x.taken + 1), sqhd := (t.sq q).head, cq := cqOf x
                             waiting := false, takenAt := s.ns } ∧
       (t.cq (cqOf x)).reserved = (s.cq (cqOf x)).reserved + 1 ∧ (∀ i, i ≠ q → t.sq i = s.sq i) ∧
       { t with host := s.host } = s ∧ (∀ r, dueQueue s = some r → r ≠ q → exec (.nop q e) s = .next s)) ∧
  (∀ (s : State) (q st i0 i1 : Nat) (k : Taken), Canon s → (s.sq q).cur = some k → s.host.linkUp = true →
     bitB (s.cq k.cq).cfg 24 = false →
       let c := s.cq k.cq
       let t := complete s q st i0 i1
       let off := baseOff c.base + 32 * c.tail
       (∃ e : BitVec 256, fldN e 0 16 = entCid k.entry ∧ fldN e 16 16 = st % 2 ^ 16 ∧
         fldN e 32 8 = q % 2 ^ 8 ∧ bitB e 40 = c.phase ∧ fldN e 64 64 = i0 % 2 ^ 64 ∧ fldN e 192 64 = k.gen % 2 ^ 64 ∧
         (bitB c.base 0 = false → t.host.out = s.host.out ++ [.cpl k.cq c.tail e] ∧ t.mem = s.mem) ∧
         (bitB c.base 0 = true → t.host.out = s.host.out ++ [.bisnpInv (off / 64 * 64), .cpl k.cq c.tail e] ∧
           t.mem.dram = SMap.setBytes s.mem.dram (memOff s (0x1FF0000000 + off)) (leBytes 32 e.toNat))) ∧
       (t.cq k.cq).tail = (if c.tail + 1 ≥ qSize c.cfg then 0 else c.tail + 1) ∧
       (t.cq k.cq).phase = (if c.tail + 1 ≥ qSize c.cfg then !c.phase else c.phase) ∧ (t.cq k.cq).used = c.used + 1 ∧
       t.sq q = { s.sq q with cur := none } ∧ (∀ i, i ≠ q → t.sq i = s.sq i) ∧
       t.stg = (if entOpcode k.entry = 0x0220 then { s.stg with lastStatus := BitVec.ofNat 16 st } else s.stg) ∧
       (bitB c.base 0 = false → { t with host := s.host, mem := s.mem, stg := s.stg } = s) ∧
       (bitB c.base 0 = true → Sound s (0x1FF0000000 + off) →
         { t with host := s.host, mem := s.mem, stg := s.stg, gov := events s t } = s)) ∧
  (∀ (s : State) (q : Nat) (e : BitVec 2048), Canon s →
     (dueQueue s = some q → shown s q e = true → entryOk (s.sq q) e = false → (∀ i, (s.sq i).cur = none) →
       ∃ s', exec (.nop q e) s = .next s' ∧ s'.sq q = { s.sq q with fails := 1 } ∧
         (∃ n, s'.host.out = (snoopEntry s q).host.out ++ n) ∧
         (s'.cq (cqOf (s.sq q))).reserved = (s.cq (cqOf (s.sq q))).reserved + 1 ∧ { s' with host := s.host } = s) ∧
     (canRead s q = true → shown s q e = true → entryOk (s.sq q) e = false → (s.sq q).fails ≠ 0 → (s.sq q).fails < 16 →
       ∃ s', exec (.entryReread q e) s = .next s' ∧ OnlySq (snoopEntry s q) s' q { s.sq q with fails := (s.sq q).fails + 1 }) ∧
     (Offered s q e 0x0001 → (s.sq q).fails ≠ 0 →
       exec (.entryReread q e) s = .next (complete (takeEntry (snoopEntry s q) q (.nop q e) e) q 0 (entParam e 0x20 64) 0)) ∧
     (canRead s q = true → shown s q e = true → entryOk (s.sq q) e = false → (s.sq q).fails = 16 →
       ∃ s', exec (.entryReread q e) s = .next s' ∧ (s'.sq q).stopped = true ∧ (s'.sq q).fails = 0 ∧
         (s'.sq q).head = (s.sq q).head ∧ bitB s'.host.intStatus 2 = true ∧ s'.tiles = s.tiles))

/-! ## Power, heat, lacing and time (R378 to R408, R442, R452) -/

namespace Sys2Proof.Claims
open Sys2Proof.Machine

/-- The governor's block has become `g`; nothing else of the block but what `flt`, `host` and `trust` record differs. -/
def OnlyGov (s s' : State) (g : GovBlk) : Prop :=
  s'.gov = g ∧ { s' with gov := s.gov, flt := s.flt, host := s.host, trust := s.trust } = s

/-- The port of `b` sends one lacing message of opcode `opc` more than that of `a`: for the round of `a`, OPND0 `op0` (R391). -/
def Sends (a b : State) (p opc op0 : Nat) : Prop :=
  ∃ t, (b.port p).outq = (a.port p).outq ++ [(15, t)] ∧ mOpc t = opc ∧ mArg t = a.lace.k % 2 ^ 32 ∧ mOp0 t = op0 % 2 ^ 64

/-- The time block has become `t`; nothing else of the block differs. -/
def OnlyTime (s s' : State) (t : TimeBlk) : Prop := s' = { s with tm := t }

end Sys2Proof.Claims

/-- R385, R386, R388, R452, R453: each window the cap in force is the least of the caps set and 2,000 W; the grants of
links, memory and compute add up to it (to the floors' sum where it lies lower), none below its floor: in the priority
order that GOV_CTRL.ORDER names each of the first two domains takes what its demand asks above its floor while any is
left, the last the rest. Duty moves by at most 1/8 up or down, or it takes 1/8 at once and moves to the alert
operating point at the next slot-frame boundary (R388, R399). A duty held after a droop is first put back once no
detector has fired for 1 µs (R398). What a domain was held back from is estimated from what its limiter counted (log
36); how a droop's hold ends (log 60) and how reals are cut to units (log 61) are the model's choices. R382 to R385,
R389, R460, R468: a 1 ms window writes the module's measured energy to GOV_MEAS_MW and adds it to GOV_ENERGY_UJ, the
gains frozen while a rail sensor has failed; 10 ms of a cap below 180,000 mW count as unattainable and force Rest; the
BMC's cap is written as set while firmware runs, and not before. The coolant temperatures are those met. The energies
met are operands (log 10), cut to whole units (log 61). -/
def Obligations.CapIsSharedAndCalibrated : Prop :=
  (∀ (s : State) (w : Window) (d : Nat), s.pins.mainOn = true → s.rest.st = .awake → 1 ≤ d →
     d = (match s.gov.droopHold with
       | some t => if t + 1000 ≤ s.ns then min s.gov.droopDuty (maxDuty s) else s.gov.duty
       | none => s.gov.duty) →
     let cap := min (min s.gov.cap.toNat s.gov.bmcCap.toNat) 2000000
     let u := capNoted (droopOver { s with gov := { s.gov with effCap := cap } })
     let asks := fun i => [(estimates u w).getD 0 0 / 1000000 + heldLinks u, (estimates u w).getD 1 0 / 1000000 + heldMem u,
       (projLevel u w 22).floor.toNat].getD i 0 - [60000, 40000, 80000].getD i 0
     ∃ s', exec (.govWindow w) s = .next s' ∧
       (∀ a b c, [[0, 1, 2], [0, 2, 1], [1, 0, 2], [1, 2, 0], [2, 0, 1], [2, 1, 0]][fldN s.gov.ctrl 0 3]? = some [a, b, c] →
         let got := fun i => s'.gov.grants.getD i 0 - [60000, 40000, 80000].getD i 0
         got a = min (asks a) (cap - 180000) ∧ got b = min (asks b) (cap - 180000 - got a)) ∧ s'.gov.effCap = cap ∧ s'.gov.grants.sum = max cap 180000 ∧
       60000 ≤ s'.gov.grants.getD 0 0 ∧ 40000 ≤ s'.gov.grants.getD 1 0 ∧ 80000 ≤ s'.gov.grants.getD 2 0 ∧
       s'.gov.op = s.gov.op ∧
       ((s'.gov.duty ≤ d + 1 ∧ d ≤ s'.gov.duty + 1 ∧ 1 ≤ s'.gov.duty) ∨
         (s'.gov.duty = 1 ∧ s'.gov.loc = true ∧ s'.gov.alertDue = true)) ∧
       s'.flt.pwrWindows = sat64 (s.flt.pwrWindows + 1) ∧ s'.tiles = s.tiles ∧ s'.mem = s.mem ∧ s'.stg = s.stg) ∧
  (∀ (s : State) (m : Meas) (mw : Nat),
     (s.pins.mainOn = true → ∃ s', exec (.govCalibrate m) s = .next s' ∧ s'.gov.meas = m.module ∧
       s'.gov.energy = sat64 (s.gov.energy + m.module) ∧ s'.gov.acc = [0, 0, 0] ∧ (s.gov.frozenGains = true → s'.gov.gains = s.gov.gains) ∧
       s'.gov.coolIn = m.coolIn ∧ s'.gov.coolOut = m.coolOut ∧ s'.gov.op = s.gov.op ∧ s'.tiles = s.tiles ∧ s'.mem = s.mem) ∧
     (∀ t, s.gov.lowSince = some t → t + 10000000 ≤ s.ns → s.gov.unattainable = false → s.rest.st = .awake →
       ∃ s', exec .capUnattainable s = .next s' ∧ s'.gov = { s.gov with unattainable := true, unatt := sat32 (s.gov.unatt + 1) } ∧
         s'.rest = { s.rest with forced := true, st := .pending } ∧ s'.flt.pldm = s.flt.pldm ++ [.capUnattainable s.gov.effCap] ∧
         s'.tiles = s.tiles ∧ s'.mem = s.mem) ∧
     (s.pins.phase = .up → ∃ s', exec (.bmcCapSet mw) s = .next s' ∧ OnlyGov s s' { s.gov with bmcCap := BitVec.ofNat 32 mw }) ∧
     (s.pins.phase ≠ .up → exec (.bmcCapSet mw) s = .next s))

/-- R395, R396, R397, R435, R442: PALERT_N sets ALERT and the alert ceiling, counted; at the next slot-frame boundary CCLK moves to the alert PLL,
its duty kept; the deassertion clears the ALERT it set and names the ceiling's end 1 ms later. A band at 95 °C sets THERMAL, one at 105 °C
lowers CCLK locally where the module runs above the alert level; a GDDR7 device at 95 °C halves the memory limit. A trip, or a failed self test, is a fatal fault. -/
def Obligations.AlertsAndHeat : Prop :=
  ∀ (s : State) (b : Nat) (t : Int), s.pins.mainOn = true →
    (s.pins.palert = false → exec .palertAssert s = .next { s with pins := { s.pins with palert := true }, gov := { s.gov with
      alert := true, alerts := sat32 (s.gov.alerts + 1), alertCeil := some (7 + fldN s.gov.ctrl 3 4), alertLift := none
      alertDue := s.gov.alertDue || decide (fldN s.gov.ctrl 3 4 < s.gov.op) } }) ∧
    (s.gov.alertDue = true → s.clk.slot = 0 → s.rest.st = .awake → ∃ s', exec .alertClockSwitch s = .next s' ∧
      s'.gov.op = min s.gov.op (fldN s.gov.ctrl 3 4) ∧ s'.gov.duty = s.gov.duty ∧ s'.gov.alertDue = false ∧ { s' with gov := s.gov } = s) ∧
    (s.pins.palert = true → exec .palertDeassert s = .next { s with pins := { s.pins with palert := false }, gov :=
      if s.gov.alert then { s.gov with alert := false, alertLift := some (s.ns + 1000000) } else s.gov }) ∧
    (∃ s', exec (.bandHot b t) s = .next s' ∧
      OnlyGov s s' { s.gov with temp := SMap.set 0 s.gov.temp b t, thermal := s.gov.thermal || decide (1520 ≤ t) }) ∧
    (1680 ≤ t → ∃ s', exec (.bandThermalDescent b t) s = .next s' ∧ OnlyGov s s' { s.gov with
      temp := SMap.set 0 s.gov.temp b t, thermal := true
      loc := s.gov.loc || decide (fldN s.gov.ctrl 3 4 < s.gov.op)
      alertDue := s.gov.alertDue || decide (fldN s.gov.ctrl 3 4 < s.gov.op) }) ∧
    (∃ s', exec .gddr7Hot s = .next s' ∧ OnlyGov s s' { s.gov with
      memHalf := true, memLim := if s.gov.memHalf then s.gov.memLim else s.gov.memLim.map (· / 2) }) ∧
    exec .thermalTrip s = .next (fatalFault s 1) ∧ exec .securitySelfTestFail s = .next (fatalFault s 3)

/-- R380, R384, R398: a droop stretches CCLK for 64 cycles, counted once for each stretch; where a detector still fires as it ends, duty falls to
1/8, held, GOV_DROOP_LONG rises and ten offers lie lower. A failed rail sensor freezes the gains until it recovers,
and where the estimate is not trusted brings the alert ceiling, held until then. A trim update holds the
margin called for, in 5 mV steps, moves every band's margin by one such step at most, and an operating point at which a band's
voltage would pass its ceiling is withdrawn with those above it.
The duty kept through a hold (log 60), the local descent's way to the alert PLL (log 36) and the margin called for as an operand (log 62) are the model's choices. -/
def Obligations.DroopSensorsAndTrim : Prop :=
  ∀ (s : State) (b rail : Nat) (need : List Nat),
    (s.gov.droopHold = none → ∃ s', exec (.droopDetect b) s = .next s' ∧ s'.clk = { s.clk with stretch := 64 } ∧
      s'.gov = { s.gov with droops := if s.clk.stretch = 0 then sat32 (s.gov.droops + 1) else s.gov.droops } ∧
      { s' with clk := s.clk, gov := s.gov } = s) ∧
    (s.clk.stretch = 1 → s.gov.droopHold = none → ∃ s', exec (.droopStretchEnd b true) s = .next s' ∧ s'.clk = { s.clk with stretch := 0 } ∧
      s'.gov = { s.gov with duty := 1, droopDuty := s.gov.duty, droopHold := some s.ns, droopLong := sat32 (s.gov.droopLong + 1), droopRounds := 10 } ∧
      { s' with clk := s.clk, gov := s.gov, flt := s.flt } = s) ∧
    (s.gov.distrust = false → ∃ s', exec (.railSensorFault rail) s = .next s' ∧
      OnlyGov s s' { s.gov with frozenGains := true, sensorFault := true } ∧ s'.flt.pldm = s.flt.pldm ++ [.sensorFault rail]) ∧
    (s.gov.distrust = true → ∃ s', exec (.railSensorFault rail) s = .next s' ∧ OnlyGov s s' { s.gov with
      frozenGains := true, sensorFault := true, sensorCeil := true, alertCeil := some (7 + fldN s.gov.ctrl 3 4), alertLift := none
      alertDue := s.gov.alertDue || decide (fldN s.gov.ctrl 3 4 < s.gov.op) } ∧ s'.flt.pldm = s.flt.pldm ++ [.sensorFault rail]) ∧
    (s.gov.sensorFault = true → ∃ s', exec .sensorRecovery s = .next s' ∧ s'.gov.frozenGains = false ∧ s'.gov.sensorFault = false ∧ s'.gov.sensorCeil = false ∧
      s'.gov.gains = s.gov.gains ∧ { s' with gov := s.gov } = s) ∧
    (SMap.wf 0 s.gov.margin = true → ∃ s', exec (.trimUpdate need) s = .next s' ∧ s'.tiles = s.tiles ∧ s'.mem = s.mem ∧
      ∀ d, d < 8 → SMap.get 0 s'.gov.need d = roundUp (need.getD d 0) 5 ∧
        SMap.get 0 s'.gov.margin d ≤ SMap.get 0 s.gov.margin d + 5 ∧ SMap.get 0 s.gov.margin d ≤ SMap.get 0 s'.gov.margin d + 5 ∧
        ∀ op, 0 < op → op < 16 → s.gov.op0Out = false → opCeil op < Config.vbase d op + roundUp (need.getD d 0) 5 →
          s'.gov.maxOpAvail < op)

/-- R442, R459: the first phase a rail of several loses is recorded. When a second one fails, every operating point above the highest the rail still
supplies is withdrawn, as R380 withdraws them, the board record and the PLDM events naming it, and the failure is reported
through PLDM; where none above is available only the failure is reported. A phase that
the rail does not have, or lost before, changes nothing.
The numbers of the rails (log 81), the point left as an operand, and the board record's field written with a withdrawal (log 72) are the model's choices. -/
def Obligations.SecondPhaseWithdrawsPoints : Prop :=
  ∀ (s : State) (rail phase maxOp : Nat),
    let fresh := s.pins.mainOn = true ∧ phase < railPhases rail ∧ (rail, phase) ∉ s.gov.phaseLost
    let before := ∃ e ∈ s.gov.phaseLost, e.1 = rail
    let lost := s.gov.phaseLost ++ [(rail, phase)]
    (fresh → ¬ before → ∃ s', exec (.regulatorPhaseFail rail phase maxOp) s = .next s' ∧
      s'.gov = { s.gov with phaseLost := lost } ∧ s'.flt.pldm = s.flt.pldm ∧ { s' with gov := s.gov, flt := s.flt } = s) ∧
    (fresh → before → maxOp < s.gov.maxOpAvail → ∃ s', exec (.regulatorPhaseFail rail phase maxOp) s = .next s' ∧
      s'.gov = { s.gov with phaseLost := lost, maxOpAvail := maxOp } ∧ s'.trust.board.maxOp = maxOp ∧
      s'.flt.pldm = s.flt.pldm ++ [.opWithdrawn (maxOp + 1), .phaseFailed rail] ∧
      { s' with gov := s.gov, flt := s.flt, trust := s.trust, free := s.free } = s) ∧
    (fresh → before → s.gov.maxOpAvail ≤ maxOp → ∃ s', exec (.regulatorPhaseFail rail phase maxOp) s = .next s' ∧
      s'.gov = { s.gov with phaseLost := lost } ∧ s'.flt.pldm = s.flt.pldm ++ [.phaseFailed rail] ∧
      { s' with gov := s.gov, flt := s.flt } = s) ∧
    ((rail, phase) ∈ s.gov.phaseLost ∨ railPhases rail ≤ phase → exec (.regulatorPhaseFail rail phase maxOp) s = .next s)

/-- R390 to R394, R388: at a lacing instant a new round begins with this module's offer, the level agreed before falling due; an OFFER of a child joins
those held; SET from the parent, no later than L_k + 80 µs, is the level agreed, passed on to each child; a module still silent at its limit sends its parent what it
holds (the least of the levels offered, whether any child is missing, the number of members), the root instead agreeing that
level, at most 4 above its last, and sending it to each child; without SET by L_k + 80 µs the level stays, counted once, a later SET taking no effect. The level due is
taken on at a slot-frame boundary, clamped to the ceilings, slot index 0 beginning there. -/
def Obligations.LacingRounds : Prop :=
  ∀ (s : State) (p vc : Nat) (m : Msg),
    (s.lace.k < s.ns / 100000 → ∃ u, exec .lacingInstant s = .next (laceTry u) ∧ u.lace.k = s.ns / 100000 ∧ u.lace.offers = [] ∧
      u.lace.level = none ∧ u.lace.missed = false ∧ u.lace.due = (if s.lace.level.isSome then s.lace.level else s.lace.due) ∧
      u.gov.fit = 22 ∧ u.tiles = s.tiles ∧ u.mem = s.mem) ∧
    (Arrives s p 0x23 vc m → mArg m = s.lace.k % 2 ^ 32 → p ∈ laceKids s → (∀ o ∈ s.lace.offers, o.1 ≠ p) →
      ∃ u, exec (.offer p m) s = .next (laceTry u) ∧
        u.lace = { s.lace with offers := s.lace.offers ++ [(p, fldN m.hdr 192 5, bitB m.hdr 197, fldN m.hdr 224 16)] } ∧
        u.ports = (accepted s p vc m).ports ∧ { u with lace := s.lace, ports := s.ports } = s) ∧
    (Arrives s p 0x24 vc m → mArg m = s.lace.k % 2 ^ 32 → laceRoot s = false → p = s.cm.parent → s.lace.level = none →
      s.lace.missed = false → s.ns ≤ s.lace.k * 100000 + 80000 →
      ∃ s', exec (.set p m) s = .next s' ∧ s'.lace = { s.lace with level := some (fldN m.hdr 192 5) } ∧
        (∀ c ∈ laceKids s, (s.port c).st ≠ .detoured → Sends (accepted s p vc m) s' c 0x24 (mOp0 m)) ∧ s'.gov = s.gov ∧
        s'.tiles = s.tiles ∧ s'.mem = s.mem) ∧
    (Arrives s p 0x24 vc m → mArg m = s.lace.k % 2 ^ 32 → laceRoot s = false → p = s.cm.parent → s.lace.level = none →
      s.lace.missed = false → s.lace.k * 100000 + 80000 < s.ns →
      ∃ s', exec (.set p m) s = .next s' ∧ s'.lace = { s.lace with missed := true } ∧
        s'.gov = { s.gov with laceMiss := sat32 (s.gov.laceMiss + 1) } ∧ s'.tiles = s.tiles ∧ s'.mem = s.mem) ∧
    (let least := (s.lace.offers.map fun o => o.2.1).foldl min s.lace.own
      let missing := (∃ o ∈ s.lace.offers, o.2.2.1 = true) ∨ ∃ c ∈ laceKids s, ∀ o ∈ s.lace.offers, o.1 ≠ c
      let members := 1 + (s.lace.offers.map fun o => o.2.2.2).sum
      let opnd := fun (l : Nat) (b : Bool) => l + (if b then 32 else 0) + members % 2 ^ 16 * 2 ^ 32
      ∀ b : Bool, (b = true ↔ missing) → s.lace.sent = false →
      (laceRoot s = false → s.lace.k * 100000 + 45000 ≤ s.ns → ∃ s', exec .offerTimeout s = .next s' ∧
        s'.lace = { s.lace with sent := true } ∧
        ((s.port s.cm.parent).st ≠ .detoured → Sends s s' s.cm.parent 0x23 (opnd least b)) ∧
        { s' with lace := s.lace, ports := s.ports } = s) ∧
      (laceRoot s = true → s.lace.k * 100000 + 50000 ≤ s.ns → let l := min least (s.lace.lastSet + 4)
        ∃ s', exec .setTimeout s = .next s' ∧ s'.lace = { s.lace with sent := true, level := some l, lastSet := l } ∧
          (∀ c ∈ laceKids s, (s.port c).st ≠ .detoured → Sends s s' c 0x24 (opnd l b)) ∧
          { s' with lace := s.lace, ports := s.ports } = s)) ∧
    (laceRoot s = false → s.lace.level = none → s.lace.missed = false → s.lace.k * 100000 + 80000 ≤ s.ns →
      ∃ s', exec .setMiss s = .next s' ∧ s'.lace = { s.lace with missed := true } ∧
        s'.gov = { s.gov with laceMiss := sat32 (s.gov.laceMiss + 1) } ∧ { s' with lace := s.lace, gov := s.gov } = s) ∧
    (∀ l, s.lace.due = some l → s.pins.mainOn = true → s.rest.st = .awake → s.clk.slot = 0 → levelOp (min l (hardCeil s)) ≠ s.gov.op →
      s.gov.droopHold = none → s.gov.distrust = false →
      ∃ s', exec .levelSwitch s = .next s' ∧ s'.gov.set = l ∧ s'.gov.op = levelOp (min l (hardCeil s)) ∧
        s'.gov.duty = levelDuty (min l (hardCeil s)) ∧ s'.lace.due = none ∧ s'.clk = { s.clk with slot := 0, duty := 0, gap := false } ∧
        s'.tiles = s.tiles ∧ s'.mem = s.mem)

/-- R404 to R406: a TIME from a NODE peer records the time its header frame arrived, its LOCKED bit and index, and where all four
times of the exchange are known its offset and delay beside the last seven; at L_k + 50 µs, once a round, every NODE port that is UP
gets one TIME with this module's index, whether it is LOCKED, and the two timestamps of that port. Sync, Follow_Up and
Delay_Resp of the best time transmitter in the domain and transport chosen are held by their sequence numbers, the response
completes the exchange and its offset stands in TIME_OFFSET_PS; those of any other are not taken. An Announce is kept, the last
of each sender, and one beside a Sync starts ACQUIRING; losing the best Announce in LOCKED is HOLDOVER, the rate kept. The form
of a PTP event and which timestamps TIME carries are the model's (log 63). -/
def Obligations.TimeExchanges : Prop :=
  ∀ (s : State) (p vc seq : Nat) (m : Msg) (fsn : BitVec 16) (msg : PtpMsg) (a : PtpAnn) (sent : Int), Canon s →
    (∀ at_, Arrives s p 0x25 vc m → p ∈ nodePorts s → stampOf (s.port p) fsn = some at_ →
      ∃ u, exec (.time p m fsn) s = .next (followNode u) ∧ (u.port p).timeRx = at_ ∧
      (let t1 := if (s.port p).timeTxK = s.lace.k then (s.port p).timeTx1 else (s.port p).timeTx
        let t2 : DWord := BitVec.ofNat 64 (mOp1 m); let t3 : DWord := BitVec.ofNat 64 (mOp0 m); let t4 := (s.port p).timeRx
        t1 ≠ 0 → t2 ≠ 0 → t3 ≠ 0 → t4 ≠ 0 → (u.port p).exch =
          (((t4 - t1).toInt - (t3 - t2).toInt, ((t2 - t1).toInt + (t3 - t4).toInt) / 2) :: (s.port p).exch).take 8) ∧
      (u.port p).peerLocked = bitB m.hdr 163 ∧ (u.port p).peerIdx = fldN m.hdr 160 3 ∧ u.tm = s.tm ∧ { u with ports := s.ports } = s) ∧
    (s.bound = true → s.lace.timeSent = false → s.lace.k * 100000 + 50000 ≤ s.ns → ∃ s', exec .timeSend s = .next s' ∧
      (∀ q ∈ nodePorts s, portUp s q = true → ∃ t, (s'.port q).outq = (s.port q).outq ++ [(15, t)] ∧ mOpc t = 0x25 ∧
        mOp0 t = (s.port q).timeTx.toNat ∧ mOp1 t = (s.port q).timeRx.toNat ∧
        mArg t = s.self % 8 + (if s'.tm.st = .locked then 8 else 0)) ∧
      (∀ q, q ∉ nodePorts s ∨ portUp s q = false → s'.port q = s.port q) ∧ s'.lace = { s.lace with timeSent := true } ∧
      s'.tm.now = s.tm.now ∧ { s' with ports := s.ports, lace := s.lace, tm := s.tm, free := s.free } = s) ∧
    (ptpFrom s msg = true → let begins := s.tm.st = .free ∨ s.tm.st = .holdover
      ∃ s', exec (.ptpSync msg) s = .next s' ∧ OnlyTime s s' { s.tm with
        sync := some (msg.seq, if msg.twoStep then msg.correction else msg.origin + msg.correction, msg.arrival)
        waitFollow := msg.twoStep, st := if begins then .acquiring else s.tm.st, good := if begins then 0 else s.tm.good }) ∧
    (ptpFrom s msg = false → exec (.ptpSync msg) s = .next s ∧ exec (.ptpFollowUp msg) s = .next s ∧
      exec (.ptpDelayResp msg) s = .next s) ∧
    (∀ c t2, ptpFrom s msg = true → s.tm.waitFollow = true → s.tm.sync = some (msg.seq, c, t2) →
      ∃ s', exec (.ptpFollowUp msg) s = .next s' ∧ OnlyTime s s' { s.tm with
        sync := some (msg.seq, c + msg.origin + msg.correction, t2), waitFollow := false }) ∧
    (s.pins.mainOn = true → bitB s.tm.cfg 0 = true → ∃ s', exec (.ptpDelayReq seq sent) s = .next s' ∧
      OnlyTime s s' { s.tm with delayReq := some (seq, sent) }) ∧
    (∀ n t1 t2 t3, ptpFrom s msg = true → s.tm.delayReq = some (msg.seq, t3) → s.tm.sync = some (n, t1, t2) →
      s.tm.waitFollow = false → ∃ s', exec (.ptpDelayResp msg) s = .next s' ∧
        s'.tm.offsetPs = ptpOffset s t1 t2 t3 (msg.origin - msg.correction) * 1000 / 2 ^ 32 ∧ s'.tm.delayReq = none ∧
        s'.tiles = s.tiles ∧ s'.mem = s.mem) ∧
    (ptpTakes s a.domain a.transport = true →
      let known := (s.tm.announced.filter fun o => o.src != a.src) ++ [a]
      let same := (bestAnn known).map (·.src) = (bestAnn s.tm.announced).map (·.src)
      (same → s.tm.sync.isSome = true → s.tm.st = .free → ∃ s', exec (.ptpAnnounce a) s = .next s' ∧
        OnlyTime s s' { s.tm with announced := known, st := .acquiring, good := 0 }) ∧
      (same → s.tm.sync = none → ∃ s', exec (.ptpAnnounce a) s = .next s' ∧ OnlyTime s s' { s.tm with announced := known }) ∧
      (¬ same → ∃ s', exec (.ptpAnnounce a) s = .next s' ∧ OnlyTime s s' { s.tm with
        announced := known, sync := none, waitFollow := false, delayReq := none })) ∧
    (ptpTakes s a.domain a.transport = false → exec (.ptpAnnounce a) s = .next s) ∧
    (let left := s.tm.announced.filter fun o => some o.src != (bestAnn s.tm.announced).map fun a => a.src
      let lost := { s.tm with announced := left, sync := none, waitFollow := false, delayReq := none }
      (s.tm.st = .locked → ∃ s', exec .announceTimeout s = .next s' ∧ OnlyTime s s' { lost with
        st := .holdover, good := 0, residual := 0 }) ∧
      (s.tm.st ≠ .locked → ∃ s', exec .announceTimeout s = .next s' ∧ OnlyTime s s' lost))

/-! ## Boot, trust, faults and bring-up (R399 to R401, R410 to R449, R456 to R467) -/

namespace Sys2Proof.Claims
open Sys2Proof.Machine

/-- The security controller's block has become `t`; nothing else of the block differs. -/
def OnlyTrust (s s' : State) (t : TrustBlk) : Prop := s' = { s with trust := t }

/-- The pins have become `p`; nothing else of the block differs. -/
def OnlyPins (s s' : State) (p : PinBlk) : Prop := s' = { s with pins := p }

/-- The block answered `o` and its security controller otherwise became `t`. -/
def Answers (s s' : State) (o : SpdmOut) (t : TrustBlk) : Prop := OnlyTrust s s' { t with spdmOut := s.trust.spdmOut ++ [o] }

/-- Boot hold: the upstream port enumerates, READY stays 0 (R416). -/
def Held (s' : State) : Prop := s'.pins.phase = .bootHold ∧ s'.pins.faultN = true ∧ s'.host.ready = false

/-- Every register outside the flash, the ledger, the pins and the queue of commands has its Reset value (R462). -/
def AtReset (s' : State) : Prop :=
  { s' with pending := [], free := State.reset.free, trust := State.reset.trust, flt := State.reset.flt, pins := State.reset.pins } =
      State.reset ∧
    { s'.trust with flash := State.reset.trust.flash, draws := State.reset.trust.draws } = State.reset.trust ∧
    { s'.flt with ring := [], next := 0, qlen := 0 } = State.reset.flt

end Sys2Proof.Claims

/-- R412 to R417, R419 to R422: a boot whose secret fails, or whose protected flash does not authenticate under K_RPF,
is boot hold, as is one that finds no bank in order, and one whose board record is not (the firmware measured before).
Every other boot runs: the firmware of the active bank where it is in order, else that of the other bank, and the
newest field copy whose tag is right and which is no older than BR_VER - 1, beside a factory part the vendor signed
with this die's identity key. The module is then up, MEAS[0] to MEAS[3] extended from zero with what ran and MEAS[4]
to MEAS[6] zero; it has an AK, and moves ID_IDX by at most one, a certificate naming the leaf passed. The keys, the
signatures and their functions are opaque (log 5); the order of the bytes measured is the model's (log 5). R375, R416,
R418, R431, R433: within the restart the session, the AK and the ML-KEM key are gone, READY is 0, the staged bank is
active, MEAS[4] to MEAS[6] are cleared and the counters kept; without READY in 500 ms the previous bank runs again,
unless the restart has ended in a hold or a reset (R416). A PLDM update writes the inactive bank; a record whose write
failed is tried again each second, the older copy taking version BR_VER + 1 and its tag before BR_VER rises, which
needs the protected area (R413). That the copy of a failed write holds the new record, and that the failed attempt is
one of the write's last act, is the model's (log 39); so is the order of a copy's bytes under its tag (log 5). -/
def Obligations.BootAndRestartRunFirmware : Prop :=
  (∀ (s : State) (b : BootIn), s.pins.phase = .rails ∨ s.pins.phase = .booting →
     ∃ s', exec (.boot b) s = .next s' ∧ s'.pins.tb = (if s.pins.phase = .rails then some s.ns else s.pins.tb) ∧ s'.tiles = s.tiles ∧
       s'.gangs = s.gangs ∧ s'.stg = s.stg ∧ s'.cm = s.cm ∧
       let f := s.trust.flash
       let cur := if f.active1 then f.bank1 else f.bank0
       let alt := if f.active1 then f.bank0 else f.bank1
       let runs := fun p => fwOk s p = true ∧ (cur = some p ∨ (∀ x, cur = some x → fwOk s x = false) ∧ alt = some p)
       let signed := vendorOk f (beatBytes f.factory.idPubkey ++ f.factory.idCert ++ f.factory.rest) f.factory.sig = true ∧
         f.factory.idPubkey = Config.xmssPub identityKey
       let good := fun (c : FieldRec) => tagOk c = true ∧ (c.ver = f.brVer.toNat ∨ c.ver + 1 = f.brVer.toNat)
       let picks := fun c => (c = f.copyA ∧ good c ∧ (good f.copyB → f.copyB.ver ≤ c.ver)) ∨
         (c = f.copyB ∧ good c ∧ (good f.copyA → f.copyA.ver < c.ver))
       let starts := b.pufOk = true ∧ f.rpfKey = kRpf
       let hash := fun (x d : Beat) => Config.shake256 (beatBytes x ++ beatBytes d)
       (¬ starts → Held s' ∧ s'.trust = { s.trust with restartAt := none }) ∧
       (starts → (∀ p, ¬ runs p) → Held s' ∧ s'.trust = { s.trust with restartAt := none }) ∧
       (∀ p, starts → runs p → ¬ (signed ∧ ∃ c, picks c) → Held s' ∧
         SMap.get 0 s'.trust.meas 0 = hash 0 (pkgComp p 0) ∧ SMap.get 0 s'.trust.meas 3 = hash 0 (pkgComp p 2)) ∧
       (∀ p c, starts → runs p → signed → picks c →
         s'.pins.phase = .up ∧ s'.pins.faultN = false ∧ s'.trust.fwVersion = pkgVersion p ∧ s'.trust.fwSvn = pkgSvn p ∧
         s'.trust.phyOk = true ∧ (cur ≠ some p → s'.trust.flash.active1 = !f.active1) ∧
         SMap.get 0 s'.trust.meas 0 = hash 0 (pkgComp p 0) ∧ SMap.get 0 s'.trust.meas 1 = hash 0 (pkgComp p 1) ∧
         SMap.get 0 s'.trust.meas 2 = hash (hash 0 (Config.shake256 (factoryBytes f.factory))) (Config.shake256 (fieldBytes c)) ∧
         SMap.get 0 s'.trust.meas 3 = hash 0 (pkgComp p 2) ∧ (∀ j, 4 ≤ j → SMap.get 0 s'.trust.meas j = 0) ∧
         s'.trust.ak.isSome = true ∧
         (s.trust.ak.isSome = true → s'.trust.flash.idIdx = f.idIdx) ∧
         (s.trust.ak = none → b.rpfRead = true → b.rpfInc = true → f.idIdx.toNat < 65536 →
           s'.trust.flash.idIdx = f.idIdx + 1 ∧ s'.trust.idLeaf = f.idIdx.toNat) ∧
         (s.trust.ak = none → b.rpfRead = true → 65536 ≤ f.idIdx.toNat → s'.trust.idExhausted = true ∧ s'.trust.akCert = [] ∧
           s'.trust.flash.idIdx = f.idIdx) ∧
         (s.trust.ak = none → b.rpfRead = false → s'.trust.idFail = true ∧ s'.trust.akCert = [] ∧ s'.trust.flash.idIdx = f.idIdx))) ∧
  (∀ (s : State) (fw : FwPkg) (ok : Bool),
     (s.trust.restartDue = true → s.pins.phase = .up → ∃ s', exec .firmwareRestart s = .next s' ∧ s'.pins = { s.pins with phase := .booting } ∧
       s'.host.ready = false ∧ s'.trust.ak = none ∧ s'.trust.kem = none ∧ s'.trust.session = none ∧ s'.trust.jobKeys = none ∧
       s'.trust.spdm = [] ∧ (SMap.wf 0 s.trust.meas = true → ∀ j, j = 4 ∨ j = 5 ∨ j = 6 → SMap.get 0 s'.trust.meas j = 0) ∧
       s'.trust.flash = { s.trust.flash with active1 := !s.trust.flash.active1 } ∧ s'.flt.ring = s.flt.ring ∧
       s'.tiles = s.tiles ∧ s'.gangs = s.gangs ∧ s'.stg = s.stg ∧ s'.ports = s.ports) ∧
     (∀ t, s.trust.restartAt = some t → t + 500000000 ≤ s.ns → s.host.ready = false → s.pins.phase = .up ∨ s.pins.phase = .booting →
       ∃ s', exec .stagedFirmwareTimeout s = .next s' ∧ s' = { s with
         trust := { s.trust with restartAt := none, flash := { s.trust.flash with active1 := !s.trust.flash.active1 } }
         pins := { s.pins with phase := .booting } }) ∧
     (s.pins.phase ≠ .up → s.pins.phase ≠ .booting → exec .stagedFirmwareTimeout s = .next s) ∧
     ((s.pins.phase = .up ∨ s.pins.phase = .bootHold) → stageHolds s = false →
       ∃ s' f, exec (.pldmFirmwareUpdate fw ok) s = .next s' ∧ OnlyTrust s s' { s.trust with
         staged := ok && fwOk s fw, pldmHolds := if ok then fwOk s fw else s.trust.pldmHolds, flash := f } ∧
         f = (if ok = false then s.trust.flash else if s.trust.flash.active1 then { s.trust.flash with bank0 := some fw }
           else { s.trust.flash with bank1 := some fw })) ∧
     (s.trust.boardDirty = true → s.trust.boardAt + 1000000000 ≤ s.ns →
       let f := s.trust.flash
       let b : FieldRec := { s.trust.board with ver := f.brVer.toNat + 1 }
       let r : FieldRec := { b with tag := (kdf 256 kBr (fieldBytes b) "ZT-B4480 FIELD").setWidth 256 }
       ∃ f', (if olderA f then f' = { f with copyA := r } else f' = { f with copyB := r }) ∧
         (f.copyA.ver ≤ f.brVer.toNat → f.copyB.ver ≤ f.brVer.toNat → (olderA f = true ↔ f.copyA.ver ≤ f.copyB.ver)) ∧
         (f.rpfKey = kRpf → f.brVer ≠ 0xFFFFFFFF → ∃ s', exec (.boardRecordRetry true) s = .next s' ∧
           OnlyTrust s s' { s.trust with board := r, boardDirty := false, flash := { f' with brVer := f.brVer + 1 } }) ∧
         (∀ ok, ok = false ∨ f.rpfKey ≠ kRpf → ∃ s', exec (.boardRecordRetry ok) s = .next s' ∧
           s'.trust = { s.trust with boardAt := s.ns, flash := f' } ∧ { s' with trust := s.trust, flt := s.flt } = s)))

/-- R332, R416, R421, R423, R432: the responder answers GET_VERSION also in boot hold and every other request in service; MEAS[j] unsigned; sessions under
filled slots; EVIDENCE one record of 10,412 bytes under the nonce, one AK leaf used and none after leaf 1,023; a PSK that decapsulates
and authenticates fills its slot, where the protected area authenticates (R413), a filled slot only inside a session under it, and
otherwise the answer is an error; IDE_KM inside a session.
What DSP0274 adds (log 40) and how a PSK is packed under the decapsulated secret (log 56) are the model's choices. -/
def Obligations.SpdmRequestsAnswered : Prop :=
  ∀ (s : State) (j n slot : Nat) (nonce : BitVec 256) (ct psk tag : List Byte) (cm : Bool),
    (s.pins.phase = .up ∨ s.pins.phase = .bootHold →
      ∃ s', exec .getVersion s = .next s' ∧ Answers s s' .version { s.trust with algs := false }) ∧
    (s.pins.phase = .up →
      (∃ s', exec .getCapabilities s = .next s' ∧ Answers s s' .capabilities s.trust) ∧
      (∃ s', exec (.negotiateAlgorithms true true) s = .next s' ∧ Answers s s' .algorithms { s.trust with algs := true }) ∧
      (s.trust.algs = true → j < 8 → ∃ s', exec (.getMeasurements j) s = .next s' ∧
        Answers s s' (.measurement j (SMap.get 0 s.trust.meas j)) s.trust) ∧
      (s.trust.algs = true → slot < 4 → (SMap.get none s.trust.flash.psk slot).isSome = true →
        ∃ s', exec (.pskExchange slot) s = .next s' ∧ Answers s s' (.pskRsp s.trust.nextSpdm) { s.trust with
          nextSpdm := s.trust.nextSpdm + 1, spdm := s.trust.spdm ++ [⟨s.trust.nextSpdm, slot, false⟩] }) ∧
      (∀ x, spdmOf s n false = some x → ∃ s', exec (.pskFinish n true) s = .next s' ∧ Answers s s' (.finishRsp n) { s.trust with
        spdm := s.trust.spdm.filter (fun y => y.id != n) ++ [{ x with open_ := true }] }) ∧
      (∀ x, spdmOf s n false = some x → ∃ s', exec (.pskFinish n false) s = .next s' ∧ Answers s s' .error { s.trust with
        spdm := s.trust.spdm.filter fun y => y.id != n }) ∧
      ((spdmOf s n true).isSome = true → ∃ s', exec (.heartbeat n) s = .next s' ∧ Answers s s' (.heartbeatAck n) s.trust) ∧
      ((spdmOf s n true).isSome = true → ∃ s', exec (.endSession n) s = .next s' ∧ Answers s s' (.ended n) { s.trust with
        spdm := s.trust.spdm.filter fun y => y.id != n }) ∧
      (∀ d leaf, s.trust.ak = some (d, leaf) → leaf < 1024 → s.trust.idExhausted = false →
        ∃ s' r, exec (.evidence nonce) s = .next s' ∧ Answers s s' (.evidence r) { s.trust with ak := some (d, leaf + 1) } ∧
          r.length = 10412 ∧ (r.drop 0x20).take 32 = leBytes 32 nonce.toNat ∧ (r.drop 0x50).take 4 = leBytes 4 leaf) ∧
      (∀ d leaf, s.trust.ak = some (d, leaf) → 1024 ≤ leaf → ∃ s', exec (.evidence nonce) s = .next s' ∧ Answers s s' .error s.trust) ∧
      (∀ k, s.trust.kem = some k → slot < 4 →
        (SMap.get none s.trust.flash.psk slot = none ∨ ∃ x, spdmOf s n true = some x ∧ x.slot = slot) →
        let opened := gcmOpen ((Config.kemDecap k ct).setWidth 512) (leBytes 12 0) ct psk tag
        (∀ bs, opened = some bs → bs.length = 64 → s.trust.flash.rpfKey = kRpf →
          ∃ s', exec (.pskProvision slot n ct psk tag) s = .next s' ∧ Answers s s' (.provisioned slot) { s.trust with
            flash := { s.trust.flash with psk := SMap.set none s.trust.flash.psk slot (some (beatOf bs)) } }) ∧
        (opened = none ∨ s.trust.flash.rpfKey ≠ kRpf → ∃ s', exec (.pskProvision slot n ct psk tag) s = .next s' ∧
          Answers s s' .error s.trust)) ∧
      ((SMap.get none s.trust.flash.psk slot).isSome = true → spdmOf s n true = none →
        ∃ s', exec (.pskProvision slot n ct psk tag) s = .next s' ∧ Answers s s' .error s.trust) ∧
      ((spdmOf s n true).isSome = true → ∃ s', exec (.ideKm n cm) s = .next s' ∧ s'.trust = { s.trust with
          spdmOut := s.trust.spdmOut ++ [.ideKm cm] } ∧
        s'.host = { s.host with ideIo := s.host.ideIo || !cm, ideCm := s.host.ideCm || cm } ∧
        { s' with trust := s.trust, host := s.host } = s))

/-- R177 to R179, R438, R440, R441, R443: the core that passes its test joins the spare once; a mismatch after that, or of a pair of which neither passes, is fatal. A failing tile is darned into its
row's spare, or is unavailable and asks for another binding (the row's spare also counts as taken while
a tile of it moves: the model's choice, log 65); the move lasts 54,304 cycles and leaves a readable tile as it
was. A channel fails predictively above 4,096 corrected errors or 16 retrains in an hour, and hard where it no longer
trains or more than 64 of its pages are poisoned; a failing channel is darned while IDLE or UNBOUND with its contents, a failed one into
zeros. The hour's window of the errors is the model's (log 81). -/
def Obligations.TilesChannelsAndCoresDarned : Prop :=
  ∀ (s : State) (pair t ch k : Nat) (c : ChanRep) (ok flashOk : Bool), s.pins.mainOn = true → Canon s →
    (s.flt.coreSpare = false → ∃ s', exec (.lockstepMismatch pair true) s = .next s' ∧
      s'.flt.coreSpare = true ∧ s'.flt.next = s.flt.next + 1 ∧ { s' with flt := s.flt } = s) ∧
    (s.flt.coreSpare = true ∨ ok = false → exec (.lockstepMismatch pair ok) s = .next (fatalFault s 2)) ∧
    (t < 1024 → rowFree s t = true → ∃ s', exec (.tileFaultPredictive t) s = .next s' ∧
      s'.tile t = { s.tile t with failing := true } ∧ { s' with tiles := s.tiles } = s ∧ ∀ u, u ≠ t → s'.tile u = s.tile u) ∧
    (t < 1024 → rowFree s t = true → ∃ s', exec (.tileFaultHard t) s = .next s' ∧
      s'.tile t = { s.tile t with hardFail := true, failing := (s.tile t).failing || s.flt.darning.isSome } ∧ (s.bound = true → (s.tile t).gang.isSome = true → bitB s'.stg.loc 6 = true) ∧
      { s' with tiles := s.tiles, stg := s.stg } = s ∧ ∀ u, u ≠ t → s'.tile u = s.tile u) ∧
    (t < 1024 → rowFree s t = false → t ∉ s.flt.unavail → ∃ s', exec (.tileFaultPredictive t) s = .next s' ∧
      s'.flt.unavail = s.flt.unavail ++ [t] ∧ s'.flt.rebind = true ∧ s'.mem = s.mem ∧ ∀ u, u ≠ t → s'.tile u = s.tile u) ∧
    (darnDue s t = true → rowSpare s t = true → ∃ s', exec (.tileDarn t ok flashOk) s = .next s' ∧
      s'.flt = { s.flt with darning := some ⟨t, s.clk.cycle + 54304, ok, flashOk⟩ } ∧ s'.mem = s.mem ∧ s'.stg = s.stg ∧
      s'.clk = s.clk) ∧
    (∀ d, s.flt.darning = some d → d.at_ ≤ s.clk.cycle → d.readable = true → ∃ s', exec .darnComplete s = .next s' ∧
      s'.flt.darning = none ∧ s'.flt.darnHold = s.gangList.filter (fun g => (s.gang g).seamAt.isSome) ∧ s'.trust.board.darned = SMap.set 0xFF s.trust.board.darned (d.tile / 32) (d.tile % 32) ∧
      s'.tile d.tile = { s.tile d.tile with failing := false, hardFail := false } ∧ (∀ u, u ≠ d.tile → s'.tile u = s.tile u) ∧
      s'.mem = s.mem ∧ s'.stg = s.stg ∧ s'.clk = s.clk) ∧
    (let worn := 4096 < SMap.get 0 s.flt.chanCe c.ch ∨ 16 < c.retrains;
      (servedBy s c.ch = some k → c.ch ∉ s.flt.chanFailing → worn → exec (.channelFaultPredictive c) s =
        .next { s with flt := { s.flt with chanFailing := s.flt.chanFailing ++ [c.ch] } }) ∧
      (¬ worn → exec (.channelFaultPredictive c) s = .next s)) ∧
    (c.untrained = false → badPages s c.ch ≤ 64 → exec (.channelFaultHard c) s = .next s) ∧
    (servedBy s c.ch = some k → c.untrained = true ∨ 64 < badPages s c.ch → ∃ s', exec (.channelFaultHard c) s = .next s' ∧
      s'.flt.jobDataLost = true ∧ c.ch ∈ s'.flt.chanFailed ∧
      (s.bound = true → bitB s'.stg.loc 6 = true) ∧ { s' with flt := s.flt, stg := s.stg } = s) ∧
    (restful s = true → nextChannel s = some (ch, k) → ∃ s', exec (.channelDarn flashOk) s = .next s' ∧
      s'.trust.board.chan = SMap.set 0xFF s.trust.board.chan k (17 * (k / 16) + 16) ∧
      SMap.get false s'.trust.board.chanSpare (k / 16) = true ∧ s'.tiles = s.tiles ∧ s'.stg = s.stg ∧
      ∀ a, SMap.get 0 s'.mem.dram a =
        if ch ∈ s.flt.chanFailed ∧ a < 0x4000000000 ∧ chanKey a = k then 0 else SMap.get 0 s.mem.dram a)

/-- R266, R297, R399 to R401: Rest invalidates translations, puts GDDR7 in self-refresh with the bands at 0.45 V and CCLK at OP0, memory and tile
state kept but for the accumulators and, in a gang held at EC[0], its fetch buffers and descriptor latches (R174, R207); 1 ms after the wake event the block is awake at slot index 0. A module still in a forced Rest then waits for the
next one (R389). The scrub ends with every near-tier byte
outside the reserve and the kept image 0, one more descriptor done on mover 12 of each die (R255). The rows that wait for one of them go on. -/
def Obligations.RestWakesAndScrubEnds : Prop :=
  ∀ (s : State), Canon s →
    (restDue s = true → ∃ s', exec .restEntry s = .next s' ∧ s'.rest.st = .resting ∧ s'.mem = { s.mem with tlb := [], selfRefresh := true } ∧
      s'.host.hwtCache = [] ∧ s'.gov.op = 0 ∧ s'.gov.rest = true ∧ (∀ b, b < 8 → SMap.get 0 s'.gov.vband b = 450) ∧ s'.stg = s.stg ∧
      s'.ports = s.ports ∧ ∀ t, ((s.tile t).gang.isSome = true → (s'.tile t).acc = []) ∧
        { s'.tile t with acc := (s.tile t).acc, fetch := (s.tile t).fetch, fills := (s.tile t).fills, dl := (s.tile t).dl
                         dlPrev := (s.tile t).dlPrev } = s.tile t ∧
        (∀ g, (s.tile t).gang = some g → (s.gang g).seamAt = none → s.stg.st = .running → (s'.tile t).fetch = [] ∧
          (s'.tile t).fills = [] ∧ (s'.tile t).dl = [] ∧ (s'.tile t).dlPrev = [])) ∧
    (∀ w, s.rest.st = .waking → s.rest.wakeAt = some w → w + 1000000 ≤ s.ns → ∃ u, exec .wakeEnd s =
        .next (copiesGo (resumeRequests (retryWaiting (wakeGangs (if s.pre.saved then u else applyHeld u))))) ∧
      u.rest = { s.rest with st := if s.rest.forced then .pending else .awake, wakeAt := none } ∧ u.clk = { s.clk with slot := 0, duty := 0, gap := false } ∧
      u.mem = { s.mem with selfRefresh := false } ∧ u.gov.rest = false ∧ u.gov.op = levelOp (min s.gov.set (hardCeil s)) ∧
      u.tiles = s.tiles ∧ u.gangs = s.gangs ∧ u.stg = s.stg) ∧
    (s.mem.scrub = true → ∃ u, exec .scrubComplete s = .next (retryWaiting u) ∧ u.mem.scrub = false ∧ { u with mem := s.mem, movers := s.movers } = s ∧
      (∀ m, u.mover m = if m = 12 ∨ m = 28 then { s.mover m with done := sat32 ((s.mover m).done + 1) } else s.mover m) ∧
      ∀ a, SMap.get 0 u.mem.dram a = if a < 0x4000000000 ∧ inReserve (logOff s a) = false ∧ inKept s (logOff s a) = false then 0 else SMap.get 0 s.mem.dram a)

/-- R447, R449, R457, R458, R460, R462 to R467: a power-on brings every register to its Reset value, the flash kept, the ledger kept where the standby
rail stayed; the loss of AUX_12V loses it. An asserted MOD_RESET_N freezes the gangs, erases the keys and turns the main rails off; its
deassertion powers the module on, after a flush still in progress.
The main sequence, from 10 ms of AUX_12V within its limits, brings the rails up with the bands at 0.52 V, or fails, once and once
more after 1 s. VIN48 above its warning limit is reported at most once a second. When AUX_12V came within its limits, and the numbers of
what stands at the pins, are the model's (logs 4, 14, 67 and 76), as is when FAULT_N is deasserted (log 64). -/
def Obligations.PowerComesAndGoes : Prop :=
  ∀ (s : State),
    (s.pins.phase = .unpowered → ∃ s', exec .powerOn s = .next s' ∧ AtReset s' ∧ s'.trust.flash = s.trust.flash ∧ s'.flt.ring = [] ∧
      s'.pins.phase = (if s.pins.modReset then .inReset else .standby) ∧ s'.pins.mgmtMode = s.pins.strapMode ∧
      s'.pins.smbAddr = s.pins.strapAddr ∧ s'.pins.palert = s.pins.palert ∧ s'.pending = s.pending) ∧
    (s.pins.phase ≠ .unpowered → ∃ s', exec .aux12vLoss s = .next s' ∧ AtReset s' ∧ s'.flt.ring = [] ∧ s'.pins.phase = .unpowered ∧
      s'.pins.mainOn = false ∧ s'.pending = s.pending ∧
      { s'.trust.flash with ledger := none } = { s.trust.flash with ledger := none }) ∧
    (s.pins.modReset = false → s.pins.phase ≠ .unpowered → s.pins.mainOn = true → ∃ s', exec .modResetAssert s = .next s' ∧
      s'.pins = { s.pins with modReset := true, phase := .inReset, mainOn := false, tb := none, farPerst := true
                              farRefclk := false } ∧ s'.gov.vband = [] ∧ s'.cm.key = 0 ∧ s'.trust.ak = none ∧
      s'.trust.kem = none ∧ s'.host.ready = false ∧
      (∀ g, g ∈ s.gangList → (s'.gang g).frozen = true) ∧ s'.trust.session = none ∧ s'.trust.jobKeys = none ∧
      s'.trust.fabricKey = none ∧ s'.flt.ring = s.flt.ring ∧ s'.tiles = s.tiles ∧ s'.mem = s.mem) ∧
    (s.pins.modReset = false → s.pins.phase = .unpowered →
      exec .modResetAssert s = .next { s with pins := { s.pins with modReset := true } }) ∧
    (s.pins.modReset = true → flushing s = true ∨ s.pins.phase ≠ .inReset →
      exec .modResetDeassert s = .next { s with pins := { s.pins with modReset := false } }) ∧
    (s.pins.modReset = true → s.pins.phase = .inReset → flushing s = false → ∃ s', exec .modResetDeassert s = .next s' ∧ AtReset s' ∧
      s'.trust.flash = s.trust.flash ∧ s'.flt.ring = s.flt.ring ∧ s'.flt.next = s.flt.next ∧ s'.pins.phase = .standby ∧
      s'.pins.modReset = false ∧ s'.pending = s.pending) ∧
    (s.pins.phase = .standby → s.ns < s.pins.auxDue → ∀ fails, exec (.mainSequence fails) s = .next s) ∧
    (s.pins.phase = .standby → s.pins.modReset = false → s.pins.auxDue ≤ s.ns → ∃ s', exec (.mainSequence false) s = .next s' ∧
      s'.pins = { s.pins with mainOn := true, faultN := false, phase := .rails } ∧
      (∀ b, b < 8 → SMap.get 0 s'.gov.vband b = 520) ∧ { s' with gov := s.gov, pins := s.pins } = s) ∧
    (s.pins.phase = .standby → s.pins.modReset = false → s.pins.auxDue ≤ s.ns → s.pins.seqFails = 0 → ∃ s', exec (.mainSequence true) s = .next s' ∧
      OnlyPins s s' { s.pins with mainOn := false, faultN := true, seqFails := 1, seqAt := s.ns, phase := .seqRetry }) ∧
    (s.pins.phase = .seqRetry → s.pins.seqAt + 1000000000 ≤ s.ns → ∃ s', exec (.sequenceRetry false) s = .next s' ∧
      s'.pins = { s.pins with mainOn := true, faultN := false, phase := .rails } ∧ { s' with gov := s.gov, pins := s.pins } = s) ∧
    (s.pins.phase = .seqRetry → s.pins.seqAt + 1000000000 ≤ s.ns → s.pins.seqFails = 1 → ∃ s', exec (.sequenceRetry true) s = .next s' ∧
      OnlyPins s s' { s.pins with mainOn := false, faultN := true, seqFails := 2, seqAt := s.ns, phase := .seqFailed }) ∧
    (s.pins.tb = none → s.pins.phase = .rails ∨ s.pins.phase = .seqRetry → ∃ s', exec .mainInputLoss s = .next s' ∧
      OnlyPins s s' { s.pins with mainOn := false, phase := .standby }) ∧
    (∀ t, s.pins.tb = some t → s.pins.mainOn = true →
      (s.pins.vinWarnAt = none ∨ (∃ w, s.pins.vinWarnAt = some w ∧ w + 1000000000 ≤ s.ns) → exec .vin48WarningTick s =
        .next { s with pins := { s.pins with vinWarnAt := some s.ns }, flt := { s.flt with pldm := s.flt.pldm ++ [.vinWarning] } }) ∧
      (∀ w, s.pins.vinWarnAt = some w → s.ns < w + 1000000000 → exec .vin48WarningTick s = .next s)) ∧
    (s.pins.phase = .up → s.pins.full = false → ∃ u, exec .fullReadiness s = .next (retryWaiting u) ∧
      u = { s with flt := { s.flt with pldm := s.flt.pldm ++ [.fullReadiness] }, pins := { s.pins with full := true } })

/-- R435, R449: every fatal fault adds its entry, freezes every gang, clears READY, erases the keys, gives up a firmware restart in progress, writes the ring to the flash
and sends its PLDM event; the module is then in fatal hold with FAULT_N asserted, and a thermal trip has turned the power off. -/
def Obligations.FatalFaultHoldsModule : Prop :=
  ∀ (s : State) (c : Instr) (n t : Nat), s.pins.mainOn = true → s.pins.tb = some t → s.flt.ring.length < 65536 →
    (c, n) ∈ ([(.thermalTrip, 1), (.securitySelfTestFail, 3), (.vin48Fault, 4)] : List (Instr × Nat)) →
    ∃ s', exec c s = .next s' ∧ (∃ e ∈ s'.flt.ring, fldN e 48 4 = 3 ∧ fldN e 64 64 = s.ns % 2 ^ 64 ∧ fldN e 128 16 = 0x0F01 ∧ fldN e 192 64 = n) ∧
      bitB s'.host.intStatus 4 = true ∧ (∀ g, g ∈ s.gangList → (s'.gang g).frozen = true) ∧ s'.host.ready = false ∧
      s'.trust.session = none ∧ s'.trust.jobKeys = none ∧ s'.trust.fabricKey = none ∧ s'.cm.key = 0 ∧
      s'.trust.restartAt = none ∧ s'.trust.flash.ledger = some (s'.flt.ring, BitVec.ofNat 64 (s.flt.next + 1), BitVec.ofNat 64 s.ns, true) ∧
      s'.flt.pldm = s.flt.pldm ++ [.fatal n] ∧ s'.pins.phase = .fatalHold ∧ s'.pins.faultN = true ∧
      s'.pins.mainOn = decide (n ≠ 1) ∧ s'.tiles = s.tiles ∧ s'.stg = s.stg

/-! ## The block as a whole -/

namespace Sys2Proof.Claims
open Sys2Proof.Machine

/-- A state in good order: memories and indexed parts in canonical form, the ledger ring within its size. -/
def GoodOrder (s : State) : Prop := Canon s ∧ RingOk s

/-- A magnitude that grid `g` represents, its exponents unbounded upward. -/
def OnGrid (g : Grid) (x : Rat) : Prop := ∃ (k : Nat) (e : Int), g.emin ≤ e ∧ k < 2 ^ (g.fb + 1) ∧ x = k * pow2 (e - g.fb)

/-- The rungs that the raise lists of gang `g`'s tiles hold for ladder entry `n` (R108, R110). -/
def raisedRungs (s : State) (g n : Nat) : List Nat :=
  (((s.tiles.filter fun e => e.2.gang == some g).flatMap fun e => e.2.raises).filter fun r => r.entry == n).map (·.rung)

end Sys2Proof.Claims

/-- Logs 1, 15: a step runs the command at the front of the queue on the block with the queue's rest; on an empty queue one
cycle passes, or nothing where the block has no power. -/
def Obligations.StepRunsFrontCommand : Prop :=
  ∀ (c : Instr) (s : State) (rest : List Instr),
    step { s with pending := c :: rest } = exec c { s with pending := rest } ∧
    step { s with pending := [] } = .next (tick { s with pending := [] }) ∧
    (s.pins.phase = .unpowered → step { s with pending := [] } = .next { s with pending := [] })

/-- Log 2: every command answers a next state in every state, and none touches the commands that wait behind it. -/
def Obligations.EveryCommandAnswers : Prop :=
  ∀ (c : Instr) (s : State), ∃ s', exec c s = .next s' ∧ s'.pending = s.pending

/-- R444, logs 4, 17: every step of a state in good order leaves one: memory and every indexed part in canonical form, the ledger
ring and its flash copy at most 65,536 entries long. -/
def Obligations.StepKeepsGoodOrder : Prop :=
  ∀ (s s' : State), GoodOrder s → step s = .next s' → GoodOrder s'

/-- R413, R416, R418, R419: no step lowers ID_IDX, FW_FLOOR or BR_VER, and no step takes back a draw of the TRNG or a free value.
The counters of draws are the model's own (logs 3 and 5). -/
def Obligations.CountersNeverDecrease : Prop :=
  ∀ (s s' : State), step s = .next s' →
    s.trust.flash.idIdx ≤ s'.trust.flash.idIdx ∧ s.trust.flash.fwFloor ≤ s'.trust.flash.fwFloor ∧
      s.trust.flash.brVer ≤ s'.trust.flash.brVer ∧ s.trust.draws ≤ s'.trust.draws ∧ s.free ≤ s'.free

/-- R118, R213, R267, R302, R303, R330, R340, R382, R385, R403, R407, R422: the block after reset is in good order, with an empty queue, and its registers hold the Reset values of
their chapters.
The values of empty memory and of registers whose Reset column gives none are the model's choices (logs 4 and 14). -/
def Obligations.ResetValues : Prop :=
  let s := State.reset
  GoodOrder s ∧ s.pending = [] ∧ s.stg.st = .unbound ∧ s.stg.step = 0 ∧ s.stg.loc = 0 ∧ s.stg.verdict = 0 ∧ s.stg.commits = 0 ∧
    s.pc.ctrl = 0x91 ∧ s.pc.thA = 0x03000400 ∧ s.pc.thB = 0x01000200 ∧ s.pc.thC = 0x80 ∧ s.pc.grad = 0x0C ∧
    s.gov.ctrl = 0x798 ∧ s.gov.cap = 1650000 ∧ s.gov.bmcCap = 2000000 ∧ s.gov.effCap = 1650000 ∧ s.tm.incr = 0x280000000 ∧
    s.mem.farLimit = 2000 ∧ s.mem.hwinLimit = 1000 ∧ s.cm.roundTimeout = 10000 ∧ s.fab.laneLimit = 0x400 ∧
    (∀ t, s.tile t = {}) ∧ (∀ p, (s.port p).st = .off) ∧ (∀ q, (s.sq q).cfg = 4 ∧ (s.sq q).en = false ∧ (s.cq q).cfg = 4) ∧
    (∀ a, SMap.get 0 s.mem.dram a = 0) ∧ (∀ j, SMap.get 0 s.trust.meas j = 0) ∧ s.host.ready = false ∧ s.flt.ring = [] ∧
    s.clk.cycle = 0 ∧ s.pins.phase = .standby

/-- R185 to R187: the word written for a thread instruction decodes, for its tile and thread, to that instruction, whatever its
registers, immediates and fields. -/
def Obligations.ThreadWordsRoundTrip : Prop :=
  ∀ (i : Instr) (t th : Nat) (w : BitVec 64), encodeThread i = some (t, th, w) → decodeThread t th w = some i

/-- R186, R187: words written out from the format tables decode as they say: ADD S3, S1, S2; ADDI S4, S5, −1; BEQ S1, S2 to 0x40;
WAIT on EC[7] for S2 + 5; SIGNAL EC[9] by 3; SEAM mark 0x8000_0001, table set 2; SEND from S6 of three flits to port 1; reserved bits are
ignored and reserved opcodes refused. -/
def Obligations.ThreadWordsDecode : Prop :=
  decodeThread 5 1 0x0000000000021301 = some (.add 5 1 3 1 2) ∧
  decodeThread 5 1 0xFFF0000000021301 = some (.add 5 1 3 1 2) ∧
  decodeThread 5 1 0x000FFFFFFFF05410 = some (.addi 5 1 4 5 0xFFFFFFFF) ∧
  decodeThread 5 1 0x0000000004021023 = some (.beq 5 1 1 2 0x40) ∧
  decodeThread 5 1 0x0000000500702030 = some (.wait 5 1 2 7 5) ∧
  decodeThread 5 1 0x0000000030900031 = some (.signal 5 1 9 3) ∧
  decodeThread 5 1 0x0028000000100033 = some (.seam 5 1 0x80000001 2) ∧
  decodeThread 5 1 0x0000009100106045 = some (.send 5 1 { sa := 6, phase := 1, cnt := 16, port := 1, nflit := 2 }) ∧
  (∀ op ∈ ([0x00, 0x0C, 0x14, 0x29, 0x34, 0x47, 0xFF] : List Nat), decodeThread 5 1 (BitVec.ofNat 64 op) = none)

/-- R110, R113, R171. In the cycle after it takes its seam a gang's tiles' raise lists are applied and emptied: each entry they name takes the largest rung raised, never past
CEIL, with RAISED set and CLEAN and RECORDS cleared; the gang's other valid entries lose RAISED; entries of other gangs stand. At a step commit an
entry that is not job-wide, with RELAX and a RUNG above BASE, counts the step in CLEAN or clears it where a request named
the entry, and at RELAX steps falls one rung; without one of these its RUNG and CLEAN stand. -/
def Obligations.LadderMovesAtSeamAndCommit : Prop :=
  ∀ (s : State) (g n : Nat), SMap.wf {} s.pc.ladder = true →
    (∀ t0, (s.gang g).seamAt = some t0 → s.clk.cycle = t0 + 1 → Canon s →
      let u := seamCycle s g
      (∀ t, (s.tile t).gang = some g → (u.tile t).raises = []) ∧
        let l := s.ladder n
        u.ladder n = if raisedRungs s g n = [] then { l with raised := l.raised && !(l.valid && l.gang == g) }
          else { l with rung := (raisedRungs s g n).foldl (fun m r => max m (min r l.ceil)) l.rung, raised := true, clean := 0
                        records := 0 }) ∧
    (∀ a, s.refMode = false → (s.ladder n).valid = true → (s.ladder n).jobwide = false → (s.ladder n).clean < 255 →
      let l := s.ladder n
      let c := if n ∈ s.pc.named then 0 else l.clean + 1
      let falls := l.relax ≠ 0 ∧ l.base < l.rung
      let t := (doCommit s a).ladder n
      t.rung = (if falls ∧ l.relax ≤ c then l.rung - 1 else l.rung) ∧
        t.clean = (if falls then (if l.relax ≤ c then 0 else c) else l.clean) ∧ t.raised = l.raised)

/-- R439: while FLT_STATUS.REBIND is 1, STEP_RUN and RESUME complete with status 0x0103 and do nothing else. -/
def Obligations.RebindStopsSteps : Prop :=
  ∀ (s : State) (q : Nat) (e : BitVec 2048), s.flt.rebind = true →
    (Offered s q e 0x0220 → Runs s q e (.stepRun q e) fun u => complete u q 0x0103 0 0) ∧
    (Offered s q e 0x0222 → Runs s q e (.resume q e) fun u => complete u q 0x0103 0 0)

/-- R53, R54: round to nearest even gives a magnitude of the grid no farther than any other, and at a tie an even multiple of the step there;
round toward zero gives the largest magnitude of the grid not above the input's; each stochastic rounding gives one of the two
neighbours, and a magnitude of the grid is its own rounding. -/
def Obligations.RoundingGivesNeighbours : Prop :=
  ∀ (g : Grid) (m : Rat), 0 ≤ m →
    (∀ mode, OnGrid g (roundMag g mode m) ∧ (OnGrid g m → roundMag g mode m = m)) ∧
    (∀ y, OnGrid g y → |roundMag g .rne m - m| ≤ |y - m| ∧
      (|y - m| = |roundMag g .rne m - m| → y ≠ roundMag g .rne m → ∃ k : Int, roundMag g .rne m = 2 * k * gridStep g m)) ∧
    roundMag g .rtz m ≤ m ∧ (∀ y, OnGrid g y → y ≤ m → y ≤ roundMag g .rtz m) ∧
    (∀ n r, roundMag g (.sr n r) m = roundMag g .rtz m ∨
      (m < roundMag g (.sr n r) m ∧ ∀ y, OnGrid g y → m ≤ y → roundMag g (.sr n r) m ≤ y))

/-- R313: two words added to a digest at any positions may be added in either order, adding a word twice takes it back, and the digest
is linear over exclusive or: what two members' digests hold, their exclusive or holds. -/
def Obligations.DigestAddsInAnyOrder : Prop :=
  ∀ (d e k : DWord) (salt p q : Nat) (v w : DWord),
    digestAdd (digestAdd d k salt p v) k salt q w = digestAdd (digestAdd d k salt q w) k salt p v ∧
    digestAdd (digestAdd d k salt p v) k salt p v = d ∧
    digestAdd d k salt p v ^^^ digestAdd e k salt p w = d ^^^ e ^^^ gmul (v ^^^ w) (gpow k ((p + 1) % 2 ^ 64))
end

