-- ==== Sys2Proof/Laws/Fields.lean ====
section
/-! SUPPORT. Fields of words, and the authenticated ciphertext that opens to what was sealed. -/

namespace Sys2Proof.Machine

theorem place_getLsbD (w lo v i : Nat) : (place w lo v).getLsbD i = (decide (i < w) && (decide (lo ≤ i) && v.testBit (i - lo))) := by
  rw [place, BitVec.getLsbD_ofNat, Nat.testBit_mul_two_pow]

/-- A bit of a field is that of the value stored, any other bit that of the word. -/
theorem setFld_getLsbD {w : Nat} (x : BitVec w) (lo len v i : Nat) (hi : i < w) :
    (setFld x lo len v).getLsbD i = if lo ≤ i ∧ i < lo + len then v.testBit (i - lo) else x.getLsbD i := by
  simp only [setFld, BitVec.getLsbD_or, BitVec.getLsbD_and, BitVec.getLsbD_not, place_getLsbD, hi, Nat.testBit_mod_two_pow,
    Nat.testBit_two_pow_sub_one]
  by_cases h1 : lo ≤ i
  · by_cases h2 : i < lo + len
    · simp [h1, h2, show i - lo < len by omega]
    · simp [h2, show ¬ i - lo < len by omega]
  · simp [h1]

/-- Storing a field and reading it back. -/
theorem fldN_setFld {w : Nat} (x : BitVec w) (lo len v : Nat) (h : lo + len ≤ w) : fldN (setFld x lo len v) lo len = v % 2 ^ len := by
  rw [fldN, show v % 2 ^ len = (BitVec.ofNat len v).toNat from (BitVec.toNat_ofNat v len).symm]
  congr 1
  apply BitVec.eq_of_getLsbD_eq
  intro i hi
  rw [BitVec.getLsbD_extractLsb', setFld_getLsbD _ _ _ _ _ (by omega), BitVec.getLsbD_ofNat]
  simp [hi]

/-- Storing a field leaves a field beside it. -/
theorem fldN_setFld_other {w : Nat} (x : BitVec w) (lo len v lo' len' : Nat) (h : lo' + len' ≤ lo ∨ lo + len ≤ lo') :
    fldN (setFld x lo len v) lo' len' = fldN x lo' len' := by
  unfold fldN
  congr 1
  apply BitVec.eq_of_getLsbD_eq
  intro i hi
  rw [BitVec.getLsbD_extractLsb', BitVec.getLsbD_extractLsb']
  by_cases hw : lo' + i < w
  · rw [setFld_getLsbD _ _ _ _ _ hw, if_neg (by omega)]
  · rw [BitVec.getLsbD_of_ge _ _ (by omega), BitVec.getLsbD_of_ge _ _ (by omega)]

theorem bitB_setFld_other {w : Nat} (x : BitVec w) (lo len v i : Nat) (hi : i < w) (h : i < lo ∨ lo + len ≤ i) :
    bitB (setFld x lo len v) i = bitB x i := by
  rw [bitB, setFld_getLsbD _ _ _ _ _ hi, if_neg (by omega), bitB]

/-- A ciphertext opens where its tag is that of the key, nonce and associated data, and not otherwise. -/
theorem gcmOpen_tag (k : Beat) (nonce ad ct : List Byte) :
    gcmOpen k nonce ad ct (leBytes 16 (Config.gcmTag k nonce ad ct).toNat) = some (gcmXor k nonce ct) := by
  simp [gcmOpen]

theorem gcmOpen_bad (k : Beat) (nonce ad ct tag : List Byte) (h : tag ≠ leBytes 16 (Config.gcmTag k nonce ad ct).toNat) :
    gcmOpen k nonce ad ct tag = none := by
  simp [gcmOpen, h]

@[simp] theorem gcmXor_length (k : Beat) (nonce bs : List Byte) : (gcmXor k nonce bs).length = bs.length := by simp [gcmXor]

/-- Every ciphertext's own key opens it to the plaintext sealed. -/
theorem gcmOpen_gcmSeal (k : Beat) (nonce ad pt : List Byte) :
    gcmOpen k nonce ad (gcmSeal k nonce ad pt).1 (gcmSeal k nonce ad pt).2 = some pt := by
  have h : gcmXor k nonce (gcmXor k nonce pt) = pt := by
    apply List.ext_getElem
    · simp
    · intro i h1 h2
      simp [gcmXor, h2]
  rw [gcmSeal, gcmOpen_tag, h]

end Sys2Proof.Machine
end

