-- ==== Sys2Proof/Laws/Bytes.lean ====
section
/-! SUPPORT. Bytes of blocks: what a block's parts read as, what is sealed for the host window opens to what it was, and a window
extent's plaintext. -/

namespace Sys2Proof.Machine

/-! ## Little-endian numbers and beats -/

theorem leBytes_leNat (l : List Byte) : leBytes l.length (leNat l) = l := by
  induction l with
  | nil => rfl
  | cons b l ih =>
    have hb := b.isLt
    have h1 : (b.toNat + 256 * leNat l) / 256 = leNat l := by omega
    have h2 : BitVec.ofNat 8 (b.toNat + 256 * leNat l) = b := by
      apply BitVec.eq_of_toNat_eq
      rw [BitVec.toNat_ofNat]
      omega
    rw [leNat, List.length_cons, leBytes, h1, ih, h2]

theorem leNat_lt (l : List Byte) : leNat l < 256 ^ l.length := by
  induction l with
  | nil => simp [leNat]
  | cons b l ih =>
    have hb := b.isLt
    rw [leNat, List.length_cons, Nat.pow_succ']
    omega

/-- The bytes of the beat of 64 bytes. -/
theorem beatBytes_beatOf (l : List Byte) (h : l.length = 64) : beatBytes (beatOf l) = l := by
  have hl := leNat_lt l
  have hw : (256 : Nat) ^ 64 = 2 ^ 512 := by rw [show (256 : Nat) = 2 ^ 8 from rfl, ← Nat.pow_mul]
  rw [h, hw] at hl
  rw [beatBytes, beatOf, List.take_of_length_le (by omega), BitVec.toNat_ofNat, Nat.mod_eq_of_lt hl, ← h, leBytes_leNat]

theorem leBytes_mod (n v : Nat) : leBytes n (v % 256 ^ n) = leBytes n v := by
  have h := leBytes_leNat (leBytes n v)
  rwa [leBytes_length, leNat_leBytes] at h

theorem leBytes_take (n k v : Nat) (h : k ≤ n) : (leBytes n v).take k = leBytes k v := by
  induction n generalizing k v with
  | zero => simp [show k = 0 by omega, leBytes]
  | succ n ih =>
    cases k with
    | zero => simp [leBytes]
    | succ k => rw [leBytes, leBytes, List.take_succ_cons, ih _ _ (by omega)]

theorem leBytes_drop (n k v : Nat) : (leBytes n v).drop k = leBytes (n - k) (v / 256 ^ k) := by
  induction k generalizing n v with
  | zero => simp
  | succ k ih =>
    cases n with
    | zero => simp [leBytes]
    | succ n => rw [leBytes, List.drop_succ_cons, ih, Nat.pow_succ', Nat.div_div_eq_div_mul, Nat.add_sub_add_right]

/-- Bytes `i` to `i + k` of a submission entry are its bits from 8 times `i` on. -/
theorem entBytes_part (e : BitVec 2048) (i k : Nat) (h : i + k ≤ 256) :
    ((entBytes e).drop i).take k = leBytes k (fldN e (8 * i) (8 * k)) := by
  rw [entBytes, leBytes_drop, leBytes_take _ _ _ (by omega), ← leBytes_mod]
  congr 1
  rw [fldN, BitVec.extractLsb'_toNat, Nat.shiftRight_eq_div_pow, Nat.pow_mul, Nat.pow_mul]

/-! ## Submission entries (R345, R363) -/

theorem entBytes_length (e : BitVec 2048) : (entBytes e).length = 256 := leBytes_length ..

/-- The CRC field is not under the CRC. -/
theorem entryCrc_setFld (x : BitVec 2048) (v : Nat) : entryCrc (setFld x 0x1E0 32 v) = entryCrc x := by
  have h1 := entBytes_part (setFld x 0x1E0 32 v) 0 0x3C (by omega)
  have h1' := entBytes_part x 0 0x3C (by omega)
  have h2 := entBytes_part (setFld x 0x1E0 32 v) 0x40 192 (by omega)
  have h2' := entBytes_part x 0x40 192 (by omega)
  rw [fldN_setFld_other _ _ _ _ _ _ (.inl (by omega)), ← h1'] at h1
  rw [fldN_setFld_other _ _ _ _ _ _ (.inr (by omega)), ← h2'] at h2
  rw [List.take_of_length_le (by rw [List.length_drop, entBytes_length]),
    List.take_of_length_le (by rw [List.length_drop, entBytes_length])] at h2
  rw [List.drop_zero, List.drop_zero] at h1
  simp only [entryCrc, h1, h2]

/-- An entry whose CRC field holds its CRC. -/
theorem entryCrc_sealed (x : BitVec 2048) :
    entryCrc (setFld x 0x1E0 32 (entryCrc x).toNat) = fld (setFld x 0x1E0 32 (entryCrc x).toNat) 0x1E0 32 := by
  rw [entryCrc_setFld]
  apply BitVec.eq_of_toNat_eq
  have := fldN_setFld x 0x1E0 32 (entryCrc x).toNat (by omega)
  rw [Nat.mod_eq_of_lt (BitVec.isLt _)] at this
  exact this.symm

/-- The checks of an entry's fields look at nothing from its CRC on. -/
theorem fieldsOk_congr (e e' : BitVec 2048) (hf : ∀ lo len, lo + len ≤ 480 → fldN e lo len = fldN e' lo len)
    (hb : bitB e 33 = bitB e' 33) : fieldsOk e = fieldsOk e' := by
  have hp : fld e 0x100 224 = fld e' 0x100 224 := BitVec.eq_of_toNat_eq (hf 0x100 224 (by omega))
  unfold fieldsOk
  simp only [entOpcode, entPlen, entResult, entReslen, entRloc, hp, hb, hf 0 16 (by omega), hf 34 6 (by omega), hf 40 8 (by omega),
    hf 96 32 (by omega), hf 224 32 (by omega), hf 48 16 (by omega), hf 128 64 (by omega), hf 192 32 (by omega)]
  rfl

theorem copyOk_congr (s : State) (e e' : BitVec 2048) (hf : ∀ lo len, lo + len ≤ 480 → fldN e lo len = fldN e' lo len) :
    copyOk s e = copyOk s e' := by
  unfold copyOk copySpan
  simp only [entOpcode, entParam, entPlen, hf (8 * 0x20) 64 (by omega), hf (8 * 0x28) 64 (by omega), hf (8 * 0x30) 64 (by omega),
    hf 0 16 (by omega), hf 48 16 (by omega)]
  have : ∀ b : Bool, fldN e (8 * if b = true then 0x28 else 0x38) 32 = fldN e' (8 * if b = true then 0x28 else 0x38) 32 := fun b => by
    cases b
    · exact hf _ _ (by decide)
    · exact hf _ _ (by decide)
  rw [this]
  rfl

/-- A payload of `i` bytes and `k` after them, in its two parts. -/
theorem payload_front (e : BitVec 2048) (i k : Nat) (h : entPlen e = i + k) (hi : i + k ≤ 192 := by omega) :
    (entPayload e).take i = leBytes i (fldN e (8 * 64) (8 * i)) := by
  rw [entPayload, h, List.take_take, Nat.min_eq_left (by omega), entBytes_part e 64 i (by omega)]

theorem payload_back (e : BitVec 2048) (i k : Nat) (h : entPlen e = i + k) (hi : i + k ≤ 192 := by omega) :
    (entPayload e).drop i = leBytes k (fldN e (8 * (64 + i)) (8 * k)) := by
  rw [entPayload, h, List.drop_take, List.drop_drop, Nat.add_sub_cancel_left, entBytes_part e (64 + i) k (by omega)]

/-- A payload of 16 bytes under its own tag opens. -/
theorem inlinePlain_of (s : State) (e : BitVec 2048) (k : Beat) (h : Nat) (js : Beat) (n va : Nat) (hp : entPlen e = 32)
    (hv : entParam e 0x20 64 = va) (hs : s.trust.session = some (h, k, js, n)) {ct : List Byte}
    (hc : (entPayload e).take 16 = ct)
    (ht : (entPayload e).drop 16 = leBytes 16 (Config.gcmTag (kdf 256 k [] "ZT-B4480 INLINE") (leBytes 4 1 ++ leBytes 8 n)
      (leBytes 4 h ++ leBytes 8 va ++ leBytes 2 32) ct).toNat) :
    inlinePlain s e = some (gcmXor (kdf 256 k [] "ZT-B4480 INLINE") (leBytes 4 1 ++ leBytes 8 n) ct) := by
  unfold inlinePlain
  rw [hs]
  simp only [hp, hv, show 32 - 16 = 16 from rfl, hc, ht]
  exact gcmOpen_tag ..

/-! ## Reads of a block -/

@[simp] theorem SMap.getBytes_length (m : SMap Byte) (a n : Nat) : (SMap.getBytes m a n).length = n := by
  induction n generalizing a with
  | zero => rfl
  | succ n ih => simp [SMap.getBytes, ih]

/-- Blocks that read alike over a range have the same bytes there. -/
theorem SMap.getBytes_congr (m m' : SMap Byte) (a b n : Nat) (h : ∀ i, i < n → SMap.get 0 m (a + i) = SMap.get 0 m' (b + i)) :
    SMap.getBytes m a n = SMap.getBytes m' b n := by
  induction n generalizing a b with
  | zero => rfl
  | succ n ih =>
    have h0 : SMap.get 0 m a = SMap.get 0 m' b := h 0 (by omega)
    rw [SMap.getBytes, SMap.getBytes, h0, ih (a + 1) (b + 1) fun i hi => by
      have := h (i + 1) (by omega)
      rw [show a + 1 + i = a + (i + 1) by omega, show b + 1 + i = b + (i + 1) by omega]
      exact this]

theorem SMap.getBytes_getElem? (m : SMap Byte) (a n i : Nat) (h : i < n) :
    (SMap.getBytes m a n)[i]? = some (SMap.get 0 m (a + i)) := by
  induction n generalizing a i with
  | zero => omega
  | succ n ih =>
    rw [SMap.getBytes]
    cases i with
    | zero => rfl
    | succ i => rw [List.getElem?_cons_succ, ih _ _ (by omega), show a + 1 + i = a + (i + 1) by omega]

/-- A byte of a part is that of the block at the part's place. -/
theorem get_slice (m : SMap Byte) (o n k : Nat) (h : k < n) : SMap.get 0 (slice m o n) k = SMap.get 0 m (o + k) := by
  induction m with
  | nil => rfl
  | cons e m ih =>
    unfold slice at ih ⊢
    rw [List.filterMap_cons]
    by_cases he : o ≤ e.1 ∧ e.1 < o + n
    · simp only [he, decide_true, Bool.and_self, if_true, SMap.get]
      by_cases hk : e.1 = o + k
      · rw [if_pos (by omega), if_pos hk]
      · rw [if_neg (by omega), if_neg hk, ih]
    · have hb : (decide (o ≤ e.1) && decide (e.1 < o + n)) = false := by simpa using he
      rw [hb]
      simp only [Bool.false_eq_true, if_false]
      rw [ih, SMap.get, if_neg (by omega)]

/-- A block's front lists what the block lists there. -/
theorem slice_front (m : SMap Byte) (n : Nat) : slice m 0 n = m.filter fun e => decide (e.1 < n) := by
  induction m with
  | nil => rfl
  | cons e m ih =>
    unfold slice at ih ⊢
    rw [List.filterMap_cons, List.filter_cons, ih]
    by_cases h : e.1 < n <;> simp [h]

/-- A part blanked reads 0, every other byte as before. -/
theorem get_zeroed (m : SMap Byte) (o n k : Nat) :
    SMap.get 0 (zeroed m o n) k = if o ≤ k ∧ k < o + n then 0 else SMap.get 0 m k := by
  induction m with
  | nil => simp [zeroed, SMap.get]
  | cons e m ih =>
    unfold zeroed at ih ⊢
    rw [List.filter_cons]
    split
    · rename_i h
      simp only [Bool.or_eq_true, decide_eq_true_eq] at h
      rw [SMap.get, SMap.get, ih]
      by_cases hk : e.1 = k
      · rw [if_pos hk, if_pos hk, if_neg (by omega)]
      · rw [if_neg hk, if_neg hk]
    · rename_i h
      simp only [Bool.or_eq_true, decide_eq_true_eq, not_or] at h
      rw [ih, SMap.get]
      by_cases hk : e.1 = k
      · rw [if_pos (by omega), if_pos (by omega)]
      · rw [if_neg hk]

/-- In canonical form no byte that is listed reads 0. -/
theorem SMap.listed_ne (m : SMap Byte) (h : SMap.wf 0 m = true) : ∀ e ∈ m, SMap.get 0 m e.1 ≠ 0 := by
  induction m with
  | nil => simp
  | cons e m ih =>
    obtain ⟨k, v⟩ := e
    have hc := (SMap.wf_cons 0 k v m).mp h
    intro x hx
    rcases List.mem_cons.mp hx with rfl | hx
    · simpa [SMap.get] using hc.1
    · rw [SMap.get]
      split
      · exact hc.1
      · exact ih hc.2.2 x hx

/-- Blocks in canonical form that read alike are the same. -/
theorem SMap.ext_get (m m' : SMap Byte) (h : SMap.wf 0 m = true) (h' : SMap.wf 0 m' = true)
    (hg : ∀ k, SMap.get 0 m k = SMap.get 0 m' k) : m = m' := by
  induction m generalizing m' with
  | nil =>
    cases m' with
    | nil => rfl
    | cons e m' => exact absurd (hg e.1).symm (SMap.listed_ne _ h' e (by simp))
  | cons e m ih =>
    obtain ⟨k, v⟩ := e
    obtain ⟨hv, hl, hw⟩ := (SMap.wf_cons 0 k v m).mp h
    cases m' with
    | nil => exact absurd (hg k) (by simpa [SMap.get] using hv)
    | cons e' m' =>
      obtain ⟨k', v'⟩ := e'
      obtain ⟨hv', hl', hw'⟩ := (SMap.wf_cons 0 k' v' m').mp h'
      have low : ∀ (n : SMap Byte) (j i : Nat), SMap.lowKeys (j + 1) n → i ≤ j → SMap.get 0 n i = 0 := fun n j i hn hi =>
        SMap.get_of_lowKeys 0 n i fun e he => by have := hn e he; omega
      have g := hg k
      have g' := hg k'
      simp only [SMap.get, if_true] at g g'
      by_cases hlt : k < k'
      · rw [if_neg (by omega), low m' k' k hl' (by omega)] at g
        exact absurd g hv
      · by_cases hgt : k' < k
        · rw [if_neg (by omega), low m k k' hl (by omega)] at g'
          exact absurd g'.symm hv'
        · have hk : k' = k := by omega
          subst hk
          rw [if_pos rfl] at g
          rw [g, ih m' hw hw' fun j => ?_]
          by_cases hj : k' = j
          · subst hj
            rw [low m k' k' hl (by omega), low m' k' k' hl' (by omega)]
          · have := hg j
            simpa [SMap.get, hj] using this

theorem get_slice_above (m : SMap Byte) (n k : Nat) (h : n ≤ k) : SMap.get 0 (slice m 0 n) k = 0 := by
  rw [slice_front]
  induction m with
  | nil => rfl
  | cons e m ih =>
    rw [List.filter_cons]
    split
    · rename_i he
      simp only [decide_eq_true_eq] at he
      rw [SMap.get, if_neg (by omega), ih]
    · exact ih

/-- A part whose bytes all read 0 lists nothing. -/
theorem slice_zero (m : SMap Byte) (o n : Nat) (h : SMap.wf 0 m = true) (hz : ∀ k, k < n → SMap.get 0 m (o + k) = 0) :
    slice m o n = [] := by
  rw [slice, List.filterMap_eq_nil_iff]
  intro e he
  have hn := SMap.listed_ne m h e he
  simp only [ite_eq_right_iff, reduceCtorEq, imp_false, Bool.and_eq_true, decide_eq_true_eq, not_and]
  intro h1 h2
  exact hn (by have := hz (e.1 - o) (by omega); rwa [show o + (e.1 - o) = e.1 by omega] at this)

/-! ## Blocks in pieces of one length -/

theorem flatMap_piece {α : Type} (F : Nat → List α) (c n j : Nat) (hF : ∀ j, (F j).length = c) (hj : j < n) :
    (((List.range n).flatMap F).drop (c * j)).take c = F j := by
  have hlen : ∀ n, ((List.range n).flatMap F).length = c * n := by
    intro n
    induction n with
    | zero => simp
    | succ n ih => simp [List.range_succ, ih, hF, Nat.mul_succ]
  induction n with
  | zero => omega
  | succ n ih =>
    rw [List.range_succ, List.flatMap_append, List.flatMap_singleton]
    by_cases h : j < n
    · have hm : c * (j + 1) ≤ c * n := Nat.mul_le_mul_left c h
      rw [Nat.mul_succ] at hm
      rw [List.drop_append_of_le_length (by rw [hlen]; omega),
        List.take_append_of_le_length (by rw [List.length_drop, hlen]; omega), ih h]
    · have : j = n := by omega
      subst this
      rw [List.drop_left' (hlen j), List.take_of_length_le (by rw [hF])]

theorem flatMap_pieces {α : Type} (l : List α) (c n : Nat) :
    ((List.range n).flatMap fun j => (l.drop (c * j)).take c) = l.take (c * n) := by
  induction n with
  | zero => simp
  | succ n ih => rw [List.range_succ, List.flatMap_append, List.flatMap_singleton, ih, Nat.mul_succ, List.take_add]

/-! ## The host window (R427) -/

theorem xtsMap_length (f : Nat → BitVec 128 → BitVec 128) (i n : Nat) (bs : List Byte) (h : bs.length = 16 * n) :
    (xtsMap f i bs).length = 16 * n := by
  have hc : cdiv bs.length 16 = n := by rw [h, cdiv]; omega
  rw [xtsMap, hc]
  clear hc
  induction n with
  | zero => simp
  | succ n => simp [leBytes_length, Nat.mul_comm]

/-- Decryption undoes encryption. -/
theorem xtsDec_xtsEnc (k : Beat) (tweak i n : Nat) (bs : List Byte) (h : bs.length = 16 * n) :
    xtsDec k tweak i (xtsEnc k tweak i bs) = bs := by
  have hc : cdiv bs.length 16 = n := by rw [h, cdiv]; omega
  have hc' : cdiv (xtsEnc k tweak i bs).length 16 = n := by
    rw [xtsEnc, xtsMap_length _ _ n _ h, cdiv]
    omega
  rw [xtsDec, xtsMap, hc']
  have hp : ∀ j ∈ List.range n, leBytes 16 ((Config.xtsBlock k tweak (i + j)).symm
      (BitVec.ofNat 128 (leNat (((xtsEnc k tweak i bs).drop (16 * j)).take 16)))).toNat = (bs.drop (16 * j)).take 16 := by
    intro j hj
    have hj' := List.mem_range.mp hj
    rw [xtsEnc, xtsMap, hc, flatMap_piece _ 16 n j (fun _ => leBytes_length ..) hj', leNat_leBytes]
    have hl : ((bs.drop (16 * j)).take 16).length = 16 := by
      rw [List.length_take, List.length_drop]
      omega
    have hlt := leNat_lt ((bs.drop (16 * j)).take 16)
    rw [hl] at hlt
    have hw : ∀ x : BitVec 128, BitVec.ofNat 128 (x.toNat % 256 ^ 16) = x := fun x => by
      apply BitVec.eq_of_toNat_eq
      have := x.isLt
      simp only [BitVec.toNat_ofNat, Nat.reducePow] at this ⊢
      omega
    rw [hw, Equiv.symm_apply_apply, BitVec.toNat_ofNat, Nat.mod_eq_of_lt (by simpa using hlt)]
    have := leBytes_leNat ((bs.drop (16 * j)).take 16)
    rwa [hl] at this
  have hf := flatMap_pieces bs 16 n
  rw [List.take_of_length_le (by omega)] at hf
  rw [List.flatMap_congr hp, hf]

/-- A line of the host window opens to what was sealed. -/
theorem winOpen_winSeal (s : State) (off : Nat) (pt : Beat) : winOpen s off (winSeal s off pt) = pt := by
  have hl : (beatBytes pt).length = 16 * 4 := leBytes_length 64 _
  have he : (xtsEnc (keyWx s) (off / 512) (off % 512 / 16) (beatBytes pt)).length = 64 := xtsMap_length _ _ 4 _ hl
  rw [winOpen, winSeal, beatBytes_beatOf _ he, xtsDec_xtsEnc _ _ _ 4 _ hl, beatOf_beatBytes]

/-- A block of the `n` lines that `f` gives. -/
def linesOf (f : Nat → Beat) (n : Nat) : SMap Byte := layBytes ((List.range n).map fun i => (64 * i, beatBytes (f i)))

theorem linesOf_succ (f : Nat → Beat) (n : Nat) : linesOf f (n + 1) = SMap.setBeat (linesOf f n) (64 * n) (f n) := by
  simp only [linesOf, layBytes, List.range_succ, List.map_append, List.foldl_append, List.map_cons, List.map_nil, List.foldl_cons,
    List.foldl_nil, SMap.setBeat]

theorem linesOf_wf (f : Nat → Beat) (n : Nat) : SMap.wf 0 (linesOf f n) = true := by
  induction n with
  | zero => rfl
  | succ n ih => rw [linesOf_succ]; exact SMap.wf_setBeat _ _ _ ih

theorem linesOf_above (f : Nat → Beat) (n k : Nat) (h : 64 * n ≤ k) : SMap.get 0 (linesOf f n) k = 0 := by
  induction n with
  | zero => rfl
  | succ n ih => rw [linesOf_succ, SMap.get_setBeat_other _ _ _ _ (by omega), ih (by omega)]

theorem linesOf_line (f : Nat → Beat) (n i : Nat) (h : i < n) : SMap.getBytes (linesOf f n) (64 * i) 64 = beatBytes (f i) := by
  induction n with
  | zero => omega
  | succ n ih =>
    rw [linesOf_succ]
    by_cases hi : i < n
    · rw [← ih hi]
      exact SMap.getBytes_congr _ _ _ _ _ fun j hj => SMap.get_setBeat_other _ _ _ _ (by omega)
    · have : i = n := by omega
      subst this
      have := SMap.getBytes_setBytes (linesOf f i) (64 * i) (beatBytes (f i)) (linesOf_wf f i)
      rwa [beatBytes, leBytes_length, ← beatBytes] at this

/-- The lines of a block hold the block. -/
theorem linesOf_get (m : SMap Byte) (n k : Nat) (h : k < 64 * n) :
    SMap.get 0 (linesOf (fun i => SMap.getBeat m (64 * i)) n) k = SMap.get 0 m k := by
  have h1 := linesOf_line (fun i => SMap.getBeat m (64 * i)) n (k / 64) (by omega)
  simp only [SMap.getBeat] at h1
  rw [beatBytes_beatOf _ (SMap.getBytes_length ..)] at h1
  have h2 := congrArg (fun l : List Byte => l[k % 64]?) h1
  simp only [SMap.getBytes_getElem? _ _ _ _ (Nat.mod_lt k (by omega : 0 < 64)), Option.some.injEq] at h2
  rwa [show 64 * (k / 64) + k % 64 = k by omega] at h2

/-- The ciphertext of a window extent that begins with a line: `n` lines of block `m`. -/
def sealedLines (s : State) (woff : Nat) (m : SMap Byte) (n : Nat) : SMap Byte :=
  linesOf (fun i => winSeal s (woff + 64 * i) (SMap.getBeat m (64 * i))) n

/-- Only K_WX matters. -/
theorem winPlain_key (s s' : State) (woff size : Nat) (ct : SMap Byte) (h : keyWx s = keyWx s') :
    winPlain s woff size ct = winPlain s' woff size ct := by
  simp only [winPlain, winOpen, h]

/-- The extent decrypted is in canonical form and reads as the block. -/
theorem winPlain_wf (s : State) (woff size : Nat) (ct : SMap Byte) : SMap.wf 0 (winPlain s woff size ct) = true := by
  have h : SMap.wf 0 (layBytes ((List.range (cdiv size 64)).map fun i =>
      (64 * i, beatBytes (winOpen s (woff + 64 * i) (SMap.getBeat ct (64 * i)))))) = true := linesOf_wf _ _
  rw [winPlain, slice_front]
  exact SMap.wf_filter 0 _ _ h

theorem winPlain_get (s : State) (woff n : Nat) (m : SMap Byte) (k : Nat) (h : k < 64 * n) :
    SMap.get 0 (winPlain s woff (64 * n) (sealedLines s woff m n)) k = SMap.get 0 m k := by
  have hc : cdiv (64 * n) 64 = n := by rw [cdiv]; omega
  rw [winPlain, get_slice _ _ _ _ h, hc, Nat.zero_add, ← linesOf_get m n k h]
  have : ∀ i ∈ List.range n, (64 * i, beatBytes (winOpen s (woff + 64 * i) (SMap.getBeat (sealedLines s woff m n) (64 * i)))) =
      (64 * i, beatBytes (SMap.getBeat m (64 * i))) := by
    intro i hi
    rw [SMap.getBeat, sealedLines, linesOf_line _ _ _ (List.mem_range.mp hi), beatOf_beatBytes, winOpen_winSeal]
  rw [List.map_congr_left this]
  rfl

/-- A block in canonical form is what its sealed lines decrypt to. -/
theorem winPlain_sealedLines (s : State) (woff n : Nat) (m : SMap Byte) (h : SMap.wf 0 m = true)
    (hk : ∀ k, 64 * n ≤ k → SMap.get 0 m k = 0) : winPlain s woff (64 * n) (sealedLines s woff m n) = m := by
  refine SMap.ext_get _ _ (winPlain_wf ..) h fun k => ?_
  by_cases hb : k < 64 * n
  · exact winPlain_get s woff n m k hb
  · rw [winPlain, get_slice_above _ _ _ (by omega), hk k (by omega)]

end Sys2Proof.Machine
end

