-- ==== Sys2Proof/Laws/Evolves.lean ====
section
/-! SUPPORT. What every command keeps, as one preorder on states: the queue, the counters that only grow (R413, R411),
the canonical form of memory and of the indexed parts, the bound of the ledger ring (R444). One lemma per operation, so
that no proof about a command unfolds what the command calls. -/

namespace Sys2Proof.Machine

/-- A listed tile's memories. -/
theorem Canon.tileMem {s : State} (w : Canon s) (e : Nat × Tile) (he : e ∈ s.tiles) : e.2.MemOk := by
  have h := w.mems e.1
  rwa [State.tile, SMap.get_of_mem _ _ _ _ w.tiles he] at h

/-- `t` may come after `s`: the queue is the same, no counter of the flash or of the draws is lower, a state in canonical
form is in canonical form, and a ledger ring within its size is within its size. -/
structure Evolves (s t : State) : Prop where
  pending : t.pending = s.pending
  free : s.free ≤ t.free
  draws : s.trust.draws ≤ t.trust.draws
  idIdx : s.trust.flash.idIdx.toNat ≤ t.trust.flash.idIdx.toNat
  fwFloor : s.trust.flash.fwFloor.toNat ≤ t.trust.flash.fwFloor.toNat
  brVer : s.trust.flash.brVer.toNat ≤ t.trust.flash.brVer.toNat
  canon : Canon s → Canon t
  ring : RingOk s → RingOk t

theorem Evolves.refl (s : State) : Evolves s s := ⟨rfl, le_rfl, le_rfl, le_rfl, le_rfl, le_rfl, id, id⟩

theorem Evolves.trans {r s t : State} (h : Evolves r s) (k : Evolves s t) : Evolves r t :=
  ⟨k.pending.trans h.pending, h.free.trans k.free, h.draws.trans k.draws, h.idIdx.trans k.idIdx,
    h.fwFloor.trans k.fwFloor, h.brVer.trans k.brVer, k.canon ∘ h.canon, k.ring ∘ h.ring⟩

/-- A record update of any blocks the order does not look at. -/
theorem Evolves.update {r s : State} (h : Evolves r s) (clk tm pc stg fab cm gov lace rest pins pre image job wires
    crossing edgeOut) :
    Evolves r { s with
      clk := clk, tm := tm, pc := pc, stg := stg, fab := fab, cm := cm, gov := gov, lace := lace, rest := rest
      pins := pins, pre := pre, image := image, job := job, wires := wires, crossing := crossing, edgeOut := edgeOut } :=
  h.trans ⟨rfl, le_rfl, le_rfl, le_rfl, le_rfl, le_rfl, fun w => ⟨w.1, w.2, w.3, w.4, w.5, w.6, w.7, w.8⟩,
    fun w => ⟨w.1, w.2⟩⟩

/-- An update of the tile map. -/
theorem Evolves.tiles {r s : State} (h : Evolves r s) (m : SMap Tile) (h1 : Canon s → SMap.wf {} m = true)
    (h2 : Canon s → ∀ t, (SMap.get {} m t).MemOk) : Evolves r { s with tiles := m } :=
  h.trans ⟨rfl, le_rfl, le_rfl, le_rfl, le_rfl, le_rfl, fun w => ⟨w.1, h1 w, w.3, w.4, w.5, w.6, w.7, h2 w⟩,
    fun w => ⟨w.1, w.2⟩⟩

/-- An update of the maps of gangs, movers and ports. -/
theorem Evolves.gangs {r s : State} (h : Evolves r s) (m : SMap Gang) (h1 : Canon s → SMap.wf {} m = true) :
    Evolves r { s with gangs := m } :=
  h.trans ⟨rfl, le_rfl, le_rfl, le_rfl, le_rfl, le_rfl, fun w => ⟨w.1, w.2, h1 w, w.4, w.5, w.6, w.7, w.8⟩,
    fun w => ⟨w.1, w.2⟩⟩

theorem Evolves.movers {r s : State} (h : Evolves r s) (m : SMap Mover) (h1 : Canon s → SMap.wf {} m = true) :
    Evolves r { s with movers := m } :=
  h.trans ⟨rfl, le_rfl, le_rfl, le_rfl, le_rfl, le_rfl, fun w => ⟨w.1, w.2, w.3, h1 w, w.5, w.6, w.7, w.8⟩,
    fun w => ⟨w.1, w.2⟩⟩

theorem Evolves.ports {r s : State} (h : Evolves r s) (m : SMap Port) (h1 : Canon s → SMap.wf {} m = true) :
    Evolves r { s with ports := m } :=
  h.trans ⟨rfl, le_rfl, le_rfl, le_rfl, le_rfl, le_rfl, fun w => ⟨w.1, w.2, w.3, w.4, h1 w, w.6, w.7, w.8⟩,
    fun w => ⟨w.1, w.2⟩⟩

/-- An update of the four maps at once, and of the blocks the order does not look at. -/
theorem Evolves.maps {r s : State} (h : Evolves r s) (clk tm pc stg fab cm gov lace rest pins pre image job wires
    crossing edgeOut) (ti : SMap Tile) (ga : SMap Gang) (mo : SMap Mover) (po : SMap Port) (h1 : Canon s → SMap.wf {} ti = true)
    (h2 : Canon s → ∀ t, (SMap.get {} ti t).MemOk) (h3 : Canon s → SMap.wf {} ga = true)
    (h4 : Canon s → SMap.wf {} mo = true) (h5 : Canon s → SMap.wf {} po = true) :
    Evolves r { s with
      clk := clk, tm := tm, pc := pc, stg := stg, fab := fab, cm := cm, gov := gov, lace := lace, rest := rest
      pins := pins, pre := pre, image := image, job := job, wires := wires, crossing := crossing, edgeOut := edgeOut
      tiles := ti, gangs := ga, movers := mo, ports := po } :=
  h.trans ⟨rfl, le_rfl, le_rfl, le_rfl, le_rfl, le_rfl,
    fun w => ⟨w.1, h1 w, h3 w, h4 w, h5 w, w.6, w.7, h2 w⟩, fun w => ⟨w.1, w.2⟩⟩

/-- An update of the host block. -/
theorem Evolves.host {r s : State} (h : Evolves r s) (b : HostBlk) (h1 : Canon s → SMap.wf {} b.sqs = true)
    (h2 : Canon s → SMap.wf {} b.cqs = true) : Evolves r { s with host := b } :=
  h.trans ⟨rfl, le_rfl, le_rfl, le_rfl, le_rfl, le_rfl, fun w => ⟨w.1, w.2, w.3, w.4, w.5, h1 w, h2 w, w.8⟩,
    fun w => ⟨w.1, w.2⟩⟩

theorem Evolves.foldl {β : Type} {r s : State} (l : List β) (f : State → β → State)
    (hf : ∀ x b, Evolves r x → Evolves r (f x b)) (h : Evolves r s) : Evolves r (l.foldl f s) := by
  induction l generalizing s with
  | nil => exact h
  | cons b l ih => exact ih (hf s b h)

/-- Some free values have been drawn. -/
theorem Evolves.drawn {r s : State} (h : Evolves r s) (n : Nat) (hn : s.free ≤ n) : Evolves r { s with free := n } :=
  h.trans ⟨rfl, hn, le_rfl, le_rfl, le_rfl, le_rfl, fun w => ⟨w.1, w.2, w.3, w.4, w.5, w.6, w.7, w.8⟩,
    fun w => ⟨w.ring, w.flash⟩⟩

/-! ## The blocks, one operation each -/

variable {r s : State}

theorem setTile_evolves (h : Evolves r s) (t x) (hx : (s.tile t).MemOk → x.MemOk) : Evolves r (s.setTile t x) := by
  refine h.tiles _ (fun w => SMap.wf_set _ _ _ _ w.tiles) fun w j => ?_
  by_cases hj : j = t
  · subst hj; rw [SMap.get_set_same _ _ _ _ w.tiles]; exact hx (w.mems j)
  · rw [SMap.get_set_other _ _ _ _ _ hj]; exact w.mems j

theorem modTile_evolves (h : Evolves r s) (t) (f : Tile → Tile) (hf : (s.tile t).MemOk → (f (s.tile t)).MemOk) :
    Evolves r (s.modTile t f) := setTile_evolves h t _ hf

theorem setCtx_evolves (h : Evolves r s) (t th c) : Evolves r (s.setCtx t th c) :=
  modTile_evolves h t _ fun w => ⟨w.1, w.2⟩

theorem modGang_evolves (h : Evolves r s) (g f) : Evolves r (s.modGang g f) :=
  h.gangs _ fun w => SMap.wf_set _ _ _ _ w.gangs
theorem modMover_evolves (h : Evolves r s) (m f) : Evolves r (s.modMover m f) :=
  h.movers _ fun w => SMap.wf_set _ _ _ _ w.movers
theorem modPort_evolves (h : Evolves r s) (p f) : Evolves r (s.modPort p f) :=
  h.ports _ fun w => SMap.wf_set _ _ _ _ w.ports
theorem modSq_evolves (h : Evolves r s) (q f) : Evolves r (s.modSq q f) :=
  h.host _ (fun w => SMap.wf_set _ _ _ _ w.sqs) fun w => w.cqs
theorem modCq_evolves (h : Evolves r s) (q f) : Evolves r (s.modCq q f) :=
  h.host _ (fun w => w.sqs) fun w => SMap.wf_set _ _ _ _ w.cqs
theorem modStg_evolves (h : Evolves r s) (f) : Evolves r (s.modStg f) := h.update ..
theorem modFab_evolves (h : Evolves r s) (f) : Evolves r (s.modFab f) := h.update ..
theorem modCm_evolves (h : Evolves r s) (f) : Evolves r (s.modCm f) := h.update ..
theorem modPc_evolves (h : Evolves r s) (f) : Evolves r (s.modPc f) := h.update ..
theorem modGov_evolves (h : Evolves r s) (f) : Evolves r (s.modGov f) := h.update ..
theorem modLadder_evolves (h : Evolves r s) (n f) : Evolves r (s.modLadder n f) := h.update ..

theorem modHost_evolves (h : Evolves r s) (f : HostBlk → HostBlk) (h1 : (f s.host).sqs = s.host.sqs)
    (h2 : (f s.host).cqs = s.host.cqs) : Evolves r (s.modHost f) :=
  h.host _ (fun w => h1 ▸ w.sqs) fun w => h2 ▸ w.cqs

theorem modMem_evolves (h : Evolves r s) (f : MemBlk → MemBlk)
    (hd : SMap.wf 0 s.mem.dram = true → SMap.wf 0 (f s.mem).dram = true)
    (hr : SMap.wf 0 s.mem.reserve = true → SMap.wf 0 (f s.mem).reserve = true)
    (ht : SMap.wf none s.mem.tags = true → SMap.wf none (f s.mem).tags = true)
    (hl : SMap.wf 0 s.mem.flipDelta = true → SMap.wf 0 (f s.mem).flipDelta = true) : Evolves r (s.modMem f) :=
  h.trans ⟨rfl, le_rfl, le_rfl, le_rfl, le_rfl, le_rfl,
    fun w => ⟨⟨hd w.1.1, hr w.1.2, ht w.1.3, hl w.1.4⟩, w.2, w.3, w.4, w.5, w.6, w.7, w.8⟩,
    fun w => ⟨w.ring, w.flash⟩⟩

theorem modFlt_evolves (h : Evolves r s) (f : FltBlk → FltBlk)
    (hf : s.flt.ring.length ≤ 65536 → (f s.flt).ring.length ≤ 65536) : Evolves r (s.modFlt f) :=
  h.trans ⟨rfl, le_rfl, le_rfl, le_rfl, le_rfl, le_rfl, fun w => ⟨w.1, w.2, w.3, w.4, w.5, w.6, w.7, w.8⟩,
    fun w => ⟨hf w.ring, w.flash⟩⟩

theorem modTrust_evolves (h : Evolves r s) (f : TrustBlk → TrustBlk) (h1 : s.trust.draws ≤ (f s.trust).draws)
    (h2 : s.trust.flash.idIdx.toNat ≤ (f s.trust).flash.idIdx.toNat) (h3 : s.trust.flash.fwFloor.toNat ≤ (f s.trust).flash.fwFloor.toNat)
    (h4 : s.trust.flash.brVer.toNat ≤ (f s.trust).flash.brVer.toNat) (h5 : (f s.trust).flash.ledger = s.trust.flash.ledger) :
    Evolves r (s.modTrust f) :=
  h.trans ⟨rfl, le_rfl, h1, h2, h3, h4, fun w => ⟨w.1, w.2, w.3, w.4, w.5, w.6, w.7, w.8⟩,
    fun w => ⟨w.ring, fun l hl => w.flash l (h5 ▸ hl)⟩⟩

theorem draw_evolves (h : Evolves r s) : Evolves r s.draw.2 := h.drawn _ (Nat.le_succ _)

end Sys2Proof.Machine
end

