-- ==== Sys2Proof/Laws/Memories.lean ====
section
/-! SUPPORT. What the units write keeps a tile's memories in canonical form. -/

namespace Sys2Proof.Machine

/-- A property every step of a fold keeps. -/
theorem foldl_keep {α β : Type} {P : β → Prop} (l : List α) (f : β → α → β) (hf : ∀ b a, P b → P (f b a)) :
    ∀ b, P b → P (l.foldl f b) := by
  induction l with
  | nil => exact fun b h => h
  | cons a l ih => exact fun b h => ih _ (hf b a h)

theorem encodeStep_mem (x : Tensor) (rd val a b) (h : SMap.wf 0 a.mem = true) :
    SMap.wf 0 (encodeStep x rd val a b).mem = true := by
  unfold encodeStep
  dsimp only
  split
  · exact SMap.wf_setBytes _ _ _ (SMap.wf_setBytes _ _ _ (SMap.wf_setBytes _ _ _ h))
  · exact SMap.wf_setBytes _ _ _ (SMap.wf_setBytes _ _ _ h)

theorem mxStep_mem (x : Tensor) (rd val a b) (h : SMap.wf 0 a.mem = true) :
    SMap.wf 0 (mxStep x rd val a b).mem = true := by
  unfold mxStep
  exact SMap.wf_setBytes _ _ _ (SMap.wf_setBytes _ _ _ h)

theorem importStep_mem (x y : Tensor) (a b) (h : SMap.wf 0 a.mem = true) :
    SMap.wf 0 (importStep x y a b).mem = true := by
  unfold importStep
  exact SMap.wf_setBytes _ _ _ (SMap.wf_setBytes _ _ _ h)

/-- A tensor written leaves a memory in canonical form (R46, R52, R64). -/
theorem writeTensor_mem (x : Tensor) (rd kfs val) (h : SMap.wf 0 x.mem = true) :
    SMap.wf 0 (writeTensor x rd kfs val).mem = true := by
  unfold writeTensor
  split
  · exact foldl_keep (P := fun a : EncSt => SMap.wf 0 a.mem = true) _ _
      (fun a b ha => mxStep_mem x rd val a b ha) ⟨x.mem, kfs, 0, [], 0⟩ h
  · split
    · exact foldl_keep (P := fun a : EncSt => SMap.wf 0 a.mem = true) _ _
        (fun a b ha => encodeStep_mem x rd val a b ha) ⟨x.mem, kfs, 0, [], 0⟩ h
    · exact foldl_keep (P := fun a : SMap Byte × Kfs => SMap.wf 0 a.1 = true) _ _
        (fun a b ha => SMap.wf_setBytes _ _ _ ha) (x.mem, kfs) h

variable {x : Tile}

theorem kindMem_ok (h : x.MemOk) (k) : SMap.wf 0 (kindMem x k) = true := by
  unfold kindMem
  split
  · exact h.hamper
  · exact h.scratch

theorem setKindMem_ok (h : x.MemOk) (k m) (hm : SMap.wf 0 m = true) : (setKindMem x k m).MemOk := by
  unfold setKindMem
  split
  · exact ⟨h.scratch, hm⟩
  · exact ⟨hm, h.hamper⟩

theorem raiseFills_ok (h : x.MemOk) (c p) : (raiseFills c x p).MemOk := by
  unfold raiseFills
  refine foldl_keep (P := Tile.MemOk) _ _ (fun b a hb => ?_) _ h
  unfold requestFill
  dsimp only
  split
  · exact ⟨hb.1, hb.2⟩
  · exact hb

theorem setOut_ok (h : x.MemOk) (c n) : (setOut x c n).MemOk := by
  unfold setOut
  split <;> exact ⟨h.1, h.2⟩

theorem closeInterval_ok (h : x.MemOk) (a b c) : (closeInterval x a b c).MemOk := ⟨h.1, h.2⟩
theorem leaveTile_ok (h : x.MemOk) : (leaveTile x).MemOk := ⟨h.1, h.2⟩
theorem emptyTile_ok (h : x.MemOk) : (emptyTile x).MemOk := ⟨h.1, h.2⟩
theorem seamTile_ok (h : x.MemOk) (a) : (seamTile a x).MemOk := ⟨h.1, h.2⟩
theorem pressCapture_ok (h : x.MemOk) (o) : (pressCapture x o).MemOk := ⟨h.1, h.2⟩
theorem recapture_ok (h : x.MemOk) (o c) : (recapture x o c).MemOk := ⟨h.1, h.2⟩
theorem capture_ok (h : x.MemOk) (a b) : (capture x a b).1.MemOk := ⟨h.1, h.2⟩
theorem tileEmpty_ok : ({} : Tile).MemOk := ⟨rfl, rfl⟩

theorem loadTile_ok (h : x.MemOk) (i) : (loadTile i x).MemOk :=
  ⟨foldl_keep (P := fun m => SMap.wf 0 m = true) _ _ (fun _ _ hm => SMap.wf_setBytes _ _ _ hm) _ h.1, h.2⟩

theorem runMatvec_ok (h : x.MemOk) (s r d) : (runMatvec s r x d).1.MemOk := by
  unfold runMatvec
  exact ⟨writeTensor_mem _ _ _ _ h.1, h.2⟩

theorem xDstT_mem (h : x.MemOk) (d) : SMap.wf 0 (xDstT x d).mem = true := by
  unfold xDstT
  split <;> exact kindMem_ok h _

theorem convert_ok (h : x.MemOk) (s r d) : SMap.wf 0 (convert s r x d).mem = true := by
  have hd := xDstT_mem h d
  unfold convert
  dsimp only
  split
  · split
    · exact writeTensor_mem _ _ _ _ hd
    · exact foldl_keep (P := fun a : EncSt => SMap.wf 0 a.mem = true) _ _
        (fun a b ha => importStep_mem _ _ a b ha) ⟨(xDstT x d).mem, _, 0, [], 0⟩ hd
  · exact writeTensor_mem _ _ _ _ hd

theorem writeEmpties_ok (h : x.MemOk) (d es) : (writeEmpties x d es).MemOk := by
  unfold writeEmpties
  dsimp only
  split
  · exact ⟨h.1, h.2⟩
  · exact ⟨SMap.wf_setBytes _ _ _ h.1, h.2⟩

theorem writeD_ok (h : x.MemOk) (s d keep v) : (writeD s x d keep v).1.MemOk := by
  unfold writeD
  split
  · refine foldl_keep (P := Tile.MemOk) _ _ (fun y p hy => ?_) _ h
    dsimp only
    split
    · exact ⟨SMap.wf_setBytes _ _ _ hy.1, hy.2⟩
    · exact hy
  · exact ⟨writeTensor_mem _ _ _ _ h.1, h.2⟩

theorem writeResults_ok (h : x.MemOk) (s d rs) : (writeResults s x d rs).MemOk := by
  unfold writeResults
  refine writeEmpties_ok (foldl_keep (P := Tile.MemOk) _ _ (fun y p hy => ?_) _ h) _ _
  dsimp only
  split
  · exact ⟨SMap.wf_setBytes _ _ _ hy.1, hy.2⟩
  · exact ⟨SMap.wf_setBytes _ _ _ hy.1, hy.2⟩
  · split
    · exact ⟨SMap.wf_setBytes _ _ _ hy.1, hy.2⟩
    · exact ⟨SMap.wf_setBytes _ _ _ hy.1, hy.2⟩

/-- An update of fields other than the memories. -/
theorem Tile.MemOk.rest (h : x.MemOk) (gang threads ring last issuedNow slotUsed sets tset ec ecPrev fetch fills dl dlPrev acc ops nextOp outUsed0 outUsed1 kfs mxs vrs ts pctVerdict raises press pressCycles pressOn breaches failing hardFail) :
    ({ x with gang := gang, threads := threads, ring := ring, last := last, issuedNow := issuedNow, slotUsed := slotUsed, sets := sets, tset := tset, ec := ec, ecPrev := ecPrev, fetch := fetch, fills := fills, dl := dl, dlPrev := dlPrev, acc := acc, ops := ops, nextOp := nextOp, outUsed0 := outUsed0, outUsed1 := outUsed1, kfs := kfs, mxs := mxs, vrs := vrs, ts := ts, pctVerdict := pctVerdict, raises := raises, press := press, pressCycles := pressCycles, pressOn := pressOn, breaches := breaches, failing := failing, hardFail := hardFail } : Tile).MemOk := ⟨h.1, h.2⟩

theorem runCombine_ok (h : x.MemOk) (s o) : (runCombine s x o).x.MemOk := by
  unfold runCombine
  grind (gen := 30) (ematch := 30) [writeD_ok, Tile.MemOk.rest]

theorem runChained_ok (h : x.MemOk) (s o) : (runChained s x o).x.MemOk := by
  unfold runChained
  grind (gen := 30) (ematch := 30) [writeD_ok, writeResults_ok, writeEmpties_ok, Tile.MemOk.rest]

theorem runVector_ok (h : x.MemOk) (s o) : (runVector s x o).x.MemOk := by
  unfold runVector
  split
  · exact runCombine_ok h s o
  · exact runChained_ok h s o

end Sys2Proof.Machine
end

