-- ==== Sys2Proof/Laws/EvolvesNet.lean ====
section
/-! SUPPORT. `Evolves`, one lemma per operation: signals, completions, messages, memory, transfers, verdicts and issue. -/

namespace Sys2Proof.Machine

set_option Elab.async false

variable {r s : State}

/-! ## Machine/Ops.lean -/

theorem msixSend_evolves (h : Evolves r s) (v) : Evolves r (msixSend s v) := by
  unfold Machine.msixSend
  grind [modHost_evolves]

theorem raiseInt_evolves (h : Evolves r s) (b) : Evolves r (raiseInt s b) := by
  unfold Machine.raiseInt
  grind [modHost_evolves, msixSend_evolves]

theorem ledgerPut_length (e) (l : List (BitVec 256)) : (ledgerPut e l).length = l.length + 1 := by
  induction l generalizing e with
  | nil => rfl
  | cons x l ih => unfold ledgerPut; split <;> simp [ih]

theorem ledger_evolves (h : Evolves r s) (sev src code unit data) : Evolves r (ledger s sev src code unit data) :=
    by
  unfold Machine.ledger
  split
  · exact modFlt_evolves h _ id
  · have k := fun e (n q : FltBlk → Nat) => modFlt_evolves h (fun f => { f with
      ring := (ledgerPut e f.ring.reverse).reverse.drop (f.ring.length + 1 - 65536), next := n f, qlen := q f })
          (fun w => by
        simp only [List.length_drop, List.length_reverse, ledgerPut_length]; omega)
    dsimp only
    split
    · exact raiseInt_evolves (k ..) _
    · exact k ..

theorem pldm_evolves (h : Evolves r s) (e) : Evolves r (pldm s e) := by
  unfold Machine.pldm
  grind [modFlt_evolves]

theorem hostSend_evolves (h : Evolves r s) (o xarea) : Evolves r (hostSend s o xarea) := by
  unfold Machine.hostSend
  grind [modHost_evolves]

theorem noteEvents_evolves (h : Evolves r s) (i n) : Evolves r (noteEvents s i n) := by
  unfold Machine.noteEvents
  grind [modGov_evolves]

theorem applySignal_evolves (h : Evolves r s) (src t c amt) : Evolves r (applySignal s src t c amt) := by
  unfold Machine.applySignal
  grind [Evolves.foldl, Evolves.update, Tile.MemOk, modTile_evolves]

theorem deliverSignal_evolves (h : Evolves r s) (src t c amt) : Evolves r (deliverSignal s src t c amt) := by
  unfold Machine.deliverSignal
  grind [modFab_evolves, applySignal_evolves]

theorem signalLocal_evolves (h : Evolves r s) (src t c amt) : Evolves r (signalLocal s src t c amt) := by
  unfold Machine.signalLocal
  grind [deliverSignal_evolves, modFlt_evolves]

theorem dropSignal_evolves (h : Evolves r s) (t c amt) : Evolves r (dropSignal s t c amt) := by
  unfold Machine.dropSignal
  grind [modFab_evolves, modFlt_evolves, ledger_evolves]

theorem signalRemote_evolves (h : Evolves r s) (t c amt) : Evolves r (signalRemote s t c amt) := by
  unfold Machine.signalRemote
  grind [dropSignal_evolves, deliverSignal_evolves, modFlt_evolves]

theorem setLocal_evolves (h : Evolves r s) (b) : Evolves r (setLocal s b) := by
  unfold Machine.setLocal
  grind [modStg_evolves]

theorem freezeGang_evolves (h : Evolves r s) (g) : Evolves r (freezeGang s g) := by
  unfold Machine.freezeGang
  grind [modGang_evolves]

theorem freezeAll_evolves (h : Evolves r s) : Evolves r (freezeAll s) := by
  unfold Machine.freezeAll
  grind [Evolves.foldl, Evolves.update, Tile.MemOk, freezeGang_evolves]

theorem escFail_evolves (h : Evolves r s) : Evolves r (escFail s) := by
  unfold Machine.escFail
  grind [modPc_evolves]

theorem leaveRound_evolves (h : Evolves r s) : Evolves r (leaveRound s) := by
  unfold Machine.leaveRound
  grind [Evolves.update]

/-! ## Machine/Regs.lean -/

theorem latchFrac_evolves (h : Evolves r s) : Evolves r (latchFrac s) := by
  unfold Machine.latchFrac
  grind [Evolves.update]

/-! ## Machine/Net.lean -/

theorem detPush_evolves (h : Evolves r s) (q vc m) : Evolves r (detPush s q vc m) := by
  unfold Machine.detPush
  grind [modPort_evolves]

theorem detourSend_evolves (h : Evolves r s) (p m) : ∀ t, detourSend s p m = some t → Evolves r t := by
  intro t' ht
  simp only [detourSend, Option.map_eq_some_iff] at ht
  obtain ⟨d, _, rfl⟩ := ht
  exact detPush_evolves (modPort_evolves h ..) ..

theorem enqPort_evolves (h : Evolves r s) (p m) : Evolves r (enqPort s p m) := by
  have key : ∀ hold, Evolves r hold → Evolves r ((detourSend s p m).getD hold) := by
    intro hold hh
    cases e : detourSend s p m with
    | none => exact hh
    | some t => exact detourSend_evolves h _ _ t e
  unfold Machine.enqPort
  dsimp only
  split
  · exact key _ (modPort_evolves h ..)
  · exact modPort_evolves h ..

theorem enqDetour_evolves (h : Evolves r s) (p m) : Evolves r (enqDetour s p m) := by
  have key : ∀ hold, Evolves r hold → Evolves r ((detourSend s p m).getD hold) := by
    intro hold hh
    cases e : detourSend s p m with
    | none => exact hh
    | some t => exact detourSend_evolves h _ _ t e
  unfold Machine.enqDetour
  dsimp only
  split
  · exact key _ (detPush_evolves h ..)
  · exact detPush_evolves h ..

theorem routeFault_evolves (h : Evolves r s) (m) : Evolves r (routeFault s m) := by
  unfold Machine.routeFault
  grind [ledger_evolves, modFab_evolves]

theorem discard_evolves (h : Evolves r s) : Evolves r (discard s) := by
  unfold Machine.discard
  grind [modFab_evolves]

theorem routeRsp_evolves (h : Evolves r s) (m) : Evolves r (routeRsp s m) := by
  unfold Machine.routeRsp
  grind [enqPort_evolves, routeFault_evolves]

theorem respond_evolves (h : Evolves r s) (x1 opc code op0 data) : Evolves r (respond s x1 opc code op0 data) := by
  unfold Machine.respond
  grind [routeRsp_evolves, modFab_evolves]

theorem loopErr_evolves (h : Evolves r s) (m code) : Evolves r (loopErr s m code) := by
  unfold Machine.loopErr
  grind [modFab_evolves]

theorem routeDrop_evolves (h : Evolves r s) (m) : Evolves r (routeDrop s m) := by
  unfold Machine.routeDrop
  grind [routeFault_evolves, loopErr_evolves, respond_evolves]

theorem goneErr_evolves (h : Evolves r s) (m) : Evolves r (goneErr s m) := by
  unfold Machine.goneErr
  grind [loopErr_evolves, respond_evolves]

theorem routeReq_evolves (h : Evolves r s) (m) : Evolves r (routeReq s m) := by
  unfold Machine.routeReq
  grind [goneErr_evolves, enqPort_evolves, routeDrop_evolves]

theorem oweCredits_evolves (h : Evolves r s) (p vc n) : Evolves r (oweCredits s p vc n) := by
  unfold Machine.oweCredits
  grind [modPort_evolves]

theorem transitOut_evolves (h : Evolves r s) (q det m) : Evolves r (transitOut s q det m) := by
  unfold Machine.transitOut
  grind [enqDetour_evolves, enqPort_evolves]

theorem transitTo_evolves (h : Evolves r s) (p vc q det m) : Evolves r (transitTo s p vc q det m) := by
  unfold Machine.transitTo
  grind [transitOut_evolves, oweCredits_evolves, modFab_evolves]

theorem transit_evolves (h : Evolves r s) (p vc m) : Evolves r (transit s p vc m) := by
  unfold Machine.transit
  grind [oweCredits_evolves, routeDrop_evolves, transitTo_evolves, goneErr_evolves, routeFault_evolves,
      discard_evolves]

theorem sendDirect_evolves (h : Evolves r s) (p m) : Evolves r (sendDirect s p m) := by
  unfold Machine.sendDirect
  grind [enqPort_evolves]

theorem sendReq_evolves (h : Evolves r s) (op mover beat nbeats rd m) : ∀ t, sendReq s op mover beat nbeats rd m =
    some t → Evolves r t := by
  intro t' ht
  simp only [sendReq, Option.map_eq_some_iff] at ht
  obtain ⟨k, _, rfl⟩ := ht
  exact routeReq_evolves (modFab_evolves h _) _

theorem takeRsp_evolves (h : Evolves r s) (m) : ∀ a t, takeRsp s m = some (a, t) → Evolves r t := by
  intro a t' ht
  simp only [takeRsp, Option.map_eq_some_iff, Prod.mk.injEq] at ht
  obtain ⟨k, _, _, rfl⟩ := ht
  exact modFab_evolves h _

theorem sendSignal_evolves (h : Evolves r s) (dst t c amt) : Evolves r (sendSignal s dst t c amt) := by
  unfold Machine.sendSignal
  grind [→ sendReq_evolves, modFab_evolves]

theorem signalTo_evolves (h : Evolves r s) (src dst t c amt) : Evolves r (signalTo s src dst t c amt) := by
  unfold Machine.signalTo
  grind [dropSignal_evolves, signalLocal_evolves, sendSignal_evolves, modFlt_evolves]

theorem sendWaiting_evolves (h : Evolves r s) : Evolves r (sendWaiting s) := by
  unfold Machine.sendWaiting
  grind [sendSignal_evolves, modFab_evolves]

theorem takeMsg_evolves (h : Evolves r s) (p opc m) : ∀ t, takeMsg s p opc m = some t → Evolves r t := by
  unfold Machine.takeMsg
  grind [modFab_evolves, modPort_evolves, oweCredits_evolves]

/-! ## Machine/Mem.lean -/

theorem hwtFill_evolves (h : Evolves r s) (off) : Evolves r (hwtFill s off) := by
  unfold Machine.hwtFill
  grind [modHost_evolves]

theorem tlbNote_evolves (h : Evolves r s) (die va) : Evolves r (tlbNote s die va) := by
  unfold Machine.tlbNote
  grind [modMem_evolves]

theorem drawBeat_evolves (h : Evolves r s) : Evolves r (drawBeat s).2 := by
  exact h.drawn _ (Nat.le_add_right _ _)

theorem tagForm_evolves (h : Evolves r s) (off) : Evolves r (tagForm s off) := by
  unfold Machine.tagForm
  dsimp only
  split
  · exact modMem_evolves h _ id id (fun w => SMap.wf_set _ _ _ _ w) id
  · exact h

theorem beatEvent_evolves (h : Evolves r s) (off) : Evolves r (beatEvent s off) := by
  unfold Machine.beatEvent
  grind [noteEvents_evolves]

theorem dramRead_evolves (h : Evolves r s) (off) : Evolves r (dramRead s off).2.2 := by
  have tup : ∀ (a : Beat) (b : Bool) u, Evolves r u → Evolves r (a, b, u).2.2 := fun _ _ _ h => h
  unfold Machine.dramRead
  replace h := beatEvent_evolves h off
  dsimp only
  split
  · refine tup _ _ _ (ledger_evolves (modMem_evolves (drawBeat_evolves h) _ ?_ ?_ ?_ ?_) _ _ _ _ _) <;> exact fun w
      => w
  · split
    · refine tup _ _ _ (ledger_evolves (modMem_evolves (drawBeat_evolves h) _ ?_ ?_ ?_ ?_) _ _ _ _ _) <;> exact fun
        w => w
    · split
      · refine tup _ _ _ (ledger_evolves (modMem_evolves h _ ?_ ?_ ?_ ?_) _ _ _ _ _) <;> split <;> exact fun w => w
      · split
        · refine tup _ _ _ (ledger_evolves (modMem_evolves h _ ?_ ?_ ?_ ?_) _ _ _ _ _) <;> exact fun w => w
        · exact h

theorem readForTag_evolves (h : Evolves r s) (off) : Evolves r (readForTag s off) := by
  unfold Machine.readForTag
  grind [dramRead_evolves, modMem_evolves]

theorem readRest_evolves (h : Evolves r s) (off own) : Evolves r (readRest s off own) := by
  unfold Machine.readRest
  grind [Evolves.foldl, Evolves.update, Tile.MemOk, readForTag_evolves]

theorem dramWrite_evolves (h : Evolves r s) (off b) : Evolves r (dramWrite s off b) := by
  unfold Machine.dramWrite
  have k := beatEvent_evolves (readRest_evolves h off false) off
  refine tagForm_evolves (modMem_evolves k _ (fun w => ?_) ?_ ?_ ?_) _
  · dsimp only; exact SMap.wf_setBeat _ _ _ w
  all_goals exact fun w => w

theorem dramWriteBytes_evolves (h : Evolves r s) (off bs) : Evolves r (dramWriteBytes s off bs) := by
  unfold Machine.dramWriteBytes
  have k := beatEvent_evolves (readRest_evolves h off true) off
  refine tagForm_evolves (modMem_evolves k _ (fun w => ?_) ?_ ?_ ?_) _
  · dsimp only; exact SMap.wf_setBytes _ _ _ w
  all_goals exact fun w => w

theorem rangePut_evolves (h : Evolves r s) (lo n src) : Evolves r (rangePut s lo n src) := by
  unfold Machine.rangePut
  exact modMem_evolves h _ (fun w => SMap.wf_foldl_set _ _ _ _ _ (SMap.wf_filter _ _ _ w)) id
    (fun w => SMap.wf_dropRange _ _ _ _ w) id

theorem countReads_evolves (h : Evolves r s) (lo n) : Evolves r (countReads s lo n) := by
  unfold Machine.countReads
  grind [Evolves.foldl, Evolves.update, Tile.MemOk, dramRead_evolves]

theorem fwDone_evolves (h : Evolves r s) (die) : Evolves r (fwDone s die) := by
  unfold Machine.fwDone
  grind [modMover_evolves]

theorem scratchWrite_evolves (h : Evolves r s) (t a b) : Evolves r (scratchWrite s t a b) := by
  unfold Machine.scratchWrite
  grind (splits := 40) (gen := 30) (ematch := 30) [SMap.wf_setBeat, Evolves.foldl, Evolves.update, Tile.MemOk,
      modTile_evolves]

theorem noteData_evolves (h : Evolves r s) (poisoned) : Evolves r (noteData s poisoned) := by
  unfold Machine.noteData
  grind [setLocal_evolves]

theorem drainPush_evolves (h : Evolves r s) (t a rd d after) : Evolves r (drainPush s t a rd d after) := by
  unfold Machine.drainPush
  grind [modFab_evolves]

theorem placeRead_evolves (h : Evolves r s) (off) : Evolves r (placeRead s off).2.2 := by
  unfold Machine.placeRead
  grind [dramRead_evolves, latchFrac_evolves]

theorem placeWrite_evolves (h : Evolves r s) (off b) : Evolves r (placeWrite s off b) := by
  unfold Machine.placeWrite
  grind [dramWrite_evolves]

theorem xareaPut_evolves (h : Evolves r s) (off bs) : Evolves r (xareaPut s off bs) := by
  unfold Machine.xareaPut
  grind [Evolves.foldl, Evolves.update, Tile.MemOk, modHost_evolves, dramWrite_evolves, dramWriteBytes_evolves]

theorem postCq_evolves (h : Evolves r s) (cq cid st sq sqhd info0 info1 gen rvalid) : Evolves r (postCq s cq cid st
    sq sqhd info0 info1 gen rvalid) := by
  unfold Machine.postCq
  grind [xareaPut_evolves, hostSend_evolves, modCq_evolves]

theorem cqNotify_evolves (h : Evolves r s) (cq) : Evolves r (cqNotify s cq) := by
  unfold Machine.cqNotify
  grind [msixSend_evolves]

theorem postResult_evolves (h : Evolves r s) (e gen st body) : Evolves r (postResult s e gen st body) := by
  unfold Machine.postResult
  grind [xareaPut_evolves, hostSend_evolves]

theorem finish_evolves (h : Evolves r s) (q st info0 info1 body) : Evolves r (finish s q st info0 info1 body) := by
  unfold Machine.finish
  grind [postResult_evolves, postCq_evolves, modStg_evolves, modSq_evolves]

theorem complete_evolves (h : Evolves r s) (q st info0 info1 body) : Evolves r (complete s q st info0 info1 body)
    := by
  unfold Machine.complete
  grind [cqNotify_evolves, finish_evolves]

/-! ## Machine/Xfer.lean -/

theorem modOp_evolves (h : Evolves r s) (t id f) : Evolves r (State.modOp s t id f) := by
  unfold Machine.State.modOp
  grind [Evolves.foldl, Evolves.update, Tile.MemOk, modTile_evolves]

theorem dropOp_evolves (h : Evolves r s) (t id) : Evolves r (State.dropOp s t id) := by
  unfold Machine.State.dropOp
  grind [Evolves.foldl, Evolves.update, Tile.MemOk, modTile_evolves]

theorem killFrom_evolves (h : Evolves r s) (t id beat) : Evolves r (killFrom s t id beat) := by
  unfold Machine.killFrom
  grind [modFab_evolves]

theorem hwinRefresh_evolves (h : Evolves r s) : Evolves r (hwinRefresh s) := by
  unfold Machine.hwinRefresh
  grind [modHost_evolves]

theorem addFault_evolves (h : Evolves r s) (code dir mover chan unit op gang beat va ga cnt tile) : Evolves r
    (addFault s code dir mover chan unit op gang beat va ga cnt tile).2 := by
  have tup : ∀ (n : Nat) u, Evolves r u → Evolves r (n, u).2 := fun _ _ h => h
  unfold Machine.addFault
  dsimp only
  split
  · refine tup _ _ ?_
    have k := fun f => modMem_evolves h f
    split
    · refine raiseInt_evolves (hwinRefresh_evolves (modMem_evolves h _ ?_ ?_ ?_ ?_)) _ <;> exact fun w => w
    · refine modMem_evolves h _ ?_ ?_ ?_ ?_ <;> exact fun w => w
  · refine tup _ _ ?_
    split <;> split
    all_goals
      repeat first
        | refine ledger_evolves ?_ _ _ _ _ _
        | refine raiseInt_evolves ?_ _
        | refine hwinRefresh_evolves ?_
      refine modMem_evolves h _ (fun w => ?_) (fun w => ?_) (fun w => ?_) fun w => ?_ <;> dsimp only [queueRecord]
      · exact w
      · exact SMap.wf_foldl_set _ _ _ _ _ w
      · exact w
      · exact w

theorem dropFault_evolves (h : Evolves r s) (n) : Evolves r (dropFault s n) := by
  unfold Machine.dropFault
  grind [hwinRefresh_evolves, modMem_evolves]

theorem retryGone_evolves (h : Evolves r s) (mover unit op) : Evolves r (retryGone s mover unit op) := by
  unfold Machine.retryGone
  grind [modMem_evolves]

theorem holdXfer_evolves (h : Evolves r s) (t id code ga b wr) : Evolves r (holdXfer s t id code ga b wr) := by
  unfold Machine.holdXfer
  grind [addFault_evolves, killFrom_evolves, modOp_evolves]

theorem requestBeats_evolves (h : Evolves r s) (x0 x2 x3) : Evolves r (requestBeats x0 s x2 x3) := by
  induction x0 generalizing s with
  | zero => exact h
  | succ n ih =>
    unfold Machine.requestBeats
    split
    · exact h
    · split
      · exact h
      · dsimp only
        split
        · exact holdXfer_evolves h ..
        · have k := fun va => tlbNote_evolves h (dieOfTile x2) va
          split
          · refine ih (modOp_evolves ?_ ..)
            split
            · exact hwtFill_evolves (k _) _
            · exact k _
          · split
            · exact k _
            · next u hu => exact ih (modOp_evolves (sendReq_evolves (k _) _ _ _ _ _ _ _ hu) ..)

theorem requestAll_evolves (h : Evolves r s) (t id) : Evolves r (requestAll s t id) := by
  unfold Machine.requestAll
  grind [requestBeats_evolves]

theorem resumeRequests_evolves (h : Evolves r s) : Evolves r (resumeRequests s) := by
  unfold Machine.resumeRequests
  grind [Evolves.foldl, Evolves.update, Tile.MemOk, sendWaiting_evolves, requestAll_evolves]

theorem spillRd_evolves (h : Evolves r s) (va) : Evolves r (spillRd s va) := by
  unfold Machine.spillRd
  grind [modStg_evolves]

theorem spillWr_evolves (h : Evolves r s) (va) : Evolves r (spillWr s va) := by
  unfold Machine.spillWr
  grind [modStg_evolves]

theorem hamperWrite_evolves (h : Evolves r s) (t a b) : Evolves r (hamperWrite s t a b) := by
  unfold Machine.hamperWrite
  grind (splits := 40) (gen := 30) (ematch := 30) [SMap.wf_setBeat, Evolves.foldl, Evolves.update, Tile.MemOk,
      modTile_evolves, modStg_evolves]

theorem beatArrive_evolves (h : Evolves r s) (t o b d poisoned) : Evolves r (beatArrive s t o b d poisoned) := by
  unfold Machine.beatArrive
  grind [noteData_evolves, spillRd_evolves, hamperWrite_evolves, modOp_evolves]

theorem returnCredits_evolves (h : Evolves r s) (t chan n) : Evolves r (returnCredits s t chan n) := by
  unfold Machine.returnCredits
  grind (splits := 40) (gen := 30) (ematch := 30) [setOut_ok, Evolves.foldl, Evolves.update, Tile.MemOk,
      modTile_evolves, signalLocal_evolves]

theorem finishXfer_evolves (h : Evolves r s) (t o) : Evolves r (finishXfer s t o) := by
  unfold Machine.finishXfer
  grind [retryGone_evolves, dropOp_evolves, signalLocal_evolves, signalTo_evolves]

theorem endXfer_evolves (h : Evolves r s) (t id from_) : Evolves r (endXfer s t id from_) := by
  have key : ∀ u, Evolves r u → Evolves r (match u.op? t id with
      | some o => if xferDone u t o then finishXfer u t o else u
      | none => u) := by grind [finishXfer_evolves]
  unfold Machine.endXfer
  split
  · exact h
  · refine key _ ?_
    have k := Evolves.foldl (faultsOf s false t id) (fun s f => dropFault s f.n) (fun x b hx => dropFault_evolves
        hx _) h
    have k2 := fun f => modOp_evolves (killFrom_evolves k t id from_) t id f
    have k3 := fun f c n => returnCredits_evolves (k2 f) t c n
    by_cases hx : xWrite2 ‹Op›.desc = true <;> simp only [hx, if_true, if_false, Bool.false_eq_true] <;> grind

theorem errorXfer_evolves (h : Evolves r s) (t id f) : Evolves r (errorXfer s t id f) := by
  unfold Machine.errorXfer
  grind [endXfer_evolves, setLocal_evolves]

theorem moverNext_evolves (h : Evolves r s) (m) : Evolves r (moverNext s m) := by
  unfold Machine.moverNext
  grind [modMover_evolves, retryGone_evolves]

theorem moverDone_evolves (h : Evolves r s) (m) : Evolves r (moverDone s m) := by
  unfold Machine.moverDone
  grind [moverNext_evolves, modMover_evolves, signalTo_evolves]

theorem holdMover_evolves (h : Evolves r s) (m code ga va b wr) : Evolves r (holdMover s m code ga va b wr) := by
  unfold Machine.holdMover
  grind [addFault_evolves, modMover_evolves]

theorem killMover_evolves (h : Evolves r s) (m b) : Evolves r (killMover s m b) := by
  unfold Machine.killMover
  grind [modFab_evolves]

theorem endMover_evolves (h : Evolves r s) (m b) : Evolves r (endMover s m b) := by
  unfold Machine.endMover
  grind [Evolves.foldl, Evolves.update, Tile.MemOk, dropFault_evolves, killMover_evolves, modMover_evolves,
      moverDone_evolves]

theorem errorMover_evolves (h : Evolves r s) (m b) : Evolves r (errorMover s m b) := by
  unfold Machine.errorMover
  grind [endMover_evolves, setLocal_evolves]

theorem abandonOp_evolves (h : Evolves r s) (t o) : Evolves r (abandonOp s t o) := by
  unfold Machine.abandonOp
  grind [modOp_evolves, returnCredits_evolves, errorXfer_evolves, endXfer_evolves]

theorem abandonMover_evolves (h : Evolves r s) (m) : Evolves r (abandonMover s m) := by
  unfold Machine.abandonMover
  grind [modMover_evolves, errorMover_evolves, endMover_evolves]

theorem abandonTransfers_evolves (h : Evolves r s) : Evolves r (abandonTransfers s) := by
  unfold Machine.abandonTransfers
  grind [Evolves.foldl, Evolves.update, Tile.MemOk, abandonOp_evolves, abandonMover_evolves]

/-! ## Machine/Flags.lean -/

theorem applyMarks_evolves (h : Evolves r s) (mark) : Evolves r (applyMarks s mark) := by
  unfold Machine.applyMarks
  grind [Evolves.foldl, Evolves.update, Tile.MemOk, modPc_evolves, modLadder_evolves]

theorem appendRecords_evolves (h : Evolves r s) : Evolves r (appendRecords s) := by
  unfold Machine.appendRecords
  grind [Evolves.foldl, Evolves.update, Tile.MemOk, modLadder_evolves, modPc_evolves]

theorem relaxEntries_evolves (h : Evolves r s) : Evolves r (relaxEntries s) := by
  unfold Machine.relaxEntries
  grind [Evolves.foldl, Evolves.update, Tile.MemOk, modPc_evolves, modLadder_evolves]

theorem lowerGrads_evolves (h : Evolves r s) (qual) : Evolves r (lowerGrads s qual) := by
  unfold Machine.lowerGrads
  grind [Evolves.foldl, Evolves.update, Tile.MemOk, modPc_evolves, modLadder_evolves]

theorem sendTally_evolves (h : Evolves r s) (p) : Evolves r (sendTally s p) := by
  unfold Machine.sendTally
  grind [sendDirect_evolves]

theorem compareTally_evolves (h : Evolves r s) (e) : Evolves r (compareTally s e) := by
  unfold Machine.compareTally
  grind [modCm_evolves, setLocal_evolves, ledger_evolves]

theorem compareTallies_evolves (h : Evolves r s) : Evolves r (compareTallies s) := by
  unfold Machine.compareTallies
  grind [Evolves.foldl, Evolves.update, Tile.MemOk, compareTally_evolves]

theorem reportStep_evolves (h : Evolves r s) (discarded rolled) : Evolves r (reportStep s discarded rolled) := by
  unfold Machine.reportStep
  grind [complete_evolves, modStg_evolves]

theorem clearVotes_evolves (h : Evolves r s) : Evolves r (clearVotes s) := by
  unfold Machine.clearVotes
  grind [modCm_evolves]

theorem clearAcks_evolves (h : Evolves r s) : Evolves r (clearAcks s) := by
  unfold Machine.clearAcks
  grind [modCm_evolves]

theorem toChildren_evolves (h : Evolves r s) (m) : Evolves r (toChildren s m) := by
  unfold Machine.toChildren
  grind [Evolves.foldl, Evolves.update, Tile.MemOk, sendDirect_evolves]

theorem answerQueriers_evolves (h : Evolves r s) (step m last) : Evolves r (answerQueriers s step m last) := by
  unfold Machine.answerQueriers
  grind [Evolves.foldl, Evolves.update, Tile.MemOk, sendDirect_evolves, modCm_evolves]

theorem doRelease_evolves (h : Evolves r s) (rolled) : Evolves r (doRelease s rolled) := by
  unfold Machine.doRelease
  dsimp only
  grind (splits := 40) (gen := 30) (ematch := 30) [toChildren_evolves, answerQueriers_evolves, reportStep_evolves,
      clearAcks_evolves, modCm_evolves, modStg_evolves]

theorem tryAck_evolves (h : Evolves r s) : Evolves r (tryAck s) := by
  unfold Machine.tryAck
  grind [doRelease_evolves, modCm_evolves, sendDirect_evolves]

theorem doCommit_evolves (h : Evolves r s) (a) : Evolves r (doCommit s a) := by
  unfold Machine.doCommit
  dsimp only
  grind (splits := 40) (gen := 30) (ematch := 30) [appendRecords_evolves, lowerGrads_evolves, applyMarks_evolves,
      relaxEntries_evolves, modPc_evolves, modMem_evolves, modStg_evolves, modCm_evolves, clearVotes_evolves,
      tryAck_evolves]

theorem doDiscard_evolves (h : Evolves r s) (a) : Evolves r (doDiscard s a) := by
  unfold Machine.doDiscard
  grind [applyMarks_evolves, modPc_evolves, modStg_evolves, clearAcks_evolves, clearVotes_evolves,
      reportStep_evolves]

theorem takeResult_evolves (h : Evolves r s) (a commit) : Evolves r (takeResult s a commit) := by
  unfold Machine.takeResult
  grind [modCm_evolves, answerQueriers_evolves, toChildren_evolves, doCommit_evolves, doDiscard_evolves]

theorem rootDecide_evolves (h : Evolves r s) (a) : Evolves r (rootDecide s a) := by
  unfold Machine.rootDecide
  grind [takeResult_evolves]

theorem sendQueries_evolves (h : Evolves r s) : Evolves r (sendQueries s) := by
  unfold Machine.sendQueries
  grind [Evolves.foldl, Evolves.update, Tile.MemOk, sendDirect_evolves, modCm_evolves]

theorem orphanQuery_evolves (h : Evolves r s) : Evolves r (orphanQuery s) := by
  unfold Machine.orphanQuery
  grind [sendQueries_evolves]

theorem tryVote_evolves (h : Evolves r s) : Evolves r (tryVote s) := by
  unfold Machine.tryVote
  grind [modCm_evolves, rootDecide_evolves, orphanQuery_evolves, sendDirect_evolves]

theorem localComplete_evolves (h : Evolves r s) : Evolves r (localComplete s) := by
  unfold Machine.localComplete
  grind [Evolves.foldl, Evolves.update, Tile.MemOk, setLocal_evolves, modStg_evolves, sendTally_evolves,
      tryVote_evolves, compareTallies_evolves]

theorem sendAbandon_evolves (h : Evolves r s) : Evolves r (sendAbandon s) := by
  unfold Machine.sendAbandon
  grind [Evolves.foldl, Evolves.update, Tile.MemOk, modCm_evolves, sendDirect_evolves]

theorem abandonStep_evolves (h : Evolves r s) : Evolves r (abandonStep s) := by
  unfold Machine.abandonStep
  dsimp only
  grind (splits := 40) (gen := 30) (ematch := 30) [setLocal_evolves, modStg_evolves, ledger_evolves,
      freezeAll_evolves, abandonTransfers_evolves, sendAbandon_evolves, tryVote_evolves]

theorem abandonCause_evolves (h : Evolves r s) : Evolves r (abandonCause s) := by
  unfold Machine.abandonCause
  grind [sendAbandon_evolves, setLocal_evolves, abandonStep_evolves]

theorem shardFail_evolves (h : Evolves r s) : Evolves r (shardFail s) := by
  unfold Machine.shardFail
  grind [modCm_evolves, setLocal_evolves, abandonStep_evolves]

theorem slotFault_evolves (h : Evolves r s) (t th src res slot reason) : Evolves r (slotFault s t th src res slot
    reason) := by
  unfold Machine.slotFault
  grind [Evolves.foldl, Evolves.update, Tile.MemOk, setCtx_evolves, modTile_evolves, ledger_evolves,
      freezeGang_evolves, abandonStep_evolves, setLocal_evolves]

/-! ## Machine/Sched.lean -/

theorem beginIssue_evolves (h : Evolves r s) (t th) : Evolves r (beginIssue s t th) := by
  unfold Machine.beginIssue
  exact modTile_evolves (noteEvents_evolves h ..) _ _ fun w => (raiseFills_ok w _ _).rest ..

theorem countIssue_evolves (h : Evolves r s) (t) : Evolves r (countIssue s t) := by
  unfold Machine.countIssue
  grind [Evolves.foldl, Evolves.update, Tile.MemOk, modTile_evolves]

theorem issueOk_evolves (h : Evolves r s) (t th f) : Evolves r (issueOk s t th f) := by
  unfold Machine.issueOk
  grind [countIssue_evolves, setCtx_evolves]

theorem issueFault_evolves (h : Evolves r s) (t th reason) : Evolves r (issueFault s t th reason) := by
  unfold Machine.issueFault
  grind [slotFault_evolves]

theorem issued_evolves (h : Evolves r s) (t th i body) (hf : ∀ x , Evolves r x → Evolves r (body x )) : Evolves r
    (issued s t th i body) := by
  unfold Machine.issued
  grind [beginIssue_evolves]

theorem launch_evolves (h : Evolves r s) (t th ts us hazard mk) : Evolves r (launch s t th ts us hazard mk) := by
  unfold Machine.launch
  grind [Evolves.foldl, Evolves.update, Tile.MemOk, slotFault_evolves, issueFault_evolves, modTile_evolves,
      issueOk_evolves]

end Sys2Proof.Machine
end

