-- ==== Sys2Proof/Laws/EvolvesTile.lean ====
section
/-! SUPPORT. `Evolves`, one lemma per operation: thread instructions, unit events, seams and the step guard. -/

namespace Sys2Proof.Machine

set_option Elab.async false

/-- The answer is a next state that may come after `s`. -/
def ResOk (s : State) : Res → Prop
  | .next t => Evolves s t
  | _ => False

theorem resOk_next (s t : State) : ResOk s (.next t) = Evolves s t := rfl

variable {r s : State}

/-! ## Machine/Scalar.lean -/

theorem scalar_evolves (h : Evolves r s) (t th i next f) : Evolves r (scalar s t th i next f) := by
  unfold Machine.scalar
  grind [issued_evolves, issueOk_evolves, issueFault_evolves]

theorem alu_evolves (h : Evolves r s) (t th i sd sa sb op) : Evolves r (alu s t th i sd sa sb op) := by
  unfold Machine.alu
  grind [scalar_evolves]

theorem branch_evolves (h : Evolves r s) (t th i sa sb imm cmp) : Evolves r (branch s t th i sa sb imm cmp) := by
  unfold Machine.branch
  grind [scalar_evolves]

theorem execAdd_evolves (h : Evolves r s) (t th sd sa sb) : ResOk r (execAdd t th sd sa sb s) := by
  unfold Machine.execAdd
  grind [resOk_next, alu_evolves]

theorem execSub_evolves (h : Evolves r s) (t th sd sa sb) : ResOk r (execSub t th sd sa sb s) := by
  unfold Machine.execSub
  grind [resOk_next, alu_evolves]

theorem execAnd_evolves (h : Evolves r s) (t th sd sa sb) : ResOk r (execAnd t th sd sa sb s) := by
  unfold Machine.execAnd
  grind [resOk_next, alu_evolves]

theorem execOr_evolves (h : Evolves r s) (t th sd sa sb) : ResOk r (execOr t th sd sa sb s) := by
  unfold Machine.execOr
  grind [resOk_next, alu_evolves]

theorem execXor_evolves (h : Evolves r s) (t th sd sa sb) : ResOk r (execXor t th sd sa sb s) := by
  unfold Machine.execXor
  grind [resOk_next, alu_evolves]

theorem execShl_evolves (h : Evolves r s) (t th sd sa sb) : ResOk r (execShl t th sd sa sb s) := by
  unfold Machine.execShl
  grind [resOk_next, alu_evolves]

theorem execShr_evolves (h : Evolves r s) (t th sd sa sb) : ResOk r (execShr t th sd sa sb s) := by
  unfold Machine.execShr
  grind [resOk_next, alu_evolves]

theorem execSra_evolves (h : Evolves r s) (t th sd sa sb) : ResOk r (execSra t th sd sa sb s) := by
  unfold Machine.execSra
  grind [resOk_next, alu_evolves]

theorem execMul_evolves (h : Evolves r s) (t th sd sa sb) : ResOk r (execMul t th sd sa sb s) := by
  unfold Machine.execMul
  grind [resOk_next, alu_evolves]

theorem execSltu_evolves (h : Evolves r s) (t th sd sa sb) : ResOk r (execSltu t th sd sa sb s) := by
  unfold Machine.execSltu
  grind [resOk_next, alu_evolves]

theorem execSlt_evolves (h : Evolves r s) (t th sd sa sb) : ResOk r (execSlt t th sd sa sb s) := by
  unfold Machine.execSlt
  grind [resOk_next, alu_evolves]

theorem execAddi_evolves (h : Evolves r s) (t th sd sa imm) : ResOk r (execAddi t th sd sa imm s) := by
  unfold Machine.execAddi
  grind [resOk_next, scalar_evolves]

theorem execLi_evolves (h : Evolves r s) (t th sd imm) : ResOk r (execLi t th sd imm s) := by
  unfold Machine.execLi
  grind [resOk_next, scalar_evolves]

theorem execJmp_evolves (h : Evolves r s) (t th imm) : ResOk r (execJmp t th imm s) := by
  unfold Machine.execJmp
  grind [resOk_next, scalar_evolves]

theorem execJal_evolves (h : Evolves r s) (t th sd imm) : ResOk r (execJal t th sd imm s) := by
  unfold Machine.execJal
  grind [resOk_next, scalar_evolves]

theorem execJr_evolves (h : Evolves r s) (t th sa) : ResOk r (execJr t th sa s) := by
  unfold Machine.execJr
  grind [resOk_next, scalar_evolves]

theorem execBeq_evolves (h : Evolves r s) (t th sa sb imm) : ResOk r (execBeq t th sa sb imm s) := by
  unfold Machine.execBeq
  grind [resOk_next, branch_evolves]

theorem execBne_evolves (h : Evolves r s) (t th sa sb imm) : ResOk r (execBne t th sa sb imm s) := by
  unfold Machine.execBne
  grind [resOk_next, branch_evolves]

theorem execBltu_evolves (h : Evolves r s) (t th sa sb imm) : ResOk r (execBltu t th sa sb imm s) := by
  unfold Machine.execBltu
  grind [resOk_next, branch_evolves]

theorem execBgeu_evolves (h : Evolves r s) (t th sa sb imm) : ResOk r (execBgeu t th sa sb imm s) := by
  unfold Machine.execBgeu
  grind [resOk_next, branch_evolves]

theorem execBlt_evolves (h : Evolves r s) (t th sa sb imm) : ResOk r (execBlt t th sa sb imm s) := by
  unfold Machine.execBlt
  grind [resOk_next, branch_evolves]

theorem execBge_evolves (h : Evolves r s) (t th sa sb imm) : ResOk r (execBge t th sa sb imm s) := by
  unfold Machine.execBge
  grind [resOk_next, branch_evolves]

theorem execNopInstruction_evolves (h : Evolves r s) (t th) : ResOk r (execNopInstruction t th s) := by
  unfold Machine.execNopInstruction
  grind [resOk_next, scalar_evolves]

theorem execHalt_evolves (h : Evolves r s) (t th) : ResOk r (execHalt t th s) := by
  unfold Machine.execHalt
  grind [resOk_next, scalar_evolves]

theorem execRdtr_evolves (h : Evolves r s) (t th sd sa imm) : ResOk r (execRdtr t th sd sa imm s) := by
  unfold Machine.execRdtr
  grind [resOk_next, issued_evolves, issueFault_evolves, modTile_evolves, issueOk_evolves]

theorem execRdsys_evolves (h : Evolves r s) (t th sd imm) : ResOk r (execRdsys t th sd imm s) := by
  unfold Machine.execRdsys
  grind [resOk_next, issued_evolves, issueFault_evolves, issueOk_evolves]

theorem execWait_evolves (h : Evolves r s) (t th sa cnt imm) : ResOk r (execWait t th sa cnt imm s) := by
  unfold Machine.execWait
  grind [resOk_next, scalar_evolves]

theorem execSignal_evolves (h : Evolves r s) (t th cnt amt) : ResOk r (execSignal t th cnt amt s) := by
  unfold Machine.execSignal
  grind [resOk_next, issued_evolves, issueFault_evolves, issueOk_evolves, signalLocal_evolves]

theorem execPressPoint_evolves (h : Evolves r s) (t th cnt round) : ResOk r (execPressPoint t th cnt round s) := by
  unfold Machine.execPressPoint
  grind (splits := 40) (gen := 30) (ematch := 30) [closeInterval_ok, Evolves.foldl, Evolves.update, Tile.MemOk,
      resOk_next, issued_evolves, issueFault_evolves, issueOk_evolves, modTile_evolves]

theorem execSeam_evolves (h : Evolves r s) (t th no tset) : ResOk r (execSeam t th no tset s) := by
  unfold Machine.execSeam
  grind [resOk_next, issued_evolves, issueFault_evolves, slotFault_evolves, issueOk_evolves]

/-! ## Machine/Issue.lean -/

theorem issueOp_evolves (h : Evolves r s) (t th i f optype kind off plan after) (hf : ∀ x y0 y1, Evolves r x →
    Evolves r (after x y0 y1)) : Evolves r (issueOp s t th i f optype kind off plan after) := by
  unfold Machine.issueOp
  grind [issued_evolves, issueFault_evolves, launch_evolves]

theorem countSkipped_evolves (h : Evolves r s) (n) : Evolves r (countSkipped s n) := by
  unfold Machine.countSkipped
  grind [modPc_evolves]

theorem afterMatrix_evolves (h : Evolves r s) (t n d) : Evolves r (afterMatrix t s n d) := by
  unfold Machine.afterMatrix
  grind (splits := 40) (gen := 30) (ematch := 30) [capture_ok, Evolves.foldl, Evolves.update, Tile.MemOk,
      modOp_evolves, countSkipped_evolves, modPc_evolves, setTile_evolves]

theorem execMatrix_evolves (h : Evolves r s) (t th f) : ResOk r (execMatrix t th f s) := by
  unfold Machine.execMatrix
  grind [resOk_next, issueOp_evolves, afterMatrix_evolves]

theorem execMatvec_evolves (h : Evolves r s) (t th f) : ResOk r (execMatvec t th f s) := by
  unfold Machine.execMatvec
  grind [resOk_next, issueOp_evolves]

theorem execVector_evolves (h : Evolves r s) (t th f) : ResOk r (execVector t th f s) := by
  unfold Machine.execVector
  grind [resOk_next, issueOp_evolves]

theorem execXfer_evolves (h : Evolves r s) (t th f) : ResOk r (execXfer t th f s) := by
  unfold Machine.execXfer
  grind (splits := 40) (gen := 30) (ematch := 30) [setOut_ok, Evolves.foldl, Evolves.update, Tile.MemOk,
      resOk_next, modTile_evolves, issued_evolves, issueFault_evolves, issueOp_evolves]

theorem execDload_evolves (h : Evolves r s) (t th f) : ResOk r (execDload t th f s) := by
  unfold Machine.execDload
  grind [resOk_next, issued_evolves, issueFault_evolves, launch_evolves]

theorem issueNet_evolves (h : Evolves r s) (t th i f kind port) : Evolves r (issueNet s t th i f kind port) := by
  unfold Machine.issueNet
  grind [issued_evolves, issueFault_evolves, launch_evolves]

theorem execSend_evolves (h : Evolves r s) (t th f) : ResOk r (execSend t th f s) := by
  unfold Machine.execSend
  grind [resOk_next, issueNet_evolves]

theorem execRecv_evolves (h : Evolves r s) (t th f) : ResOk r (execRecv t th f s) := by
  unfold Machine.execRecv
  grind [resOk_next, issueNet_evolves]

/-! ## Machine/UnitEvents.lean -/

theorem attachReqs_evolves (h : Evolves r s) (t rs) : Evolves r (attachReqs s t rs) := by
  unfold Machine.attachReqs
  grind [Evolves.foldl, Evolves.update, Tile.MemOk, modTile_evolves, modPc_evolves]

theorem opSignal_evolves (h : Evolves r s) (t o) : Evolves r (opSignal s t o) := by
  unfold Machine.opSignal
  grind [signalLocal_evolves]

theorem hazardOp_evolves (h : Evolves r s) (t o) : Evolves r (hazardOp t s o) := by
  unfold Machine.hazardOp
  grind [Evolves.foldl, Evolves.update, Tile.MemOk, modOp_evolves, modTile_evolves, slotFault_evolves]

theorem hazardDue_evolves (h : Evolves r s) (t) : Evolves r (hazardDue s t) := by
  unfold Machine.hazardDue
  grind [Evolves.foldl, Evolves.update, Tile.MemOk, hazardOp_evolves]

theorem leavePort_evolves (h : Evolves r s) (t port c f) : Evolves r (leavePort s t port c f) := by
  unfold Machine.leavePort
  grind [Evolves.update]

theorem takeFlit_evolves (h : Evolves r s) (t port f) : Evolves r (takeFlit s t port f) := by
  unfold Machine.takeFlit
  grind (splits := 40) (gen := 30) (ematch := 30) [SMap.wf_setBeat, Evolves.foldl, Evolves.update, Tile.MemOk,
      leavePort_evolves, modTile_evolves, modOp_evolves, slotFault_evolves]

theorem useDrain_evolves (h : Evolves r s) (t port) : Evolves r (useDrain s t port) := by
  unfold Machine.useDrain
  grind [Evolves.foldl, Evolves.update, Tile.MemOk, modTile_evolves]

theorem leaveBridge_evolves (h : Evolves r s) (t f) : Evolves r (leaveBridge s t f) := by
  unfold Machine.leaveBridge
  grind [Evolves.update]

theorem execInboundFlit_evolves (h : Evolves r s) (t port f) : ResOk r (execInboundFlit t port f s) := by
  unfold Machine.execInboundFlit
  grind [Evolves.foldl, Evolves.update, Tile.MemOk, resOk_next, takeFlit_evolves, leaveBridge_evolves,
      useDrain_evolves]

theorem hamperErrors_evolves (h : Evolves r s) (t ce ue) : Evolves r (hamperErrors s t ce ue) := by
  unfold Machine.hamperErrors
  refine Evolves.foldl _ _ (fun x b hx => ?_) (modStg_evolves h _)
  exact ledger_evolves ((modStg_evolves (setLocal_evolves hx _) _).drawn _ (Nat.le_succ _)) ..

theorem noteHwm_evolves (h : Evolves r s) (k e) : Evolves r (noteHwm s k e) := by
  unfold Machine.noteHwm
  grind [modStg_evolves]

theorem readLocal_evolves (h : Evolves r s) (t o a) : Evolves r (readLocal s t o a).2 := by
  unfold Machine.readLocal
  grind [hamperErrors_evolves]

theorem readNext_evolves (h : Evolves r s) (t id) : Evolves r (readNext s t id) := by
  unfold Machine.readNext
  grind [readLocal_evolves, modOp_evolves]

theorem writeNext_evolves (h : Evolves r s) (t id) : Evolves r (writeNext s t id) := by
  unfold Machine.writeNext
  split
  · exact h
  · split
    · exact h
    · split
      · exact h
      · refine noteHwm_evolves (modOp_evolves (modTile_evolves h _ _ fun w => ?_) ..) ..
        exact setKindMem_ok w _ _ (SMap.wf_setBeat _ _ _ (kindMem_ok w _))

theorem xferCycle_evolves (h : Evolves r s) (t o) : Evolves r (xferCycle t s o) := by
  unfold Machine.xferCycle
  grind [readNext_evolves, writeNext_evolves]

theorem foundWords_evolves (h : Evolves r s) (t id ce ue) : Evolves r (foundWords s t id ce ue) := by
  unfold Machine.foundWords
  grind [modOp_evolves]

theorem copyRest_evolves (h : Evolves r s) (t o) : Evolves r (copyRest s t o) := by
  unfold Machine.copyRest
  grind [Evolves.foldl, Evolves.update, Tile.MemOk, readNext_evolves, writeNext_evolves]

theorem sendNext_evolves (h : Evolves r s) (t id) : Evolves r (sendNext s t id) := by
  unfold Machine.sendNext
  grind [leavePort_evolves, modOp_evolves]

theorem sendCycle_evolves (h : Evolves r s) (t o) : Evolves r (sendCycle t s o) := by
  unfold Machine.sendCycle
  grind [sendNext_evolves]

theorem sendRest_evolves (h : Evolves r s) (t o) : Evolves r (sendRest s t o) := by
  unfold Machine.sendRest
  grind [Evolves.foldl, Evolves.update, Tile.MemOk, sendNext_evolves]

theorem startXfer_evolves (h : Evolves r s) (t o) : Evolves r (startXfer s t o) := by
  unfold Machine.startXfer
  grind [modOp_evolves, hamperErrors_evolves, requestAll_evolves]

theorem loadLatch_evolves (h : Evolves r s) (t o) : Evolves r (loadLatch s t o) := by
  unfold Machine.loadLatch
  grind [Evolves.foldl, Evolves.update, Tile.MemOk, modTile_evolves, signalLocal_evolves, dropOp_evolves]

theorem startMatrix_evolves (h : Evolves r s) (t o) : Evolves r (startMatrix s t o) := by
  unfold Machine.startMatrix
  grind (splits := 40) (gen := 30) (ematch := 30) [recapture_ok, Evolves.foldl, Evolves.update, Tile.MemOk,
      modTile_evolves, modOp_evolves]

theorem startVector_evolves (h : Evolves r s) (t o) : Evolves r (startVector s t o) := by
  unfold Machine.startVector
  grind [modOp_evolves]

theorem beginOp_evolves (h : Evolves r s) (t o) : Evolves r (beginOp s t o) := by
  unfold Machine.beginOp
  grind [modOp_evolves, startMatrix_evolves, startVector_evolves, startXfer_evolves, loadLatch_evolves]

theorem execOperationStart_evolves (h : Evolves r s) (t op) : ResOk r (execOperationStart t op s) := by
  unfold Machine.execOperationStart
  grind [resOk_next, beginOp_evolves]

theorem execMatrixComplete_evolves (h : Evolves r s) (t op) : ResOk r (execMatrixComplete t op s) := by
  unfold Machine.execMatrixComplete
  grind (splits := 40) (gen := 30) (ematch := 30) [pressCapture_ok, Evolves.foldl, Evolves.update, Tile.MemOk,
      resOk_next, modTile_evolves, opSignal_evolves, attachReqs_evolves, dropOp_evolves]

theorem execMatvecComplete_evolves (h : Evolves r s) (t op) : ResOk r (execMatvecComplete t op s) := by
  unfold Machine.execMatvecComplete
  grind (splits := 40) (gen := 30) (ematch := 30) [runMatvec_ok, Evolves.foldl, Evolves.update, Tile.MemOk,
      resOk_next, setTile_evolves, opSignal_evolves, attachReqs_evolves, dropOp_evolves]

theorem addRecord_evolves (h : Evolves r s) (n g) : Evolves r (addRecord s n g) := by
  unfold Machine.addRecord
  grind [modPc_evolves]

theorem execVectorComplete_evolves (h : Evolves r s) (t op) : ResOk r (execVectorComplete t op s) := by
  unfold Machine.execVectorComplete
  grind (splits := 40) (gen := 30) (ematch := 30) [runVector_ok, Evolves.foldl, Evolves.update, Tile.MemOk,
      resOk_next, setTile_evolves, addRecord_evolves, opSignal_evolves, attachReqs_evolves, dropOp_evolves]

theorem runConvert_evolves (h : Evolves r s) (t op) : Evolves r (runConvert s t op) := by
  unfold Machine.runConvert
  grind (splits := 40) (gen := 30) (ematch := 30) [setKindMem_ok, convert_ok, Evolves.foldl, Evolves.update,
      Tile.MemOk, modTile_evolves, noteHwm_evolves, attachReqs_evolves]

theorem execXferComplete_evolves (h : Evolves r s) (t op ce ue) : ResOk r (execXferComplete t op ce ue s) := by
  unfold Machine.execXferComplete
  grind [resOk_next, finishXfer_evolves, runConvert_evolves, copyRest_evolves, foundWords_evolves]

theorem execSendComplete_evolves (h : Evolves r s) (t op) : ResOk r (execSendComplete t op s) := by
  unfold Machine.execSendComplete
  grind [resOk_next, signalLocal_evolves, dropOp_evolves, sendRest_evolves]

theorem execRecvComplete_evolves (h : Evolves r s) (t op) : ResOk r (execRecvComplete t op s) := by
  unfold Machine.execRecvComplete
  grind [resOk_next, dropOp_evolves, signalLocal_evolves]

theorem execFetchFill_evolves (h : Evolves r s) (t bank) : ResOk r (execFetchFill t bank s) := by
  unfold Machine.execFetchFill
  grind [Evolves.foldl, Evolves.update, Tile.MemOk, resOk_next, modTile_evolves]

/-! ## Machine/Seam.lean -/

theorem holdGang_evolves (h : Evolves r s) (g) : Evolves r (holdGang s g) := by
  unfold Machine.holdGang
  grind (splits := 40) (gen := 30) (ematch := 30) [emptyTile_ok, Evolves.foldl, Evolves.update, Tile.MemOk,
      modGang_evolves, modTile_evolves]

theorem beginHold_evolves (h : Evolves r s) : Evolves r (beginHold s) := by
  unfold Machine.beginHold
  grind [Evolves.foldl, Evolves.update, Tile.MemOk, holdGang_evolves]

theorem endHold_evolves (h : Evolves r s) : Evolves r (endHold s) := by
  unfold Machine.endHold
  grind [Evolves.foldl, Evolves.update, Tile.MemOk, modGang_evolves]

theorem applyRaises_evolves (h : Evolves r s) (g rs) : Evolves r (applyRaises s g rs) := by
  unfold Machine.applyRaises
  grind [Evolves.foldl, Evolves.update, Tile.MemOk, modLadder_evolves]

theorem closePress_evolves (h : Evolves r s) (t) : Evolves r (closePress t s) := by
  unfold Machine.closePress
  grind [Evolves.foldl, Evolves.update, Tile.MemOk, countSkipped_evolves, escFail_evolves, signalLocal_evolves,
      modTile_evolves]

theorem stepSeam_evolves (h : Evolves r s) (g no) : Evolves r (stepSeam s g no) := by
  unfold Machine.stepSeam
  grind [modStg_evolves, localComplete_evolves]

theorem seamCycle_evolves (h : Evolves r s) (g) : Evolves r (seamCycle s g) := by
  unfold Machine.seamCycle
  grind [Evolves.foldl, Evolves.update, Tile.MemOk, applyRaises_evolves, closePress_evolves, modTile_evolves]

theorem gangCycle_evolves (h : Evolves r s) : Evolves r (gangCycle s) := by
  unfold Machine.gangCycle
  grind [Evolves.foldl, Evolves.update, Tile.MemOk, seamCycle_evolves, beginHold_evolves, endHold_evolves]

theorem execSeamTake_evolves (h : Evolves r s) (g) : ResOk r (execSeamTake g s) := by
  unfold Machine.execSeamTake
  grind (splits := 40) (gen := 30) (ematch := 30) [seamTile_ok, Evolves.foldl, Evolves.update, Tile.MemOk,
      resOk_next, modGang_evolves, modTile_evolves, stepSeam_evolves]

theorem leaveSeam_evolves (h : Evolves r s) (g) : Evolves r (leaveSeam s g) := by
  unfold Machine.leaveSeam
  grind (splits := 40) (gen := 30) (ematch := 30) [leaveTile_ok, Evolves.foldl, Evolves.update, Tile.MemOk,
      modGang_evolves, modFlt_evolves, modTile_evolves, slotFault_evolves]

theorem execSeamLeave_evolves (h : Evolves r s) (g) : ResOk r (execSeamLeave g s) := by
  unfold Machine.execSeamLeave
  grind [resOk_next, leaveSeam_evolves]

theorem pressCycle_evolves (h : Evolves r s) (t) : Evolves r (pressCycle s t) := by
  unfold Machine.pressCycle
  grind [Evolves.foldl, Evolves.update, Tile.MemOk, modTile_evolves]

theorem finishCheck_evolves (h : Evolves r s) (t v e) : Evolves r (finishCheck s t v e) := by
  unfold Machine.finishCheck
  grind [Evolves.foldl, Evolves.update, Tile.MemOk, modTile_evolves, modPc_evolves]

theorem execPressCheckComplete_evolves (h : Evolves r s) (t) : ResOk r (execPressCheckComplete t s) := by
  unfold Machine.execPressCheckComplete
  grind [resOk_next, finishCheck_evolves]

theorem failCase_evolves (a : Resol) (h : Evolves r a.s) : Evolves r (failCase a).s := escFail_evolves h

theorem markEntry_evolves (a : Resol) (n) (h : Evolves r a.s) : Evolves r (markEntry a n).s := by
  unfold Machine.markEntry
  grind [failCase_evolves, modPc_evolves, modStg_evolves]

theorem wantEntry_evolves (a : Resol) (n) (h : Evolves r a.s) : Evolves r (wantEntry a n).s := by
  unfold Machine.wantEntry
  grind

theorem raiseEntry_evolves (t) (a : Resol) (n) (h : Evolves r a.s) : Evolves r (raiseEntry t a n).s := by
  unfold Machine.raiseEntry
  grind [Tile.MemOk, failCase_evolves, modPc_evolves, modTile_evolves]

theorem resolveReq_evolves (t round) (a : Resol) (q) (h : Evolves r a.s) : Evolves r (resolveReq t round a q).s :=
    by
  have k1 : ∀ (l : List Nat) (a : Resol), Evolves r a.s → Evolves r (l.foldl markEntry a).s := by
    intro l
    induction l with
    | nil => exact fun a ha => ha
    | cons b l ih => exact fun a ha => ih _ (markEntry_evolves _ _ ha)
  have k2 : ∀ (l : List Nat) (a : Resol), Evolves r a.s → Evolves r (l.foldl wantEntry a).s := by
    intro l
    induction l with
    | nil => exact fun a ha => ha
    | cons b l ih => exact fun a ha => ih _ (wantEntry_evolves _ _ ha)
  unfold Machine.resolveReq
  grind [failCase_evolves]

theorem deliverVerdict_evolves (h : Evolves r s) (t v) : Evolves r (deliverVerdict s t v) := by
  unfold Machine.deliverVerdict
  have k1 : ∀ (l : List EscReq) (a : Resol), Evolves r a.s → Evolves r (l.foldl (resolveReq t v.round) a).s := by
    intro l
    induction l with
    | nil => exact fun a ha => ha
    | cons b l ih => exact fun a ha => ih _ (resolveReq_evolves _ _ _ _ ha)
  have k2 : ∀ (l : List Nat) (a : Resol), Evolves r a.s → Evolves r (l.foldl (raiseEntry t) a).s := by
    intro l
    induction l with
    | nil => exact fun a ha => ha
    | cons b l ih => exact fun a ha => ih _ (raiseEntry_evolves _ _ _ ha)
  exact signalLocal_evolves (modTile_evolves (k2 _ _ (k1 _ _ h)) _ _ fun w => ⟨w.1, w.2⟩) ..

theorem execPressVerdict_evolves (h : Evolves r s) (t) : ResOk r (execPressVerdict t s) := by
  unfold Machine.execPressVerdict
  grind [resOk_next, deliverVerdict_evolves]

/-! ## Machine/StepGuard.lean -/

theorem reloadTiles_evolves (h : Evolves r s) : Evolves r (reloadTiles s) := by
  unfold Machine.reloadTiles
  split
  · exact h
  · next k _ =>
    have go : ∀ (l : List (Nat × List Byte)) (m : SMap Byte), SMap.wf 0 m = true →
        SMap.wf 0 (l.foldl (fun m e => SMap.setBytes m e.1 e.2) m) = true := by
      intro l
      induction l with
      | nil => exact fun _ w => w
      | cons e l ih => exact fun m w => ih _ (SMap.wf_setBytes _ _ _ w)
    have k := Evolves.foldl (countReads s (keptNow s k).keep (keptNow s k).size).usedTiles
      (fun s' t => s'.modTile t (loadTile (imgTile (keptNow s k).img t)))
      (fun x b hx => modTile_evolves hx _ _ fun w => ⟨go _ _ w.1, w.2⟩) (countReads_evolves h (keptNow s k).keep
          (keptNow s k).size)
    exact k.maps _ _ _ _ _ _ _ _ _ _ _ _ _ _ _ _ _ [] _ _ (fun w => w.tiles) (fun w => w.mems) (fun _ => rfl)
      (fun w => w.movers) fun w => w.ports

theorem execStepStartSignal_evolves (h : Evolves r s) : ResOk r (execStepStartSignal s) := by
  unfold Machine.execStepStartSignal
  grind [Evolves.foldl, Evolves.update, Tile.MemOk, resOk_next, signalLocal_evolves, modStg_evolves]

theorem execDeadlineCheck_evolves (h : Evolves r s) : ResOk r (execDeadlineCheck s) := by
  unfold Machine.execDeadlineCheck
  grind [resOk_next, abandonStep_evolves, setLocal_evolves]

theorem execRewind_evolves (h : Evolves r s) : ResOk r (execRewind s) := by
  unfold Machine.execRewind
  grind [resOk_next, reloadTiles_evolves, modStg_evolves, reportStep_evolves]

theorem memberLost_evolves (h : Evolves r s) (mod) : Evolves r (memberLost s mod) := by
  unfold Machine.memberLost
  grind [modFlt_evolves, ledger_evolves, tryVote_evolves, orphanQuery_evolves]

end Sys2Proof.Machine
end

