-- ==== Sys2Proof/Laws/EvolvesFabric.lean ====
section
/-! SUPPORT. `Evolves`, one lemma per operation: rounds, links, movers, remote operations and transfers. -/

namespace Sys2Proof.Machine

set_option Elab.async false

variable {r s : State}

/-! ## Machine/Rounds.lean -/

theorem roundRow_evolves (h : Evolves r s) (p opc m step act) (hf : ∀ x , Evolves r x → Evolves r (act x )) :
    Evolves r (roundRow s p opc m step act) := by
  unfold Machine.roundRow
  grind [→ takeMsg_evolves]

theorem execTally_evolves (h : Evolves r s) (p m) : ResOk r (execTally p m s) := by
  unfold Machine.execTally
  grind [resOk_next, roundRow_evolves, modCm_evolves, tryVote_evolves, compareTallies_evolves]

theorem execVote_evolves (h : Evolves r s) (p m) : ResOk r (execVote p m s) := by
  unfold Machine.execVote
  grind [resOk_next, roundRow_evolves, tryVote_evolves, modCm_evolves]

theorem repeatAck_evolves (h : Evolves r s) (commit) : Evolves r (repeatAck s commit) := by
  unfold Machine.repeatAck
  grind [sendDirect_evolves]

theorem execResult_evolves (h : Evolves r s) (p m) : ResOk r (execResult p m s) := by
  unfold Machine.execResult
  grind [resOk_next, roundRow_evolves, repeatAck_evolves, modCm_evolves, takeResult_evolves]

theorem execFlipAck_evolves (h : Evolves r s) (p m) : ResOk r (execFlipAck p m s) := by
  unfold Machine.execFlipAck
  grind [resOk_next, roundRow_evolves, tryAck_evolves, modCm_evolves]

theorem execRelease_evolves (h : Evolves r s) (p m) : ResOk r (execRelease p m s) := by
  unfold Machine.execRelease
  grind [resOk_next, roundRow_evolves, doRelease_evolves]

theorem execQuery_evolves (h : Evolves r s) (p m) : ResOk r (execQuery p m s) := by
  unfold Machine.execQuery
  grind [resOk_next, → takeMsg_evolves, sendDirect_evolves, modCm_evolves]

theorem execAbandon_evolves (h : Evolves r s) (p m) : ResOk r (execAbandon p m s) := by
  unfold Machine.execAbandon
  grind [resOk_next, roundRow_evolves, abandonStep_evolves, modCm_evolves, abandonCause_evolves, tryVote_evolves]

theorem execRoundTimeout_evolves (h : Evolves r s) : ResOk r (execRoundTimeout s) := by
  unfold Machine.execRoundTimeout
  grind [resOk_next, sendQueries_evolves, modCm_evolves]

theorem execCommitHoldTimeout_evolves (h : Evolves r s) : ResOk r (execCommitHoldTimeout s) := by
  unfold Machine.execCommitHoldTimeout
  grind [resOk_next, modCm_evolves, ledger_evolves]

/-! ## Machine/Board.lean -/

theorem boardFlush_evolves (h : Evolves r s) (ok) : Evolves r (boardFlush s ok) := by
  have put : ∀ f b, (putCopy f b).idIdx = f.idIdx ∧ (putCopy f b).fwFloor = f.fwFloor ∧ (putCopy f b).brVer =
      f.brVer ∧
      (putCopy f b).ledger = f.ledger := by
    intro f b
    unfold putCopy
    split <;> exact ⟨rfl, rfl, rfl, rfl⟩
  obtain ⟨p1, p2, p3, p4⟩ := put s.trust.flash (nextField s.trust.flash s.trust.board)
  unfold Machine.boardFlush
  dsimp only
  split
  · next c =>
    refine modTrust_evolves h _ le_rfl (by rw [p1]) (by rw [p2]) ?_ p4
    simp only [Bool.and_eq_true, bne_iff_ne, ne_eq] at c
    have := c.2
    simp only
    bv_omega
  · exact ledger_evolves (modTrust_evolves h _ le_rfl (by rw [p1]) (by rw [p2]) (by rw [p3]) p4) ..

theorem boardSet_evolves (h : Evolves r s) (ok f) : Evolves r (boardSet s ok f) := by
  unfold Machine.boardSet
  grind [boardFlush_evolves, modTrust_evolves]

/-! ## Machine/Links.lean -/

theorem emitFrame_evolves (h : Evolves r s) (p token fk vc flit) : Evolves r (emitFrame s p token fk vc flit) := by
  unfold Machine.emitFrame
  grind [modPort_evolves, noteEvents_evolves]

theorem sendFlit_evolves (h : Evolves r s) (p vc det) : Evolves r (sendFlit s p vc det) := by
  unfold Machine.sendFlit
  grind [emitFrame_evolves, modGov_evolves, modPort_evolves]

theorem startMsg_evolves (h : Evolves r s) (p vc m) : Evolves r (startMsg s p vc m) := by
  unfold Machine.startMsg
  grind [modPort_evolves]

theorem plainFrame_evolves (h : Evolves r s) (p) : Evolves r (plainFrame s p) := by
  unfold Machine.plainFrame
  grind [emitFrame_evolves]

theorem tokenSlot_evolves (h : Evolves r s) (p vc) : Evolves r (tokenSlot s p vc) := by
  unfold Machine.tokenSlot
  grind [plainFrame_evolves, modGov_evolves, sendFlit_evolves, startMsg_evolves, modPort_evolves]

theorem detourSlot_evolves (h : Evolves r s) (p) : Evolves r (detourSlot s p) := by
  unfold Machine.detourSlot
  grind [emitFrame_evolves, modPort_evolves, plainFrame_evolves, sendFlit_evolves, startMsg_evolves]

theorem sendFrame_evolves (h : Evolves r s) (p) : Evolves r (sendFrame s p) := by
  unfold Machine.sendFrame
  grind [modPort_evolves, detourSlot_evolves, tokenSlot_evolves, plainFrame_evolves]

theorem portFail_evolves (h : Evolves r s) (p cause) : Evolves r (portFail s p cause) := by
  unfold Machine.portFail
  grind [modPort_evolves, sendDirect_evolves]

theorem laneFailing_evolves (h : Evolves r s) (p lane) : Evolves r (laneFailing s p lane) := by
  unfold Machine.laneFailing
  grind [portFail_evolves, modPort_evolves]

theorem correctedIn_evolves (h : Evolves r s) (p lanes) : Evolves r (correctedIn s p lanes) := by
  unfold Machine.correctedIn
  grind [Evolves.foldl, Evolves.update, Tile.MemOk, modPort_evolves, laneFailing_evolves]

theorem acceptMsg_evolves (h : Evolves r s) (p vc m) : Evolves r (acceptMsg s p vc m) := by
  unfold Machine.acceptMsg
  grind [modPort_evolves, oweCredits_evolves, transit_evolves, discard_evolves]

theorem icvFailure_evolves (h : Evolves r s) (p vc) : Evolves r (icvFailure s p vc) := by
  unfold Machine.icvFailure
  grind [modPort_evolves, portFail_evolves]

theorem takeFlitIn_evolves (h : Evolves r s) (p vc fsn flit) : Evolves r (takeFlitIn s p vc fsn flit) := by
  unfold Machine.takeFlitIn
  grind [modPort_evolves, icvFailure_evolves, acceptMsg_evolves]

theorem goodFrame_evolves (h : Evolves r s) (p x2 flit) : Evolves r (goodFrame s p x2 flit) := by
  unfold Machine.goodFrame
  grind [modPort_evolves, noteEvents_evolves, takeFlitIn_evolves]

theorem badFrame_evolves (h : Evolves r s) (p next) : Evolves r (badFrame s p next) := by
  unfold Machine.badFrame
  grind [modPort_evolves, portFail_evolves]

theorem execFrameReceive_evolves (h : Evolves r s) (p f) : ResOk r (execFrameReceive p f s) := by
  unfold Machine.execFrameReceive
  grind [resOk_next, correctedIn_evolves, badFrame_evolves, modPort_evolves, goodFrame_evolves]

theorem bridgeSend_evolves (h : Evolves r s) (c p) : Evolves r (bridgeSend c s p) := by
  unfold Machine.bridgeSend
  grind [modFab_evolves, oweCredits_evolves]

theorem bridgeCycle_evolves (h : Evolves r s) : Evolves r (bridgeCycle s) := by
  unfold Machine.bridgeCycle
  grind [Evolves.foldl, Evolves.update, Tile.MemOk, modFab_evolves, transitOut_evolves, bridgeSend_evolves]

theorem takeCtl_evolves (h : Evolves r s) (p ty flit) : ∀ t, takeCtl s p ty flit = some t → Evolves r t := by
  unfold Machine.takeCtl
  grind [modPort_evolves]

theorem sendCtl_evolves (h : Evolves r s) (p flit) : Evolves r (sendCtl s p flit) := by
  unfold Machine.sendCtl
  grind [modPort_evolves]

theorem enterUp_evolves (h : Evolves r s) (p epoch) : Evolves r (enterUp s p epoch) := by
  unfold Machine.enterUp
  grind [modPort_evolves]

theorem matchHello_evolves (h : Evolves r s) (p) : Evolves r (matchHello s p) := by
  unfold Machine.matchHello
  grind [enterUp_evolves, modPort_evolves, ledger_evolves]

theorem execHello_evolves (h : Evolves r s) (p flit) : ResOk r (execHello p flit s) := by
  unfold Machine.execHello
  grind [resOk_next, → takeCtl_evolves, matchHello_evolves, modPort_evolves]

theorem execLaneLockLoss_evolves (h : Evolves r s) (p lane) : ResOk r (execLaneLockLoss p lane s) := by
  unfold Machine.execLaneLockLoss
  grind [resOk_next, laneFailing_evolves]

theorem execLaneErrorWindow_evolves (h : Evolves r s) (p lane bytes) : ResOk r (execLaneErrorWindow p lane bytes s)
    := by
  unfold Machine.execLaneErrorWindow
  grind [resOk_next, laneFailing_evolves]

theorem noteSwap_evolves (h : Evolves r s) (p lane rx) : Evolves r (noteSwap s p lane rx) := by
  unfold Machine.noteSwap
  grind [modFab_evolves, modPort_evolves, draw_evolves, boardSet_evolves, ledger_evolves]

theorem execLaneSwap_evolves (h : Evolves r s) (p flit) : ResOk r (execLaneSwap p flit s) := by
  unfold Machine.execLaneSwap
  grind [resOk_next, → takeCtl_evolves, sendCtl_evolves, portFail_evolves, noteSwap_evolves, modPort_evolves]

theorem execLaneAck_evolves (h : Evolves r s) (p flit) : ResOk r (execLaneAck p flit s) := by
  unfold Machine.execLaneAck
  grind [resOk_next, → takeCtl_evolves, modPort_evolves, noteSwap_evolves]

theorem execDown_evolves (h : Evolves r s) (p flit) : ResOk r (execDown p flit s) := by
  unfold Machine.execDown
  grind [resOk_next, → takeCtl_evolves, portFail_evolves]

theorem execLinkSilence_evolves (h : Evolves r s) (p) : ResOk r (execLinkSilence p s) := by
  unfold Machine.execLinkSilence
  grind [resOk_next, portFail_evolves]

theorem resetCredits_evolves (h : Evolves r s) (p) : Evolves r (resetCredits s p) := by
  unfold Machine.resetCredits
  grind [sendCtl_evolves, modPort_evolves]

theorem settlePorts_evolves (h : Evolves r s) : Evolves r (settlePorts s) := by
  unfold Machine.settlePorts
  grind [Evolves.foldl, Evolves.update, Tile.MemOk, resetCredits_evolves]

theorem execRetrained_evolves (h : Evolves r s) (p flit) : ResOk r (execRetrained p flit s) := by
  unfold Machine.execRetrained
  grind [resOk_next, → takeCtl_evolves, resetCredits_evolves, modPort_evolves]

theorem portTrain_evolves (h : Evolves r s) (p) : Evolves r (portTrain s p) := by
  unfold Machine.portTrain
  grind [modPort_evolves, sendCtl_evolves, resetCredits_evolves]

theorem carryHeld_evolves (h : Evolves r s) : Evolves r (carryHeld s) := by
  unfold Machine.carryHeld
  grind [Evolves.foldl, Evolves.update, Tile.MemOk, enqPort_evolves, modPort_evolves, enqDetour_evolves]

theorem portBack_evolves (h : Evolves r s) (p) : Evolves r (portBack s p) := by
  unfold Machine.portBack
  grind [modPort_evolves, carryHeld_evolves, enterUp_evolves, sendCtl_evolves]

theorem execPortReturn_evolves (h : Evolves r s) (p peerIdle) : ResOk r (execPortReturn p peerIdle s) := by
  unfold Machine.execPortReturn
  grind [resOk_next, resetCredits_evolves, modPort_evolves, sendDirect_evolves]

/-! ## Machine/Movers.lean -/

theorem hostPut_evolves (h : Evolves r s) (addr bs) : Evolves r (hostPut s addr bs) := by
  unfold Machine.hostPut
  grind [modHost_evolves]

theorem windowPut_evolves (h : Evolves r s) (off ct) : Evolves r (windowPut s off ct) := by
  unfold Machine.windowPut
  grind [hwtFill_evolves, hostPut_evolves, hostSend_evolves]

theorem wtagPut_evolves (h : Evolves r s) (g ct) : Evolves r (wtagPut s g ct) := by
  unfold Machine.wtagPut
  grind [hostPut_evolves, hostSend_evolves]

theorem hostWinWrite_evolves (h : Evolves r s) (off d) : Evolves r (hostWinWrite s off d) := by
  unfold Machine.hostWinWrite
  grind [windowPut_evolves, wtagPut_evolves]

theorem mvPut_evolves (h : Evolves r s) (m e) : Evolves r (mvPut s m e) := by
  unfold Machine.mvPut
  grind [modMover_evolves]

theorem keepBeat_evolves (h : Evolves r s) (m d p) : Evolves r (keepBeat s m d p) := by
  unfold Machine.keepBeat
  grind [modMover_evolves]

theorem storeTo_evolves (h : Evolves r s) (m b va d p) : Evolves r (storeTo s m b va d p).1 := by
  unfold Machine.storeTo
  split
  · exact holdMover_evolves (keepBeat_evolves h ..) ..
  · dsimp only
    have k := tlbNote_evolves h (dieOfMover m) va
    split
    · split
      · exact drainPush_evolves k ..
      · exact hostWinWrite_evolves k ..
      · split
        · exact mvPut_evolves k ..
        · exact k
      · exact placeWrite_evolves k ..
    · split
      · next u hu => exact sendReq_evolves k _ _ _ _ _ _ _ hu
      · exact keepBeat_evolves h ..

theorem atPos_evolves (h : Evolves r s) (m n) : Evolves r (atPos s m n) := by
  unfold Machine.atPos
  grind [modMover_evolves]

theorem fetch_evolves (h : Evolves r s) (m b va win) : Evolves r (fetch s m b va win).s := by
  unfold Machine.fetch
  dsimp only
  split
  · dsimp only
    exact modMover_evolves h ..
  · split
    · exact h
    · split
      · exact holdMover_evolves h ..
      · have k := fun va => tlbNote_evolves h (dieOfMover m) va
        split
        · split
          · dsimp only
            exact modMover_evolves (drainPush_evolves (k _) ..) ..
          all_goals grind [hwtFill_evolves, drawBeat_evolves, placeRead_evolves]
        · split
          · next u hu =>
            dsimp only
            exact modMover_evolves (sendReq_evolves (k _) _ _ _ _ _ _ _ hu) ..
          · exact h

theorem copyRun_evolves (h : Evolves r s) (x0 x2 x3 x4) : Evolves r (copyRun x0 s x2 x3 x4) := by
  induction x0 generalizing s x4 with
  | zero => exact h
  | succ n ih =>
    unfold Machine.copyRun
    dsimp only
    split
    · exact h
    · split
      · exact fetch_evolves h ..
      · split
        · exact ih (atPos_evolves (storeTo_evolves (noteData_evolves (fetch_evolves h ..) _) ..) ..) _
        · exact storeTo_evolves (noteData_evolves (fetch_evolves h ..) _) ..

theorem atomicDo_evolves (h : Evolves r s) (off aop w64 o0 o1) : Evolves r (atomicDo s off aop w64 o0 o1).2.2 := by
  unfold Machine.atomicDo
  grind [dramRead_evolves, dramWriteBytes_evolves]

theorem atomicTarget_evolves (h : Evolves r s) (m d) : Evolves r (atomicTarget s m d) := by
  unfold Machine.atomicTarget
  dsimp only
  split
  · exact atPos_evolves h ..
  · split
    · exact h
    · split
      · exact holdMover_evolves h ..
      · have k := tlbNote_evolves h (dieOfMover m) (aTarget d)
        split
        · split
          · exact atPos_evolves (keepBeat_evolves (noteData_evolves (atomicDo_evolves k ..) _) ..) ..
          · exact holdMover_evolves k ..
        · split
          · next u hu => exact modMover_evolves (sendReq_evolves k _ _ _ _ _ _ _ hu) ..
          · exact k

theorem atomicRun_evolves (h : Evolves r s) (m d) : Evolves r (atomicRun s m d) := by
  unfold Machine.atomicRun
  grind [atomicTarget_evolves, modMover_evolves, storeTo_evolves, atPos_evolves]

theorem collSend_evolves (h : Evolves r s) (p b ga d data) : Evolves r (collSend s p b ga d data) := by
  unfold Machine.collSend
  grind [modCm_evolves, modFlt_evolves, sendDirect_evolves]

theorem collRun_evolves (h : Evolves r s) (x0 x2 x3 x4) : Evolves r (collRun x0 s x2 x3 x4) := by
  induction x0 generalizing s x4 with
  | zero => exact h
  | succ n ih =>
    unfold Machine.collRun
    dsimp only
    split
    · exact h
    · split
      · split
        · exact fetch_evolves h ..
        · exact ih (modMover_evolves (noteData_evolves (fetch_evolves h ..) _) ..) _
      · split
        · exact holdMover_evolves h ..
        · exact ih (modMover_evolves (collSend_evolves (tlbNote_evolves h ..) ..) ..) _

theorem permAdd_evolves (h : Evolves r s) (dir e j x) : Evolves r (permAdd s dir e j x) := by
  unfold Machine.permAdd
  grind [modCm_evolves]

theorem permBeats_evolves (h : Evolves r s) (x0 x2 x3 x4 x5) : Evolves r (permBeats x0 s x2 x3 x4 x5).1 := by
  induction x0 generalizing s x5 with
  | zero => exact h
  | succ n ih =>
    unfold Machine.permBeats
    grind (gen := 30) (ematch := 30) (splits := 40) [fetch_evolves, noteData_evolves, modMover_evolves,
        storeTo_evolves, permAdd_evolves]

theorem permRun_evolves (h : Evolves r s) (x0 x2 x3 x4) : Evolves r (permRun x0 s x2 x3 x4) := by
  induction x0 generalizing s x4 with
  | zero => exact h
  | succ n ih =>
    unfold Machine.permRun
    grind (gen := 30) (ematch := 30) (splits := 40) [fetch_evolves, noteData_evolves, modMover_evolves,
        permBeats_evolves, atPos_evolves]

theorem moverSettle_evolves (h : Evolves r s) (m) : Evolves r (moverSettle s m) := by
  unfold Machine.moverSettle
  grind [moverDone_evolves]

theorem moverRun_evolves (h : Evolves r s) (m win) : Evolves r (moverRun s m win) := by
  unfold Machine.moverRun
  grind [moverSettle_evolves, atomicRun_evolves, collRun_evolves, permRun_evolves, copyRun_evolves]

theorem moverTake_evolves (h : Evolves r s) (m row win) : Evolves r (moverTake s m row win) := by
  unfold Machine.moverTake
  grind [moverRun_evolves, modMover_evolves, modMem_evolves, moverNext_evolves, ledger_evolves]

theorem execMoverCopy_evolves (h : Evolves r s) (m win) : ResOk r (execMoverCopy m win s) := by
  unfold Machine.execMoverCopy
  grind [resOk_next, moverTake_evolves]

theorem execAtomicDescriptor_evolves (h : Evolves r s) (m) : ResOk r (execAtomicDescriptor m s) := by
  unfold Machine.execAtomicDescriptor
  grind [resOk_next, moverTake_evolves]

theorem execCollectiveDescriptor_evolves (h : Evolves r s) (m win) : ResOk r (execCollectiveDescriptor m win s) :=
    by
  unfold Machine.execCollectiveDescriptor
  grind [resOk_next, moverTake_evolves]

theorem execPermutationDescriptor_evolves (h : Evolves r s) (m win) : ResOk r (execPermutationDescriptor m win s)
    := by
  unfold Machine.execPermutationDescriptor
  grind [resOk_next, moverTake_evolves]

theorem settleMovers_evolves (h : Evolves r s) : Evolves r (settleMovers s) := by
  unfold Machine.settleMovers
  grind [Evolves.foldl, Evolves.update, Tile.MemOk, moverSettle_evolves]

theorem execFrameSend_evolves (h : Evolves r s) (p) : ResOk r (execFrameSend p s) := by
  unfold Machine.execFrameSend
  grind [resOk_next, settleMovers_evolves, sendFrame_evolves]

theorem beatLeaves_evolves (h : Evolves r s) (t o b) : Evolves r (beatLeaves s t o b) := by
  unfold Machine.beatLeaves
  grind [modOp_evolves, returnCredits_evolves]

theorem execMvEnq_evolves (h : Evolves r s) (t op m d) : ResOk r (execMvEnq t op m d s) := by
  unfold Machine.execMvEnq
  grind (splits := 40) (gen := 30) (ematch := 30) [Evolves.foldl, Evolves.update, Tile.MemOk, resOk_next,
      holdXfer_evolves, beatLeaves_evolves, mvPut_evolves]

/-! ## Machine/Copies.lean -/

theorem cmdFault_evolves (h : Evolves r s) (q code ga va b wr) : Evolves r (cmdFault s q code ga va b wr) := by
  unfold Machine.cmdFault
  grind [addFault_evolves]

theorem holdCopy_evolves (h : Evolves r s) (q code ga va b wr) : Evolves r (holdCopy s q code ga va b wr) := by
  unfold Machine.holdCopy
  grind [cmdFault_evolves, modMover_evolves]

theorem copyClear_evolves (h : Evolves r s) (q) : Evolves r (copyClear s q) := by
  unfold Machine.copyClear
  grind [Evolves.foldl, Evolves.update, Tile.MemOk, retryGone_evolves, dropFault_evolves, modMover_evolves,
      moverNext_evolves, killMover_evolves]

theorem copyFetch_evolves (h : Evolves r s) (q b va) : Evolves r (copyFetch s q b va).1 := by
  have tup : ∀ u (x : Option (Beat × Bool)), Evolves r u → Evolves r (u, x).1 := fun _ _ h => h
  unfold Machine.copyFetch
  dsimp only
  split
  · exact tup _ _ (modMover_evolves h ..)
  · split
    · exact h
    · split
      · exact holdCopy_evolves h ..
      · have k := tlbNote_evolves h (dieOfMover (copyMover q)) va
        split
        · split
          · exact tup _ _ (modMover_evolves (drainPush_evolves k ..) ..)
          · exact hwtFill_evolves k _
          · exact placeRead_evolves k _
        · split
          · next u hu => exact tup _ _ (modMover_evolves (sendReq_evolves k _ _ _ _ _ _ _ hu) ..)
          · exact k

theorem copyStore_evolves (h : Evolves r s) (q b va d) : Evolves r (copyStore s q b va d).1 := by
  unfold Machine.copyStore
  split
  · exact holdCopy_evolves h ..
  · dsimp only
    have k := tlbNote_evolves h (dieOfMover (copyMover q)) va
    split
    · split
      · exact drainPush_evolves k ..
      · exact hostWinWrite_evolves k ..
      · exact mvPut_evolves k ..
      · exact placeWrite_evolves k ..
    · split
      · next u hu => exact sendReq_evolves k _ _ _ _ _ _ _ hu
      · exact k

theorem winFault_evolves (h : Evolves r s) (q b off wr) : Evolves r (winFault s q b off wr) := by
  unfold Machine.winFault
  grind [cmdFault_evolves, hwinRefresh_evolves, modMem_evolves]

theorem winReady_evolves (h : Evolves r s) (q b off wr) : Evolves r (winReady s q b off wr).1 := by
  unfold Machine.winReady
  grind [hwtFill_evolves, winFault_evolves, modMover_evolves]

theorem addBytes_evolves (h : Evolves r s) (q n) : Evolves r (addBytes s q n) := by
  unfold Machine.addBytes
  grind [modSq_evolves]

theorem copyEnd_evolves (h : Evolves r s) (q st) : Evolves r (copyEnd s q st) := by
  unfold Machine.copyEnd
  grind [complete_evolves, copyClear_evolves]

theorem sigWord_evolves (h : Evolves r s) (w) : Evolves r (sigWord s w) := by
  unfold Machine.sigWord
  grind [signalRemote_evolves]

theorem copyInRun_evolves (h : Evolves r s) (x0 x2 x3 x4 x5 x6) : Evolves r (copyInRun x0 s x2 x3 x4 x5 x6).1 := by
  induction x0 generalizing s with
  | zero => exact h
  | succ n ih =>
    unfold Machine.copyInRun
    grind (gen := 30) (ematch := 30) (splits := 40) [winReady_evolves, copyStore_evolves, addBytes_evolves]

theorem flushGranule_evolves (h : Evolves r s) (off part) : Evolves r (flushGranule s off part) := by
  unfold Machine.flushGranule
  grind [Evolves.foldl, Evolves.update, Tile.MemOk, windowPut_evolves, wtagPut_evolves, hostWinWrite_evolves]

theorem copyOutRun_evolves (h : Evolves r s) (x0 x2 x3 x4 x5) : Evolves r (copyOutRun x0 s x2 x3 x4 x5).1 := by
  induction x0 generalizing s with
  | zero => exact h
  | succ n ih =>
    unfold Machine.copyOutRun
    grind (gen := 30) (ematch := 30) (splits := 40) [winReady_evolves, copyFetch_evolves, addBytes_evolves,
        modMover_evolves, modSq_evolves,
      flushGranule_evolves]

theorem inlineRun_evolves (h : Evolves r s) (x0 x2 x3 x4) : Evolves r (inlineRun x0 s x2 x3 x4).1 := by
  induction x0 generalizing s with
  | zero => exact h
  | succ n ih =>
    unfold Machine.inlineRun
    grind (gen := 30) (ematch := 30) (splits := 40) [copyStore_evolves, copyFetch_evolves, addBytes_evolves,
        holdCopy_evolves, dramWriteBytes_evolves,
      keepBeat_evolves]

theorem copyGo_evolves (h : Evolves r s) (q) : Evolves r (copyGo s q) := by
  unfold Machine.copyGo
  grind [copyInRun_evolves, copyEnd_evolves, sigWord_evolves, copyOutRun_evolves, inlineRun_evolves]

theorem copyStart_evolves (h : Evolves r s) (q e) : Evolves r (copyStart s q e) := by
  unfold Machine.copyStart
  grind [copyGo_evolves, modMover_evolves, mvPut_evolves]

theorem copyFail_evolves (h : Evolves r s) (q f) : Evolves r (copyFail s q f) := by
  unfold Machine.copyFail
  grind [copyClear_evolves, addBytes_evolves, flushGranule_evolves, copyEnd_evolves, modSq_evolves]

theorem copiesGo_evolves (h : Evolves r s) : Evolves r (copiesGo s) := by
  unfold Machine.copiesGo
  grind [Evolves.foldl, Evolves.update, Tile.MemOk, copyGo_evolves]

/-! ## Machine/Remote.lean -/

theorem wakeUp_evolves (h : Evolves r s) : Evolves r (wakeUp s) := by
  unfold Machine.wakeUp
  grind [Evolves.update]

theorem refuseAbandoned_evolves (h : Evolves r s) (m) : Evolves r (refuseAbandoned s m) := by
  unfold Machine.refuseAbandoned
  grind [respond_evolves, modFab_evolves, modFlt_evolves]

theorem holdReq_evolves (h : Evolves r s) (p far m) : Evolves r (holdReq s p far m) := by
  unfold Machine.holdReq
  grind [modFab_evolves, modMem_evolves]

theorem unhold_evolves (h : Evolves r s) (p m) : Evolves r (unhold s p m) := by
  unfold Machine.unhold
  grind [modMem_evolves]

theorem reqRow_evolves (h : Evolves r s) (p opc m act) (hf : ∀ x , Evolves r x → Evolves r (act x )) : Evolves r
    (reqRow s p opc m act) := by
  unfold Machine.reqRow
  grind [wakeUp_evolves, → takeMsg_evolves, modFab_evolves, unhold_evolves, refuseAbandoned_evolves,
      holdReq_evolves]

theorem writeBeats_evolves (h : Evolves r s) (m after) : Evolves r (writeBeats s m after).1 := by
  unfold Machine.writeBeats
  grind [Evolves.foldl, Evolves.update, Tile.MemOk, placeWrite_evolves, modFab_evolves]

theorem doWrite_evolves (h : Evolves r s) (p m) : Evolves r (doWrite s p m) := by
  unfold Machine.doWrite
  grind [respond_evolves, writeBeats_evolves]

theorem execWrite_evolves (h : Evolves r s) (p m) : ResOk r (execWrite p m s) := by
  unfold Machine.execWrite
  grind [resOk_next, reqRow_evolves, doWrite_evolves]

theorem doRead_evolves (h : Evolves r s) (p m) : Evolves r (doRead s p m) := by
  unfold Machine.doRead
  have key : ∀ (l : List Nat) (a : List Beat × Bool × State), Evolves r a.2.2 →
      Evolves r (l.foldl (fun (r : List Beat × Bool × State) a =>
        let (d, p, s) := placeRead r.2.2 (gaOff a)
        (r.1 ++ [d], r.2.1 || p, s)) a).2.2 := by
    intro l
    induction l with
    | nil => exact fun a ha => ha
    | cons b l ih => exact fun a ha => ih _ (placeRead_evolves ha _)
  dsimp only
  split
  · exact respond_evolves h ..
  · split
    · exact modFab_evolves h _
    · exact respond_evolves (key _ _ h) ..

theorem execRead_evolves (h : Evolves r s) (p m) : ResOk r (execRead p m s) := by
  unfold Machine.execRead
  grind [resOk_next, reqRow_evolves, doRead_evolves]

theorem doAtomic_evolves (h : Evolves r s) (m) : Evolves r (doAtomic s m) := by
  unfold Machine.doAtomic
  grind [respond_evolves, atomicDo_evolves]

theorem execAtomic_evolves (h : Evolves r s) (p m) : ResOk r (execAtomic p m s) := by
  unfold Machine.execAtomic
  grind [resOk_next, reqRow_evolves, doAtomic_evolves]

theorem doSignal_evolves (h : Evolves r s) (m) : Evolves r (doSignal s m) := by
  unfold Machine.doSignal
  grind [respond_evolves, modFab_evolves, signalRemote_evolves]

theorem holdSignal_evolves (h : Evolves r s) (p m) : Evolves r (holdSignal s p m) := by
  unfold Machine.holdSignal
  grind [modFlt_evolves, modFab_evolves, respond_evolves]

theorem execRemoteSignal_evolves (h : Evolves r s) (p m) : ResOk r (execRemoteSignal p m s) := by
  unfold Machine.execRemoteSignal
  grind [resOk_next, holdSignal_evolves, reqRow_evolves, doSignal_evolves]

theorem applySignalMsg_evolves (h : Evolves r s) (x1) : Evolves r (applySignalMsg s x1) := by
  unfold Machine.applySignalMsg
  dsimp only
  split
  · next ht _ => exact applySignal_evolves (takeMsg_evolves (modFab_evolves h _) _ _ _ _ ht) ..
  · next ht _ => exact takeMsg_evolves (modFab_evolves h _) _ _ _ _ ht
  · exact modFab_evolves h _

theorem serveHeld_evolves (h : Evolves r s) (x1) : Evolves r (serveHeld s x1) := by
  have key : ∀ u, Evolves r u → Evolves r (match takeMsg u x1.port (mOpc x1.msg) x1.msg with
      | none => u
      | some s =>
        if s.stg.st == .abandoned then refuseAbandoned s x1.msg
        else if mOpc x1.msg == 1 then doWrite s x1.port x1.msg
        else if mOpc x1.msg == 2 then doRead s x1.port x1.msg
        else doAtomic s x1.msg) := by
    grind [→ takeMsg_evolves, refuseAbandoned_evolves, doWrite_evolves, doRead_evolves, doAtomic_evolves]
  exact key _ (modMem_evolves h _ id id id id)

theorem resumeAll_evolves (h : Evolves r s) : Evolves r (resumeAll s) := by
  unfold Machine.resumeAll
  grind [Evolves.foldl, Evolves.update, Tile.MemOk, resumeRequests_evolves, copiesGo_evolves, moverRun_evolves]

theorem takeResponse_evolves (h : Evolves r s) (p opc m) : ∀ t, takeResponse s p opc m = some t → Evolves r t := by
  unfold Machine.takeResponse
  grind [→ takeMsg_evolves]

theorem rspRow_evolves (h : Evolves r s) (p opc m act) (hf : ∀ o x, Evolves r x → Evolves r (act o x)) : Evolves r
    (rspRow s p opc m act) := by
  unfold Machine.rspRow
  grind [→ takeResponse_evolves, → takeRsp_evolves, discard_evolves, resumeAll_evolves]

theorem execAck_evolves (h : Evolves r s) (p m) : ResOk r (execAck p m s) := by
  unfold Machine.execAck
  grind [resOk_next, rspRow_evolves]

theorem moverGot_evolves (h : Evolves r s) (m d p) : Evolves r (moverGot s m d p) := by
  unfold Machine.moverGot
  grind [modMover_evolves]

theorem execReadResp_evolves (h : Evolves r s) (p m) : ResOk r (execReadResp p m s) := by
  unfold Machine.execReadResp
  grind [Evolves.foldl, Evolves.update, Tile.MemOk, resOk_next, rspRow_evolves, beatArrive_evolves,
      moverGot_evolves]

theorem execAtomicResp_evolves (h : Evolves r s) (p m) : ResOk r (execAtomicResp p m s) := by
  unfold Machine.execAtomicResp
  grind [resOk_next, rspRow_evolves, moverGot_evolves]

theorem errorFault_evolves (h : Evolves r s) (x1) : Evolves r (errorFault s x1) := by
  unfold Machine.errorFault
  grind [holdXfer_evolves, modMover_evolves, holdCopy_evolves, holdMover_evolves]

theorem execError_evolves (h : Evolves r s) (p m) : ResOk r (execError p m s) := by
  unfold Machine.execError
  grind [resOk_next, → takeResponse_evolves, → takeRsp_evolves, discard_evolves, modFab_evolves, resumeAll_evolves,
      errorFault_evolves]

theorem failRequests_evolves (h : Evolves r s) (mod) : Evolves r (failRequests s mod) := by
  unfold Machine.failRequests
  grind [Evolves.foldl, Evolves.update, Tile.MemOk, loopErr_evolves]

theorem portsLost_evolves (h : Evolves r s) (mod) : Evolves r (portsLost s mod) := by
  unfold Machine.portsLost
  grind [Evolves.foldl, Evolves.update, Tile.MemOk, modPort_evolves]

theorem purgeRequests_evolves (h : Evolves r s) (mod) : Evolves r (purgeRequests s mod) := by
  unfold Machine.purgeRequests
  dsimp only
  refine Evolves.foldl _ _ (fun x b hx => respond_evolves hx ..) (Evolves.foldl _ _ (fun x b hx =>
      oweCredits_evolves hx ..)
    (modFab_evolves (h.ports _ fun _ => SMap.wf_remap ..) _))

theorem execLeave_evolves (h : Evolves r s) (p m) : ResOk r (execLeave p m s) := by
  unfold Machine.execLeave
  grind [resOk_next, → takeMsg_evolves, modFab_evolves, memberLost_evolves, purgeRequests_evolves,
      portsLost_evolves, failRequests_evolves]

theorem leaveRun_evolves (h : Evolves r s) (x0 x2) : Evolves r (leaveRun x0 s x2) := by
  induction x0 generalizing s with
  | zero => exact h
  | succ n ih =>
    unfold Machine.leaveRun
    dsimp only
    split
    · exact ih (sendFrame_evolves h _)
    · exact h

theorem leaveJob_evolves (h : Evolves r s) : Evolves r (leaveJob s) := by
  unfold Machine.leaveJob
  grind [Evolves.foldl, Evolves.update, Tile.MemOk, modPort_evolves, leaveRun_evolves, modGov_evolves]

theorem portCfgDone_evolves (h : Evolves r s) (p opcodeAction) : Evolves r (portCfgDone s p opcodeAction) := by
  unfold Machine.portCfgDone
  grind [Evolves.foldl, Evolves.update, Tile.MemOk, complete_evolves]

theorem execResync_evolves (h : Evolves r s) (p m) : ResOk r (execResync p m s) := by
  unfold Machine.execResync
  grind [resOk_next, → takeMsg_evolves, portFail_evolves, sendDirect_evolves, portBack_evolves]

theorem resend_evolves (h : Evolves r s) (p m) : Evolves r (resend p s m) := by
  unfold Machine.resend
  grind [enqPort_evolves]

theorem execResyncReply_evolves (h : Evolves r s) (p m) : ResOk r (execResyncReply p m s) := by
  unfold Machine.execResyncReply
  grind [Evolves.foldl, Evolves.update, Tile.MemOk, resOk_next, → takeMsg_evolves, portBack_evolves,
      modPort_evolves, resend_evolves, modFab_evolves, ledger_evolves, sendTally_evolves, portCfgDone_evolves]

theorem execResyncTimeout_evolves (h : Evolves r s) (p) : ResOk r (execResyncTimeout p s) := by
  unfold Machine.execResyncTimeout
  grind [resOk_next, modPort_evolves, portCfgDone_evolves, memberLost_evolves, ledger_evolves]

/-! ## Machine/Collect.lean -/

theorem setStream_evolves (h : Evolves r s) (x1) : Evolves r (setStream s x1) := by
  unfold Machine.setStream
  grind [modCm_evolves]

theorem tallyIn_evolves (h : Evolves r s) (p m) : Evolves r (tallyIn s p m) := by
  unfold Machine.tallyIn
  grind [modCm_evolves]

theorem shardIn_evolves (h : Evolves r s) (m) : Evolves r (shardIn s m) := by
  unfold Machine.shardIn
  grind [modCm_evolves, shardFail_evolves]

theorem passEnd_evolves (h : Evolves r s) (key pass) : Evolves r (passEnd s key pass) := by
  unfold Machine.passEnd
  grind [modCm_evolves, shardFail_evolves]

theorem streamSettle_evolves (h : Evolves r s) (x1) : Evolves r (streamSettle s x1) := by
  unfold Machine.streamSettle
  grind [Evolves.foldl, Evolves.update, Tile.MemOk, setStream_evolves, passEnd_evolves, signalRemote_evolves]

theorem acceptCput_evolves (h : Evolves r s) (p m) : Evolves r (acceptCput s p m) := by
  unfold Machine.acceptCput
  grind [streamSettle_evolves, shardIn_evolves]

theorem execCput_evolves (h : Evolves r s) (p m) : ResOk r (execCput p m s) := by
  have go : ∀ u q n, Evolves r u → Evolves r (match writeBeats u n (.cput q n) with
      | (s, done) => if done then acceptCput s q n else s) := by
    intro u q n hu
    have k := writeBeats_evolves hu n (.cput q n)
    split
    next a b e =>
      rw [e] at k
      split
      · exact acceptCput_evolves k _ _
      · exact k
  unfold Machine.execCput
  simp only [resOk_next]
  split
  · exact h
  · split
    · exact wakeUp_evolves h
    · split
      · exact h
      · next u hu =>
        have k := takeMsg_evolves h _ _ _ _ hu
        have k2 : ∀ c : Bool, Evolves r (tallyIn (if c then s.modFab fun f => { f with sigHeld := f.sigHeld ++ [(p,
            m)] } else u) p m) := by
          intro c
          refine tallyIn_evolves ?_ _ _
          split
          · exact modFab_evolves h _
          · exact k
        split
        · exact k
        · split
          · exact ledger_evolves (modCm_evolves (setLocal_evolves (k2 _) _) _) ..
          · exact go _ _ _ (k2 _)

/-! ## Machine/Tables.lean -/

theorem putLeaf_wf (n lvl t l) (b : Tables) (h : SMap.wf 0 b.words = true) :
    SMap.wf 0 (putLeaf n lvl t l b).words = true := by
  induction n generalizing lvl t b with
  | zero => exact h
  | succ n ih =>
    unfold putLeaf
    dsimp only
    split
    · exact SMap.wf_set _ _ _ _ h
    · split
      · exact ih _ _ _ h
      · exact ih _ _ _ (SMap.wf_set _ _ _ _ h)

theorem dieTables_wf {w : SMap DWord} (h : SMap.wf 0 w = true) (me rs die) :
    SMap.wf 0 (dieTables me rs w die) = true :=
  foldl_keep (P := fun b : Tables => SMap.wf 0 b.words = true) _ _ (fun b l hb => putLeaf_wf _ _ _ l b hb) ⟨w, _⟩ h

theorem buildTables_evolves (h : Evolves r s) (me rs) : Evolves r (buildTables s me rs) := by
  unfold Machine.buildTables
  exact modMem_evolves h _ id (fun _ => dieTables_wf (dieTables_wf rfl _ _ _) _ _ _) id fun _ =>
    SMap.wf_foldl_set _ _ _ _ _ rfl

theorem demandPte_evolves (h : Evolves r s) (va pg die) : Evolves r (demandPte s va pg die) := by
  unfold Machine.demandPte
  dsimp only
  split
  · exact modMem_evolves h _ id (fun w => SMap.wf_set _ _ _ _ w) id id
  · exact h

/-! ## Machine/Transfers.lean -/

theorem noteChanCe_evolves (h : Evolves r s) (off) : Evolves r (noteChanCe s off) := by
  unfold Machine.noteChanCe
  dsimp only
  split <;> exact modFlt_evolves h _ fun w => w

theorem memErrors_evolves (h : Evolves r s) (off ce ue) : Evolves r (memErrors s off ce ue) := by
  unfold Machine.memErrors
  extract_lets near pg s1 s2
  have e1 : Evolves r s1 := by
    dsimp only [s1]
    split
    · exact modMem_evolves (noteChanCe_evolves h off) _ (fun w => w) (fun w => w) (fun w => w) fun w => w
    · exact h
  have e2 : Evolves r s2 := by
    dsimp only [s2]
    split
    · exact modMem_evolves e1 _ (fun w => w) (fun w => w) (fun w => w) fun w => w
    · exact e1
  split
  · exact modMem_evolves e2 _ (fun w => w) (fun w => w) (fun w => w) fun w => w
  · exact e2

theorem useSlot_evolves (h : Evolves r s) (t bank) : Evolves r (useSlot s t bank) := by
  unfold Machine.useSlot
  grind [Evolves.foldl, Evolves.update, Tile.MemOk, modTile_evolves]

theorem corrupt_evolves (h : Evolves r s) (off bad) : Evolves r (corrupt s off bad) := by
  unfold Machine.corrupt
  split
  · exact h
  · refine modMem_evolves h _ (fun w => ?_) (fun w => ?_) (fun w => ?_) fun w => ?_ <;> dsimp only
    · exact SMap.wf_setBeat _ _ _ w
    all_goals exact w

theorem heldBack_evolves (h : Evolves r s) (off) : Evolves r (heldBack s off) := by
  unfold Machine.heldBack
  grind [modGov_evolves]

theorem execMemoryBeatReturn_evolves (h : Evolves r s) (t op beat win winOk ce ue) : ResOk r (execMemoryBeatReturn
    t op beat win winOk ce ue s) := by
  unfold Machine.execMemoryBeatReturn
  grind (splits := 40) (gen := 30) (ematch := 30) [Evolves.foldl, Evolves.update, Tile.MemOk, resOk_next,
      memErrors_evolves, corrupt_evolves, beatArrive_evolves, modOp_evolves, heldBack_evolves, dramRead_evolves,
      hwtFill_evolves, holdXfer_evolves, useSlot_evolves, placeRead_evolves]

theorem moverWake_evolves (h : Evolves r s) (m) : Evolves r (moverWake s m) := by
  unfold Machine.moverWake
  grind [copyGo_evolves, moverRun_evolves]

theorem drainAfter_evolves (h : Evolves r s) (e) : Evolves r (drainAfter s e) := by
  unfold Machine.drainAfter
  grind [respond_evolves, acceptCput_evolves, moverWake_evolves]

theorem drainRead_evolves (h : Evolves r s) (e d) : Evolves r (drainRead s e d) := by
  unfold Machine.drainRead
  grind [modFab_evolves, respond_evolves, moverWake_evolves, moverGot_evolves, modOp_evolves]

theorem execInboundDrain_evolves (h : Evolves r s) (t bank) : ResOk r (execInboundDrain t bank s) := by
  unfold Machine.execInboundDrain
  grind [resOk_next, scratchWrite_evolves, useSlot_evolves, modOp_evolves, drainRead_evolves, drainAfter_evolves,
      modFab_evolves]

theorem execOutboundBeatDrain_evolves (h : Evolves r s) (t chan) : ResOk r (execOutboundBeatDrain t chan s) := by
  unfold Machine.execOutboundBeatDrain
  simp only [resOk_next]
  have out : ∀ va o b u, Evolves r u → Evolves r (beatLeaves (spillWr u va) t o b) :=
    fun va o b u hu => beatLeaves_evolves (spillWr_evolves hu va) ..
  split
  · exact h
  · split
    · exact h
    · next va d _ _ =>
      split
      · exact holdXfer_evolves h ..
      · have k := tlbNote_evolves h (dieOfTile t) va
        split
        · split
          · exact k
          · exact out _ _ _ _ (hostWinWrite_evolves k ..)
          · split
            · exact out _ _ _ _ (scratchWrite_evolves (useSlot_evolves k ..) ..)
            · exact k
          · split
            · exact heldBack_evolves k _
            · exact out _ _ _ _ (placeWrite_evolves k ..)
        · split
          · next u hu => exact out _ _ _ _ (sendReq_evolves k _ _ _ _ _ _ _ hu)
          · exact k

theorem demandFill_evolves (h : Evolves r s) (va) : Evolves r (demandFill s va) := by
  unfold Machine.demandFill
  dsimp only
  split
  · exact h
  · next pg _ =>
    have k := Evolves.foldl [0, 1] (fun s die => demandPte s va pg die) (fun x b hx => demandPte_evolves hx ..) h
    exact modMem_evolves (fwDone_evolves (k.drawn _ (Nat.le_succ _)) _) _ (fun w => SMap.wf_dropRange _ _ _ _ w) id
      (fun w => SMap.wf_dropRange _ _ _ _ w) id

theorem faultResume_evolves (h : Evolves r s) (f) : Evolves r (faultResume s f) := by
  unfold Machine.faultResume
  grind [modMem_evolves, dropFault_evolves, copyGo_evolves, modMover_evolves, moverRun_evolves, requestAll_evolves,
      modOp_evolves]

theorem retryFault_evolves (h : Evolves r s) (f) : Evolves r (retryFault s f) := by
  unfold Machine.retryFault
  grind [demandFill_evolves, faultResume_evolves]

theorem errorOut_evolves (h : Evolves r s) (f) : Evolves r (errorOut s f) := by
  unfold Machine.errorOut
  grind [copyFail_evolves, errorMover_evolves, errorXfer_evolves]

theorem execFaultRetry_evolves (h : Evolves r s) (n) : ResOk r (execFaultRetry n s) := by
  unfold Machine.execFaultRetry
  grind [resOk_next, retryFault_evolves]

theorem execFaultError_evolves (h : Evolves r s) (n) : ResOk r (execFaultError n s) := by
  unfold Machine.execFaultError
  grind [resOk_next, errorOut_evolves]

theorem farTimeoutXfer_evolves (h : Evolves r s) (t op beat) : Evolves r (farTimeoutXfer s t op beat) := by
  unfold Machine.farTimeoutXfer
  grind [holdXfer_evolves]

theorem farTimeoutMover_evolves (h : Evolves r s) (m) : Evolves r (farTimeoutMover s m) := by
  unfold Machine.farTimeoutMover
  grind [holdCopy_evolves, holdMover_evolves, modMover_evolves]

theorem farTimeoutReq_evolves (h : Evolves r s) (p) : Evolves r (farTimeoutReq s p) := by
  unfold Machine.farTimeoutReq
  grind [holdReq_evolves]

theorem execFarResponseTimeout_evolves (h : Evolves r s) (t op beat) : ResOk r (execFarResponseTimeout t op beat s)
    := by
  unfold Machine.execFarResponseTimeout
  grind [resOk_next, farTimeoutXfer_evolves, farTimeoutMover_evolves, farTimeoutReq_evolves]

theorem execFarMissLimit_evolves (h : Evolves r s) (n) : ResOk r (execFarMissLimit n s) := by
  unfold Machine.execFarMissLimit
  grind [resOk_next, errorOut_evolves]

theorem execHwinLimit_evolves (h : Evolves r s) (n) : ResOk r (execHwinLimit n s) := by
  unfold Machine.execHwinLimit
  grind [resOk_next, errorOut_evolves]

theorem execFarRequestTimeout_evolves (h : Evolves r s) (n) : ResOk r (execFarRequestTimeout n s) := by
  unfold Machine.execFarRequestTimeout
  have key : ∀ (a : HeldReq) u, Evolves r u → Evolves r (match takeMsg u a.port (mOpc a.msg) a.msg with
      | some s => respond s a.msg 0x84 1 0 []
      | none => u) := by grind [→ takeMsg_evolves, respond_evolves]
  simp only [resOk_next]
  split
  · split
    · exact key _ _ (modMem_evolves h _ id id id id)
    · exact h
  · exact h

theorem execFarPortDown_evolves (h : Evolves r s) (p) : ResOk r (execFarPortDown p s) := by
  unfold Machine.execFarPortDown
  grind [Evolves.foldl, Evolves.update, Tile.MemOk, resOk_next, modMem_evolves, holdXfer_evolves]

theorem execFarPortUp_evolves (h : Evolves r s) (p) : ResOk r (execFarPortUp p s) := by
  unfold Machine.execFarPortUp
  grind [Evolves.foldl, Evolves.update, Tile.MemOk, resOk_next, modMem_evolves, serveHeld_evolves,
      retryFault_evolves]

theorem execFarPortEnumerated_evolves (h : Evolves r s) (p cap ide) : ResOk r (execFarPortEnumerated p cap ide s)
    := by
  unfold Machine.execFarPortEnumerated
  grind [resOk_next, modMem_evolves]

theorem execPageRetire_evolves (h : Evolves r s) (page) : ResOk r (execPageRetire page s) := by
  unfold Machine.execPageRetire
  rw [resOk_next]
  extract_lets s1 die n s2
  split
  · exact h
  · have e1 : Evolves r s1 := by
      refine modMem_evolves h _ ?_ ?_ ?_ ?_ <;> exact fun w => w
    split
    · exact pldm_evolves (ledger_evolves e1 ..) _
    · refine ledger_evolves (boardSet_evolves (modMem_evolves (draw_evolves (fwDone_evolves (countReads_evolves e1
        ..) _)) _
        (fun w => ?_) ?_ ?_ ?_) _ _) _ _ _ _ _
      · exact SMap.wf_foldl_set _ _ _ _ _ (SMap.wf_dropRange _ _ _ _ w)
      all_goals exact fun w => w

/-! ## Machine/Preempt.lean -/

theorem dropAcc_evolves (h : Evolves r s) : Evolves r (dropAcc s) := by
  unfold Machine.dropAcc
  grind [Evolves.foldl, Evolves.update, Tile.MemOk, modTile_evolves]

theorem saveFaults_evolves (h : Evolves r s) : Evolves r (saveFaults s) := by
  unfold Machine.saveFaults
  grind [Evolves.foldl, Evolves.update, Tile.MemOk, modMem_evolves, modTile_evolves]

theorem refillBeat_evolves (h : Evolves r s) (t id b) : Evolves r (refillBeat t id s b) := by
  unfold Machine.refillBeat
  grind [readLocal_evolves, modOp_evolves, drainPush_evolves]

theorem refillOp_evolves (h : Evolves r s) (t o) : Evolves r (refillOp t s o) := by
  unfold Machine.refillOp
  grind [Evolves.foldl, Evolves.update, Tile.MemOk, modOp_evolves, refillBeat_evolves]

theorem saveTile_evolves (h : Evolves r s) (t) : Evolves r (saveTile s t) := by
  unfold Machine.saveTile
  grind [rangePut_evolves]

theorem saveModule_evolves (h : Evolves r s) : Evolves r (saveModule s) := by
  unfold Machine.saveModule
  grind [rangePut_evolves]

theorem saveContext_evolves (h : Evolves r s) : Evolves r (saveContext s) := by
  unfold Machine.saveContext
  grind [Evolves.foldl, Evolves.update, Tile.MemOk, saveModule_evolves, saveTile_evolves]

theorem restoreTile_evolves (h : Evolves r s) (t) : Evolves r (restoreTile s t) := by
  unfold Machine.restoreTile
  exact modTile_evolves (countReads_evolves h ..) _ _ fun w => ⟨SMap.wf_foldl_set _ _ _ _ _ rfl, SMap.wf_foldl_set
      _ _ _ _ _ rfl⟩

theorem execPreemptSave_evolves (h : Evolves r s) : ResOk r (execPreemptSave s) := by
  unfold Machine.execPreemptSave
  grind (splits := 40) (gen := 30) (ematch := 30) [Evolves.foldl, Evolves.update, Tile.MemOk, resOk_next,
      saveContext_evolves, saveFaults_evolves, dropAcc_evolves, beginHold_evolves, complete_evolves, modStg_evolves]

theorem execSaveComplete_evolves (h : Evolves r s) : ResOk r (execSaveComplete s) := by
  unfold Machine.execSaveComplete
  grind [Evolves.foldl, Evolves.update, Tile.MemOk, resOk_next, complete_evolves]

theorem applyHeld_evolves (h : Evolves r s) : Evolves r (applyHeld s) := by
  unfold Machine.applyHeld
  grind [Evolves.foldl, Evolves.update, Tile.MemOk, applySignalMsg_evolves, applySignal_evolves, modFab_evolves]

theorem execRestoreComplete_evolves (h : Evolves r s) : ResOk r (execRestoreComplete s) := by
  unfold Machine.execRestoreComplete
  grind (splits := 40) (gen := 30) (ematch := 30) [Evolves.foldl, Evolves.update, Tile.MemOk, resOk_next,
      endHold_evolves, restoreTile_evolves, modMem_evolves, refillOp_evolves, applyHeld_evolves,
      hwinRefresh_evolves, modStg_evolves, abandonStep_evolves, complete_evolves]

end Sys2Proof.Machine
end

