-- ==== Sys2Proof/Laws/EvolvesGuard.lean ====
section
/-! SUPPORT. `Evolves`, one lemma per operation: binding, the governor, lacing and time. -/

namespace Sys2Proof.Machine

set_option Elab.async false

variable {r s : State}

/-! ## Machine/Job.lean -/

theorem extend_evolves (h : Evolves r s) (j d) : Evolves r (extend s j d) := by
  unfold Machine.extend
  grind [modTrust_evolves]

theorem clearMeas_evolves (h : Evolves r s) (j) : Evolves r (clearMeas s j) := by
  unfold Machine.clearMeas
  grind [modTrust_evolves]

theorem bindTiles_evolves (h : Evolves r s) (img) : Evolves r (bindTiles s img) := by
  unfold Machine.bindTiles
  dsimp only
  have hw : Canon s → SMap.wf ({} : Tile) (s.tiles.filterMap (fun e => if e.2.failing || e.2.hardFail then
      some (e.1, ({ failing := e.2.failing, hardFail := e.2.hardFail } : Tile)) else none) : SMap Tile) = true := by
    intro w
    refine SMap.wf_filterMap ({} : Tile) _ _ _ w.tiles fun e x he => ?_
    split at he
    · next hf =>
      cases he
      exact ⟨rfl, fun hx => by cases e.2.failing <;> cases e.2.hardFail <;> simp_all⟩
    · cases he
  refine h.maps _ _ _ _ _ _ _ _ _ _ _ _ _ _ _ _ _ _ _ _ (fun w => ?_) (fun w => ?_) (fun _ => rfl) (fun w =>
      w.movers)
    fun w => w.ports
  · exact SMap.wf_foldl_set _ _ _ _ _ (hw w)
  · refine SMap.get_foldl_set (P := Tile.MemOk) _ _ _ _ _ (hw w) (fun j => ?_) fun t _ => (loadTile_ok tileEmpty_ok
      _).rest ..
    rcases SMap.get_mem (α := Tile) {} _ j with hj | hj
    · rw [hj]; exact tileEmpty_ok
    · obtain ⟨e, _, he⟩ := List.mem_filterMap.1 hj
      split at he
      · rw [← (Prod.mk.inj (Option.some.inj he)).2]; exact ⟨rfl, rfl⟩
      · cases he

theorem sayHello_evolves (h : Evolves r s) : Evolves r (sayHello s) := by
  unfold Machine.sayHello
  grind [Evolves.foldl, Evolves.update, Tile.MemOk, matchHello_evolves, sendCtl_evolves]

theorem doBind_evolves (h : Evolves r s) (k c) : Evolves r (doBind s k c) := by
  unfold Machine.doBind
  extract_lets img js kf s1 ctl th s2 s3 s4 s4b s5 s6 s7 s8 s9 tm s10
  have e1 : Evolves r s1 := bindTiles_evolves h _
  have e2 : Evolves r s2 := e1.update ..
  have e3 : Evolves r s3 := modPc_evolves e2 _
  have e4 : Evolves r s4 := modMem_evolves e3 _ id id (fun w => SMap.wf_filter _ _ _ w) id
  have e4b : Evolves r s4b := buildTables_evolves e4 ..
  have e5 : Evolves r s5 := e4b.maps _ _ _ _ _ _ _ _ _ _ _ _ _ _ _ _ _ _ _ _ (fun w => w.tiles) (fun w => w.mems)
    (fun w => w.gangs) (fun _ => SMap.wf_remap ..) fun _ => SMap.wf_remap ..
  have e6 : Evolves r s6 := modFab_evolves e5 _
  have e7 : Evolves r s7 := modCm_evolves e6 _
  have e8 : Evolves r s8 := modFlt_evolves e7 _ fun w => w
  have e9 : Evolves r s9 := modTrust_evolves e8 _ (Nat.le_add_right _ _) le_rfl le_rfl le_rfl rfl
  have e10 : Evolves r s10 := e9.update ..
  exact sayHello_evolves (extend_evolves e10 ..)

theorem unbind_evolves (h : Evolves r s) : Evolves r (unbind s) := by
  have leave : ∀ x, Evolves r x → Evolves r { x with
      tiles := leaveTiles x.tiles, gangs := [], wires := [], crossing := [], pre := {}, movers := leaveMovers
          x.movers
      ports := leavePorts x.ports } := by
    intro x hx
    refine hx.maps _ _ _ _ _ _ _ _ _ _ _ _ _ _ _ _ _ _ _ _ (fun _ => SMap.wf_remap ..) (fun w => ?_) (fun _ => rfl)
      (fun _ => SMap.wf_remap ..) fun _ => SMap.wf_remap ..
    exact SMap.get_remap (P := Tile.MemOk) _ _ _ tileEmpty_ok fun e _ => ⟨rfl, rfl⟩
  unfold Machine.unbind
  split
  · exact h
  · extract_lets s1 s2 s3 s4 s5 s6 s7 s8 s9 s10
    have e2 : Evolves r s2 := leave _ (leaveJob_evolves h)
    have e5 : Evolves r s5 := modMem_evolves (modPc_evolves (modStg_evolves e2 _) _) _ (fun w => w) (fun _ => rfl)
      (fun w => SMap.wf_filter _ _ _ w) fun _ => rfl
    have e6 : Evolves r s6 := modFlt_evolves e5 _ fun w => w
    have e9 : Evolves r s9 := modTrust_evolves (modCm_evolves (modFab_evolves e6 _) _) _ le_rfl le_rfl le_rfl
        le_rfl rfl
    exact hwinRefresh_evolves (clearMeas_evolves (leaveRound_evolves (e9.update ..)) _)

theorem scrubbed_evolves (h : Evolves r s) : Evolves r (scrubbed s) := by
  unfold Machine.scrubbed
  refine modMem_evolves (fwDone_evolves (fwDone_evolves h _) _) _ (fun w => ?_) id id id
  dsimp only
  exact SMap.wf_filter _ _ _ w

/-! ## Machine/Power.lean -/

theorem setTrims_evolves (h : Evolves r s) : Evolves r (setTrims s) := by
  unfold Machine.setTrims
  grind [Evolves.foldl, Evolves.update, Tile.MemOk, modGov_evolves]

theorem withdrawOp_evolves (h : Evolves r s) (op) : Evolves r (withdrawOp s op) := by
  unfold Machine.withdrawOp
  grind [modGov_evolves, draw_evolves, boardSet_evolves, pldm_evolves, ledger_evolves]

theorem checkTrims_evolves (h : Evolves r s) (m) : Evolves r (checkTrims s m) := by
  unfold Machine.checkTrims
  grind [withdrawOp_evolves]

theorem switchOp_evolves (h : Evolves r s) (op) : Evolves r (switchOp s op) := by
  unfold Machine.switchOp
  grind [modGov_evolves, setTrims_evolves]

theorem setLevel_evolves (h : Evolves r s) (was l) : Evolves r (setLevel s was l) := by
  unfold Machine.setLevel
  grind [switchOp_evolves, modGov_evolves, checkTrims_evolves]

theorem ledgerOpen_evolves (h : Evolves r s) (src) : Evolves r (ledgerOpen s src) := by
  unfold Machine.ledgerOpen
  grind [draw_evolves, ledger_evolves]

theorem auditRun_evolves (h : Evolves r s) : Evolves r (auditRun s) := by
  unfold Machine.auditRun
  grind [Evolves.foldl, Evolves.update, Tile.MemOk, modFlt_evolves, ledgerOpen_evolves]

theorem descend_evolves (h : Evolves r s) : Evolves r (descend s) := by
  unfold Machine.descend
  grind [ledger_evolves, modGov_evolves]

theorem actCompute_evolves (h : Evolves r s) (w e g) : Evolves r (actCompute s w e g) := by
  unfold Machine.actCompute
  grind [modGov_evolves, descend_evolves]

theorem capNoted_evolves (h : Evolves r s) : Evolves r (capNoted s) := by
  unfold Machine.capNoted
  grind [Evolves.foldl, Evolves.update, Tile.MemOk, modGov_evolves, wakeUp_evolves]

theorem droopOver_evolves (h : Evolves r s) : Evolves r (droopOver s) := by
  unfold Machine.droopOver
  grind [modGov_evolves]

theorem setLimits_evolves (h : Evolves r s) (links mem) : Evolves r (setLimits s links mem) := by
  unfold Machine.setLimits
  grind [modGov_evolves]

theorem govWindow_evolves (h : Evolves r s) (w) : Evolves r (govWindow w s) := by
  unfold Machine.govWindow
  grind [capNoted_evolves, droopOver_evolves, modGov_evolves, actCompute_evolves, auditRun_evolves,
      setLimits_evolves]

theorem checkTrust_evolves (h : Evolves r s) (e m) : Evolves r (checkTrust s e m) := by
  unfold Machine.checkTrust
  grind [modGov_evolves, ledger_evolves]

theorem distrustDuty_evolves (h : Evolves r s) : Evolves r (distrustDuty s) := by
  unfold Machine.distrustDuty
  grind [modGov_evolves]

theorem execGovCalibrate_evolves (h : Evolves r s) (m) : ResOk r (execGovCalibrate m s) := by
  unfold Machine.execGovCalibrate
  grind [resOk_next, modGov_evolves, checkTrust_evolves, distrustDuty_evolves]

theorem execCapUnattainable_evolves (h : Evolves r s) : ResOk r (execCapUnattainable s) := by
  unfold Machine.execCapUnattainable
  simp only [resOk_next]
  split
  · split
    · exact (pldm_evolves (ledger_evolves (modGov_evolves h _) ..) _).update ..
    · exact h
  · exact h

theorem execBmcCapSet_evolves (h : Evolves r s) (mw) : ResOk r (execBmcCapSet mw s) := by
  unfold Machine.execBmcCapSet
  grind [resOk_next, modGov_evolves]

theorem alertDown_evolves (h : Evolves r s) : Evolves r (alertDown s) := by
  unfold Machine.alertDown
  grind [modGov_evolves]

theorem alertSeen_evolves (h : Evolves r s) : Evolves r (alertSeen s) := by
  unfold Machine.alertSeen
  grind [alertDown_evolves, modGov_evolves]

theorem execPalertAssert_evolves (h : Evolves r s) : ResOk r (execPalertAssert s) := by
  unfold Machine.execPalertAssert
  grind [Evolves.foldl, Evolves.update, Tile.MemOk, resOk_next, alertSeen_evolves]

theorem execAlertClockSwitch_evolves (h : Evolves r s) : ResOk r (execAlertClockSwitch s) := by
  unfold Machine.execAlertClockSwitch
  grind [resOk_next, modGov_evolves, switchOp_evolves]

theorem execPalertDeassert_evolves (h : Evolves r s) : ResOk r (execPalertDeassert s) := by
  unfold Machine.execPalertDeassert
  grind [Evolves.foldl, Evolves.update, Tile.MemOk, resOk_next, modGov_evolves]

theorem noteTemp_evolves (h : Evolves r s) (b t) : Evolves r (noteTemp s b t) := by
  unfold Machine.noteTemp
  grind [modGov_evolves]

theorem execBandHot_evolves (h : Evolves r s) (b temp) : ResOk r (execBandHot b temp s) := by
  unfold Machine.execBandHot
  grind [resOk_next, noteTemp_evolves, modGov_evolves]

theorem execBandThermalDescent_evolves (h : Evolves r s) (b temp) : ResOk r (execBandThermalDescent b temp s) := by
  unfold Machine.execBandThermalDescent
  grind [resOk_next, noteTemp_evolves, modGov_evolves, ledger_evolves]

theorem execGddr7Hot_evolves (h : Evolves r s) : ResOk r (execGddr7Hot s) := by
  unfold Machine.execGddr7Hot
  grind [resOk_next, modGov_evolves]

theorem execDroopDetect_evolves (h : Evolves r s) (_b) : ResOk r (execDroopDetect _b s) := by
  unfold Machine.execDroopDetect
  grind [Evolves.foldl, Evolves.update, Tile.MemOk, resOk_next, modGov_evolves]

theorem execDroopStretchEnd_evolves (h : Evolves r s) (b firing) : ResOk r (execDroopStretchEnd b firing s) := by
  unfold Machine.execDroopStretchEnd
  grind [Evolves.foldl, Evolves.update, Tile.MemOk, resOk_next, modGov_evolves, ledger_evolves]

theorem execRailSensorFault_evolves (h : Evolves r s) (rail) : ResOk r (execRailSensorFault rail s) := by
  unfold Machine.execRailSensorFault
  grind [resOk_next, modGov_evolves, pldm_evolves, ledger_evolves, alertDown_evolves]

theorem execSensorRecovery_evolves (h : Evolves r s) : ResOk r (execSensorRecovery s) := by
  unfold Machine.execSensorRecovery
  grind [resOk_next, modGov_evolves]

theorem execRegulatorPhaseFail_evolves (h : Evolves r s) (rail phase maxOp) : ResOk r (execRegulatorPhaseFail rail
    phase maxOp s) := by
  unfold Machine.execRegulatorPhaseFail
  grind [resOk_next, ledger_evolves, modGov_evolves, pldm_evolves, withdrawOp_evolves]

theorem execTrimUpdate_evolves (h : Evolves r s) (need) : ResOk r (execTrimUpdate need s) := by
  unfold Machine.execTrimUpdate
  grind [resOk_next, modGov_evolves, checkTrims_evolves, setTrims_evolves]

/-! ## Machine/Lacing.lean -/

theorem laceSend_evolves (h : Evolves r s) (opc p op0) : Evolves r (laceSend s opc p op0) := by
  unfold Machine.laceSend
  grind [sendDirect_evolves]

theorem laceSet_evolves (h : Evolves r s) (level op0) : Evolves r (laceSet s level op0) := by
  unfold Machine.laceSet
  grind [Evolves.foldl, Evolves.update, Tile.MemOk, laceSend_evolves]

theorem laceUp_evolves (h : Evolves r s) : Evolves r (laceUp s) := by
  unfold Machine.laceUp
  grind [Evolves.foldl, Evolves.update, Tile.MemOk, laceSet_evolves, laceSend_evolves]

theorem laceTry_evolves (h : Evolves r s) : Evolves r (laceTry s) := by
  unfold Machine.laceTry
  grind [laceUp_evolves]

theorem laceCeilings_evolves (h : Evolves r s) : Evolves r (laceCeilings s) := by
  unfold Machine.laceCeilings
  grind [modGov_evolves]

theorem execLacingInstant_evolves (h : Evolves r s) : ResOk r (execLacingInstant s) := by
  unfold Machine.execLacingInstant
  grind [Evolves.foldl, Evolves.update, Tile.MemOk, resOk_next, laceCeilings_evolves, laceTry_evolves,
      modGov_evolves]

theorem laceMsg_evolves (h : Evolves r s) (p opc m) : ∀ t, laceMsg s p opc m = some t → Evolves r t := by
  unfold Machine.laceMsg
  grind [→ takeMsg_evolves]

theorem execOffer_evolves (h : Evolves r s) (p m) : ResOk r (execOffer p m s) := by
  unfold Machine.execOffer
  simp only [resOk_next]
  split
  · rcases hm : takeMsg s p 0x23 m with _ | t'
    · exact h
    · exact takeMsg_evolves h _ _ _ _ hm
  · next t' hm =>
    have h2 := laceMsg_evolves h _ _ _ _ hm
    grind [laceTry_evolves, laceSet_evolves, Evolves.update]

theorem laceMissed_evolves (h : Evolves r s) : Evolves r (laceMissed s) := by
  unfold Machine.laceMissed
  grind [Evolves.foldl, Evolves.update, Tile.MemOk, modGov_evolves]

theorem execSet_evolves (h : Evolves r s) (p m) : ResOk r (execSet p m s) := by
  unfold Machine.execSet
  simp only [resOk_next]
  split
  · rcases hm : takeMsg s p 0x24 m with _ | t'
    · exact h
    · exact takeMsg_evolves h _ _ _ _ hm
  · next t' hm =>
    have h2 := laceMsg_evolves h _ _ _ _ hm
    grind [laceMissed_evolves, laceSet_evolves, Evolves.update]

theorem execOfferTimeout_evolves (h : Evolves r s) : ResOk r (execOfferTimeout s) := by
  unfold Machine.execOfferTimeout
  grind [resOk_next, laceUp_evolves]

theorem execSetTimeout_evolves (h : Evolves r s) : ResOk r (execSetTimeout s) := by
  unfold Machine.execSetTimeout
  grind [resOk_next, laceUp_evolves]

theorem execSetMiss_evolves (h : Evolves r s) : ResOk r (execSetMiss s) := by
  unfold Machine.execSetMiss
  grind [resOk_next, laceMissed_evolves]

theorem startLevel_evolves (h : Evolves r s) (was l) : Evolves r (startLevel s was l) := by
  unfold Machine.startLevel
  grind [Evolves.foldl, Evolves.update, Tile.MemOk, setLevel_evolves]

theorem execLevelSwitch_evolves (h : Evolves r s) : ResOk r (execLevelSwitch s) := by
  unfold Machine.execLevelSwitch
  grind [Evolves.foldl, Evolves.update, Tile.MemOk, resOk_next, modGov_evolves, startLevel_evolves]

theorem steer_evolves (h : Evolves r s) (d) : Evolves r (steer s d) := by
  unfold Machine.steer
  grind [Evolves.foldl, Evolves.update, Tile.MemOk, draw_evolves]

theorem followNode_evolves (h : Evolves r s) : Evolves r (followNode s) := by
  unfold Machine.followNode
  grind [Evolves.foldl, Evolves.update, Tile.MemOk, steer_evolves]

theorem execTime_evolves (h : Evolves r s) (p m rx) : ResOk r (execTime p m rx s) := by
  unfold Machine.execTime
  grind [resOk_next, → takeMsg_evolves, modPort_evolves, followNode_evolves]

theorem execTimeSend_evolves (h : Evolves r s) : ResOk r (execTimeSend s) := by
  unfold Machine.execTimeSend
  grind [Evolves.foldl, Evolves.update, Tile.MemOk, resOk_next, followNode_evolves, sendDirect_evolves]

theorem chooseAnn_evolves (h : Evolves r s) (l) : Evolves r (chooseAnn s l) := by
  unfold Machine.chooseAnn
  grind [Evolves.update]

theorem acquire_evolves (h : Evolves r s) : Evolves r (acquire s) := by
  unfold Machine.acquire
  grind [Evolves.update]

theorem execPtpSync_evolves (h : Evolves r s) (m) : ResOk r (execPtpSync m s) := by
  unfold Machine.execPtpSync
  grind [Evolves.foldl, Evolves.update, Tile.MemOk, resOk_next, acquire_evolves]

theorem execPtpFollowUp_evolves (h : Evolves r s) (m) : ResOk r (execPtpFollowUp m s) := by
  unfold Machine.execPtpFollowUp
  grind [resOk_next, Evolves.update]

theorem execPtpDelayReq_evolves (h : Evolves r s) (seq sent) : ResOk r (execPtpDelayReq seq sent s) := by
  unfold Machine.execPtpDelayReq
  grind [resOk_next, Evolves.update]

theorem noteOffset_evolves (h : Evolves r s) (d) : Evolves r (noteOffset s d) := by
  unfold Machine.noteOffset
  grind [Evolves.foldl, Evolves.update, Tile.MemOk, steer_evolves]

theorem execPtpDelayResp_evolves (h : Evolves r s) (m) : ResOk r (execPtpDelayResp m s) := by
  unfold Machine.execPtpDelayResp
  grind [Evolves.foldl, Evolves.update, Tile.MemOk, resOk_next, noteOffset_evolves]

theorem execPtpAnnounce_evolves (h : Evolves r s) (a) : ResOk r (execPtpAnnounce a s) := by
  unfold Machine.execPtpAnnounce
  grind [resOk_next, acquire_evolves, chooseAnn_evolves]

theorem execAnnounceTimeout_evolves (h : Evolves r s) : ResOk r (execAnnounceTimeout s) := by
  unfold Machine.execAnnounceTimeout
  grind [Evolves.foldl, Evolves.update, Tile.MemOk, resOk_next, chooseAnn_evolves]

end Sys2Proof.Machine
end

