-- ==== Sys2Proof/Laws/EvolvesHost.lean ====
section
/-! SUPPORT. `Evolves`, one lemma per operation: host registers, resets and queue commands. -/

namespace Sys2Proof.Machine

set_option Elab.async false

variable {r s : State}

/-! ## Machine/Queues.lean -/

theorem enableSq_evolves (h : Evolves r s) (q) : Evolves r (enableSq s q) := by
  unfold Machine.enableSq
  grind [modSq_evolves, raiseInt_evolves]

theorem execSqEnable_evolves (h : Evolves r s) (q) : ResOk r (execSqEnable q s) := by
  unfold Machine.execSqEnable
  grind [resOk_next, enableSq_evolves]

theorem dropReserve_evolves (h : Evolves r s) (q) : Evolves r (dropReserve s q) := by
  unfold Machine.dropReserve
  grind [modCq_evolves, modSq_evolves]

theorem disableSq_evolves (h : Evolves r s) (q) : Evolves r (disableSq s q) := by
  unfold Machine.disableSq
  grind [modSq_evolves, dropReserve_evolves]

theorem execSqDisable_evolves (h : Evolves r s) (q) : ResOk r (execSqDisable q s) := by
  unfold Machine.execSqDisable
  grind [resOk_next, disableSq_evolves]

theorem enableCq_evolves (h : Evolves r s) (q) : Evolves r (enableCq s q) := by
  unfold Machine.enableCq
  grind [modCq_evolves, raiseInt_evolves]

theorem execCqEnable_evolves (h : Evolves r s) (q) : ResOk r (execCqEnable q s) := by
  unfold Machine.execCqEnable
  grind [resOk_next, enableCq_evolves]

theorem disableCq_evolves (h : Evolves r s) (q) : Evolves r (disableCq s q) := by
  unfold Machine.disableCq
  grind [raiseInt_evolves, modCq_evolves]

theorem execCqDisable_evolves (h : Evolves r s) (q) : ResOk r (execCqDisable q s) := by
  unfold Machine.execCqDisable
  grind [resOk_next, disableCq_evolves]

theorem resumeSq_evolves (h : Evolves r s) (q) : Evolves r (resumeSq s q) := by
  unfold Machine.resumeSq
  grind [modSq_evolves]

theorem execSqResume_evolves (h : Evolves r s) (q) : ResOk r (execSqResume q s) := by
  unfold Machine.execSqResume
  grind [resOk_next, resumeSq_evolves]

theorem badBell_evolves (h : Evolves r s) : Evolves r (badBell s) := by
  unfold Machine.badBell
  grind [raiseInt_evolves]

theorem ringTail_evolves (h : Evolves r s) (q v) : Evolves r (ringTail s q v) := by
  unfold Machine.ringTail
  grind [badBell_evolves, modSq_evolves]

theorem execSqTail_evolves (h : Evolves r s) (q v) : ResOk r (execSqTail q v s) := by
  unfold Machine.execSqTail
  grind [resOk_next, ringTail_evolves]

theorem ringHead_evolves (h : Evolves r s) (q v) : Evolves r (ringHead s q v) := by
  unfold Machine.ringHead
  grind [badBell_evolves, modCq_evolves]

theorem execCqHead_evolves (h : Evolves r s) (q v) : ResOk r (execCqHead q v s) := by
  unfold Machine.execCqHead
  grind [resOk_next, ringHead_evolves]

theorem hostTell_evolves (h : Evolves r s) (ents) : Evolves r (hostTell s ents) := by
  unfold Machine.hostTell
  grind [modHost_evolves]

theorem hwtInvalidate_evolves (h : Evolves r s) (v) : Evolves r (hwtInvalidate s v) := by
  unfold Machine.hwtInvalidate
  grind [Evolves.foldl, Evolves.update, Tile.MemOk, modHost_evolves, retryFault_evolves]

theorem execHwtInval_evolves (h : Evolves r s) (v ents) : ResOk r (execHwtInval v ents s) := by
  unfold Machine.execHwtInval
  grind [resOk_next, hwtInvalidate_evolves, hostTell_evolves]

theorem clearLlr_evolves (h : Evolves r s) : Evolves r (clearLlr s) := by
  unfold Machine.clearLlr
  grind [modHost_evolves]

theorem execLlrClear_evolves (h : Evolves r s) : ResOk r (execLlrClear s) := by
  unfold Machine.execLlrClear
  grind [resOk_next, clearLlr_evolves]

theorem execTimeNowRead_evolves (h : Evolves r s) : ResOk r (execTimeNowRead s) := by
  unfold Machine.execTimeNowRead
  grind [resOk_next, latchFrac_evolves]

theorem execH2dSnoop_evolves (h : Evolves r s) (addr) : ResOk r (execH2dSnoop addr s) := by
  unfold Machine.execH2dSnoop
  grind [resOk_next, modHost_evolves]

theorem execExchangeAreaAccess_evolves (h : Evolves r s) (wr addr line) : ResOk r (execExchangeAreaAccess wr addr
    line s) := by
  unfold Machine.execExchangeAreaAccess
  rw [resOk_next]
  split
  · exact h
  · split
    · exact dramWrite_evolves h ..
    · exact modHost_evolves (dramRead_evolves h _) _ rfl rfl

theorem writeSq_evolves (h : Evolves r s) (q x2 v) : Evolves r (writeSq s q x2 v) := by
  unfold Machine.writeSq
  grind [modSq_evolves, resumeSq_evolves, enableSq_evolves, disableSq_evolves]

theorem writeCq_evolves (h : Evolves r s) (q x2 v) : Evolves r (writeCq s q x2 v) := by
  unfold Machine.writeCq
  grind [modCq_evolves, enableCq_evolves, disableCq_evolves]

theorem writeGov_evolves (h : Evolves r s) (x1 v) : Evolves r (writeGov s x1 v) := by
  unfold Machine.writeGov
  grind [modGov_evolves]

theorem writeTime_evolves (h : Evolves r s) (x1 v) : Evolves r (writeTime s x1 v) := by
  unfold Machine.writeTime
  grind [Evolves.update]

theorem writeBar0_evolves (h : Evolves r s) (o v) : Evolves r (writeBar0 s o v) := by
  unfold Machine.writeBar0
  grind (splits := 40) (gen := 30) (ematch := 30) [Evolves.foldl, Evolves.update, Tile.MemOk, ringTail_evolves,
      ringHead_evolves, writeSq_evolves, writeCq_evolves, modHost_evolves, hwtInvalidate_evolves, clearLlr_evolves,
      writeTime_evolves, writeGov_evolves]

theorem writeBar2_evolves (h : Evolves r s) (o v) : Evolves r (writeBar2 s o v) := by
  unfold Machine.writeBar2
  grind [modHost_evolves, msixSend_evolves]

theorem writeAp_evolves (h : Evolves r s) (o v) : Evolves r (writeAp s o v) := by
  unfold Machine.writeAp
  grind (splits := 40) (gen := 30) (ematch := 30) [Evolves.foldl, Evolves.update, Tile.MemOk, modPc_evolves,
      modStg_evolves, modMem_evolves, modFab_evolves, modCm_evolves, writeGov_evolves, writeTime_evolves]

theorem writeWord_evolves (h : Evolves r s) (who o v) : Evolves r (writeWord s who o v) := by
  unfold Machine.writeWord
  grind [writeBar0_evolves, writeBar2_evolves, writeAp_evolves]

theorem execRegisterWrite_evolves (h : Evolves r s) (who off width v) : ResOk r (execRegisterWrite who off width v
    s) := by
  unfold Machine.execRegisterWrite
  grind [resOk_next, writeWord_evolves, hwtInvalidate_evolves, modHost_evolves]

/-! ## Machine/Resets.lean -/

theorem tryReady_evolves (h : Evolves r s) : Evolves r (tryReady s) := by
  unfold Machine.tryReady
  grind [modHost_evolves, modTrust_evolves]

theorem eraseSession_evolves (h : Evolves r s) : Evolves r (eraseSession s) := by
  unfold Machine.eraseSession
  grind [clearMeas_evolves, modTrust_evolves]

theorem zeroExchange_evolves (h : Evolves r s) : Evolves r (zeroExchange s) := by
  unfold Machine.zeroExchange
  refine modMem_evolves h _ (fun w => ?_) id id id
  dsimp only
  exact SMap.wf_dropRange _ _ _ _ (SMap.wf_filter _ _ _ w)

theorem ptpBoot_evolves (h : Evolves r s) : Evolves r (ptpBoot s) := by
  unfold Machine.ptpBoot
  grind [Evolves.update]

theorem resetHostRegs_evolves (h : Evolves r s) : Evolves r (resetHostRegs s) := by
  have k1 := Evolves.foldl (List.range 16) (fun s q => copyClear s q) (fun x b hx => copyClear_evolves hx _) h
  unfold Machine.resetHostRegs
  revert k1
  generalize (List.range 16).foldl (fun s q => copyClear s q) s = u
  intro k1
  refine hwinRefresh_evolves (ptpBoot_evolves (modFlt_evolves (Evolves.update (modGov_evolves (Evolves.host
    (modMem_evolves k1 _ ?_ ?_ ?_ ?_) _ ?_ ?_) _) ..) _ fun w => w))
  · exact fun w => w
  · exact fun w => w
  · exact fun w => w
  · exact fun w => w
  · exact fun _ => rfl
  · exact fun _ => rfl

theorem hwinErrors_evolves (h : Evolves r s) : Evolves r (hwinErrors s) := by
  unfold Machine.hwinErrors
  grind [Evolves.foldl, Evolves.update, Tile.MemOk, errorOut_evolves]

theorem linkLoss_evolves (h : Evolves r s) (cause t0) : Evolves r (linkLoss s cause t0) := by
  unfold Machine.linkLoss
  grind (splits := 40) (gen := 30) (ematch := 30) [Evolves.foldl, Evolves.update, Tile.MemOk, ledger_evolves,
      modHost_evolves, resetHostRegs_evolves, hwinErrors_evolves, leaveRound_evolves, unbind_evolves,
      freezeAll_evolves, clearMeas_evolves, eraseSession_evolves, zeroExchange_evolves, modMem_evolves,
      tryReady_evolves]

theorem hostLoss_evolves (h : Evolves r s) (cause t0) : Evolves r (hostLoss s cause t0) := by
  unfold Machine.hostLoss
  grind [linkLoss_evolves]

theorem hostReset_evolves (h : Evolves r s) (cause) : Evolves r (hostReset s cause) := by
  unfold Machine.hostReset
  grind [linkLoss_evolves]

theorem downLoss_evolves (h : Evolves r s) (t) : Evolves r (downLoss s t) := by
  unfold Machine.downLoss
  grind [hostLoss_evolves, modHost_evolves]

theorem execLinkDown_evolves (h : Evolves r s) : ResOk r (execLinkDown s) := by
  unfold Machine.execLinkDown
  grind [resOk_next, modHost_evolves]

theorem lateLoss_evolves (h : Evolves r s) : Evolves r (lateLoss s) := by
  unfold Machine.lateLoss
  split
  · split
    · exact downLoss_evolves h _
    · exact h
  · exact h

theorem execLinkUp_evolves (h : Evolves r s) (lanes rate) : ResOk r (execLinkUp lanes rate s) := by
  unfold Machine.execLinkUp
  grind [Evolves.foldl, Evolves.update, Tile.MemOk, resOk_next, modHost_evolves, lateLoss_evolves, ledger_evolves,
      retryFault_evolves, tryReady_evolves]

theorem execLinkDownTimeout_evolves (h : Evolves r s) : ResOk r (execLinkDownTimeout s) := by
  unfold Machine.execLinkDownTimeout
  grind [resOk_next, lateLoss_evolves]

theorem execHostPerstAssert_evolves (h : Evolves r s) : ResOk r (execHostPerstAssert s) := by
  unfold Machine.execHostPerstAssert
  grind [Evolves.foldl, Evolves.update, Tile.MemOk, resOk_next, hostLoss_evolves, modHost_evolves]

theorem execHostPerstDeassert_evolves (h : Evolves r s) : ResOk r (execHostPerstDeassert s) := by
  unfold Machine.execHostPerstDeassert
  grind [resOk_next, Evolves.update]

theorem execHotReset_evolves (h : Evolves r s) : ResOk r (execHotReset s) := by
  unfold Machine.execHotReset
  grind [resOk_next, hostLoss_evolves]

theorem execFunctionLevelReset_evolves (h : Evolves r s) : ResOk r (execFunctionLevelReset s) := by
  unfold Machine.execFunctionLevelReset
  grind [resOk_next, hostReset_evolves]

theorem execCxlReset_evolves (h : Evolves r s) : ResOk r (execCxlReset s) := by
  unfold Machine.execCxlReset
  grind [resOk_next, hostReset_evolves]

theorem execConfigRequest_evolves (h : Evolves r s) : ResOk r (execConfigRequest s) := by
  unfold Machine.execConfigRequest
  grind [resOk_next, modHost_evolves]

theorem flushLedger_evolves (h : Evolves r s) : Evolves r (flushLedger s) := by
  unfold Machine.flushLedger
  exact h.trans ⟨rfl, le_rfl, le_rfl, le_rfl, le_rfl, le_rfl, fun w => ⟨w.1, w.2, w.3, w.4, w.5, w.6, w.7, w.8⟩,
    fun w => ⟨w.ring, fun l hl => by cases hl; exact w.ring⟩⟩

theorem eraseKeys_evolves (h : Evolves r s) : Evolves r (eraseKeys s) := by
  unfold Machine.eraseKeys
  grind [modCm_evolves, modTrust_evolves, eraseSession_evolves]

theorem fatalFault_evolves (h : Evolves r s) (cause) : Evolves r (fatalFault s cause) := by
  unfold Machine.fatalFault
  grind (splits := 40) (gen := 30) (ematch := 30) [Evolves.foldl, Evolves.update, Tile.MemOk, freezeAll_evolves,
      ledger_evolves, eraseKeys_evolves, leaveJob_evolves, modHost_evolves, modTrust_evolves, pldm_evolves,
      flushLedger_evolves]

theorem execThermalTrip_evolves (h : Evolves r s) : ResOk r (execThermalTrip s) := by
  unfold Machine.execThermalTrip
  grind [resOk_next, fatalFault_evolves]

theorem execSecuritySelfTestFail_evolves (h : Evolves r s) : ResOk r (execSecuritySelfTestFail s) := by
  unfold Machine.execSecuritySelfTestFail
  grind [resOk_next, fatalFault_evolves]

/-! ## Machine/Evidence.lean -/

theorem evidence_evolves (h : Evolves r s) (nonce) : ∀ a b t, evidence s nonce = some (a, b, t) → Evolves r t := by
  unfold Machine.evidence
  grind [modTrust_evolves]

theorem openSession_evolves (h : Evolves r s) (handle msg) : ∀ t a, openSession s handle msg = some (t, a) →
    Evolves r t := by
  unfold Machine.openSession
  grind [modTrust_evolves, extend_evolves]

/-! ## Machine/Snapshot.lean -/

theorem takeSnapshot_evolves (h : Evolves r s) (seam) : Evolves r (takeSnapshot s seam) := by
  unfold Machine.takeSnapshot
  grind [modFlt_evolves]

theorem auditDone_evolves (h : Evolves r s) (q) : Evolves r (auditDone s q) := by
  unfold Machine.auditDone
  grind [complete_evolves, modFlt_evolves]

theorem snapDone_evolves (h : Evolves r s) (q) : Evolves r (snapDone s q) := by
  unfold Machine.snapDone
  grind [auditDone_evolves, complete_evolves]

theorem execSnapshotCopy_evolves (h : Evolves r s) : ResOk r (execSnapshotCopy s) := by
  unfold Machine.execSnapshotCopy
  grind [resOk_next, snapDone_evolves, takeSnapshot_evolves]

theorem execSnapshotSeamCopy_evolves (h : Evolves r s) : ResOk r (execSnapshotSeamCopy s) := by
  unfold Machine.execSnapshotSeamCopy
  grind [resOk_next, snapDone_evolves, takeSnapshot_evolves]

/-! ## Machine/Commands.lean -/

theorem turnOver_evolves (h : Evolves r s) (q) : Evolves r (turnOver s q) := by
  unfold Machine.turnOver
  grind [modHost_evolves]

theorem snoopEntry_evolves (h : Evolves r s) (q) : Evolves r (snoopEntry s q) := by
  unfold Machine.snoopEntry
  grind [modHost_evolves]

theorem reserve_evolves (h : Evolves r s) (q) : Evolves r (reserve s q) := by
  unfold Machine.reserve
  grind [modCq_evolves]

theorem takeEntry_evolves (h : Evolves r s) (q c e) : Evolves r (takeEntry s q c e) := by
  unfold Machine.takeEntry
  grind [modSq_evolves, reserve_evolves]

theorem failRead_evolves (h : Evolves r s) (q) : Evolves r (failRead s q) := by
  unfold Machine.failRead
  grind [modSq_evolves, reserve_evolves, draw_evolves, cqNotify_evolves, postCq_evolves, raiseInt_evolves]

theorem waitCmd_evolves (h : Evolves r s) (q) : Evolves r (waitCmd s q) := by
  unfold Machine.waitCmd
  grind [modSq_evolves]

theorem winAll_evolves (h : Evolves r s) (q woff len) : Evolves r (winAll s q woff len).1 := by
  unfold Machine.winAll
  grind [Evolves.foldl, Evolves.update, Tile.MemOk, winReady_evolves, hwtFill_evolves]

theorem serveNop_evolves (h : Evolves r s) (q e) : Evolves r (serveNop s q e) := by
  unfold Machine.serveNop
  grind [complete_evolves]

theorem serveIdentify_evolves (h : Evolves r s) (q) : Evolves r (serveIdentify s q) := by
  unfold Machine.serveIdentify
  grind [complete_evolves]

theorem badFragment_evolves (h : Evolves r s) (q st) : Evolves r (badFragment s q st) := by
  unfold Machine.badFragment
  grind [complete_evolves, modTrust_evolves]

theorem addFragment_evolves (h : Evolves r s) (q f first) : Evolves r (addFragment s q f first) := by
  unfold Machine.addFragment
  split
  · exact complete_evolves (modTrust_evolves h _ le_rfl le_rfl le_rfl le_rfl rfl) ..
  · have h2 := modTrust_evolves h (fun t => { t with frags := none }) le_rfl le_rfl le_rfl le_rfl rfl
    split
    · next t' rep ht => exact complete_evolves (openSession_evolves h2 _ _ _ _ ht) ..
    · exact badFragment_evolves h2 ..

theorem serveSessionOpen_evolves (h : Evolves r s) (q e) : Evolves r (serveSessionOpen s q e) := by
  unfold Machine.serveSessionOpen
  grind [complete_evolves, modTrust_evolves, addFragment_evolves, badFragment_evolves]

theorem serveSessionClose_evolves (h : Evolves r s) (q) : Evolves r (serveSessionClose s q) := by
  unfold Machine.serveSessionClose
  grind [complete_evolves, eraseSession_evolves]

theorem serveAttest_evolves (h : Evolves r s) (q e) : Evolves r (serveAttest s q e) := by
  unfold Machine.serveAttest
  grind [→ evidence_evolves, complete_evolves, modTrust_evolves]

theorem serveImageLoad_evolves (h : Evolves r s) (q e bytes tags) : Evolves r (serveImageLoad s q e bytes tags) :=
    by
  unfold Machine.serveImageLoad
  grind [Evolves.foldl, Evolves.update, Tile.MemOk, complete_evolves, winAll_evolves, waitCmd_evolves,
      rangePut_evolves, extend_evolves]

theorem serveImageUnload_evolves (h : Evolves r s) (q) : Evolves r (serveImageUnload s q) := by
  unfold Machine.serveImageUnload
  grind [Evolves.foldl, Evolves.update, Tile.MemOk, complete_evolves, clearMeas_evolves]

theorem serveJobBind_evolves (h : Evolves r s) (q e bytes tags) : Evolves r (serveJobBind s q e bytes tags) := by
  unfold Machine.serveJobBind
  grind [complete_evolves, waitCmd_evolves, winAll_evolves, countReads_evolves, doBind_evolves]

theorem forceEnd_evolves (h : Evolves r s) (q) : Evolves r (forceEnd s q) := by
  unfold Machine.forceEnd
  grind [finish_evolves, hwinRefresh_evolves, copyClear_evolves]

theorem serveJobRelease_evolves (h : Evolves r s) (q e) : Evolves r (serveJobRelease s q e) := by
  unfold Machine.serveJobRelease
  grind [Evolves.foldl, Evolves.update, Tile.MemOk, complete_evolves, forceEnd_evolves, freezeAll_evolves,
      cqNotify_evolves, finish_evolves, unbind_evolves]

theorem startStep_evolves (h : Evolves r s) (q gangs) : Evolves r (startStep s q gangs) := by
  unfold Machine.startStep
  grind (splits := 40) (gen := 30) (ematch := 30) [startTile, Evolves.foldl, Evolves.update, Tile.MemOk,
      modStg_evolves, modTile_evolves, modPc_evolves, modMem_evolves, modFlt_evolves, modCm_evolves]

theorem serveStepRun_evolves (h : Evolves r s) (q e) : Evolves r (serveStepRun s q e) := by
  unfold Machine.serveStepRun
  grind [complete_evolves, waitCmd_evolves, startStep_evolves]

theorem servePreempt_evolves (h : Evolves r s) (q) : Evolves r (servePreempt s q) := by
  unfold Machine.servePreempt
  grind [Evolves.foldl, Evolves.update, Tile.MemOk, complete_evolves, waitCmd_evolves]

theorem serveResume_evolves (h : Evolves r s) (q) : Evolves r (serveResume s q) := by
  unfold Machine.serveResume
  grind [Evolves.foldl, Evolves.update, Tile.MemOk, complete_evolves]

theorem serveCopyIn_evolves (h : Evolves r s) (q e tags) : Evolves r (serveCopyIn s q e tags) := by
  unfold Machine.serveCopyIn
  grind [complete_evolves, copyStart_evolves]

theorem serveCopyOut_evolves (h : Evolves r s) (q e) : Evolves r (serveCopyOut s q e) := by
  unfold Machine.serveCopyOut
  grind [complete_evolves, copyStart_evolves]

theorem serveWriteInline_evolves (h : Evolves r s) (q e) : Evolves r (serveWriteInline s q e) := by
  unfold Machine.serveWriteInline
  grind [complete_evolves, modTrust_evolves, copyStart_evolves, modSq_evolves]

theorem capSet_evolves (h : Evolves r s) (e) : Evolves r (capSet s e) := by
  unfold Machine.capSet
  grind [modGov_evolves, writeGov_evolves]

theorem servePowerSet_evolves (h : Evolves r s) (q e) : Evolves r (servePowerSet s q e) := by
  unfold Machine.servePowerSet
  grind [complete_evolves, capSet_evolves, waitCmd_evolves, modSq_evolves]

theorem servePowerQuery_evolves (h : Evolves r s) (q) : Evolves r (servePowerQuery s q) := by
  unfold Machine.servePowerQuery
  grind [complete_evolves]

theorem serveRestEnter_evolves (h : Evolves r s) (q) : Evolves r (serveRestEnter s q) := by
  unfold Machine.serveRestEnter
  grind [Evolves.foldl, Evolves.update, Tile.MemOk, complete_evolves, waitCmd_evolves]

theorem serveSnapshot_evolves (h : Evolves r s) (q e) : Evolves r (serveSnapshot s q e) := by
  unfold Machine.serveSnapshot
  grind [modFlt_evolves, complete_evolves, snapDone_evolves, takeSnapshot_evolves]

theorem serveLedgerRead_evolves (h : Evolves r s) (q e) : Evolves r (serveLedgerRead s q e) := by
  unfold Machine.serveLedgerRead
  grind [complete_evolves]

theorem serveAuditRead_evolves (h : Evolves r s) (q) : Evolves r (serveAuditRead s q) := by
  unfold Machine.serveAuditRead
  grind [auditDone_evolves, waitCmd_evolves, modFlt_evolves]

theorem stageFw_evolves (h : Evolves r s) (f ok) : Evolves r (stageFw s f ok) := by
  unfold Machine.stageFw
  grind [modTrust_evolves]

theorem serveFirmwareStage_evolves (h : Evolves r s) (q e fw flashOk) : Evolves r (serveFirmwareStage s q e fw
    flashOk) := by
  unfold Machine.serveFirmwareStage
  grind [complete_evolves, winAll_evolves, waitCmd_evolves, modTrust_evolves, stageFw_evolves]

theorem serveFirmwareActivate_evolves (h : Evolves r s) (q) : Evolves r (serveFirmwareActivate s q) := by
  unfold Machine.serveFirmwareActivate
  grind [complete_evolves, modTrust_evolves]

theorem servePortConfig_evolves (h : Evolves r s) (q e) : Evolves r (servePortConfig s q e) := by
  unfold Machine.servePortConfig
  grind [complete_evolves, waitCmd_evolves, draw_evolves, portFail_evolves]

theorem servePortStatus_evolves (h : Evolves r s) (q e) : Evolves r (servePortStatus s q e) := by
  unfold Machine.servePortStatus
  grind [complete_evolves]

theorem serveCmd_evolves (h : Evolves r s) (q) : Evolves r (serveCmd s q) := by
  unfold Machine.serveCmd
  grind [waitCmd_evolves, modSq_evolves, complete_evolves, serveNop_evolves, serveIdentify_evolves,
      serveSessionOpen_evolves, serveSessionClose_evolves, serveAttest_evolves, serveImageLoad_evolves,
      serveImageUnload_evolves, serveJobBind_evolves, serveJobRelease_evolves, serveStepRun_evolves,
      servePreempt_evolves, serveResume_evolves, serveCopyIn_evolves, serveCopyOut_evolves,
      serveWriteInline_evolves, servePowerSet_evolves, servePowerQuery_evolves, serveRestEnter_evolves,
      serveSnapshot_evolves, serveLedgerRead_evolves, serveAuditRead_evolves, serveFirmwareStage_evolves,
      serveFirmwareActivate_evolves, servePortConfig_evolves, servePortStatus_evolves]

theorem retryWaiting_evolves (h : Evolves r s) : Evolves r (retryWaiting s) := by
  unfold Machine.retryWaiting
  grind [Evolves.foldl, Evolves.update, Tile.MemOk, serveCmd_evolves]

theorem wakeFor_evolves (h : Evolves r s) (e) : Evolves r (wakeFor s e) := by
  unfold Machine.wakeFor
  grind [Evolves.foldl, Evolves.update, Tile.MemOk, wakeUp_evolves]

theorem takeServe_evolves (h : Evolves r s) (q c e) : Evolves r (takeServe s q c e) := by
  unfold Machine.takeServe
  grind [serveCmd_evolves, wakeFor_evolves, takeEntry_evolves]

theorem command_evolves (h : Evolves r s) (q c e row) : Evolves r (command s q c e row) := by
  unfold Machine.command
  grind [retryWaiting_evolves, takeServe_evolves, turnOver_evolves, snoopEntry_evolves, failRead_evolves]

theorem execNop_evolves (h : Evolves r s) (q e) : ResOk r (execNop q e s) := by
  unfold Machine.execNop
  grind [resOk_next, command_evolves]

theorem execIdentify_evolves (h : Evolves r s) (q e) : ResOk r (execIdentify q e s) := by
  unfold Machine.execIdentify
  grind [resOk_next, command_evolves]

theorem execSessionOpen_evolves (h : Evolves r s) (q e) : ResOk r (execSessionOpen q e s) := by
  unfold Machine.execSessionOpen
  grind [resOk_next, command_evolves]

theorem execSessionClose_evolves (h : Evolves r s) (q e) : ResOk r (execSessionClose q e s) := by
  unfold Machine.execSessionClose
  grind [resOk_next, command_evolves]

theorem execAttest_evolves (h : Evolves r s) (q e) : ResOk r (execAttest q e s) := by
  unfold Machine.execAttest
  grind [resOk_next, command_evolves]

theorem execImageLoad_evolves (h : Evolves r s) (q e img tags) : ResOk r (execImageLoad q e img tags s) := by
  unfold Machine.execImageLoad
  grind [resOk_next, command_evolves]

theorem execImageUnload_evolves (h : Evolves r s) (q e) : ResOk r (execImageUnload q e s) := by
  unfold Machine.execImageUnload
  grind [resOk_next, command_evolves]

theorem execJobBind_evolves (h : Evolves r s) (q e cfg tags) : ResOk r (execJobBind q e cfg tags s) := by
  unfold Machine.execJobBind
  grind [resOk_next, command_evolves]

theorem execJobRelease_evolves (h : Evolves r s) (q e) : ResOk r (execJobRelease q e s) := by
  unfold Machine.execJobRelease
  grind [resOk_next, command_evolves]

theorem execJobReleaseForce_evolves (h : Evolves r s) (q e) : ResOk r (execJobReleaseForce q e s) := by
  unfold Machine.execJobReleaseForce
  grind [resOk_next, command_evolves]

theorem execStepRun_evolves (h : Evolves r s) (q e) : ResOk r (execStepRun q e s) := by
  unfold Machine.execStepRun
  grind [resOk_next, command_evolves]

theorem execPreempt_evolves (h : Evolves r s) (q e) : ResOk r (execPreempt q e s) := by
  unfold Machine.execPreempt
  grind [resOk_next, command_evolves]

theorem execResume_evolves (h : Evolves r s) (q e) : ResOk r (execResume q e s) := by
  unfold Machine.execResume
  grind [resOk_next, command_evolves]

theorem execCopyIn_evolves (h : Evolves r s) (q e plain tags) : ResOk r (execCopyIn q e plain tags s) := by
  unfold Machine.execCopyIn
  grind [resOk_next, command_evolves]

theorem execCopyOut_evolves (h : Evolves r s) (q e) : ResOk r (execCopyOut q e s) := by
  unfold Machine.execCopyOut
  grind [resOk_next, command_evolves]

theorem execWriteInline_evolves (h : Evolves r s) (q e) : ResOk r (execWriteInline q e s) := by
  unfold Machine.execWriteInline
  grind [resOk_next, command_evolves]

theorem execPowerSet_evolves (h : Evolves r s) (q e) : ResOk r (execPowerSet q e s) := by
  unfold Machine.execPowerSet
  grind [resOk_next, command_evolves]

theorem execPowerQuery_evolves (h : Evolves r s) (q e) : ResOk r (execPowerQuery q e s) := by
  unfold Machine.execPowerQuery
  grind [resOk_next, command_evolves]

theorem execRestEnter_evolves (h : Evolves r s) (q e) : ResOk r (execRestEnter q e s) := by
  unfold Machine.execRestEnter
  grind [resOk_next, command_evolves]

theorem execCountersSnapshotInstant_evolves (h : Evolves r s) (q e) : ResOk r (execCountersSnapshotInstant q e s)
    := by
  unfold Machine.execCountersSnapshotInstant
  grind [resOk_next, command_evolves]

theorem execCountersSnapshotSeam_evolves (h : Evolves r s) (q e) : ResOk r (execCountersSnapshotSeam q e s) := by
  unfold Machine.execCountersSnapshotSeam
  grind [resOk_next, command_evolves]

theorem execLedgerRead_evolves (h : Evolves r s) (q e) : ResOk r (execLedgerRead q e s) := by
  unfold Machine.execLedgerRead
  grind [resOk_next, command_evolves]

theorem execAuditRead_evolves (h : Evolves r s) (q e) : ResOk r (execAuditRead q e s) := by
  unfold Machine.execAuditRead
  grind [resOk_next, command_evolves]

theorem execFirmwareStage_evolves (h : Evolves r s) (q e fw flashOk) : ResOk r (execFirmwareStage q e fw flashOk s)
    := by
  unfold Machine.execFirmwareStage
  grind [resOk_next, command_evolves]

theorem execFirmwareActivate_evolves (h : Evolves r s) (q e) : ResOk r (execFirmwareActivate q e s) := by
  unfold Machine.execFirmwareActivate
  grind [resOk_next, command_evolves]

theorem execPortConfigOut_evolves (h : Evolves r s) (q e) : ResOk r (execPortConfigOut q e s) := by
  unfold Machine.execPortConfigOut
  grind [resOk_next, command_evolves]

theorem execPortConfigReturn_evolves (h : Evolves r s) (q e) : ResOk r (execPortConfigReturn q e s) := by
  unfold Machine.execPortConfigReturn
  grind [resOk_next, command_evolves]

theorem execPortStatus_evolves (h : Evolves r s) (q e) : ResOk r (execPortStatus q e s) := by
  unfold Machine.execPortStatus
  grind [resOk_next, command_evolves]

theorem execEntryReread_evolves (h : Evolves r s) (q e) : ResOk r (execEntryReread q e s) := by
  unfold Machine.execEntryReread
  grind [resOk_next, takeServe_evolves, snoopEntry_evolves, failRead_evolves]

theorem execGovWindow_evolves (h : Evolves r s) (w) : ResOk r (execGovWindow w s) := by
  unfold Machine.execGovWindow
  grind [resOk_next, retryWaiting_evolves, govWindow_evolves]

end Sys2Proof.Machine
end

