-- ==== Sys2Proof/Laws/EvolvesBoard.lean ====
section
/-! SUPPORT. `Evolves`, one lemma per operation: boot, faults, darning, power and the clock. -/

namespace Sys2Proof.Machine

set_option Elab.async false

variable {r s : State}

/-! ## Machine/Firmware.lean -/

theorem bootHold_evolves (h : Evolves r s) : Evolves r (bootHold s) := by
  unfold Machine.bootHold
  exact modTrust_evolves ((h.host { s.host with ready := false } (fun w => w.sqs) fun w => w.cqs).update ..)
    (fun t => { t with restartAt := none }) le_rfl le_rfl le_rfl le_rfl rfl

theorem pickBank_evolves (h : Evolves r s) : ∀ a t, pickBank s = some (a, t) → Evolves r t := by
  unfold Machine.pickBank
  grind [ledger_evolves, modTrust_evolves]

theorem measureFw_evolves (h : Evolves r s) (p) : Evolves r (measureFw s p) := by
  unfold Machine.measureFw
  grind [extend_evolves, modTrust_evolves]

theorem measureBoard_evolves (h : Evolves r s) (c) : Evolves r (measureBoard s c) := by
  unfold Machine.measureBoard
  grind [extend_evolves]

theorem applyBoard_evolves (h : Evolves r s) (c) : Evolves r (applyBoard s c) := by
  unfold Machine.applyBoard
  grind (splits := 40) (gen := 30) (ematch := 30) [Evolves.foldl, Evolves.update, Tile.MemOk, modTrust_evolves,
      modPort_evolves, modMem_evolves, setTrims_evolves, modGov_evolves, ptpBoot_evolves, checkTrims_evolves]

theorem idFailed_evolves (h : Evolves r s) (idx) : Evolves r (idFailed s idx) := by
  unfold Machine.idFailed
  grind [ledger_evolves, modTrust_evolves]

theorem certifyAk_evolves (h : Evolves r s) (b ak kem) : Evolves r (certifyAk s b ak kem) := by
  unfold Machine.certifyAk
  grind [draw_evolves, idFailed_evolves, modTrust_evolves, pldm_evolves]

theorem bootKeys_evolves (h : Evolves r s) (b) : Evolves r (bootKeys s b) := by
  unfold Machine.bootKeys
  grind [modTrust_evolves, certifyAk_evolves]

theorem readLedgerArea_evolves (h : Evolves r s) : Evolves r (readLedgerArea s) := by
  unfold Machine.readLedgerArea
  split
  · exact h
  · next es nx at' ok hl =>
    dsimp only
    have h2 := modFlt_evolves h (fun f => { f with flushSeq := nx - 1, flushTime := at' }) id
    split
    · exact ledger_evolves h ..
    · split
      · exact h2.trans ⟨rfl, le_rfl, le_rfl, le_rfl, le_rfl, le_rfl, fun w => ⟨w.1, w.2, w.3, w.4, w.5, w.6, w.7,
          w.8⟩,
    fun w => ⟨w.flash _ hl, w.flash⟩⟩
      · exact h2

theorem bootFar_evolves (h : Evolves r s) (caps) : Evolves r (bootFar s caps) := by
  unfold Machine.bootFar
  grind [Evolves.foldl, Evolves.update, Tile.MemOk, draw_evolves, modMem_evolves]

theorem bootFrom_evolves (h : Evolves r s) (b p c) : Evolves r (bootFrom s b p c) := by
  unfold Machine.bootFrom
  grind [Evolves.foldl, Evolves.update, Tile.MemOk, measureBoard_evolves, bootFar_evolves, applyBoard_evolves,
      ptpBoot_evolves, bootKeys_evolves, extend_evolves, modTrust_evolves, tryReady_evolves]

theorem bootRun_evolves (h : Evolves r s) (b) : Evolves r (bootRun s b) := by
  unfold Machine.bootRun
  split
  · exact bootHold_evolves h
  · have k : Evolves r (if s.trust.activating then s else readLedgerArea s) := by
      split
      · exact h
      · exact readLedgerArea_evolves h
    dsimp only
    split
    · exact bootHold_evolves k
    · next p u e =>
      have k2 := measureFw_evolves (pickBank_evolves k _ _ e) p
      split
      · exact bootHold_evolves k2
      · exact bootFrom_evolves k2 ..

theorem execBoot_evolves (h : Evolves r s) (b) : ResOk r (execBoot b s) := by
  unfold Machine.execBoot
  grind [Evolves.foldl, Evolves.update, Tile.MemOk, resOk_next, bootRun_evolves]

theorem execFirmwareRestart_evolves (h : Evolves r s) : ResOk r (execFirmwareRestart s) := by
  unfold Machine.execFirmwareRestart
  grind (splits := 40) (gen := 30) (ematch := 30) [Evolves.foldl, Evolves.update, Tile.MemOk, resOk_next,
      zeroExchange_evolves, resetHostRegs_evolves, eraseSession_evolves, modHost_evolves, clearMeas_evolves,
      modTrust_evolves]

theorem execStagedFirmwareTimeout_evolves (h : Evolves r s) : ResOk r (execStagedFirmwareTimeout s) := by
  unfold Machine.execStagedFirmwareTimeout
  simp only [resOk_next]
  split
  · split
    · exact (modTrust_evolves h _ le_rfl le_rfl le_rfl le_rfl rfl).update ..
    · exact h
  · exact h

theorem execPldmFirmwareUpdate_evolves (h : Evolves r s) (fw flashOk) : ResOk r (execPldmFirmwareUpdate fw flashOk
    s) := by
  unfold Machine.execPldmFirmwareUpdate
  grind [resOk_next, modTrust_evolves, stageFw_evolves]

theorem execBoardRecordRetry_evolves (h : Evolves r s) (flashOk) : ResOk r (execBoardRecordRetry flashOk s) := by
  unfold Machine.execBoardRecordRetry
  grind [resOk_next, boardFlush_evolves]

theorem answer_evolves (h : Evolves r s) (o) : Evolves r (answer s o) := by
  unfold Machine.answer
  grind [modTrust_evolves]

theorem setSpdm_evolves (h : Evolves r s) (f) : Evolves r (setSpdm s f) := by
  unfold Machine.setSpdm
  grind [modTrust_evolves]

theorem execGetVersion_evolves (h : Evolves r s) : ResOk r (execGetVersion s) := by
  unfold Machine.execGetVersion
  grind [resOk_next, answer_evolves, modTrust_evolves]

theorem execGetCapabilities_evolves (h : Evolves r s) : ResOk r (execGetCapabilities s) := by
  unfold Machine.execGetCapabilities
  grind [resOk_next, answer_evolves]

theorem execNegotiateAlgorithms_evolves (h : Evolves r s) (sha384 aesGcm) : ResOk r (execNegotiateAlgorithms sha384
    aesGcm s) := by
  unfold Machine.execNegotiateAlgorithms
  grind [resOk_next, answer_evolves, modTrust_evolves]

theorem execGetMeasurements_evolves (h : Evolves r s) (index) : ResOk r (execGetMeasurements index s) := by
  unfold Machine.execGetMeasurements
  grind [resOk_next, answer_evolves]

theorem execPskExchange_evolves (h : Evolves r s) (slot) : ResOk r (execPskExchange slot s) := by
  unfold Machine.execPskExchange
  grind [resOk_next, modTrust_evolves, answer_evolves]

theorem execPskFinish_evolves (h : Evolves r s) (session verified) : ResOk r (execPskFinish session verified s) :=
    by
  unfold Machine.execPskFinish
  grind [resOk_next, answer_evolves, setSpdm_evolves]

theorem execHeartbeat_evolves (h : Evolves r s) (session) : ResOk r (execHeartbeat session s) := by
  unfold Machine.execHeartbeat
  grind [resOk_next, answer_evolves]

theorem execEndSession_evolves (h : Evolves r s) (session) : ResOk r (execEndSession session s) := by
  unfold Machine.execEndSession
  grind [resOk_next, answer_evolves, setSpdm_evolves]

theorem execEvidence_evolves (h : Evolves r s) (nonce) : ResOk r (execEvidence nonce s) := by
  unfold Machine.execEvidence
  grind [resOk_next, → evidence_evolves, answer_evolves]

theorem execPskProvision_evolves (h : Evolves r s) (slot session ct psk tag) : ResOk r (execPskProvision slot
    session ct psk tag s) := by
  unfold Machine.execPskProvision
  grind [resOk_next, answer_evolves, modTrust_evolves]

theorem execIdeKm_evolves (h : Evolves r s) (session stream) : ResOk r (execIdeKm session stream s) := by
  unfold Machine.execIdeKm
  grind [resOk_next, answer_evolves, modHost_evolves]

/-! ## Machine/Faults.lean -/

theorem execLockstepMismatch_evolves (h : Evolves r s) (pair survivor) : ResOk r (execLockstepMismatch pair
    survivor s) := by
  unfold Machine.execLockstepMismatch
  grind [resOk_next, fatalFault_evolves, ledger_evolves, modFlt_evolves]

theorem tileGone_evolves (h : Evolves r s) (t) : Evolves r (tileGone s t) := by
  unfold Machine.tileGone
  grind [Evolves.foldl, Evolves.update, Tile.MemOk, modTile_evolves, ledger_evolves, modFlt_evolves]

theorem execTileFaultPredictive_evolves (h : Evolves r s) (t) : ResOk r (execTileFaultPredictive t s) := by
  unfold Machine.execTileFaultPredictive
  grind [Evolves.foldl, Evolves.update, Tile.MemOk, resOk_next, modTile_evolves, tileGone_evolves]

theorem execTileFaultHard_evolves (h : Evolves r s) (t) : ResOk r (execTileFaultHard t s) := by
  unfold Machine.execTileFaultHard
  grind [Evolves.foldl, Evolves.update, Tile.MemOk, resOk_next, setLocal_evolves, modTile_evolves, tileGone_evolves]

theorem execTileDarn_evolves (h : Evolves r s) (t readable flashOk) : ResOk r (execTileDarn t readable flashOk s)
    := by
  unfold Machine.execTileDarn
  grind [resOk_next, tileGone_evolves, dropAcc_evolves, beginHold_evolves, modFlt_evolves]

theorem lostTile_evolves (h : Evolves r s) (t) : Evolves r (lostTile s t) := by
  unfold Machine.lostTile
  have k : ∀ x : Tile, ({ x with scratch := [], hamper := [], acc := [], kfs := {}, mxs := {}, vrs := {}, ts := {}
                                 pctVerdict := 0, raises := [], press := [] } : Tile).MemOk := fun x => ⟨rfl, rfl⟩
  dsimp only
  split
  · split
    · exact setTile_evolves h _ _ fun _ => loadTile_ok ⟨rfl, rfl⟩ _
    · exact setTile_evolves h _ _ fun _ => k _
  · exact setTile_evolves h _ _ fun _ => k _

theorem execDarnComplete_evolves (h : Evolves r s) : ResOk r (execDarnComplete s) := by
  unfold Machine.execDarnComplete
  grind (splits := 40) (gen := 30) (ematch := 30) [Evolves.foldl, Evolves.update, Tile.MemOk, resOk_next,
      modTile_evolves, boardSet_evolves, ledger_evolves, endHold_evolves, modFlt_evolves, lostTile_evolves,
      abandonCause_evolves, setLocal_evolves]

theorem execChannelFaultPredictive_evolves (h : Evolves r s) (c) : ResOk r (execChannelFaultPredictive c s) := by
  unfold Machine.execChannelFaultPredictive
  grind [resOk_next, modFlt_evolves]

theorem execChannelFaultHard_evolves (h : Evolves r s) (c) : ResOk r (execChannelFaultHard c s) := by
  unfold Machine.execChannelFaultHard
  grind [resOk_next, setLocal_evolves, modFlt_evolves]

theorem zeroChannel_evolves (h : Evolves r s) (k) : Evolves r (zeroChannel s k) := by
  unfold Machine.zeroChannel
  refine modMem_evolves h _ (fun w => ?_) id id id
  dsimp only
  exact SMap.wf_filter _ _ _ w

theorem chanReads_evolves (h : Evolves r s) (k) : Evolves r (chanReads s k) := by
  unfold Machine.chanReads
  grind [Evolves.foldl, Evolves.update, Tile.MemOk, dramRead_evolves]

theorem execChannelDarn_evolves (h : Evolves r s) (flashOk) : ResOk r (execChannelDarn flashOk s) := by
  unfold Machine.execChannelDarn
  grind [resOk_next, zeroChannel_evolves, chanReads_evolves, boardSet_evolves, modFlt_evolves, ledger_evolves]

/-! ## Machine/Bringup.lean -/

theorem execRestEntry_evolves (h : Evolves r s) : ResOk r (execRestEntry s) := by
  unfold Machine.execRestEntry
  grind (splits := 40) (gen := 30) (ematch := 30) [Evolves.foldl, Evolves.update, Tile.MemOk, resOk_next,
      dropAcc_evolves, beginHold_evolves, modHost_evolves, modMem_evolves, modGov_evolves, ledgerOpen_evolves,
      complete_evolves]

theorem wakeGangs_evolves (h : Evolves r s) : Evolves r (wakeGangs s) := by
  unfold Machine.wakeGangs
  grind [Evolves.foldl, Evolves.update, Tile.MemOk, endHold_evolves, leaveSeam_evolves]

theorem execWakeEnd_evolves (h : Evolves r s) : ResOk r (execWakeEnd s) := by
  unfold Machine.execWakeEnd
  grind (splits := 40) (gen := 30) (ematch := 30) [Evolves.foldl, Evolves.update, Tile.MemOk, resOk_next,
      setLevel_evolves, modMem_evolves, modGov_evolves, applyHeld_evolves, copiesGo_evolves,
      resumeRequests_evolves, retryWaiting_evolves, wakeGangs_evolves]

theorem execScrubComplete_evolves (h : Evolves r s) : ResOk r (execScrubComplete s) := by
  unfold Machine.execScrubComplete
  grind [resOk_next, retryWaiting_evolves, scrubbed_evolves]

theorem powerReset_evolves (h : Evolves r s) (keepLedger ph) : Evolves r (powerReset s keepLedger ph) := by
  refine h.trans ⟨rfl, le_rfl, le_rfl, le_rfl, le_rfl, le_rfl,
    fun _ => ⟨⟨rfl, rfl, rfl, rfl⟩, rfl, rfl, rfl, rfl, rfl, rfl, fun _ => ⟨rfl, rfl⟩⟩, fun w => ⟨?_, w.flash⟩⟩
  cases keepLedger
  · exact Nat.zero_le _
  · exact w.ring

theorem execPowerOn_evolves (h : Evolves r s) : ResOk r (execPowerOn s) := by
  unfold Machine.execPowerOn
  grind [resOk_next, powerReset_evolves]

theorem lateOn_evolves (h : Evolves r s) : Evolves r (lateOn s) := by
  unfold Machine.lateOn
  grind [powerReset_evolves]

theorem cutFlush_evolves (h : Evolves r s) : Evolves r (cutFlush s) := by
  unfold Machine.cutFlush
  split
  · refine (draw_evolves h).trans ⟨rfl, le_rfl, le_rfl, le_rfl, le_rfl, le_rfl, fun w => ⟨w.1, w.2, w.3, w.4, w.5,
      w.6, w.7, w.8⟩,
    fun w => ⟨w.ring, fun l hl => ?_⟩⟩
    simp only [State.modTrust, Option.map_eq_some_iff] at hl
    obtain ⟨a, ha, rfl⟩ := hl
    exact w.flash a ha
  · exact h

theorem execAux12vLoss_evolves (h : Evolves r s) : ResOk r (execAux12vLoss s) := by
  unfold Machine.execAux12vLoss
  grind [resOk_next, powerReset_evolves, cutFlush_evolves]

theorem eraseBoot_evolves (h : Evolves r s) : Evolves r (eraseBoot s) := by
  unfold Machine.eraseBoot
  grind [modTrust_evolves, eraseKeys_evolves]

theorem execModResetAssert_evolves (h : Evolves r s) : ResOk r (execModResetAssert s) := by
  unfold Machine.execModResetAssert
  grind [Evolves.foldl, Evolves.update, Tile.MemOk, resOk_next, eraseBoot_evolves, leaveJob_evolves,
      freezeAll_evolves, modHost_evolves, modGov_evolves]

theorem execModResetDeassert_evolves (h : Evolves r s) : ResOk r (execModResetDeassert s) := by
  unfold Machine.execModResetDeassert
  grind [Evolves.foldl, Evolves.update, Tile.MemOk, resOk_next, lateOn_evolves]

theorem mainRails_evolves (h : Evolves r s) (fail) : Evolves r (mainRails s fail) := by
  unfold Machine.mainRails
  grind [Evolves.foldl, Evolves.update, Tile.MemOk, modGov_evolves, alertSeen_evolves]

theorem execMainSequence_evolves (h : Evolves r s) (fail) : ResOk r (execMainSequence fail s) := by
  unfold Machine.execMainSequence
  grind [resOk_next, lateOn_evolves, mainRails_evolves]

theorem execSequenceRetry_evolves (h : Evolves r s) (fail) : ResOk r (execSequenceRetry fail s) := by
  unfold Machine.execSequenceRetry
  grind [resOk_next, mainRails_evolves]

theorem execMainInputLoss_evolves (h : Evolves r s) : ResOk r (execMainInputLoss s) := by
  unfold Machine.execMainInputLoss
  grind [resOk_next, Evolves.update]

theorem execVin48Fault_evolves (h : Evolves r s) : ResOk r (execVin48Fault s) := by
  unfold Machine.execVin48Fault
  grind [resOk_next, fatalFault_evolves]

theorem execVin48WarningTick_evolves (h : Evolves r s) : ResOk r (execVin48WarningTick s) := by
  unfold Machine.execVin48WarningTick
  grind [Evolves.foldl, Evolves.update, Tile.MemOk, resOk_next, pldm_evolves]

theorem execFullReadiness_evolves (h : Evolves r s) : ResOk r (execFullReadiness s) := by
  unfold Machine.execFullReadiness
  grind [Evolves.foldl, Evolves.update, Tile.MemOk, resOk_next, retryWaiting_evolves, pldm_evolves]

theorem execFabricTrainRetry_evolves (h : Evolves r s) : ResOk r (execFabricTrainRetry s) := by
  unfold Machine.execFabricTrainRetry
  grind [resOk_next, Evolves.update]

theorem execPortTrained_evolves (h : Evolves r s) (p) : ResOk r (execPortTrained p s) := by
  unfold Machine.execPortTrained
  grind [resOk_next, portCfgDone_evolves, portTrain_evolves]

/-! ## Machine/Tick.lean -/

theorem recvMiss_evolves (h : Evolves r s) (t o) : Evolves r (recvMiss t s o) := by
  unfold Machine.recvMiss
  grind [slotFault_evolves, modOp_evolves]

theorem idleIssue_evolves (h : Evolves r s) (t) : Evolves r (idleIssue s t) := by
  unfold Machine.idleIssue
  grind (splits := 40) (gen := 30) (ematch := 30) [raiseFills_ok, Evolves.foldl, Evolves.update, Tile.MemOk,
      modTile_evolves, issueFault_evolves, beginIssue_evolves]

theorem tileEnd_evolves (h : Evolves r s) (t) : Evolves r (tileEnd s t) := by
  unfold Machine.tileEnd
  have k1 := Evolves.foldl (s.tile t).ops (recvMiss t) (fun x b hx => recvMiss_evolves hx ..) h
  have k2 := fun l => Evolves.foldl l (xferCycle t) (fun x b hx => xferCycle_evolves hx ..) k1
  have k3 := fun l l' => Evolves.foldl l' (sendCycle t) (fun x b hx => sendCycle_evolves hx ..) (k2 l)
  exact pressCycle_evolves (idleIssue_evolves (hazardDue_evolves (modTile_evolves (k3 _ _) _ _ fun w => ⟨w.1, w.2⟩)
      _) _) _

theorem dueFlit_evolves (h : Evolves r s) (w) : Evolves r (dueFlit s w) := by
  unfold Machine.dueFlit
  grind [Evolves.foldl, Evolves.update, Tile.MemOk, takeFlit_evolves]

theorem cycleEnd_evolves (h : Evolves r s) : Evolves r (cycleEnd s) := by
  unfold Machine.cycleEnd
  grind [Evolves.foldl, Evolves.update, Tile.MemOk, dueFlit_evolves, tileEnd_evolves]

theorem advance_evolves (h : Evolves r s) : Evolves r (advance s) := by
  unfold Machine.advance
  grind (splits := 40) (gen := 30) (ematch := 30) [Evolves.foldl, Evolves.update, Tile.MemOk, modGov_evolves,
      bridgeCycle_evolves, gangCycle_evolves]

theorem deadlineMark_evolves (h : Evolves r s) : Evolves r (deadlineMark s) := by
  unfold Machine.deadlineMark
  grind [modStg_evolves]

theorem timeTick_evolves (h : Evolves r s) : Evolves r (timeTick s) := by
  unfold Machine.timeTick
  grind [Evolves.update]

theorem timePass_evolves (h : Evolves r s) : Evolves r (timePass s) := by
  unfold Machine.timePass
  grind [Evolves.foldl, Evolves.update, Tile.MemOk, timeTick_evolves]

theorem drainLedger_evolves (h : Evolves r s) : Evolves r (drainLedger s) := by
  unfold Machine.drainLedger
  grind [modFlt_evolves]

theorem newCycle_evolves (h : Evolves r s) : Evolves r (newCycle s) := by
  unfold Machine.newCycle
  grind [modHost_evolves]

theorem tick_evolves (h : Evolves r s) : Evolves r (tick s) := by
  unfold Machine.tick
  have k : ∀ u, Evolves r u → Evolves r { u with tiles := nextTiles u.tiles } := by
    intro u hu
    refine hu.tiles _ (fun _ => SMap.wf_remap ..) fun w t => ?_
    exact SMap.get_remap (P := Tile.MemOk) _ _ _ tileEmpty_ok (fun e he => ⟨(w.tileMem e he).1, (w.tileMem e
        he).2⟩) t
  split
  · exact h
  · split
    · exact lateOn_evolves (drainLedger_evolves (timeTick_evolves (newCycle_evolves h)))
    · exact retryWaiting_evolves (drainLedger_evolves (settlePorts_evolves (advance_evolves (timePass_evolves (k _
        (deadlineMark_evolves (cycleEnd_evolves (newCycle_evolves h))))))))

end Sys2Proof.Machine
end

