-- ==== Sys2Proof/Laws/Ops.lean ====
section
/-! SUPPORT. What each shared operation can change, said once: the blocks it writes, and in them the fields. -/

namespace Sys2Proof.Machine

/-! ## Towards the host -/

theorem msixSend_frame (s : State) (v : Nat) :
    ∃ m o ho up, msixSend s v = { s with host := { s.host with msix := m, out := o, heldOut := ho, upHeld := up } } := by
  unfold msixSend; dsimp only
  split
  · exact ⟨_, _, _, _, rfl⟩
  · split <;> exact ⟨_, _, _, _, rfl⟩

theorem raiseInt_frame (s : State) (b : Nat) :
    ∃ m o ho up, raiseInt s b = { s with host := { s.host with
      intStatus := s.host.intStatus ||| BitVec.ofNat 5 (2 ^ b), intNow := s.host.intNow ||| BitVec.ofNat 5 (2 ^ b)
      msix := m, out := o, heldOut := ho, upHeld := up } } := by
  unfold raiseInt; dsimp only
  split
  · obtain ⟨m, o, ho, up, h⟩ := msixSend_frame (s.modHost fun h =>
      { h with intStatus := h.intStatus ||| BitVec.ofNat 5 (2 ^ b), intNow := h.intNow ||| BitVec.ofNat 5 (2 ^ b) }) 0
    exact ⟨m, o, ho, up, h⟩
  · exact ⟨_, _, _, _, rfl⟩

theorem hostSend_frame (s : State) (x : HostOut) (b : Bool) :
    ∃ o ho up, hostSend s x b = { s with host := { s.host with out := o, heldOut := ho, upHeld := up } } := by
  unfold hostSend; split <;> exact ⟨_, _, _, rfl⟩

/-- What a completion can write: queues and what goes to the host in the host block, STG_LAST_STATUS, and where a queue lies in the
exchange area its bytes with what the controller keeps beside them and counts of the granules it reads (R263, R264, R336, R349, R350,
R235). -/
def Posted (s u : State) : Prop :=
  ∃ sq c m o ho up d p w g nu tf fp l r nx ql sd ev k, u = { s with
    host := { s.host with sqs := sq, cqs := c, msix := m, out := o, heldOut := ho, upHeld := up }
    mem := { s.mem with dram := d, poison := p, farWritten := w, tags := g, nearUe := nu, tagFail := tf, farPoison := fp }
    stg := { s.stg with lastStatus := l }
    flt := { s.flt with ring := r, next := nx, qlen := ql, suppressed := sd }
    gov := { s.gov with events := ev }
    free := k }

theorem Posted.of (s : State) (sq c m o ho up d p w g nu tf fp l r nx ql sd ev k) : Posted s { s with
    host := { s.host with sqs := sq, cqs := c, msix := m, out := o, heldOut := ho, upHeld := up }
    mem := { s.mem with dram := d, poison := p, farWritten := w, tags := g, nearUe := nu, tagFail := tf, farPoison := fp }
    stg := { s.stg with lastStatus := l }
    flt := { s.flt with ring := r, next := nx, qlen := ql, suppressed := sd }
    gov := { s.gov with events := ev }
    free := k } := ⟨_, _, _, _, _, _, _, _, _, _, _, _, _, _, _, _, _, _, _, _, rfl⟩

theorem Posted.refl (s : State) : Posted s s := Posted.of s ..

theorem Posted.trans {s u v : State} (h : Posted s u) (k : Posted u v) : Posted s v := by
  obtain ⟨_, _, _, _, _, _, _, _, _, _, _, _, _, _, _, _, _, _, _, _, rfl⟩ := h
  obtain ⟨_, _, _, _, _, _, _, _, _, _, _, _, _, _, _, _, _, _, _, _, rfl⟩ := k
  exact Posted.of s ..

theorem Posted.foldl {β : Type} (s : State) (l : List β) (f : State → β → State) (hf : ∀ x b, Posted x (f x b)) :
    Posted s (l.foldl f s) := by
  induction l generalizing s with
  | nil => exact Posted.refl s
  | cons b l ih => exact (hf s b).trans (ih (f s b))

theorem msixSend_posted (s : State) (v : Nat) : Posted s (msixSend s v) := by
  obtain ⟨m, o, ho, up, h⟩ := msixSend_frame s v
  rw [h]; exact Posted.of s ..

theorem hostSend_posted (s : State) (x : HostOut) (b : Bool) : Posted s (hostSend s x b) := by
  obtain ⟨o, ho, up, h⟩ := hostSend_frame s x b
  rw [h]; exact Posted.of s ..

theorem ledger2_posted (s : State) (src code unit data : Nat) : Posted s (ledger s 2 src code unit data) := Posted.of s ..

theorem beatEvent_posted (s : State) (off : Nat) : Posted s (beatEvent s off) := Posted.of s ..

theorem drawBeat_posted (s : State) : Posted s (drawBeat s).2 := Posted.of s ..

/-- A read of a tier counts and logs what it finds poisoned (R264). -/
theorem dramRead_posted (s : State) (off : Nat) : Posted s (dramRead s off).2.2 := by
  unfold dramRead
  extract_lets far u log tagBad
  have hu : Posted s u := beatEvent_posted s off
  have hl : ∀ x y, Posted x y → Posted x (log y) := fun x y h => h.trans (ledger2_posted y ..)
  have ht : ∀ x y, Posted x y → Posted x (tagBad y) := fun x y h => hl _ _ (h.trans (Posted.of y ..))
  clear_value log tagBad u
  split
  · exact ht _ _ (hu.trans (drawBeat_posted u))
  · split
    · exact hl _ _ ((hu.trans (drawBeat_posted u)).trans (Posted.of _ ..))
    · split
      · refine hl _ _ (hu.trans ?_)
        simp only [far]
        split <;> exact Posted.of u ..
      · split
        · exact ht _ _ hu
        · exact hu

theorem readRest_posted (s : State) (off : Nat) (own : Bool) : Posted s (readRest s off own) := by
  unfold readRest
  split
  · refine Posted.foldl s _ _ fun x a => ?_
    unfold readForTag
    have h := dramRead_posted x a
    dsimp only
    split
    · exact h.trans (Posted.of _ ..)
    · exact h
  · exact Posted.refl s

theorem tagForm_posted (s : State) (off : Nat) : Posted s (tagForm s off) := by
  unfold tagForm; split
  · exact Posted.of s ..
  · exact Posted.refl s

theorem dramWrite_posted (s : State) (off : Nat) (b : Beat) : Posted s (dramWrite s off b) := by
  unfold dramWrite
  refine ((readRest_posted s off false).trans (beatEvent_posted _ off)).trans (Posted.trans ?_ (tagForm_posted _ off))
  exact Posted.of _ ..

theorem dramWriteBytes_posted (s : State) (off : Nat) (bs : List Byte) : Posted s (dramWriteBytes s off bs) := by
  unfold dramWriteBytes
  refine ((readRest_posted s off true).trans (beatEvent_posted _ off)).trans (Posted.trans ?_ (tagForm_posted _ off))
  exact Posted.of _ ..

theorem xareaPut_posted (s : State) (off : Nat) (bs : List Byte) : Posted s (xareaPut s off bs) := by
  unfold xareaPut
  refine Posted.foldl s _ _ fun x i => ?_
  refine Posted.trans (u := x.modHost fun h => { h with out := h.out ++ [.bisnpInv ((off + 64 * i) / 64 * 64)] }) ?_ ?_
  · exact Posted.of x ..
  · dsimp only
    split
    · exact dramWrite_posted ..
    · exact dramWriteBytes_posted ..

theorem postCq_posted (s : State) (cq cid st sq sqhd i0 i1 gen : Nat) (rv : Bool) :
    Posted s (postCq s cq cid st sq sqhd i0 i1 gen rv) := by
  unfold postCq; extract_lets c size e u v wrap
  have h1 : Posted s u := by
    dsimp only [u]; split
    · exact xareaPut_posted ..
    · exact Posted.refl s
  have h2 : Posted u v := hostSend_posted ..
  refine h1.trans (h2.trans ?_)
  exact Posted.of v ..

theorem postResult_posted (s : State) (e : BitVec 2048) (gen st : Nat) (body : List Byte) :
    Posted s (postResult s e gen st body) := by
  unfold postResult; extract_lets b h u v
  have h1 : Posted s u := by
    dsimp only [u]; split
    · exact (xareaPut_posted ..).trans (xareaPut_posted ..)
    · exact Posted.refl s
  have h2 : Posted u v := by
    dsimp only [v]; split
    · exact Posted.refl u
    · exact hostSend_posted ..
  exact h1.trans (h2.trans (hostSend_posted v _ _))

theorem finish_posted (s : State) (q st i0 i1 : Nat) (body : Option (List Byte)) :
    Posted s (finish s q st i0 i1 body) := by
  unfold finish
  split
  · exact Posted.refl s
  · extract_lets rv u i1' v w
    have h1 : Posted s u := by
      dsimp only [u]
      cases body with
      | none => exact Posted.refl s
      | some b =>
        dsimp only; split
        · exact postResult_posted ..
        · exact Posted.refl s
    have h2 : Posted u v := postCq_posted ..
    have h3 : Posted v w := by
      dsimp only [w]; split
      · exact Posted.of v ..
      · exact Posted.refl v
    refine h1.trans (h2.trans (h3.trans ?_))
    exact Posted.of w ..

/-- A completion writes the queues, what goes to the host, STG_LAST_STATUS, and what writes of the exchange area touch. -/
theorem complete_posted (s : State) (q st i0 i1 : Nat) (body : Option (List Byte)) :
    Posted s (complete s q st i0 i1 body) := by
  unfold complete
  split
  · exact Posted.refl s
  · refine (finish_posted s q st i0 i1 body).trans ?_
    unfold cqNotify; split
    · exact msixSend_posted ..
    · exact Posted.refl _

/-! ## The ledger and reports -/

/-- An entry of severity below fatal writes the ledger alone: one entry more, or one suppressed. -/
theorem ledger_frame (s : State) (sev src code unit data : Nat) (h : sev ≠ 3) :
    ∃ r n q d, ledger s sev src code unit data =
      { s with flt := { s.flt with ring := r, next := n, qlen := q, suppressed := d } } := by
  unfold ledger
  split
  · exact ⟨_, _, _, _, rfl⟩
  · dsimp only
    rw [if_neg (by simpa using h)]
    exact ⟨_, _, _, _, rfl⟩

/-- An entry of severity error is taken, whatever the queue holds (R446). -/
theorem ledger_error (s : State) (src code unit data : Nat) :
    ∃ e : BitVec 256, ledger s 2 src code unit data =
      { s with flt := { s.flt with ring := (ledgerPut e s.flt.ring.reverse).reverse.drop (s.flt.ring.length + 1 - 65536)
                                   next := s.flt.next + 1, qlen := s.flt.qlen + 1 } } := ⟨_, rfl⟩

/-- A fatal entry is taken too, and raises INT_STATUS bit 4. -/
theorem ledger_fatal (s : State) (src code unit data : Nat) :
    ∃ (e : BitVec 256) (m : _) (o : _) (ho : _) (up : _), ledger s 3 src code unit data =
      { s with
        flt := { s.flt with ring := (ledgerPut e s.flt.ring.reverse).reverse.drop (s.flt.ring.length + 1 - 65536)
                            next := s.flt.next + 1, qlen := s.flt.qlen + 1 }
        host := { s.host with
          intStatus := s.host.intStatus ||| BitVec.ofNat 5 (2 ^ 4), intNow := s.host.intNow ||| BitVec.ofNat 5 (2 ^ 4)
          msix := m, out := o, heldOut := ho, upHeld := up } } ∧
      e = pack 256 [(0, 48, s.flt.next), (48, 4, 3), (56, 8, src), (64, 64, s.ns), (128, 16, code), (144, 16, unit),
        (160, 32, s.stg.step.toNat), (192, 64, data)] := by
  unfold ledger
  extract_lets e u
  obtain ⟨m, o, ho, up, h⟩ := raiseInt_frame u 4
  refine ⟨e, m, o, ho, up, ?_, rfl⟩
  rw [if_neg (by simp), if_pos (by simp), h]
  clear h
  simp only [u, State.modFlt]
  generalize (ledgerPut e s.flt.ring.reverse).reverse.drop (s.flt.ring.length + 1 - 65536) = r
  rfl

theorem ledgerOpen_frame (s : State) (src : Nat) :
    ∃ r n q d k, ledgerOpen s src =
      { s with flt := { s.flt with ring := r, next := n, qlen := q, suppressed := d }, free := k } := by
  unfold ledgerOpen
  simp only [State.draw]
  obtain ⟨r, n, q, d, h⟩ := ledger_frame { s with free := s.free + 1 + 1 } (fldN (Config.freeBits s.free) 0 8 % 3) src
    (fldN (Config.freeBits s.free) 16 16) (fldN (Config.freeBits s.free) 32 16) (Config.freeBits (s.free + 1)).toNat
    (by omega)
  exact ⟨r, n, q, d, _, h⟩

/-! ## Ports and gangs -/

/-- What a transmitter can write: the ports, the events counted, and the flits sent and held back under the link limiter. -/
def Sent (s u : State) : Prop :=
  ∃ p n e h, u = { s with ports := p, gov := { s.gov with linkUsed := n, events := e, heldFlit := h } }

theorem Sent.refl (s : State) : Sent s s := ⟨_, _, _, _, rfl⟩

theorem Sent.trans {s u v : State} (h : Sent s u) (k : Sent u v) : Sent s v := by
  obtain ⟨_, _, _, _, rfl⟩ := h
  obtain ⟨_, _, _, _, rfl⟩ := k
  exact ⟨_, _, _, _, rfl⟩

theorem modPort_sent (s : State) (p : Nat) (f : Port → Port) : Sent s (s.modPort p f) := ⟨_, _, _, _, rfl⟩

theorem noteEvents_sent (s : State) (i n : Nat) : Sent s (noteEvents s i n) := by
  unfold noteEvents
  split
  · exact Sent.refl s
  · exact ⟨_, _, _, _, rfl⟩

theorem emitFrame_sent (s : State) (p token fk vc : Nat) (flit : Beat) : Sent s (emitFrame s p token fk vc flit) := by
  unfold emitFrame; exact (noteEvents_sent ..).trans (modPort_sent ..)

theorem plainFrame_sent (s : State) (p : Nat) : Sent s (plainFrame s p) := by unfold plainFrame; exact emitFrame_sent ..

theorem startMsg_sent (s : State) (p vc : Nat) (m : Msg) : Sent s (startMsg s p vc m) := by
  unfold startMsg; exact modPort_sent ..

theorem sendFlit_sent (s : State) (p vc : Nat) (det : Bool) : Sent s (sendFlit s p vc det) := by
  unfold sendFlit
  split
  · exact Sent.refl s
  · extract_lets m first u v
    have h1 : Sent s u := emitFrame_sent ..
    have h2 : Sent u v := by
      dsimp only [v]; split
      · exact Sent.refl u
      · exact ⟨_, _, _, _, rfl⟩
    exact h1.trans (h2.trans (modPort_sent ..))

theorem detourSlot_sent (s : State) (p : Nat) : Sent s (detourSlot s p) := by
  unfold detourSlot
  dsimp only
  repeat' split
  all_goals first
    | exact plainFrame_sent ..
    | exact sendFlit_sent ..
    | exact (modPort_sent ..).trans (emitFrame_sent ..)

theorem tokenSlot_sent (s : State) (p vc : Nat) : Sent s (tokenSlot s p vc) := by
  unfold tokenSlot
  dsimp only
  split
  · exact plainFrame_sent ..
  split
  · refine Sent.trans ?_ (plainFrame_sent _ p)
    split
    · exact Sent.refl s
    · exact ⟨_, _, _, _, rfl⟩
  repeat' split
  all_goals first
    | exact plainFrame_sent ..
    | exact sendFlit_sent ..

/-- A frame time writes the port and the link limiter's count. -/
theorem sendFrame_sent (s : State) (p : Nat) : Sent s (sendFrame s p) := by
  unfold sendFrame
  split
  · exact modPort_sent ..
  · dsimp only
    refine Sent.trans ?_ (modPort_sent ..)
    repeat' split
    all_goals first
      | exact plainFrame_sent ..
      | exact tokenSlot_sent ..
      | exact detourSlot_sent ..

theorem leaveRun_sent (n : Nat) (s : State) (p : Nat) : Sent s (leaveRun n s p) := by
  induction n generalizing s with
  | zero => exact Sent.refl s
  | succ n ih =>
    unfold leaveRun
    dsimp only
    split
    · exact (sendFrame_sent s p).trans (ih _)
    · exact Sent.refl s

/-- Leaving the job writes the ports and the link limiter's counts (R299). -/
theorem leaveJob_sent (s : State) : Sent s (leaveJob s) := by
  unfold leaveJob
  extract_lets lim u
  suffices Sent (s.modGov fun g => { g with linkLim := none }) u by
    obtain ⟨p, n, e, h, hu⟩ := this
    rw [hu]; exact ⟨p, n, e, h, rfl⟩
  dsimp only [u]
  generalize s.rolePorts = l
  generalize s.modGov (fun g => { g with linkLim := none }) = s
  clear u lim
  induction l generalizing s with
  | nil => exact Sent.refl s
  | cons a l ih =>
    refine Sent.trans ?_ (ih _)
    dsimp only
    split
    · exact (modPort_sent ..).trans ((leaveRun_sent ..).trans (modPort_sent ..))
    · split
      · exact Sent.refl s
      · exact modPort_sent ..

/-- Freezing every gang writes the gangs alone, and every used gang is frozen. -/
theorem freezeAll_frame (s : State) :
    ∃ g, freezeAll s = { s with gangs := g } ∧ ∀ n, n ∈ s.gangList → (SMap.get {} g n).frozen = true := by
  unfold freezeAll
  generalize s.gangList = l
  suffices ∀ (u : State) (_ : ∃ g, u = { s with gangs := g }), ∃ g, l.foldl freezeGang u = { s with gangs := g } ∧
      ∀ n, (n ∈ l ∨ (u.gang n).frozen = true) → (SMap.get {} g n).frozen = true by
    obtain ⟨g, h1, h2⟩ := this s ⟨_, rfl⟩
    exact ⟨g, h1, fun n hn => h2 n (.inl hn)⟩
  induction l with
  | nil => rintro u ⟨g, rfl⟩; exact ⟨g, rfl, fun n hn => by simpa [State.gang] using hn⟩
  | cons a l ih =>
    rintro u ⟨g, rfl⟩
    obtain ⟨g', h1, h2⟩ := ih (freezeGang { s with gangs := g } a) ⟨_, rfl⟩
    refine ⟨g', h1, fun n hn => h2 n ?_⟩
    by_cases hna : n = a
    · subst hna
      right
      unfold freezeGang
      rw [State.gang_modGang_same]
      intro h; have := congrArg Gang.frozen h; simp at this
    · rcases hn with hn | hn
      · left; simpa [hna] using hn
      · right; unfold freezeGang; rw [State.gang_modGang_other _ _ _ _ hna]; exact hn

/-! ## The step guard -/

theorem setLocal_frame (s : State) (b : Nat) : ∃ l, setLocal s b = { s with stg := { s.stg with loc := l } } := by
  unfold setLocal; split <;> exact ⟨_, rfl⟩

theorem setLocal_bound (s : State) (b : Nat) (h : s.bound = true) :
    setLocal s b = { s with stg := { s.stg with loc := s.stg.loc ||| BitVec.ofNat 10 (2 ^ b) } } := by
  unfold setLocal; rw [if_pos h]; rfl

end Sys2Proof.Machine
end

