-- ==== Sys2Proof/Laws/Threads.lean ====
section
/-! SUPPORT. Issue, signals and slot faults of a tile's threads: what each shared operation does, said once. -/

namespace Sys2Proof.Machine

/-- What holds of a tile whose sequencer issues: it is used, and the thread at the picked ring position is in RUN. -/
theorem canIssue_spec {s : State} {t : Nat} {i : Instr} (h : canIssue s t i = true) :
    (s.tile t).gang.isSome = true ∧ contextSaved s = false ∧
    ∃ th w, decodeThread t th w = some i ∧ (s.ctx t th).st = .run := by
  unfold canIssue issueNext at h
  by_cases hti : tileIssues s t = true
  · simp only [hti, if_true] at h
    have hg : (s.tile t).gang.isSome = true ∧ contextSaved s = false := by
      unfold tileIssues at hti
      cases hg : (s.tile t).gang <;> simp_all
    refine ⟨hg.1, hg.2, ?_⟩
    cases hp : ringPick (s.tile t) with
    | none => simp [hp] at h
    | some p =>
      simp only [hp] at h
      have hr : ready (s.tile t) ((s.tile t).ring.getD p 0) = true := by
        unfold ringPick at hp
        exact List.find?_some (p := fun p => ready (s.tile t) ((s.tile t).ring.getD p 0)) hp
      cases hw : fetchWord (s.tile t) ((s.tile t).ctx ((s.tile t).ring.getD p 0)).pc with
      | none => rw [hw] at h; cases h
      | some w =>
        rw [hw] at h; dsimp only at h
        cases hd : decodeThread t ((s.tile t).ring.getD p 0) w with
        | none => rw [hd] at h; cases h
        | some j =>
          rw [hd] at h
          have h : (j == i) = true := h
          obtain rfl := eq_of_beq h
          refine ⟨_, w, hd, ?_⟩
          simp [ready, nearReady] at hr
          exact hr.1.1
  · simp [hti] at h

/-- The tile after an issue begins, up to the sequencer's own fields. -/
theorem beginIssue_spec (s : State) (t th : Nat) (hg : (s.tile t).gang.isSome = true) (hr : (s.ctx t th).st = .run) :
    (beginIssue s t th).ctx t th = { s.ctx t th with waiting := false } ∧
    (∀ h, h ≠ th → (beginIssue s t th).ctx t h = s.ctx t h) ∧
    (∃ fl la, (beginIssue s t th).tile t =
      { s.tile t with threads := ((beginIssue s t th).tile t).threads, last := la, issuedNow := true, fills := fl }) ∧
    (∀ u, u ≠ t → (beginIssue s t th).tile u = s.tile u) ∧ { beginIssue s t th with tiles := s.tiles } = noteEvents s (32 * tileBand t + 13) 1 := by
  have key : ∃ fl, raiseFills s.clk.cycle (s.tile t) (ringPick (s.tile t)) = { s.tile t with fills := fl } := by
    unfold raiseFills
    generalize ((ringOrder (s.tile t)).takeWhile fun p => some p != ringPick (s.tile t)) = l
    suffices ∀ (l : List Nat) (x : Tile), (∃ fl, x = { s.tile t with fills := fl }) →
        ∃ fl, l.foldl (fun x p => requestFill s.clk.cycle x (x.ring.getD p 0)) x = { s.tile t with fills := fl } from
      this l _ ⟨(s.tile t).fills, rfl⟩
    intro l
    induction l with
    | nil => exact fun x hx => hx
    | cons a l ih =>
      rintro x ⟨fl, rfl⟩
      refine ih _ ?_
      unfold requestFill
      dsimp only
      split
      · exact ⟨_, rfl⟩
      · exact ⟨_, rfl⟩
  obtain ⟨fl, hfl⟩ := key
  have ht : (beginIssue s t th).tile t =
      ({ s.tile t with last := (ringPick (s.tile t)).getD (s.tile t).last, issuedNow := true, fills := fl } : Tile).setCtx th
        { s.ctx t th with waiting := false } := by
    unfold beginIssue
    have e : (noteEvents s (32 * tileBand t + 13) 1).tile t = s.tile t := rfl
    rw [State.tile_modTile_used]
    · dsimp only; rw [e, hfl]; rfl
    · dsimp only; rw [e, hfl]; exact hg
  have hne : ({ s.ctx t th with waiting := false } : Ctx) ≠ Ctx.empty := by
    intro e
    have := congrArg Ctx.st e
    simp only [hr] at this
    exact absurd this (by decide)
  refine ⟨?_, fun h hh => ?_, ⟨fl, (ringPick (s.tile t)).getD (s.tile t).last, ?_⟩, fun u hu => ?_, rfl⟩
  · rw [State.ctx, ht]; exact Tile.ctx_setCtx_same _ _ _ hne
  · rw [State.ctx, ht, Tile.ctx_setCtx_other _ _ _ _ hh]; rfl
  · rw [ht]; rfl
  · exact State.tile_modTile_other _ _ _ _ hu

/-- A signal of a tile's own gang to one of its counters is applied at once, and is no breach (R166, R173). -/
theorem signalLocal_own (s : State) (t c amt : Nat) (hg : (s.tile t).gang.isSome = true) :
    signalLocal s (s.tile t).gang t c amt = if amt = 0 then s else
      State.modTile { s with flt := { s.flt with sigLocal := sat64 (s.flt.sigLocal + amt) } } t fun x => { x with
        ec := SMap.upd 0 x.ec c fun v => v + BitVec.ofNat 32 amt, ts := { x.ts with sigIn := sat64 (x.ts.sigIn + amt) } } := by
  unfold signalLocal
  by_cases h : amt = 0
  · simp [h]
  · rw [if_neg h, if_neg (by simpa using h)]
    unfold deliverSignal
    have e : (s.modFlt fun f => { f with sigLocal := sat64 (f.sigLocal + amt) }).tile t = s.tile t := rfl
    rw [e, if_neg (by simp)]
    unfold applySignal
    rw [e]
    obtain ⟨g, hg⟩ := Option.isSome_iff_exists.mp hg
    rw [hg]
    simp only [bne_self_eq_false, Bool.and_false, Bool.false_eq_true, if_false]
    rfl

/-- The record of a slot fault (R168). -/
theorem slotFault_thread (s : State) (t th g src res slot reason : Nat) (hg : (s.tile t).gang = some g) (hb : s.bound = true) :
    ∃ u, slotFault s t (some th) src res slot reason = abandonStep u ∧
      u.ctx t th = { s.ctx t th with st := .fault, finfo := pack 32 [(0, 8, src), (8, 8, res), (16, 8, slot)] } ∧
      (∀ h, h ≠ th → u.ctx t h = s.ctx t h) ∧
      u.tile t = { s.tile t with threads := (u.tile t).threads, ts := { (s.tile t).ts with
        fault := if bitB (s.tile t).ts.fault 63 then (s.tile t).ts.fault
          else pack 64 [(0, 8, src), (8, 8, res), (16, 8, slot), (24, 12, th), (63, 1, 1)]
        faults := sat32 ((s.tile t).ts.faults + 1) } } ∧
      (∀ v, v ≠ t → u.tile v = s.tile v) ∧ (u.gang g).frozen = true ∧
      u.stg = { s.stg with loc := s.stg.loc ||| BitVec.ofNat 10 (2 ^ 3) } ∧
      { u with tiles := s.tiles, gangs := s.gangs, stg := s.stg, flt := s.flt } = s := by
  unfold slotFault
  dsimp only [Option.getD]
  generalize hr : pack 64 [(0, 8, src), (8, 8, res), (16, 8, slot), (24, 12, th), (63, 1, 1)] = rec_
  generalize hf : pack 32 [(0, 8, src), (8, 8, res), (16, 8, slot)] = fi
  generalize (rec_.toNat + if src == 7 then reason % 256 * 2 ^ 48 else 0) = data
  let c : Ctx := { s.ctx t th with st := .fault, finfo := fi }
  have hc : c ≠ Ctx.empty := by
    intro e; have := congrArg Ctx.st e; simp [c, Ctx.empty] at this
  let y : Tile := { (s.tile t).setCtx th c with ts := { (s.tile t).ts with
        fault := if bitB (s.tile t).ts.fault 63 then (s.tile t).ts.fault else rec_
        faults := sat32 ((s.tile t).ts.faults + 1) } }
  have h1 : (s.setCtx t th c).tile t = (s.tile t).setCtx th c := State.tile_modTile_used _ _ _ (by simp [Tile.setCtx, hg])
  generalize hw : (s.setCtx t th c).modTile t (fun x =>
    { x with ts := { x.ts with fault := if bitB x.ts.fault 63 then x.ts.fault else rec_, faults := sat32 (x.ts.faults + 1) } }) = w
  have h2 : w.tile t = y := by
    rw [← hw, State.tile_modTile_used]
    · rw [h1]; rfl
    · rw [h1]; simp [Tile.setCtx, hg]
  have h3 : ∀ v, v ≠ t → w.tile v = s.tile v := by
    intro v hv; rw [← hw]
    exact (State.tile_modTile_other _ _ _ _ hv).trans (State.tile_modTile_other _ _ _ _ hv)
  have h4 : { w with tiles := s.tiles } = s := by rw [← hw]; rfl
  clear hw
  obtain ⟨r, n, q, d, hl⟩ := ledger_frame w 2 1 0x0101 t data (by decide)
  rw [hl]
  clear hl
  have h5 : State.tile { w with flt := { w.flt with ring := r, next := n, qlen := q, suppressed := d } } t = y := h2
  simp only [h5]
  have h6 : y.gang = some g := hg
  rw [h6]
  dsimp only
  have hb' : (freezeGang { w with flt := { w.flt with ring := r, next := n, qlen := q, suppressed := d } } g).bound = true := by
    have : s.stg = w.stg := by rw [← h4]
    unfold State.bound freezeGang at *; simp [State.modGang, ← this] at *; exact hb
  rw [setLocal_bound _ _ hb']
  refine ⟨_, rfl, ?_, ?_, ?_, ?_, ?_, ?_, ?_⟩
  · show (w.tile t).ctx th = _
    rw [h2]; exact Tile.ctx_setCtx_same _ _ _ hc
  · intro h hh
    show (w.tile t).ctx h = _
    rw [h2]; exact Tile.ctx_setCtx_other (s.tile t) _ _ _ hh
  · show w.tile t = _
    rw [h2]; simp only [y, Tile.setCtx]; congr 1
    show _ = (w.tile t).threads
    rw [h2]; rfl
  · exact h3
  · show (State.gang (freezeGang _ g) g).frozen = true
    unfold freezeGang
    rw [State.gang_modGang_same]
    intro h; have := congrArg Gang.frozen h; simp at this
  · show _ = _
    have : w.stg = s.stg := by rw [← h4]
    simp [freezeGang, this]
  · rw [← h4]; rfl

end Sys2Proof.Machine
end

