-- ==== Sys2Proof/Tests/Slice0.lean ====
section
/-! SUPPORT. Tests: terms that the range checks refuse, words written from the encoding tables, worked examples of the spec, and
states that meet the hypotheses of each statement. -/

namespace Sys2Proof.Tests

open Sys2Proof.Machine Sys2Proof.Claims

set_option Elab.async false

/-! ## The range checks: an ill-formed term for each -/

theorem test_wf_tile : Instr.wf (.add 1024 0 0 0 0) = false := by decide
theorem test_wf_thread : Instr.wf (.halt 0 4096) = false := by decide
theorem test_wf_gang : Instr.wf (.seamTake 64) = false := by decide
theorem test_wf_bank : Instr.wf (.fetchFill 0 16) = false := by decide
theorem test_wf_port : Instr.wf (.frameSend 18) = false := by decide
theorem test_wf_error_port : Instr.wf (.error 19 ⟨0, []⟩) = false := by decide +kernel
theorem test_wf_message : Instr.wf (.write 0 ⟨0, [0]⟩) = false := by decide +kernel
theorem test_wf_lane : Instr.wf (.laneLockLoss 0 9) = false := by decide
theorem test_wf_far_port : Instr.wf (.farPortUp 4) = false := by decide
theorem test_wf_queue : Instr.wf (.sqResume 16) = false := by decide
theorem test_wf_mover : Instr.wf (.atomicDescriptor 32) = false := by decide
theorem test_wf_band : Instr.wf (.droopDetect 8) = false := by decide
theorem test_wf_channel : Instr.wf (.channelFaultHard ⟨34, 0, true⟩) = false := by decide
theorem test_wf_page : Instr.wf (.pageRetire 4194304) = false := by decide
theorem test_wf_psk_slot : Instr.wf (.pskExchange 16) = false := by decide
theorem test_wf_pair : Instr.wf (.lockstepMismatch 2 true) = false := by decide
theorem test_wf_width : Instr.wf (.registerWrite .bar0 0 65 0) = false := by decide
theorem test_wf_exchange_area : Instr.wf (.exchangeAreaAccess true 0x10000000000000 0) = false := by decide
theorem test_wf_good : Instr.wf (.add 1023 4095 15 15 15) = true := by decide

/-! ## Decoding: the words of R186's tables, bit by bit -/

/-- R format: SUB S15, S0, S8. -/
theorem test_decode_r : decodeThread 0 0 0b10000000111100000010 = some (.sub 0 0 15 0 8) := by decide
/-- I format: JAL S1 to 0x1F_FFF8, IMM in bits 51 to 20. -/
theorem test_decode_i : decodeThread 0 0 0x000001FFFF800121 = some (.jal 0 0 1 0x1FFFF8) := by decide
/-- W format: PRESS_POINT on EC[255], round 5 in bits 30 to 28, AMT[7:3] reserved. -/
theorem test_decode_w : decodeThread 0 0 0x00000000_DFF00032 = some (.pressPoint 0 0 255 5) := by decide
/-- S format: SEAM mark 1 with table set 3. -/
theorem test_decode_s : decodeThread 0 0 0x0030000000100033 = some (.seam 0 0 1 3) := by decide
/-- T format: VECTOR from DL1, PHASE 255, OZ S1, OX S2, OY S3, offsets OX and OZ on. -/
theorem test_decode_t :
    decodeThread 0 0 0x00000000BFF32142 = some (.vector 0 0 { oz := 1, ox := 2, oy := 3, phase := 255, dl := true, off := 5 }) := by
  decide
/-- D format: DLOAD DL1 from S7 + 0x000040, counter 3, PHASE 2. -/
theorem test_decode_d :
    decodeThread 0 0 0x0000401030207044 = some (.dload 0 0 { sa := 7, phase := 2, cnt := 3, dl := true, imm := 0x40 }) := by decide
/-- N format: RECV of 4,096 flits from inbound port 3. -/
theorem test_decode_n :
    decodeThread 0 0 0x0003FFF000000046 = some (.recv 0 0 { sa := 0, phase := 0, cnt := 0, port := 3, nflit := 4095 }) := by decide
/-- No row of the table has bits. -/
theorem test_decode_table : decodeTableWord 64 1 = none := rfl

/-! ## Worked examples of the spec -/

/-- R345: CRC-32C of "123456789". -/
theorem test_crc32c :
    crc32c [0x31, 0x32, 0x33, 0x34, 0x35, 0x36, 0x37, 0x38, 0x39] = 0xE3069283 := by decide +kernel
/-- R313: with k = 2 and salt 0 the word 1 at position 0 gives 2, at position 1 gives 4. -/
theorem test_digest : digestAdd 0 2 0 0 1 = 2 ∧ digestAdd 0 2 0 1 1 = 4 := by decide +kernel

/-! ## Helpers for states in canonical form -/

/-- The parts of `Canon`, as a computation. -/
def canonB (s : State) : Bool :=
  SMap.wf 0 s.mem.dram && SMap.wf 0 s.mem.reserve && SMap.wf none s.mem.tags && SMap.wf 0 s.mem.flipDelta && SMap.wf {} s.tiles && SMap.wf {} s.gangs && SMap.wf {} s.movers && SMap.wf {} s.ports &&
  SMap.wf {} s.host.sqs && SMap.wf {} s.host.cqs && s.tiles.all fun e => SMap.wf 0 e.2.scratch && SMap.wf 0 e.2.hamper

theorem get_listed {α : Type} (d : α) (m : SMap α) (k : Nat) : SMap.get d m k = d ∨ ∃ e ∈ m, SMap.get d m k = e.2 := by
  induction m with
  | nil => exact .inl rfl
  | cons e m ih =>
    unfold SMap.get
    split
    · exact .inr ⟨e, by simp, rfl⟩
    · rcases ih with h | ⟨x, hx, h⟩
      · exact .inl h
      · exact .inr ⟨x, by simp [hx], h⟩

theorem canon_of {s : State} (h : canonB s = true) : Canon s := by
  simp only [canonB, Bool.and_eq_true, List.all_eq_true] at h
  obtain ⟨⟨⟨⟨⟨⟨⟨⟨⟨⟨h1, ha⟩, hb⟩, hc⟩, h2⟩, h3⟩, h4⟩, h5⟩, h6⟩, h7⟩, h8⟩ := h
  refine ⟨⟨h1, ha, hb, hc⟩, h2, h3, h4, h5, h6, h7, fun t => ?_⟩
  unfold State.tile
  rcases get_listed ({} : Tile) s.tiles t with h | ⟨e, he, h⟩
  · rw [h]; exact ⟨rfl, rfl⟩
  · rw [h]; exact ⟨(h8 e he).1, (h8 e he).2⟩

/-- A module in service: rails up, booted, link up, READY. -/
def up : State :=
  { State.reset with
    pins := { State.reset.pins with mainOn := true, phase := .up, tb := some 0, full := true, hostPerst := false }
    host := { State.reset.host with ready := true, wasReady := true, linkUp := true }
    trust := { State.reset.trust with phyOk := true }
    gov := { State.reset.gov with duty := 8 } }

/-- A module in service with a job bound, in the state given. -/
def bound (st : StepState) : State := { up with stg := { up.stg with st := st } }


/-! ## Threads: states in which each instruction issues -/

/-- Thread 1 of tile 5 (gang 0) runs at PC 0, S1 to S3 as given, its line present with word `w` at 0; the slots of `own`
belong to thread group 0, and DL0 and DL1 hold `d`. -/
def issuer (w : BitVec 64) (own : List Nat := []) (d : Beat := 0) : State :=
  { bound .running with
    tiles := [(5, {
      gang := some 0
      threads := [(1, { Ctx.empty with regs := (Vector.replicate 16 0).set 2 0x40, st := .run })]
      ring := [1]
      fetch := [(0, some ⟨0, w.setWidth 512⟩)]
      dlPrev := [(0, some d), (1, some d)]
      sets := own.flatMap fun r => (List.range 40).map fun i => (256 * r + i, 0)
      press := [{ id := 0 }] })] }

/-- The instruction issues in the state that holds its word. -/
def issues (i : Instr) : Bool :=
  match encodeThread i with
  | some (t, _, w) => canIssue (issuer w) t i
  | none => false

/-- Scalar and control instructions: each one issues, its next PC legal. -/
theorem witness_scalar :
    ([.add 5 1 3 1 2, .sub 5 1 3 1 2, .and 5 1 3 1 2, .or 5 1 3 1 2, .xor 5 1 3 1 2, .shl 5 1 3 1 2, .shr 5 1 3 1 2,
      .sra 5 1 3 1 2, .mul 5 1 3 1 2, .sltu 5 1 3 1 2, .slt 5 1 3 1 2, .addi 5 1 3 1 7, .li 5 1 3 7, .rdtr 5 1 3 1 4,
      .rdsys 5 1 3 6, .jmp 5 1 64, .jal 5 1 3 64, .jr 5 1 2, .beq 5 1 1 2 64, .bne 5 1 1 2 64, .bltu 5 1 1 2 64,
      .bgeu 5 1 1 2 64, .blt 5 1 1 2 64, .bge 5 1 1 2 64, .nopInstruction 5 1, .halt 5 1, .wait 5 1 1 255 9,
      .seam 5 1 0x80000000 3, .signal 5 1 254 1, .pressPoint 5 1 255 7] : List Instr).all
      (fun i => issues i && match pcAfter i with
        | some (t, th, f) => pcOk (f ((issuer 0).ctx t th))
        | none => true) = true := by decide +kernel

/-- RDSYS codes 0 and 6 have a value, code 7 none. -/
theorem witness_rdsys : (sysValue (issuer 0) 5 1 0).isSome = true ∧ (sysValue (issuer 0) 5 1 6).isSome = true ∧
    sysValue (issuer 0) 5 1 7 = none := by decide +kernel

/-- RDTR at 0xFFFC is the last word. -/
theorem witness_rdtr : ((0xFFFC : Word)).toNat % 4 = 0 ∧ ((0xFFFC : Word)).toNat < 0x10000 := by decide

/-- A mark no other thread contradicts. -/
theorem witness_seam : markDiffers (beginIssue (issuer 0) 5 1) (some 0) 0x80000000 3 = false := by decide +kernel

/-- An open interval stands last. -/
theorem witness_press_point : ((issuer 0).tile 5).press = [] ++ [{ id := 0 }] ∧ ({ id := 0 } : Interval).closed = false := by
  decide +kernel

/-- JR to an odd address. -/
theorem witness_illegal_pc : canIssue (issuer (encodeI 0x20 0 0 0 2)) 5 (.jmp 5 1 2) = true ∧
    pcAfter (.jmp 5 1 2) = some (5, 1, fun _ => 2) ∧ pcOk 2 = false ∧ ((issuer 0).tile 5).gang = some 0 :=
  ⟨by decide +kernel, rfl, by decide, by decide +kernel⟩

/-! ### Unit operations, transfers, messages -/

/-- A descriptor of each kind: B16 operands of one element. -/
def dMatrix : Beat := pack 512 [(0, 8, 1), (64, 32, 8), (96, 32, 8), (160, 32, 64), (224, 17, 1), (241, 8, 1), (249, 6, 1)]
def dMatvec : Beat := pack 512 [(0, 8, 2), (32, 32, 5), (64, 32, 8), (96, 32, 8), (160, 32, 128), (192, 32, 256),
  (224, 17, 1), (241, 17, 1)]
def dVector : Beat := pack 512 [(0, 8, 3), (56, 24, 8), (32, 24, 8), (80, 24, 8), (104, 24, 8), (200, 24, 64), (224, 24, 128),
  (344, 17, 1), (361, 22, 1)]
def dXfer : Beat := pack 512 [(0, 8, 4), (96, 64, 64), (160, 24, 64), (184, 17, 1)]

/-- The plan has no hazard and its uses fit. -/
def fits (s : State) (p : Option Plan) : Bool :=
  match p with
  | some p => p.hazard.isNone && (latchFull (s.tile 5) s.clk.cycle p.uses).isNone && (ownFail s 5 0 p.uses).isNone &&
      !collides (s.tile 5) p.uses
  | none => false

def tNone : TFields := { oz := 0, ox := 0, oy := 0, phase := 4, dl := false, off := 0 }

/-- The state with DL0's descriptor, bank 0 and the resources `rs` owned. -/
def unitState (op : BitVec 8) (rs : List Nat) (d : Beat) : State := issuer (encodeT op tNone) (0 :: rs) d

theorem witness_matrix :
    let s := unitState 0x40 [16, 17, 18, 19, 20, 21, 22, 23] dMatrix
    canIssue s 5 (.matrix 5 1 tNone) = true ∧ latchDesc (beginIssue s 5 1) 5 1 false 1 = .ok dMatrix ∧
      addOffsets dMatrix (offRegs ((beginIssue s 5 1).ctx 5 1) tNone) (128, 32) (160, 32) (288, 32) = some dMatrix ∧
      fits (beginIssue s 5 1) (planMatrix (beginIssue s 5 1) 5 dMatrix (startCycle s 4)) = true := by decide +kernel

theorem witness_matvec :
    let s := unitState 0x41 [24] dMatvec
    canIssue s 5 (.matvec 5 1 tNone) = true ∧ latchDesc (beginIssue s 5 1) 5 1 false 2 = .ok dMatvec ∧
      addOffsets dMatvec (offRegs ((beginIssue s 5 1).ctx 5 1) tNone) (128, 32) (160, 32) (192, 32) = some dMatvec ∧
      fits (beginIssue s 5 1) (planMatvec (beginIssue s 5 1) 5 dMatvec (startCycle s 4)) = true := by decide +kernel

theorem witness_vector :
    let s := unitState 0x42 [25] dVector
    canIssue s 5 (.vector 5 1 tNone) = true ∧ latchDesc (beginIssue s 5 1) 5 1 false 3 = .ok dVector ∧
      addOffsets dVector (offRegs ((beginIssue s 5 1).ctx 5 1) tNone) (128, 24) (200, 24) (152, 24) = some dVector ∧
      fits (beginIssue s 5 1) (planVector (beginIssue s 5 1) 5 dVector (startCycle s 4)) = true := by decide +kernel

theorem witness_xfer :
    let s := unitState 0x43 [27] dXfer
    canIssue s 5 (.xfer 5 1 tNone) = true ∧ bitB tNone.off 2 = false ∧
      latchDesc (beginIssue s 5 1) 5 1 false 4 = .ok dXfer ∧
      xferOffsets dXfer (offRegs ((beginIssue s 5 1).ctx 5 1) tNone) = some dXfer ∧
      fits (beginIssue s 5 1) (planXfer (beginIssue s 5 1) 5 dXfer (startCycle s 4)) = true ∧
      xWrite2 dXfer = false := by decide +kernel

theorem witness_dload :
    let f : DFields := { sa := 2, phase := 4, cnt := 1, dl := true, imm := 0 }
    let s := issuer (encodeD 0x44 f) [0]
    canIssue s 5 (.dload 5 1 f) = true ∧ Fits (beginIssue s 5 1) 5 1 [⟨0, startCycle s 4, startCycle s 4⟩] := by
  refine ⟨by decide +kernel, by decide +kernel, by decide +kernel, by decide +kernel⟩

theorem witness_send_recv :
    let f : NFields := { sa := 2, phase := 4, cnt := 1, port := 0, nflit := 1 }
    let s := issuer (encodeN 0x45 f) [0, 29]
    let r := issuer (encodeN 0x46 f) [0]
    let us := fun (p : Nat) => (⟨p, 5, 6⟩ : Use) :: rowUses 0x40 2 5
    startCycle s 4 = 4 ∧ canIssue s 5 (.send 5 1 f) = true ∧ canIssue r 5 (.recv 5 1 f) = true ∧
      Fits (beginIssue s 5 1) 5 1 (us 29) ∧ Fits (beginIssue r 5 1) 5 1 (us 33) := by
  refine ⟨by decide +kernel, by decide +kernel, by decide +kernel, ⟨by decide +kernel, by decide +kernel, by decide +kernel⟩,
    by decide +kernel, by decide +kernel, by decide +kernel⟩

/-! ## A bound job: module 0 of modules 0 and 1, a near-tier region, one of the far tier, a mover's, and one of module 1 -/

/-- A region of `kind`, one page of 64 KiB at `va`, at the global address `ga`. -/
def region (kind : Nat) (wr : Bool) (va ga : Nat) : Region :=
  { kind := kind, wr := wr, self0 := false, self1 := false, reservedOk := true, size := 0x10000, va0 := va, va1 := 0, gpa0 := ga
    gpa1 := 0 }

/-- The global address of offset `o` of module `m`. -/
def gaAt (m o : Nat) : Nat := 64 * 2 ^ 57 + m * 2 ^ 42 + o

def img0 : Image :=
  { magic := 0, fmtVer := 0, stepping := 0, nsect := 0, seamUs := 0, imageSize := 0, ngang := 1, tilesUsed := [5], digest := 0
    dir := [], tileMap := [], tiles := [], bridge := []
    fabric := { selfmod := 0, ports := [⟨1, 0, 1, [], List.replicate 16 64⟩], sched := [], route := [] }
    ladder := [], nearTags := false, memmapOk := true
    regions := [region 1 true 0 (gaAt 0 0), region 1 true 0x1000000 (gaAt 0 0x10000000000), region 7 true 0x2000000 (gaAt 0 0x31004110000),
      region 1 true 0x3000000 (gaAt 1 0)]
    auth := 0, raw := [] }

def job0 : JobCfg :=
  { magic := 0, refmode := false, reservedOk := true, seed := 0, step := 0, modnum := 0, parity := false, deadlineUs := 0
    jobSize := 2, parent := 0, child := 2, seqBase := 0, seqLen := 0, nearQuota := 0, farQuota := 0, pcCtrl := 0, thresh := []
    grad := 0, jobid := 0, ladder := [], nladder := 0, sets := [], members := [0, 1], bytes := [] }

/-- The words of both dies' tables for those regions (R246). -/
def tables0 : SMap DWord := [0, 1].foldl (dieTables 0 img0.regions) []

/-- A step state with that job, and tile 5 as given, of gang 0. -/
def jobWith (st : StepState) (x : Tile := { gang := some 0 }) : State :=
  { bound st with image := some ⟨img0, 0, 0⟩, job := some job0, tiles := [(5, x)]
                  mem := { up.mem with reserve := tables0 } }

/-- Tile 5 with the operation `o`. -/
def opTile (o : Op) : Tile := { gang := some 0, ops := [o] }

theorem all_tiles {s : State} {P : Tile → Prop} (h0 : P {}) (h : ∀ e ∈ s.tiles, P e.2) (t : Nat) : P (s.tile t) := by
  unfold State.tile
  rcases get_listed ({} : Tile) s.tiles t with e | ⟨e, he, h'⟩
  · rw [e]; exact h0
  · rw [h']; exact h e he

/-! ### Operations that start -/

def dueOp (k : OpKind) (d : Beat := 0) : Op := { id := 0, kind := k, thread := 1, desc := d, ts := 0, fin := 0 }

/-- An operation of each kind is due: a DLOAD, SEND, RECV, MATVEC, a scratchpad copy, a write-direction transfer. -/
theorem witness_due :
    (∀ k : OpKind, k ∈ [OpKind.dload, .send, .recv, .matvec, .matrix] → Due (jobWith .running (opTile (dueOp k))) 5 (dueOp k)) ∧
    (let o := dueOp .xfer dXfer
     Due (jobWith .running (opTile o)) 5 o ∧ xConv o.desc = false ∧ xRead2 o.desc = false ∧ xWrite2 o.desc = false) ∧
    (let o := dueOp .xfer (dXfer ||| pack 512 [(14, 2, 2)])
     Due (jobWith .running (opTile o)) 5 o ∧ xConv o.desc = false ∧ xRead2 o.desc = false ∧ xWrite2 o.desc = true) ∧
    (let o := dueOp .vector dVector
     Due (jobWith .running (opTile o)) 5 o ∧ readsAcc o = false) := by
  unfold Due
  decide +kernel

/-- A read-direction transfer from the near-tier region asks for its beat there. -/
theorem witness_read_transfer :
    let o := dueOp .xfer (dXfer ||| pack 512 [(12, 2, 2)])
    let s := jobWith .running (opTile o)
    Due s 5 o ∧ xConv o.desc = false ∧ xRead2 o.desc = true ∧ xBeats o.desc = 1 ∧
      reach s (dieOfTile 5) (xSrcAt o.desc 0) false false = .ok (gaAt 0 0) ∧
      gaMod (gaAt 0 0) = s.self ∧ placeOf (gaOff (gaAt 0 0)) = .near 0 := by
  unfold Due
  refine ⟨by decide +kernel, by decide +kernel, by decide +kernel, by decide +kernel, ?_, by decide +kernel, by decide +kernel⟩
  decide +kernel

/-! ### Operations that end -/

def doneOp (k : OpKind) (d : Beat) : Op := { id := 0, kind := k, thread := 1, desc := d, ts := 0, fin := 0, started := true, got := 1 }

/-- An operation of each kind is over, its last event's cycle come. -/
theorem witness_finished :
    (∀ k : OpKind, k ∈ [OpKind.matrix, .matvec, .vector, .send, .recv, .xfer] →
      Finished (jobWith .running (opTile (doneOp k dXfer))) 5 k (doneOp k dXfer)) ∧
    xRead2 dXfer = false ∧ xWrite2 dXfer = false ∧ xConv dXfer = false ∧ (doneOp .recv 0).got = (doneOp .recv 0).nflit + 1 := by
  unfold Finished
  decide +kernel

/-- A copy of one beat that has moved none yet, and one whose beat has been read and stands in its buffer. -/
theorem witness_copy_block :
    (let o := { doneOp .xfer dXfer with got := 0 }
     Finished (jobWith .running (opTile o)) 5 .xfer o ∧ o.reqd = 0 ∧ o.done = 0 ∧ o.buf = [] ∧ o.ceWords = [] ∧ o.ueWords = []) ∧
    (let o := { doneOp .xfer dXfer with reqd := 1, buf := [(0, 64, 7, false)] }
     Finished (jobWith .running (opTile o)) 5 .xfer o ∧ xBeats o.desc ≤ o.reqd ∧ o.buf.length ≤ xBeats o.desc ∧
       ∀ p ∈ (opTile o).ops, p.id = o.id → p = o) := by
  unfold Finished
  decide +kernel

/-- A kind-2 transfer with nothing pending is done; with a beat asked for it is not. -/
theorem witness_transfer_completes :
    let o := { doneOp .xfer (dXfer ||| pack 512 [(12, 2, 2)]) with reqd := 1 }
    let p := { o with asked := [(0, gaAt 0 0)] }
    Finished (jobWith .running (opTile o)) 5 .xfer o ∧ xKind2 o = true ∧ o.asked = [] ∧ o.buf = [] ∧
      opOut (jobWith .running (opTile o)) 5 o.id = [] ∧ refills (jobWith .running (opTile o)) 5 o.id = false ∧ o.held = none ∧ xBeats o.desc ≤ o.reqd ∧
      Finished (jobWith .running (opTile p)) 5 .xfer p ∧ p.asked ≠ [] := by
  unfold Finished
  decide +kernel

/-! ### Flits and fills -/

def flitState (sets : SMap Byte) (ops : List Op) (fills : List (Nat × Nat)) : State :=
  { jobWith .running { gang := some 0, ops := ops, sets := sets, fills := fills } with
    wires := [⟨5, 1, 0, 7⟩], clk := { cycle := 1, slot := 1 } }

/-- A flit due at port 1: forwarded to port 2 in this slot, taken by a receive, or met by neither. -/
theorem witness_flits :
    (let s := flitState [(256 * 31 + 1, 0x45)] [] []
     tilesRun s = true ∧ idleNow s = false ∧ forwardPort s 5 1 = some 2 ∧
       s.wires.find? (fun w => w.tile == 5 && w.port == 1 && decide (w.at_ ≤ s.clk.cycle)) = some ⟨5, 1, 0, 7⟩) ∧
    (let o : Op := { id := 0, kind := .recv, thread := 1, ts := 1, fin := 1, port := 1 }
     let s := flitState [] [o] []
     tilesRun s = true ∧ idleNow s = false ∧ forwardPort s 5 1 = none ∧ receiver s 5 1 = some o ∧ o.bad = false ∧
       (s.tile 5).gang.isSome = true) ∧
    (let s := flitState [] [] []
     tilesRun s = true ∧ forwardPort s 5 1 = none ∧ receiver s 5 1 = none) := by decide +kernel

/-- None on its way, and a flit that a bridge brought to die 0 waits: its cycle drains to port 1 of tile 31, where a receive takes it;
tile 5's port 1 is
no such port in cycle 1. -/
theorem witness_bridge_flit :
    let o : Op := { id := 0, kind := .recv, thread := 1, ts := 1, fin := 1, port := 1 }
    let b : Crossing := ⟨0, 84, 0, 7⟩
    let s : State := { jobWith .running with
      tiles := [(31, { opTile o with sets := [(256 * 30 + 1, 0x42)] })], crossing := [b], clk := { cycle := 1, slot := 1 } }
    tilesRun s = true ∧ idleNow s = false ∧ (s.tile 31).gang.isSome = true ∧
      s.wires.find? (fun w => w.tile == 31 && w.port == 1 && decide (w.at_ ≤ s.clk.cycle)) = none ∧
      drainsTo s 31 1 = true ∧ drainsTo s 5 1 = false ∧
      s.crossing.find? (fun c => c.die == 31 / 512 && decide (c.at_ ≤ s.clk.cycle) && c.flit == b.flit) = some b ∧
      forwardPort s 31 1 = none ∧ receiver s 31 1 = some o ∧ o.bad = false := by decide +kernel

/-- Bank 0's FETCH slot comes while a fill of a cycle before waits. -/
theorem witness_fill :
    let s := flitState [(1, 0x43)] [] [(64, 0)]
    tilesRun s = true ∧ idleNow s = false ∧ (s.tile 5).gang.isSome = true ∧ owner s 5 0 s.clk.cycle = 0x43 ∧
      (s.tile 5).slotUsed.contains 0 = false ∧
      (s.tile 5).fills.find? (fun f => f.1 / 0x20000 == 0 && decide (f.2 < s.clk.cycle)) = some (64, 0) := by decide +kernel

/-! ## Seams, press checks, the step guard -/

/-- A gang whose one thread stands at mark 3. -/
def atMark : State :=
  jobWith .running { gang := some 0, threads := [(1, { Ctx.empty with st := .seam, markNo := 3, markSet := 1 })], ring := [1] }

theorem witness_seam_take :
    Canon atMark ∧ gangMark atMark 0 = some (3, 1) ∧ canTake atMark 0 = true :=
  ⟨canon_of (by decide +kernel), by decide +kernel, by decide +kernel⟩

def inSeam : State := { atMark with gangs := [(0, { seamAt := some 0 })], clk := { cycle := 256 } }

/-- The two cycles after the take, and one of neither. -/
theorem witness_seam_cycles :
    ∀ c, c ∈ ([1, 2, 3] : List Nat) → Canon { inSeam with clk := { cycle := c } } ∧
      ({ inSeam with clk := { cycle := c } } : State).gang 0 = { seamAt := some 0 } ∧
      (({ inSeam with clk := { cycle := c } } : State).tile 5).gang = some 0 := by
  intro c hc
  fin_cases hc <;> exact ⟨canon_of (by decide +kernel), by decide +kernel, by decide +kernel⟩

theorem witness_seam_leave :
    Canon inSeam ∧ (inSeam.gang 0).seamAt = some 0 ∧ tilesRun inSeam = true ∧ idleNow inSeam = false ∧ inSeam.clk.slot = 0 ∧
      0 + 8 ≤ inSeam.clk.cycle ∧ holdDue inSeam = false ∧ ∀ t, (inSeam.tile t).gang = some 0 → (inSeam.tile t).breaches = 0 :=
  ⟨canon_of (by decide +kernel), by decide +kernel, by decide +kernel, by decide +kernel, by decide +kernel, by decide +kernel,
    by decide +kernel, all_tiles (P := fun x => x.gang = some 0 → x.breaches = 0) (by decide) (by decide +kernel)⟩

def pressEnt : PressEnt := { layer := 7, opid := 1, op := 0, desc := dMatrix, snap := some [0], checked := false }
def pressOf (reqs : List EscReq) (checked : Bool) : Interval :=
  { id := 0, closed := true, cnt := 9, closedAt := 0, ents := [{ pressEnt with checked := checked }], reqs := reqs }
def pressTile (v : Interval) : Tile := { gang := some 0, press := [v, { id := 1 }], pressCycles := 1000, pressOn := some (0, 0, []) }

theorem witness_press_check :
    currentCheck ((jobWith .running (pressTile (pressOf [] false))).tile 5) = some (pressOf [] false, pressEnt) ∧
      pressEnt.snap.isSome = true ∧
      ((jobWith .running (pressTile (pressOf [] false))).tile 5).pressOn = some ((pressOf [] false).id, pressEnt.op, []) ∧ 8 * mJ pressEnt.desc + 24 ≤ 1000 := by decide +kernel

/-- A verdict due, with no request, and with one that names entry 2 below its CEIL. -/
theorem witness_verdict :
    let s := { jobWith .running (pressTile (pressOf [⟨.pool, [2]⟩] true)) with
      clk := { cycle := 5 }, pc := { ladder := [(2, { valid := true, ceil := 5, rung := 2 })] } }
    (s.tile 5).press = pressOf [⟨.pool, [2]⟩] true :: [{ id := 1 }] ∧ (pressOf [⟨.pool, [2]⟩] true).closed = true ∧
      (pressOf [⟨.pool, [2]⟩] true).pend = 0 ∧ (∀ e ∈ (s.tile 5).raises, e.entry ≠ 2) ∧ (∀ e ∈ (pressOf [⟨.pool, [2]⟩] true).ents, e.checked = true) ∧ 0 + 1 ≤ s.clk.cycle ∧ (s.tile 5).gang.isSome = true ∧
      (pressOf [] true).reqs = [] ∧ s.refMode = false ∧ (s.ladder 2).jobwide = false ∧ (s.ladder 2).rung < (s.ladder 2).ceil ∧
      (s.tile 5).raises.length < 8 := by decide +kernel

def startDue : State :=
  let s := jobWith .running { gang := some 0 }
  { s with stg := { s.stg with startAt := some 0, gangs := 1 }, clk := { cycle := 255, slot := 255 }, tm := { now := 1000#96 <<< 32 } }

theorem witness_step_start :
    Canon startDue ∧ startDue.stg.startAt = some 0 ∧ tilesRun startDue = true ∧ idleNow startDue = false ∧
      startDue.clk.slot = 255 ∧ startDue.stg.st = .running ∧ startDue.endsAfter (0 + 1000) = true ∧ startDue.pre.saved = false ∧
      (startDue.tile 5).gang = some 0 ∧ bitB startDue.stg.gangs 0 = true :=
  ⟨canon_of (by decide +kernel), by decide +kernel, by decide +kernel, by decide +kernel, by decide +kernel, by decide +kernel,
    by decide +kernel, by decide +kernel, by decide +kernel, by decide +kernel⟩

/-- A step late for its deadline of 1 µs, and one without a deadline. -/
theorem witness_deadline :
    let s := { startDue with stg := { startDue.stg with timer := some 0, deadlineNow := 1 }, tm := { now := 1001#96 <<< 32 } }
    s.stg.st = .running ∧ s.stg.deadlineNow ≠ 0 ∧ 1000 * s.stg.deadlineNow < stepNs s ∧ startDue.stg.deadlineNow = 0 := by
  decide +kernel

def abandoned : State :=
  let s := jobWith .abandoned { gang := some 0 }
  { s with stg := { s.stg with rewindDue := true } }

theorem witness_abandon_and_rewind :
    Canon startDue ∧ startDue.stg.st = .running ∧ abandoned.stg.st ≠ .running ∧
      Canon abandoned ∧ abandoned.stg.st = .abandoned ∧ abandoned.stg.rewindDue = true ∧ abandoned.image = some ⟨img0, 0, 0⟩ ∧
      ∀ t, ∀ o ∈ (abandoned.tile t).ops, o.started = false :=
  ⟨canon_of (by decide +kernel), by decide +kernel, by decide +kernel, canon_of (by decide +kernel), by decide +kernel,
    by decide +kernel, by decide +kernel,
    all_tiles (P := fun x => ∀ o ∈ x.ops, o.started = false) (by decide) (by decide +kernel)⟩

/-! ## Commit rounds -/

/-- A message of opcode `opc` and argument `a` from module 1. -/
def msg (opc a : Nat) (extra : List (Nat × Nat × Nat) := []) (data : List Beat := []) : Msg :=
  { hdr := pack 512 ([(0, 8, opc), (32, 15, 1), (160, 32, a)] ++ extra), data := data }

/-- A module in state `st` at step 0, its tree's child at port 1 and parent at port 0, the message at port `p`. -/
def round (st : StepState) (p : Nat) (m : Msg) (vc : Nat := 15) : State :=
  let s := jobWith st
  { s with ports := [(p, { st := .up, inMsgs := [(vc, m)] })], cm := { child := 2, parent := 0, jobSize := 2 } }

theorem witness_tally_and_vote :
    Canon (round .running 1 (msg 0x28 0)) ∧ Waits (round .running 1 (msg 0x28 0)) 1 0x28 (stepArg (round .running 1 (msg 0x28 0))) (msg 0x28 0) ∧
      Waits (round .running 1 (msg 0x29 0)) 1 0x29 (stepArg (round .running 1 (msg 0x29 0))) (msg 0x29 0) ∧
      bitB (round .running 1 (msg 0x29 0)).cm.child 1 = true ∧ ∀ v ∈ (round .running 1 (msg 0x29 0)).cm.childVotes, v.1 ≠ 1 := by
  unfold Waits
  exact ⟨canon_of (by decide +kernel), by decide +kernel, by decide +kernel, by decide +kernel, by decide +kernel⟩

/-- A tally to compare: a port not compared yet, the digests equal or different. -/
theorem witness_compare_tally :
    let s := round .running 1 (msg 0x28 0)
    s.bound = true ∧ 1 ∉ s.cm.compared ∧ (SMap.get 0 s.cm.rxTally 1 = 0 ∧ SMap.get 0 s.cm.rxBytes 1 = 0) ∧
      ¬ (SMap.get 0 s.cm.rxTally 1 = 1 ∧ SMap.get 0 s.cm.rxBytes 1 = 0) := by decide +kernel

/-- RESULT with COMMIT, and without, at the parent port of a module in LOCAL_DONE. -/
theorem witness_result :
    (∀ m, m ∈ [msg 0x2A 0 [(203, 1, 1)], msg 0x2A 0] → Waits (round .localDone 0 m) 0 0x2A (roundStep (round .localDone 0 m)) m ∧
      0 = (round .localDone 0 m).cm.parent ∧ (round .localDone 0 m).stg.st = .localDone ∧
      (round .localDone 0 m).stg.rewindDue = false) ∧
      resultCommit (msg 0x2A 0 [(203, 1, 1)]) = true ∧ resultCommit (msg 0x2A 0) = false ∧ Canon (round .localDone 0 (msg 0x2A 0)) := by
  unfold Waits
  exact ⟨by simp only [List.mem_cons, List.not_mem_nil, or_false]; rintro m (rfl | rfl) <;> decide +kernel, by decide +kernel,
    by decide +kernel, canon_of (by decide +kernel)⟩

def committing (p : Nat) (m : Msg) : State :=
  let s := round .committing p m
  { s with cm := { s.cm with flippedAt := some 0 }, stg := { s.stg with step := 1 } }

theorem witness_flip_ack_and_release :
    Canon (committing 1 (msg 0x2B 0)) ∧ (committing 1 (msg 0x2B 0)).stg.st = .committing ∧
      Waits (committing 1 (msg 0x2B 0)) 1 0x2B (roundStep (committing 1 (msg 0x2B 0))) (msg 0x2B 0) ∧
      bitB (committing 1 (msg 0x2B 0)).cm.child 1 = true ∧ (∀ a ∈ (committing 1 (msg 0x2B 0)).cm.childAcks, a.1 ≠ 1) ∧
      Waits (committing 0 (msg 0x2C 0)) 0 0x2C (roundStep (committing 0 (msg 0x2C 0))) (msg 0x2C 0) ∧
      (committing 0 (msg 0x2C 0)).cm.flippedAt.isSome = true := by
  unfold Waits
  exact ⟨canon_of (by decide +kernel), by decide +kernel, by decide +kernel, by decide +kernel, by decide +kernel, by decide +kernel,
    by decide +kernel⟩

theorem witness_query_abandon_timeout :
    Waits (round .idle 1 (msg 0x2D 0)) 1 0x2D 0 (msg 0x2D 0) ∧ (round .idle 1 (msg 0x2D 0)).cm.results = [] ∧
      (round .idle 1 (msg 0x2D 0)).cm.releases = [] ∧
      Waits (round .running 1 (msg 0x2E 0)) 1 0x2E (stepArg (round .running 1 (msg 0x2E 0))) (msg 0x2E 0) ∧
      (∀ st, st ∈ ([.localDone, .idle, .committing, .abandoned] : List StepState) →
        Waits (round st 1 (msg 0x2E 0)) 1 0x2E (stepArg (round st 1 (msg 0x2E 0))) (msg 0x2E 0) ∧
          (round st 1 (msg 0x2E 0)).stg.st = st) ∧
      (let s := round .localDone 1 (msg 0x2E 0)
       let s := { s with cm := { s.cm with votedAt := some 0 }, tm := { now := 10000001#96 <<< 32 } }
       waitsResult s = true ∧ s.cm.stalled = false ∧ 0 + 1000 * s.cm.roundTimeout.toNat < s.ns) ∧
      (let s := { committing 1 (msg 0x2B 0) with tm := { now := 10000001#96 <<< 32 } }
       s.cm.flippedAt = some 0 ∧ s.cm.held = false ∧ 0 + 1000 * s.cm.roundTimeout.toNat < s.ns) := by
  unfold Waits
  decide +kernel

/-! ## Links -/

/-- Port 0 as given, a job bound. -/
def linkState (x : Port) (st : StepState := .running) : State := { jobWith st with ports := [(0, x)] }

/-- A frame of the sequence number and token, its CRC right. -/
def frame (fsn tok cvc ccnt : Nat) (kind : Nat := 0) (flit : Beat := 0) : Frame :=
  let h : DWord := pack 64 [(0, 16, fsn), (16, 1, tok), (17, 2, kind), (40, 4, cvc), (44, 6, ccnt)]
  { hdr := h, flit := flit, crc := crc32c (leBytes 8 h.toNat ++ beatBytes flit), corrected := [] }

/-- A frame with a wrong CRC, the next frame with credits, one of link control, one seen before, and the first of a message of two
flits. -/
theorem witness_frames :
    Canon (linkState { st := .up }) ∧ Carries (linkState { st := .up }) 0 ∧
      ¬ CrcGood { frame 0 0 3 7 with crc := 0 } ∧ (CrcGood (frame 0 0 3 7) ∧ fld (frame 0 0 3 7).hdr 0 16 = (0xFFFF : BitVec 16) + 1 ∧
        bitB (frame 0 0 3 7).hdr 16 = false ∧ fldN (frame 0 0 3 7).hdr 17 2 ≠ 2 ∧ bitB (frame 0 0 3 7).hdr 23 = false) ∧
      (CrcGood (frame 0xFFFF 0 0 0) ∧ fld (frame 0xFFFF 0 0 0).hdr 0 16 ≠ (0xFFFF : BitVec 16) + 1 ∧
        2 ^ 15 ≤ (fld (frame 0xFFFF 0 0 0).hdr 0 16 - ((0xFFFF : BitVec 16) + 1)).toNat) ∧
      (CrcGood (frame 0 0 3 7 2) ∧ bitB (frame 0 0 3 7 2).hdr 16 = false ∧ fldN (frame 0 0 3 7 2).hdr 17 2 = 2) ∧
      (let f := frame 0 1 3 7 0 (pack 512 [(8, 5, 1)])
       CrcGood f ∧ fld f.hdr 0 16 = (0xFFFF : BitVec 16) + 1 ∧ bitB f.hdr 16 = true ∧ portUp (linkState { st := .up }) 0 = true ∧
         portUp (linkState { st := .wait }) 0 = false ∧ [f.flit].length < 1 + fldN ([f.flit].headD 0) 8 5) := by
  refine ⟨canon_of (by decide +kernel), ⟨by decide +kernel, .inr (.inl (by decide +kernel))⟩, ?_, ?_, ?_, ?_, ?_⟩ <;> unfold CrcGood <;>
    decide +kernel

/-- The header flit of a READ from module 1 to module 0 under tag `v` beyond the one that its key gives. -/
def readHdr : Beat := pack 512 [(0, 8, 2), (32, 15, 1)]
def sealedHdr (v : Nat) : Beat :=
  setFld readHdr 384 128 ((Config.gcmTag (linkKey (linkState { st := .up }) 0 false) (linkNonce 0) (msgAad readHdr)
    (leBytes 16 (fldN readHdr 192 128))).toNat + v)

theorem sealedHdr_fld (v lo len : Nat) (h : lo + len ≤ 384) : fldN (sealedHdr v) lo len = fldN readHdr lo len :=
  fldN_setFld_other _ _ _ _ _ _ (.inl h)

theorem next_ne (c : Nat) (h : c < 2 ^ 128) : (c + 1) % 2 ^ 128 % 256 ^ 16 ≠ c % 256 ^ 16 := by
  simp only [Nat.reducePow] at h ⊢
  omega

/-- A flit with its right ICV opens to the READ; one with a wrong ICV does not open. -/
theorem witness_sealed_frame :
    let s := linkState { st := .up }
    let good := frame 0 1 3 7 0 (sealedHdr 0)
    let bad := frame 0 1 3 7 0 (sealedHdr 1)
    (∀ f ∈ [good, bad], CrcGood f ∧ bitB f.hdr 16 = true ∧ 1 + fldN ([f.flit].headD 0) 8 5 ≤ [f.flit].length) ∧
      (∃ m c, openMsg s 0 (headerIdx (s.port 0) (fldN good.hdr 19 4)) [good.flit] = some m ∧ mDetour m = false ∧
        classOf (mOpc m) = some c ∧ c < 2 ∧ mDst m = s.self ∧ mOpc m ≠ 0x25 ∧ s.fab.departed.contains (mSrc m) = false) ∧
      openMsg s 0 (headerIdx (s.port 0) (fldN bad.hdr 19 4)) [bad.flit] = none ∧
      (s.port 0).icvBad ≠ some (BitVec.ofNat 16 (fldN bad.hdr 0 16)) ∧ (s.port 0).icvTo = none := by
  intro s good bad
  have hn : ∀ v, fldN (sealedHdr v) 8 5 = 0 := fun v => (sealedHdr_fld v 8 5 (by decide)).trans (by decide +kernel)
  have ha : ∀ v, msgAad (sealedHdr v) = msgAad readHdr := fun v => by
    simp only [msgAad, sealedHdr_fld v 0 192 (by decide), sealedHdr_fld v 320 64 (by decide)]
  have hc : ∀ v, fldN (sealedHdr v) 192 128 = fldN readHdr 192 128 := fun v => sealedHdr_fld v 192 128 (by decide)
  have hi : headerIdx (s.port 0) (fldN good.hdr 19 4) = 0 ∧ headerIdx (s.port 0) (fldN bad.hdr 19 4) = 0 := by decide +kernel
  refine ⟨?_, ?_, ?_, by decide +kernel, by decide +kernel⟩
  · intro f hf
    rcases List.mem_pair.mp hf with rfl | rfl
    · exact ⟨rfl, by decide +kernel, by show 1 + fldN (sealedHdr 0) 8 5 ≤ 1; rw [hn]⟩
    · exact ⟨rfl, by decide +kernel, by show 1 + fldN (sealedHdr 1) 8 5 ≤ 1; rw [hn]⟩
  · have hf : ∀ lo len, lo + len ≤ 192 → ∀ a, fldN (setFld (setFld (sealedHdr 0) 192 128 a) 384 128 0) lo len = fldN readHdr lo len := by
      intro lo len h a
      rw [fldN_setFld_other _ _ _ _ _ _ (.inl (by omega)), fldN_setFld_other _ _ _ _ _ _ (.inl (by omega)), sealedHdr_fld _ _ _ (by omega)]
    have ho : ∃ m, openMsg s 0 0 [sealedHdr 0] = some m ∧ ∃ a, m.hdr = setFld (setFld (sealedHdr 0) 192 128 a) 384 128 0 := by
      unfold openMsg
      simp only [ha, hc]
      rw [sealedHdr, fldN_setFld _ _ _ _ (by decide), Nat.add_zero, Nat.mod_eq_of_lt (BitVec.isLt _)]
      simp only [List.flatMap_nil, List.append_nil]
      rw [gcmOpen_tag]
      exact ⟨_, rfl, _, rfl⟩
    obtain ⟨m, hm, a, h⟩ := ho
    refine ⟨m, 0, by rw [hi.1]; exact hm, ?_, ?_, by decide, ?_, ?_, ?_⟩
    · rw [mDetour, h, bitB_setFld_other _ _ _ _ _ (by decide) (by decide), bitB_setFld_other _ _ _ _ _ (by decide) (by decide), sealedHdr,
        bitB_setFld_other _ _ _ _ _ (by decide) (by decide)]
      decide +kernel
    all_goals simp only [mOpc, mDst, mSrc, h, hf _ _ (by decide : 0 + 8 ≤ 192), hf _ _ (by decide : 48 + 15 ≤ 192), hf _ _ (by decide : 32 + 15 ≤ 192)]; decide +kernel
  · rw [hi.2]
    show openMsg s 0 0 [sealedHdr 1] = none
    unfold openMsg
    simp only [ha, hc, List.flatMap_nil, List.append_nil]
    rw [gcmOpen_bad]
    · rfl
    · rw [sealedHdr, fldN_setFld _ _ _ _ (by decide)]
      intro h
      have h1 := congrArg leNat h
      rw [leNat_leBytes, leNat_leBytes] at h1
      exact next_ne _ (BitVec.isLt _) h1

/-- A frame of a replay is due; a plain slot; a slot of KIND 1 with a flit of channel 2 waiting. -/
theorem witness_frame_send :
    (let s := linkState { st := .up, replay := [frameOf 0 0] }
     transmits s 0 = true ∧ (s.port 0).replay = [frameOf 0 0]) ∧
    (let s := linkState { st := .up, slot := 1 }
     transmits s 0 = true ∧ (s.port 0).replay = [] ∧ slotEntry s 0 < 0x1000) ∧
    (let s := linkState { st := .up, outFlits := [(2, [9])] }
     let s := { s with image := some ⟨{ img0 with fabric := { img0.fabric with sched := [(0, 0x1002)] } }, 0, 0⟩ }
     transmits s 0 = true ∧ slotEntry s 0 = 0x1000 + 2 ∧ portUp s 0 = true ∧ (s.port 0).detVc = none ∧ linkLimited s = false ∧
       SMap.get [] (s.port 0).outFlits 2 = [9] ∧
       linkLimited { s with gov := { s.gov with linkLim := some 3, linkUsed := 3 } } = true) ∧
    (let s := linkState { st := .swap, swapAsked := some 4, slot := 15 }
     transmits s 0 = true ∧ (s.port 0).replay = [] ∧ slotEntry s 0 / 0x1000 = 2 ∧ (s.port 0).ctlq = [] ∧
       (s.port 0).swapAsked = some 4) := by
  refine ⟨⟨by decide +kernel, rfl⟩, by decide +kernel, by decide +kernel, by decide +kernel⟩

/-- A HELLO of the peer named for the port, READY, and one of another module. -/
def helloOf (m : Nat) : Beat := pack 512 [(0, 8, 1), (8, 16, m), (288, 8, 1)]

theorem witness_hello :
    (let s := linkState { st := .wait, inCtl := [helloOf 1] }
     Canon s ∧ Control s 0 1 (helloOf 1) ∧ (s.port 0).st = .wait ∧ s.bound = true ∧ (s.portCfg 0).role ≠ 0 ∧
       fldN (helloOf 1) 8 16 = (s.portCfg 0).peerMod ∧ fldN (helloOf 1) 24 8 = (s.portCfg 0).peerPort ∧
       fld (helloOf 1) 32 256 = jobDigest s ∧ fldN (helloOf 1) 288 8 = 1) ∧
    (let s := linkState { st := .wait, inCtl := [helloOf 9] }
     Control s 0 1 (helloOf 9) ∧ fldN (helloOf 9) 8 16 ≠ (s.portCfg 0).peerMod) := by
  refine ⟨⟨canon_of (by decide +kernel), ⟨by decide +kernel, by decide +kernel⟩, ?_⟩, ⟨by decide +kernel, by decide +kernel⟩, ?_⟩ <;>
    decide +kernel

/-- LANE_SWAP of lane 3, LANE_ACK of the lane asked for, DOWN, RETRAINED. -/
theorem witness_link_control :
    (let f : Beat := pack 512 [(0, 8, 2), (8, 8, 3)]
     Control (linkState { st := .up, inCtl := [f] }) 0 2 f ∧ fldN f 8 8 < 9) ∧
    (let f : Beat := pack 512 [(0, 8, 3), (8, 8, 3)]
     Control (linkState { st := .swap, swapAsked := some 3, inCtl := [f] }) 0 3 f ∧
       ((linkState { st := .swap, swapAsked := some 3, inCtl := [f] }).port 0).swapAsked = some (fldN f 8 8)) ∧
    (let f : Beat := pack 512 [(0, 8, 4), (8, 8, 5)]
     Control (linkState { st := .up, inCtl := [f] }) 0 4 f) ∧
    (let f : Beat := pack 512 [(0, 8, 5), (8, 32, 2)]
     Control (linkState { st := .detoured, inCtl := [f] }) 0 5 f ∧
       ((linkState { st := .detoured, inCtl := [f] }).port 0).st = .detoured) := by
  refine ⟨⟨⟨?_, ?_⟩, ?_⟩, ⟨⟨?_, ?_⟩, ?_⟩, ⟨?_, ?_⟩, ⟨?_, ?_⟩, ?_⟩ <;> decide +kernel

/-- A first and a second failing lane; too many, and few, corrected bytes. -/
theorem witness_lanes :
    Canon (linkState { st := .up }) ∧ ((linkState { st := .up }).port 0).st = .up ∧ ((linkState { st := .up }).port 0).lanesRx = 0 ∧
      ((linkState { st := .up }).port 0).swapAsked = none ∧ (linkState {}).ns < 0 + 1000000 ∧
      (linkState {}).fab.laneLimit.toNat < SMap.get 0 ({ laneCorr := [(8, 2000)] } : Port).laneCorr 8 ∧
      ¬ (linkState {}).fab.laneLimit.toNat < SMap.get 0 ({} : Port).laneCorr 8 ∧ ((linkState { st := .up, lanesRx := 1 }).port 0).lanesRx ≠ 0 ∧
      bitB ((linkState { st := .up, lanesRx := 1 }).port 0).lanesRx 8 = false :=
  ⟨canon_of (by decide +kernel), by decide +kernel, by decide +kernel, by decide +kernel, by decide +kernel, by decide +kernel,
    by decide +kernel, by decide +kernel, by decide +kernel⟩

/-- A port that trains, and one that returns. -/
theorem witness_ports :
    (let s := linkState { epoch := 1 }
     Canon s ∧ 0 < 18 ∧ (s.port 0).st = .off ∧ s.pins.mainOn = true ∧ s.trust.phyOk = true ∧ s.bound = true ∧ (s.portCfg 0).role ≠ 0 ∧
       ∀ q, (s.sq q).cur = none) ∧
    (let s := linkState { st := .detoured, retrIn := true, retrOut := true, retrSaid := true, resynced := true } .idle
     (s.port 0).st = .detoured ∧ (s.port 0).retrIn = true ∧ (s.port 0).retrOut = true ∧ (s.port 0).retrSaid = true ∧ (s.port 0).resynced = true ∧
       inboundEmpty s 0 = true ∧ restful s = true ∧ (s.port 0).returning = false) := by
  refine ⟨⟨canon_of (by decide +kernel), by decide, by decide +kernel, by decide +kernel, by decide +kernel, by decide +kernel,
    by decide +kernel, fun _ => rfl⟩, ?_⟩
  decide +kernel

/-! ## Movers -/

/-- Mover 0 with the descriptor `d` at its head. -/
def mvState (d : Beat) : State := { jobWith .running with movers := [(0, { queue := [⟨d, 5, 0⟩] })] }

def dCopy : Beat := pack 512 [(0, 8, 5), (16, 8, 9), (24, 8, 1), (80, 48, 0x40), (128, 32, 64), (160, 17, 1)]
def dAtomic : Beat := pack 512 [(0, 8, 6), (9, 4, 1), (16, 8, 9), (24, 8, 1), (32, 48, 0x100)]
def dColl : Beat := pack 512 [(0, 8, 7), (80, 48, 0x3000000), (128, 32, 64), (160, 16, 4)]
def dPerm : Beat := pack 512 [(0, 8, 8), (16, 8, 9), (24, 8, 1), (80, 32, 1)]

/-- The first descriptor of a free mover. -/
theorem witness_at_head : ∀ d : Beat, AtHead (mvState d) 0 ⟨d, 5, 0⟩ [] := fun _ =>
  ⟨by decide, rfl, by simp [mvState, jobWith, bound, up, State.reset], by simp [mvState, jobWith, bound, up, State.reset], rfl, rfl⟩

theorem witness_mover_copy :
    let s := mvState dCopy
    Canon s ∧ mvType dCopy = 5 ∧ copyValid dCopy = true ∧ s.mem.poison = [] ∧
      ∀ b, b < mvBeats dCopy → Reads s 0 (mvSrcAt dCopy b) (gaAt 0 0) ∧ Writes s 0 (mvDstAt dCopy b) (gaAt 0 0x40) ∧
        tagged s (gaOff (gaAt 0 0x40)) = false := by
  refine ⟨canon_of (by decide +kernel), by decide +kernel, by decide +kernel, by decide +kernel, ?_⟩
  unfold Reads Writes Near Readable
  decide +kernel

theorem witness_atomic_descriptor :
    let s := mvState dAtomic
    Canon s ∧ mvType dAtomic = 6 ∧ atomicValid dAtomic = true ∧ aRet dAtomic = false ∧
      Writes s 0 (aTarget dAtomic) (gaAt 0 0x100) ∧ Readable s (gaAt 0 0x100) ∧ tagged s (gaOff (gaAt 0 0x100)) = false := by
  refine ⟨canon_of (by decide +kernel), by decide +kernel, by decide +kernel, by decide +kernel, ?_⟩
  unfold Writes Near Readable
  decide +kernel

theorem witness_collective_descriptor :
    let s := { mvState dColl with ports := [(0, { st := .up })] }
    Canon s ∧ mvType dColl = 7 ∧ collValid dColl = true ∧ mvLen dColl ≤ 1024 ∧
      (∀ b, b < mvLen dColl / 64 → Reads s 0 (mvSrc dColl + 64 * b) (gaAt 0 0)) ∧
      (∀ b, b < mvLen dColl / 64 → gaMod (gaAt 1 0 + 64 * b) = gaMod (gaAt 1 0) ∧
        reach s (dieOfMover 0) (mvDst dColl + 64 * b) true false = .ok (gaAt 1 0 + 64 * b)) ∧ gaMod (gaAt 1 0) ≠ s.self ∧ collPort s (gaMod (gaAt 1 0)) = some 0 ∧
      (s.port 0).st = .up ∧ s.self < 2 ^ 15 := by
  refine ⟨canon_of (by decide +kernel), by decide +kernel, by decide +kernel, by decide +kernel, ?_⟩
  unfold Reads Near Readable
  decide +kernel

/-- A table of one entry at 0 whose beat lies at 0x40. -/
theorem witness_permutation_descriptor :
    let s := mvState dPerm
    let s := { s with mem := { s.mem with dram := SMap.setBeat [] 0 (pack 512 [(0, 64, 0x40), (128, 32, 64)]) } }
    let ent : BitVec 256 := fld (SMap.getBeat s.mem.dram (gaOff (gaAt 0 0))) 0 256
    Canon s ∧ mvType dPerm = 8 ∧ permValid dPerm = true ∧ pDir dPerm = false ∧ pNent dPerm = 1 ∧ peLen ent / 64 = 1 ∧
      Reads s 0 (pTable dPerm) (gaAt 0 0) ∧
      ∀ b, b < peLen ent / 64 → Reads s 0 (peSrc ent + 64 * b) (gaAt 0 0x40) := by
  refine ⟨canon_of (by decide +kernel), by decide +kernel, by decide +kernel, by decide +kernel, by decide +kernel, by decide +kernel,
    ?_⟩
  unfold Reads Near Readable
  decide +kernel

/-- A transfer's next beat goes to mover 0's enqueue offset. -/
theorem witness_enqueue :
    let o := { doneOp .xfer (dXfer ||| pack 512 [(14, 2, 2)]) with buf := [(0, 0x2000000, dCopy, false)] }
    let s := jobWith .running (opTile o)
    s.op? 5 o.id = some o ∧ xKind2 o = true ∧ xWrite2 o.desc = true ∧ o.started = true ∧ o.held = none ∧ tilesRun s = true ∧
      (s.tile 5).gang.isSome = true ∧ lowBeat o = some (0, 0x2000000, dCopy, false) ∧
      translate s (dieOfTile 5) 0x2000000 true false = .ok (gaAt 0 0x31004110000) ∧ s.stg.st ≠ .abandoned ∧ gaMod (gaAt 0 0x31004110000) = s.self ∧
      placeOf (gaOff (gaAt 0 0x31004110000)) = .mover 0 (gaOff (gaAt 0 0x31004110000) % 0x1000) ∧
      gaFault s (gaAt 0 0x31004110000) true = none := by decide +kernel

/-! ## Requests, responses, collective data -/

/-- Message `m` at port 0 on channel 2. -/
def arrived (m : Msg) (st : StepState := .running) : State := round st 0 m 2

/-- A request of opcode `opc` for global address `ga`. -/
def req (opc ga a : Nat) (data : List Beat := []) : Msg := msg opc a [(96, 64, ga)] data

theorem sound_of {s : State} {ga : Nat} (h : tagged s (gaOff ga) = false) : Sound s ga := by
  intro h'
  rw [h] at h'
  cases h'

theorem witness_requests :
    (let m := req 1 (gaAt 0 0x40) 0 [7]
     Arrives (arrived m) 0 1 2 m ∧ (arrived m).stg.st ≠ .abandoned ∧ (arrived m).mem.poison = [] ∧ mAddr m % 64 = 0 ∧
       NearRange (arrived m) m m.data.length true ∧ ∀ a ∈ reqBeats m m.data.length, Sound (arrived m) a) ∧
    (let m := req 2 (gaAt 0 0x40) 1
     Arrives (arrived m) 0 2 2 m ∧ mAddr m % 64 = 0 ∧ 1 ≤ mArg m % 32 ∧ mArg m % 32 ≤ 16 ∧
       NearRange (arrived m) m (mArg m % 32) false ∧ ∀ a ∈ reqBeats m (mArg m % 32), Readable (arrived m) a) ∧
    (let m := req 3 (gaAt 0 0x44) 0
     Arrives (arrived m) 0 3 2 m ∧ mCode m < 8 ∧ mAddr m % (if mW64 m then 8 else 4) = 0 ∧
       remoteRefused (arrived m) (mAddr m) true = false ∧ Near (arrived m) (mAddr m) ∧
       Readable (arrived m) (mAddr m) ∧ Sound (arrived m) (mAddr m)) := by
  unfold Arrives Comes NearRange Near Readable
  refine ⟨⟨by decide +kernel, by decide +kernel, by decide +kernel, by decide +kernel, by decide +kernel,
      fun a h => sound_of ((by decide +kernel : ∀ a ∈ reqBeats (req 1 (gaAt 0 0x40) 0 [7]) 1,
        tagged (arrived (req 1 (gaAt 0 0x40) 0 [7])) (gaOff a) = false) a h)⟩, by decide +kernel,
    by decide +kernel, by decide +kernel, by decide +kernel, by decide +kernel, by decide +kernel, by decide +kernel, sound_of (by decide +kernel)⟩

/-- A signal for EC[3] of tile 5, and requests for the reserve, refused; one while the step is abandoned. -/
theorem witness_remote_signal_and_refusals :
    (let m := req 4 (gaAt 0 (0x31000000000 + 5 * 0x10000 + 0x80C)) 9
     Arrives (arrived m) 0 4 2 m ∧ (arrived m).stg.st ≠ .abandoned ∧ mAddr m / 2 ^ 57 = 64 ∧ gaMod (mAddr m) = (arrived m).self ∧
       ecOf (mAddr m) = some (5, 3) ∧ ((arrived m).tile 5).gang = some 0 ∧ (arrived m).pre.saved = false ∧ mArg m % 256 ≠ 0 ∧
       (let s := { arrived m with pre := { saved := true } }
        Arrives s 0 4 2 m ∧ s.pre.saved = true ∧ s.self = (arrived m).self)) ∧
    (let m := req 4 (gaAt 0 (0x31000000000 + 6 * 0x10000 + 0x80C)) 9
     Arrives (arrived m) 0 4 2 m ∧ ecOf (mAddr m) = some (6, 3) ∧ ((arrived m).tile 6).gang = none) ∧
    (let m := req 4 (gaAt 0 0x40) 9
     Arrives (arrived m) 0 4 2 m ∧ ecOf (mAddr m) = none) ∧
    (let m := req 3 (gaAt 0 0x42) 0
     Arrives (arrived m) 0 3 2 m ∧ farDown (arrived m) m = none ∧ mAddr m % (if mW64 m then 8 else 4) ≠ 0) ∧
    (let m := req 1 (gaAt 0 0x1FC0000000) 0 [7]
     Arrives (arrived m) 0 1 2 m ∧ farDown (arrived m) m = none ∧ ∃ a ∈ reqBeats m m.data.length, remoteRefused (arrived m) a true = true) ∧
    (let m := req 2 (gaAt 0 0x1FC0000000) 1
     Arrives (arrived m) 0 2 2 m ∧ farDown (arrived m) m = none ∧ ∃ a ∈ reqBeats m (mArg m % 32), remoteRefused (arrived m) a false = true) ∧
    (let m := req 1 (gaAt 0 0x40) 0 [7]
     Arrives (arrived m .abandoned) 0 1 2 m ∧ (arrived m .abandoned).stg.st = .abandoned) ∧
    ∀ opc ∈ [2, 3, 4], let m := req opc (gaAt 0 0x40) 1
      Arrives (arrived m .abandoned) 0 opc 2 m := by
  unfold Arrives Comes
  refine ⟨?_, ?_, ?_, ?_, ?_, ?_, ?_, ?_⟩ <;> decide +kernel

/-- Responses to request 6, of a mover and of a transfer's beat. -/
def asked (op : Option (Nat × Nat)) : OutReq :=
  { tag := 6, op := op, mover := 0, dst := 1, beat := 0, nbeats := 1, rd := true, dead := false }
def answer (opc : Nat) (data : List Beat := []) : Msg := msg opc 0 [(64, 16, 6)] data
def awaits (op : Option (Nat × Nat)) (m : Msg) : State :=
  let s := arrived m
  { s with fab := { s.fab with outstanding := [asked op] }, tiles := [(5, opTile { dueOp .xfer dXfer with asked := [(0, gaAt 1 0)] })] }

theorem witness_responses :
    (∀ opc ∈ [0x81, 0x82, 0x83], ∀ op ∈ [none, some (5, 0)], let m := answer opc [3]
     Wanted (awaits op m) m (asked op) ∧ Arrives (awaits op m) 0 opc 2 m) ∧ (asked none).op = none ∧ (asked none).mover < 255 ∧
    (asked (some (5, 0))).nbeats = 1 ∧ (answer 0x82 [3]).data.length = 1 ∧
    (awaits (some (5, 0)) (answer 0x82 [3])).op? 5 0 = some { dueOp .xfer dXfer with asked := [(0, gaAt 1 0)] } ∧
    mCode (answer 0x82 [3]) = 0 ∧ xDkind dXfer = 0 ∧ inSpill (awaits (some (5, 0)) (answer 0x82 [3])) (xSrcAt dXfer 0) = false ∧
    Arrives (awaits (some (5, 0)) (answer 0x84)) 0 0x84 2 (answer 0x84) ∧ Wanted (awaits (some (5, 0)) (answer 0x84)) (answer 0x84) (asked (some (5, 0))) ∧
    faultsOf (awaits (some (5, 0)) (answer 0x84)) false 5 0 = [] ∧ (awaits (some (5, 0)) (answer 0x84)).mem.retried = [] := by
  unfold Wanted Arrives Comes
  decide +kernel

/-- LEAVE of module 1, RESYNC, RESYNC_REPLY, and a reply that has not come in 100 µs. -/
theorem witness_members_and_resync :
    (let m := msg 0x20 0
     Canon (arrived m) ∧ Arrives (arrived m) 0 0x20 2 m ∧ mSrc m ∉ (arrived m).fab.departed) ∧
    (let m := msg 0x21 0
     Arrives (arrived m) 0 0x21 2 m ∧ ((arrived m).port 0).st = .up) ∧
    (let m := msg 0x22 0
     let n := req 1 (gaAt 1 0) 0
     let s := { arrived m with ports := [(0, { st := .detoured, inMsgs := [(2, m)], outq := [(2, n)] })] }
     Comes s 0 0x22 2 m ∧ (s.port 0).st = .detoured ∧ (s.port 0).returning = false ∧ (s.port 0).resynced = false ∧
       s.stg.st ≠ .localDone ∧ mDetour n = false ∧
       (let x := (accepted s 0 2 m).port 0
        (x.sentLog.reverse.drop (mOp0 m)) ++ x.outCur.filterMap (·.2) ++ x.outq.map (·.2) ++ x.detq.map (·.2) = [n]) ∧
       ∀ q, (s.sq q).cur = none) ∧
    (let m := msg 0x22 0
     let s := { arrived m with ports := [(0, { st := .detoured, returning := true, matched := true, inMsgs := [(2, m)] })] }
     Comes s 0 0x22 2 m ∧ (s.port 0).st = .detoured ∧ (s.port 0).returning = true ∧ (s.port 0).matched = true ∧
       ∀ q, q ≠ 0 → (s.port q).st ≠ .detoured) ∧
    (let s := { linkState { st := .detoured, failAt := some 0 } with tm := { now := 100000#96 <<< 32 } }
     (s.port 0).st = .detoured ∧ (s.port 0).resynced = false ∧ (s.port 0).failAt = some 0 ∧ 0 + 100000 ≤ s.ns) := by
  unfold Arrives Comes
  exact ⟨⟨canon_of (by decide +kernel), by decide +kernel, by decide +kernel⟩, by decide +kernel,
    ⟨by decide +kernel, by decide +kernel, by decide +kernel, by decide +kernel, by decide +kernel, by decide +kernel,
      by decide +kernel, fun _ => rfl⟩,
    ⟨by decide +kernel, by decide +kernel, by decide +kernel, by decide +kernel,
      fun q hq => by simp [State.port, SMap.get, Ne.symm hq]⟩, by decide +kernel⟩

/-- A CPUT for near address 0x40 with the fields given beside those of a write. -/
def cputMsg (f : List (Nat × Nat × Nat)) : Msg :=
  let m := req 0x10 (gaAt 0 0x40) 0 [7]
  { m with hdr := m.hdr ||| pack 512 f }

/-- A shard record that has seen both passes of the word of `cputMsg`, its pass 0 ended where `e` says. -/
def seenShard (m : Msg) (e : Bool) : SMap Shard :=
  [(0, { seen := true, p0End := e, d0 := digestWords 0 0 (pGkey m) (8 * pSoff m) (m.data.flatMap beatWords) })]

theorem sound_all {s : State} {as : List Nat} (h : as.all (fun a => !tagged s (gaOff a)) = true) : ∀ a ∈ as, Sound s a :=
  fun a ha => sound_of (by simpa using List.all_eq_true.mp h a ha)

/-- CPUTs for the near tier that all meet: one with the stream's signal, its turn come or not, and for a saved gang; one with GATHER,
not the last, the last of pass 0, the last of pass 1 with its digest right or not; and one of another version. -/
theorem witness_cput_arrives :
    ∀ f ∈ [[], [(224, 1, 1), (240, 10, 5), (184, 8, 1)], [(224, 1, 1), (192, 32, 1)], [(225, 1, 1)], [(225, 1, 1), (227, 1, 1)],
        [(225, 1, 1), (226, 1, 1), (227, 1, 1)], [(225, 1, 1), (288, 32, 1)]],
      let m := cputMsg f
      let s := { arrived m with stg := { (arrived m).stg with step := 1 } }
      Arrives s 0 0x10 2 m ∧ s.stg.st ≠ .abandoned ∧ mDst m = s.self ∧ s.bound = true ∧
        mAddr m % 64 = 0 ∧ gaOff (mAddr m) + 64 * m.data.length < 0x4000000000 ∧
        (reqBeats m m.data.length).all (cputOk s) = true ∧ s.mem.poison = [] ∧
        (reqBeats m m.data.length).all (fun a => !tagged s (gaOff a)) = true ∧ SMap.wf {} s.cm.shards = true ∧
        (streamOf s 0 (pCid m)).sigs = [] ∧ (streamOf s 0 (pCid m)).ends = [] := by
  unfold Arrives Comes
  decide +kernel

theorem witness_cput :
    (let m := cputMsg [(224, 1, 1), (240, 10, 5), (184, 8, 1)]
     let s := { arrived m with stg := { (arrived m).stg with step := 1 } }
     Canon s ∧ (∀ a ∈ reqBeats m m.data.length, Sound s a) ∧ pGather m = false ∧ pGend m = false ∧ pLast m = true ∧ pSeq m = 0 ∧
       cputSaved s m = false ∧ cputSaved { s with pre := { saved := true } } m = true ∧
       pSeq (cputMsg [(224, 1, 1), (192, 32, 1)]) = 1) ∧
    (let m := cputMsg [(225, 1, 1)]
     let s := { arrived m with stg := { (arrived m).stg with step := 1 } }
     pGather m = true ∧ pLast m = false ∧ pGend m = false ∧ pVersion m = (s.stg.step - 1).setWidth 32 ∧
       pVersion (cputMsg [(225, 1, 1), (288, 32, 1)]) ≠ (s.stg.step - 1).setWidth 32) ∧
    (let m := cputMsg [(225, 1, 1), (227, 1, 1)]
     pGend m = true ∧ pGpass m = false ∧ seqDone { streamOf (arrived m) 0 (pCid m) with seqs := [pSeq m] } (pSeq m) = true) ∧
    (let m := cputMsg [(225, 1, 1), (226, 1, 1), (227, 1, 1)]
     let s := { arrived m with cm := { (arrived m).cm with shards := seenShard m true } }
     let u := { arrived m with cm := { (arrived m).cm with shards := seenShard m false } }
     pGend m = true ∧ pGpass m = true ∧ SMap.wf {} s.cm.shards = true ∧ (joined s m).p0End = true ∧ (joined s m).d0 = (joined s m).d1 ∧
       (joined u m).p0End = false ∧
       seqDone { streamOf s 0 (pCid m) with seqs := [pSeq m] } (pSeq m) = true) ∧
    (let m := req 0x10 (gaAt 0 0x1FC0000000) 0 [7]
     Arrives (arrived m) 0 0x10 2 m ∧ (reqBeats m m.data.length).all (cputOk (arrived m)) = false) := by
  refine ⟨⟨canon_of (by decide +kernel), sound_all (by decide +kernel), by decide +kernel⟩, by decide +kernel, by decide +kernel,
    by decide +kernel, ?_⟩
  unfold Arrives Comes
  decide +kernel

/-! ## Beats of the tiers, faults, far-tier ports, pages, pre-emption -/

def readOp (asked : List (Nat × Nat)) (buf : List (Nat × Nat × Beat × Bool)) : Op :=
  { doneOp .xfer (dXfer ||| pack 512 [(12, 2, 2)]) with asked := asked, buf := buf }

theorem witness_memory_beat :
    let o := readOp [(0, gaAt 0 0)] []
    let s := jobWith .running (opTile o)
    s.op? 5 o.id = some o ∧ (∀ p ∈ (s.tile 5).ops, p.id = o.id → p = o) ∧ o.asked.find? (fun a => a.1 == 0) = some (0, gaAt 0 0) ∧
      gaOff (gaAt 0 0) < 0x4000000000 ∧ chanDead s (gaOff (gaAt 0 0)) = false ∧ gaOff (gaAt 0 0) % 64 = 0 ∧
      SMap.get false s.mem.poison (gaOff (gaAt 0 0) / 64) = false ∧ xDkind o.desc = 0 ∧ inSpill s (xSrcAt o.desc 0) = false ∧
      s.bound = true ∧ tagMatches s (gaOff (gaAt 0 0)) = true ∧ tagged s (gaOff (gaAt 0 0)) = false ∧ 64 * 0 < 0x4000000000 ∧
      s.pins.mainOn = true ∧ s.ns - s.flt.chanHour < 3600000000000 ∧ memFull s = false ∧
      memFull { s with gov := { s.gov with memLim := some 0 } } = true := by decide +kernel

theorem witness_drains :
    (let o := readOp [] [(0, 64, 3, false)]
     let s := jobWith .running { opTile o with sets := [(0, 0x42)] }
     (s.tile 5).gang.isSome = true ∧ bankSlot s 5 0 0x42 = true ∧ drainOwn s 5 0 = some (o, 0, 64, 3)) ∧
    (let e : DrainEnt := ⟨0, 5, 64, false, false, 3, .mover 0⟩
     let s := jobWith .running { gang := some 0, sets := [(0, 0x42)] }
     let s := { s with fab := { s.fab with drain := [e] } }
     (s.tile 5).gang.isSome = true ∧ bankSlot s 5 0 0x42 = true ∧ drainOwn s 5 0 = none ∧
       s.fab.drain.find? (fun e => e.tile == 5 && e.addr / 0x20000 == 0 && !e.done) = some e ∧ e.rd = false) ∧
    (let o := { doneOp .xfer (dXfer ||| pack 512 [(14, 2, 2)]) with buf := [(0, 64, 3, false)] }
     let s := jobWith .running (opTile o)
     s.pins.mainOn = true ∧ drainOut s 5 false = some o ∧ lowBeat o = some (0, 64, 3, false) ∧
       reach s (dieOfTile 5) 64 true false = .ok (gaAt 0 64) ∧ gaMod (gaAt 0 64) = s.self ∧ gaOff (gaAt 0 64) < 0x4000000000 ∧
       inSpill s 64 = false ∧ memFull s = false ∧ memFull { s with gov := { s.gov with memLim := some 0 } } = true) := by decide +kernel

def faultRec (code va ga : Nat) : FaultRec :=
  { n := 0, code := code, dir := false, mover := false, chan := false, unit := 5, op := 0, gang := 0, beat := 0, va := va, ga := ga
    at_ := 0, record := 0, saved := false, win := false }

/-- A fault of code `code` holds the transfer; `ns` have passed. -/
def faulted (code va ga ns : Nat) : State :=
  let s := jobWith .running (opTile { readOp [] [] with held := some 0 })
  { s with mem := { s.mem with faults := [faultRec code va ga], nextFault := 1 }, tm := { now := BitVec.ofNat 96 (ns * 2 ^ 32) } }

theorem witness_faults :
    (∀ code ∈ [0, 4, 5, 6], Holds (faulted code 0 (gaAt 0 0) 3000000) (faultRec code 0 (gaAt 0 0)) 5 { readOp [] [] with held := some 0 }) ∧
    0 + 1000 * (faulted 5 0 0 3000000).mem.farLimit.toNat ≤ (faulted 5 0 0 3000000).ns ∧
    (faulted 5 0 0 1).ns < 0 + 1000 * (faulted 5 0 0 1).mem.farLimit.toNat ∧
    0 + 1000 * (faulted 6 0 0 3000000).mem.hwinLimit.toNat ≤ (faulted 6 0 0 3000000).ns ∧
    (faulted 6 0 0 1).ns < 0 + 1000 * (faulted 6 0 0 1).mem.hwinLimit.toNat ∧
    (let o := readOp [(0, gaAt 0 0x10000000000)] []
     let s := jobWith .running (opTile o)
     s.op? 5 o.id = some o ∧ o.held = none ∧ faultsOf s false 5 o.id = [] ∧ gaMod (gaAt 0 0x10000000000) = s.self ∧ o.asked.find? (fun b => b.1 == 0) = some (0, gaAt 0 0x10000000000) ∧
       placeOf (gaOff (gaAt 0 0x10000000000)) = .far 0 0 ∧ retriedAs s 5 false false 5 o.id 0 = none ∧
       (let f := faultRec 5 0 (gaAt 0 0x10000000000)
        retriedAs { s with mem := { s.mem with retried := [f] } } 5 false false 5 o.id 0 = some f)) := by
  unfold Holds
  decide +kernel

/-- RETRY of a FAR_MISS once its port serves. -/
theorem witness_retry :
    let s := faulted 5 0x1000000 (gaAt 0 0x10000000000) 1
    let s := { s with mem := { s.mem with farUp := [(0, true)], farCap := [(0, 64)] } }
    let f := faultRec 5 0x1000000 (gaAt 0 0x10000000000)
    Holds s f 5 { readOp [] [] with held := some 0 } ∧ faultsOf s false 5 (readOp [] []).id = [f] ∧ f.code = 5 ∧ f.win = false ∧ f.saved = false ∧
      reach s (dieOfTile 5) f.va f.dir false = .ok (gaAt 0 0x10000000000) := by
  unfold Holds
  decide +kernel

/-- Far-tier ports down, up and enumerated; a held request whose time is over; a page due. -/
theorem witness_far_ports :
    (let s := jobWith .running
     Canon s ∧ ∀ t, ∀ o ∈ (s.tile t).ops, farAsked o 0 = none) ∧
    (let s := { up with mem := { up.mem with farCap := [(0, 64)] } }
     SMap.get 0 s.mem.farCap 0 ≠ 0 ∧ s.mem.heldReqs = [] ∧ s.mem.faults = [] ∧ s.pins.mainOn = true ∧
       farSlotOk { s with trust := { s.trust with board := { s.trust.board with farSlot := [(0, 3)] }
                                                  flash := { s.trust.flash with psk := [(3, some 5)] } } } 0 64 = true) ∧
    (let m := req 1 (gaAt 0 0x10000000000) 0 [7]
     let h : HeldReq := ⟨0, 0, m, 0, 0⟩
     let s := { arrived m with mem := { (arrived m).mem with heldReqs := [h] }, tm := { now := 2000000#96 <<< 32 } }
     s.mem.heldReqs.find? (fun r => r.n == h.n) = some h ∧ h.port < 18 ∧
       waiting (s.modMem fun m => { m with heldReqs := m.heldReqs.filter fun r => r.n != h.n }) h.port h.msg = some (2, h.msg) ∧ h.at_ + 1000 * s.mem.farLimit.toNat ≤ s.ns) ∧
    (let s := { up with mem := { up.mem with retireDue := [9] } }
     restful s = true ∧ 9 ∈ s.mem.retireDue ∧ remapsUsed s 9 < 4096) := by
  refine ⟨⟨canon_of (by decide +kernel), all_tiles (P := fun x => ∀ o ∈ x.ops, farAsked o 0 = none) (by decide) (by decide +kernel)⟩, ?_⟩
  decide +kernel

/-- A pre-emption whose gangs are held, its save, its restore. -/
theorem witness_preempt :
    (let s := { atMark with pre := { pending := some 0 }, stg := { atMark.stg with reporter := some 1 }
                            gangs := [(0, { seamAt := some 0 })], clk := { atMark.clk with cycle := 2 } }
     Canon s ∧ s.pre.pending = some 0 ∧ s.stg.st = .running ∧ s.stg.reporter = some 1 ∧ darnPending s = false ∧ s.flt.darning = none ∧
       ∀ g ∈ s.gangList, preHeld s g = true) ∧
    (let s := { jobWith .preempted with pre := { saving := true, saved := true, saveQ := some 0 } }
     s.pre.saveQ = some 0 ∧ s.pre.saving = true) ∧
    (let s := { jobWith .preempted with pre := { saved := true, restoring := some 0 } }
     s.pre.restoring = some 0 ∧ s.stg.st = .preempted) := by
  refine ⟨⟨canon_of (by decide +kernel), ?_⟩, ?_⟩ <;> decide +kernel

/-! ## Queues and the host -/

theorem all_sqs {s : State} {P : Sq → Prop} (h0 : P {}) (h : ∀ e ∈ s.host.sqs, P e.2) (q : Nat) : P (s.sq q) := by
  unfold State.sq
  rcases get_listed ({} : Sq) s.host.sqs q with e | ⟨e, he, h'⟩
  · rw [e]; exact h0
  · rw [h']; exact h e he

/-- Queues SQ 0 and CQ 0 as given. -/
def queued (x : Sq) (c : Cq := {}) (s : State := up) : State :=
  { s with host := { s.host with sqs := [(0, x)], cqs := [(0, c)] } }

/-- A queue to enable, one to disable, one whose CQ an SQ names. -/
theorem witness_queues :
    (let s := queued { base := 0x1000 } { en := true, cfg := 0x10004 }
     Canon s ∧ (s.sq 0).en = false ∧ (s.sq 0).resvBase = false ∧ (s.sq 0).resvCfg = false ∧ sizeOk (s.sq 0).cfg = true ∧ baseOk (s.sq 0).base (256 * qSize (s.sq 0).cfg) = true ∧
       (s.cq (cqOf (s.sq 0))).en = true) ∧
    (let s := queued { base := 0x1000 } { base := 0x1000, cfg := 0x10004 }
     (s.cq 0).en = false ∧ (s.cq 0).resvBase = false ∧ (s.cq 0).resvCfg = false ∧ sizeOk (s.cq 0).cfg = true ∧ baseOk (s.cq 0).base (32 * qSize (s.cq 0).cfg) = true ∧
       1 ≤ fldN (s.cq 0).cfg 16 6 ∧ ∀ i, (s.sq i).cur = none) ∧
    (let s := queued { base := 0x1000, resvCfg := true } { en := true }
     Canon s ∧ (s.sq 0).en = false ∧ (s.sq 0).resvCfg = true) ∧
    (let s := queued { en := true } { en := true, cfg := 0x10004 }
     (s.sq 0).en = true ∧ (s.sq 0).fails = 0 ∧ (s.cq 0).en = true ∧ cqOf (s.sq 0) = 0) ∧
    (let s := queued { base := 0x1000 } { en := true, cfg := 0x10004 }
     (s.cq 0).en = true ∧ ∀ i, (s.sq i).en = true → cqOf (s.sq i) ≠ 0) := by
  exact ⟨⟨canon_of (by decide +kernel), by decide +kernel, by decide +kernel, by decide +kernel, by decide +kernel, by decide +kernel,
      by decide +kernel⟩,
    ⟨by decide +kernel, by decide +kernel, by decide +kernel, by decide +kernel, by decide +kernel, by decide +kernel,
      all_sqs (P := fun x => x.cur = none) rfl (by decide +kernel)⟩,
    ⟨canon_of (by decide +kernel), by decide +kernel, by decide +kernel⟩, by decide +kernel,
    ⟨by decide +kernel, all_sqs (P := fun x => x.en = true → cqOf x ≠ 0) (by decide) (by decide +kernel)⟩⟩

/-- Doorbells inside SIZE of enabled queues, and outside. -/
theorem witness_doorbells :
    let s := queued { en := true } { en := true }
    (s.sq 0).en = true ∧ fldN (3 : Word) 0 12 < qSize (s.sq 0).cfg ∧ (s.cq 0).en = true ∧ fldN (3 : Word) 0 12 < qSize (s.cq 0).cfg ∧
      qSize (s.sq 0).cfg ≤ fldN (4 : Word) 0 12 ∧ (s.sq 1).en = false ∧ (s.cq 1).en = false := by decide +kernel

/-- HWT_INVAL starting, an exchange-area access on a channel in service, registers with the rails up. -/
theorem witness_host_accesses :
    bitB (1 : DWord) 0 = true ∧ up.mem.faults = [] ∧ up.mem.poison = [] ∧ 0xFFFFFFF < 0x10000000 ∧
      (∀ off ∈ [0, 0xFFFFFFF], Sound up (0x1FF0000000 + off / 64 * 64)) ∧
      (∀ off ∈ [0, 0xFFFFFFF], chanDead up (0x1FF0000000 + off / 64 * 64) = false ∧ tagMatches up (0x1FF0000000 + off / 64 * 64) = true) ∧
      up.host.hdm.toNat / 0x10000000 * 0x10000000 + 0x10000000 ≤ 0x10000000 ∧
      up.pins.mainOn = true := by
  unfold Sound
  decide +kernel

/-- The link down and up, a link-loss reset once READY has been set, and an event before that. -/
theorem witness_link :
    up.host.linkUp = true ∧ up.host.wasReady = true ∧ up.pins.phase = .up ∧ up.pins.hostPerst = false ∧
      (let s := { up with host := { up.host with linkUp := false, downSince := some 0 }, tm := { now := 2000000#96 <<< 32 } }
       s.host.linkUp = false ∧ s.pins.mainOn = true ∧ s.host.downSince = some 0 ∧ 0 + 2000000 ≤ s.ns ∧ s.host.wasReady = true ∧
         s.pins.phase = .up ∧ s.pins.hostPerst = false) ∧
      (let s := { up with host := { up.host with linkUp := false, downSince := some 0 } }
       s.host.linkUp = false ∧ s.mem.faults = [] ∧ s.host.downSince = some 0 ∧ s.ns < 0 + 2000000) ∧
      State.reset.host.wasReady = false ∧ (bound .idle).bound = true ∧ up.pins.mainOn = true ∧ State.reset.pins.mainOn = false := by decide +kernel

/-! ## Commands -/

set_option maxRecDepth 100000

/-- A submission entry of opcode `op`, phase 1, in session `h`, with the fields given, its CRC right. -/
def entry (op h : Nat) (fs : List (Nat × Nat × Nat)) : BitVec 2048 :=
  let e := pack 2048 ([(0, 16, op), (16, 16, 7), (32, 1, 1), (64, 32, h)] ++ fs)
  setFld e 0x1E0 32 (entryCrc e).toNat

/-- SQ 0 of 4 entries on CQ 0, one entry offered, a session of handle 1 open. -/
def ready (s : State := up) (fails : Nat := 0) : State :=
  { queued { en := true, tail := 1, fails := fails } { en := true, phase := true } s with
    trust := { s.trust with session := some (1, 0, 0, 0), ak := some (0, 0) } }

/-- `Offered`, as a computation. -/
def offeredB (s : State) (q : Nat) (e : BitVec 2048) (op : Nat) : Bool :=
  canonB s && mayRead s q e && entryOk (s.sq q) e && entOpcode e == op && s.host.sqs.all (fun x => x.2.cur.isNone) &&
  s.rest.st == .awake && !cmdHeld s q && commonCheck s e == 0

theorem offered_of {s : State} {q : Nat} {e : BitVec 2048} {op : Nat} (h : offeredB s q e op = true) : Offered s q e op := by
  simp only [offeredB, Bool.and_eq_true, List.all_eq_true, beq_iff_eq, Option.isNone_iff_eq_none, Bool.not_eq_true'] at h
  obtain ⟨⟨⟨⟨⟨⟨⟨h1, h2⟩, h3⟩, h4⟩, h5⟩, h6⟩, h7⟩, h8⟩ := h
  exact ⟨canon_of h1, h2, h3, h4, all_sqs (P := fun x => x.cur = none) rfl h5, h6, h7, h8⟩

/-- NOP, IDENTIFY, ATTEST, POWER_QUERY, LEDGER_READ of 64 entries, AUDIT_READ, PORT_STATUS. -/
theorem witness_queries :
    Offered (ready) 0 (entry 0x0001 0 [(0x100, 64, 5)]) 0x0001 ∧ Offered (ready) 0 (entry 0x0002 0 []) 0x0002 ∧
      (Offered (ready) 0 (entry 0x0102 0 [(48, 16, 32)]) 0x0102 ∧ (ready).trust.ak = some (0, 0) ∧
        (ready).trust.idExhausted = false) ∧
      Offered (ready) 0 (entry 0x0401 0 []) 0x0401 ∧
      (Offered (ready) 0 (entry 0x0501 0 [(0x140, 32, 64)]) 0x0501 ∧ 1 ≤ entParam (entry 0x0501 0 [(0x140, 32, 64)]) 0x28 32 ∧
        entParam (entry 0x0501 0 [(0x140, 32, 64)]) 0x28 32 ≤ 65536) ∧
      (Offered (ready { up with flt := { up.flt with snapGen := 1 } }) 0 (entry 0x0502 0 []) 0x0502) ∧
      (Offered (ready) 0 (entry 0x0701 0 [(0x100, 8, 17)]) 0x0701 ∧ entParam (entry 0x0701 0 [(0x100, 8, 17)]) 0x20 8 < 18) :=
  ⟨offered_of (by decide +kernel), offered_of (by decide +kernel), ⟨offered_of (by decide +kernel), rfl, rfl⟩,
    offered_of (by decide +kernel), ⟨offered_of (by decide +kernel), by decide +kernel, by decide +kernel⟩,
    offered_of (by decide +kernel), ⟨offered_of (by decide +kernel), by decide +kernel⟩⟩

/-! ### An opening message (R424) -/

/-- Its bytes up to JS_CT, answering nonce 0. -/
def openHead : List Byte := leBytes 4 0x4F535A54 ++ List.replicate 4 0 ++ List.replicate 32 0 ++ List.replicate 1568 0
def openKey : Beat :=
  kdf 256 ((Config.kemDecap 0 (List.replicate 1568 0)).setWidth 512) (List.replicate 32 0) "ZT-B4480 JS"
def openTag (v : Nat) : List Byte :=
  leBytes 16 ((Config.gcmTag openKey (leBytes 12 0) openHead (List.replicate 32 0)).toNat + v)
/-- The message, its tag off by `v`. -/
def openMsg (v : Nat) : List Byte := openHead ++ (List.replicate 32 0 ++ (openTag v ++ List.replicate 32 0))

theorem openHead_length : openHead.length = 0x648 := by decide +kernel
theorem openMsg_length (v : Nat) : (openMsg v).length = 1688 := by
  simp [openMsg, openHead_length, openTag, leBytes_length]
theorem openMsg_head (v : Nat) : (openMsg v).take 0x648 = openHead := List.take_left' openHead_length
theorem openMsg_ct (v : Nat) : ((openMsg v).drop 0x648).take 32 = List.replicate 32 0 := by
  rw [openMsg, List.drop_left' openHead_length]
  exact List.take_left' (List.length_replicate ..)
theorem openMsg_tag (v : Nat) : ((openMsg v).drop 0x668).take 16 = openTag v := by
  have h : (openHead ++ List.replicate 32 (0 : Byte)).length = 0x668 := by simp [openHead_length]
  rw [openMsg, ← List.append_assoc, List.drop_left' h]
  exact List.take_left' (leBytes_length ..)
theorem openMsg_front (v i n : Nat) (h : i + n ≤ 0x648) : ((openMsg v).drop i).take n = (openHead.drop i).take n := by
  rw [openMsg, List.drop_append_of_le_length (by rw [openHead_length]; omega), List.take_append_of_le_length]
  simp only [List.length_drop, openHead_length]
  omega

/-- A submission whose session is to be opened with the message held as `held`, of which it brings the rest. -/
def opening (held : List Byte) : State :=
  { ready with trust := { ready.trust with session := none, frags := some ⟨0, 3, 1688, held⟩, nonces := [0], kem := some 0 } }

/-- A later fragment; the last, with the tag right and wrong; the opened secret. -/
theorem witness_session_open :
    (let e := entry 0x0100 3 [(48, 16, 64), (0x100, 32, 1688), (0x120, 32, 64)]
     Offered (opening (List.replicate 64 0)) 0 e 0x0100 ∧ (List.replicate 64 (0 : Byte)).length = entParam e 0x24 32 ∧
       1688 = entParam e 0x20 32 ∧ entSession e = 3 ∧ (List.replicate 64 (0 : Byte) ++ entPayload e).length < 1688) ∧
    (let e := entry 0x0100 3 [(0x100, 32, 1688), (0x120, 32, 1688)]
     (Offered (opening (openMsg 0)) 0 e 0x0100 ∧ Offered (opening (openMsg 1)) 0 e 0x0100) ∧ ∀ v, (openMsg v).length = entParam e 0x24 32 ∧ 1688 = entParam e 0x20 32 ∧
       entSession e = 3 ∧ entPayload e = [] ∧ (opening (openMsg v)).trust.kem = some 0 ∧
       leNat ((openMsg v).take 4) = 0x4F535A54 ∧ leBytes 32 (0 : BitVec 256).toNat = ((openMsg v).drop 8).take 32 ∧
       ((openMsg v).drop 0x28).take 1568 = List.replicate 1568 0) ∧
    gcmOpen openKey (leBytes 12 0) ((openMsg 0).take 0x648) (((openMsg 0).drop 0x648).take 32) (((openMsg 0).drop 0x668).take 16) =
      some (gcmXor openKey (leBytes 12 0) (List.replicate 32 0)) ∧
    gcmOpen openKey (leBytes 12 0) ((openMsg 1).take 0x648) (((openMsg 1).drop 0x648).take 32) (((openMsg 1).drop 0x668).take 16) =
      none := by
  refine ⟨⟨offered_of (by decide +kernel), by decide +kernel, by decide +kernel, by decide +kernel, by decide +kernel⟩,
    ⟨⟨offered_of (by decide +kernel), offered_of (by decide +kernel)⟩, fun v => ⟨?_, by decide +kernel, by decide +kernel, by decide +kernel, rfl, ?_, ?_, ?_⟩⟩, ?_, ?_⟩
  · rw [openMsg_length]; decide +kernel
  · have := openMsg_front v 0 4 (by omega)
    simp only [List.drop_zero] at this
    rw [this]
    decide +kernel
  · rw [openMsg_front v 8 32 (by omega)]; decide +kernel
  · rw [openMsg_front v 0x28 1568 (by omega)]; decide +kernel
  · rw [openMsg_head, openMsg_ct, openMsg_tag]
    exact gcmOpen_tag ..
  · rw [openMsg_head, openMsg_ct, openMsg_tag]
    refine gcmOpen_bad _ _ _ _ _ fun h => ?_
    have := congrArg leNat h
    rw [openTag, leNat_leBytes, leNat_leBytes] at this
    have hb := (Config.gcmTag openKey (leBytes 12 0) openHead (List.replicate 32 0)).isLt
    simp only [Nat.reducePow] at this hb
    omega

/-- A first fragment, SESSION_CLOSE, IMAGE_UNLOAD, JOB_RELEASE without and with FORCE. -/
theorem witness_sessions_close :
    (let e := entry 0x0100 0 [(48, 16, 64), (0x100, 32, 128)]
     let s := { ready with trust := { ready.trust with session := none } }
     Offered s 0 e 0x0100 ∧ s.trust.frags = none ∧ s.trust.session = none ∧ entParam e 0x24 32 = 0 ∧ entSession e = 0 ∧
       (entPayload e).length < entParam e 0x20 32 ∧ entParam e 0x20 32 ≤ 8192) ∧
    (Offered ready 0 (entry 0x0101 1 []) 0x0101 ∧ ready.bound = false ∧ ready.image = none) ∧
    Offered (ready { up with image := some ⟨img0, 0, 0⟩ }) 0 (entry 0x0201 1 []) 0x0201 ∧
    (let s := ready (jobWith .idle)
     Offered s 0 (entry 0x0211 1 []) 0x0211 ∧ bitB (entry 0x0211 1 []) 0x100 = false ∧ s.stg.st = .idle) ∧
    (let s := ready (jobWith .running)
     Offered s 0 (entry 0x0211 1 [(0x100, 1, 1)]) 0x0211 ∧ bitB (entry 0x0211 1 [(0x100, 1, 1)]) 0x100 = true ∧ s.bound = true) :=
  ⟨⟨offered_of (by decide +kernel), rfl, rfl, by decide +kernel, by decide +kernel, by decide +kernel, by decide +kernel⟩,
    ⟨offered_of (by decide +kernel), by decide +kernel, rfl⟩, offered_of (by decide +kernel),
    ⟨offered_of (by decide +kernel), by decide +kernel, by decide +kernel⟩,
    ⟨offered_of (by decide +kernel), by decide +kernel, by decide +kernel⟩⟩

/-- Taking an entry, and completing a command taken. -/
def takenCmd (op : Nat) : Taken := { cmd := .nop 0 0, entry := entry op 1 [], gen := 1, sqhd := 1, cq := 0, waiting := true }
def busy (op : Nat) (s : State := up) : State := queued { en := true, cur := some (takenCmd op) } { en := true, phase := true } s

theorem witness_entries :
    ((ready).sq 0).fails = 0 ∧ Canon (busy 1) ∧ ((busy 1).sq 0).cur = some (takenCmd 1) ∧ (busy 1).host.linkUp = true ∧
      bitB ((busy 1).cq 0).cfg 24 = false ∧ ((busy 1).cq 0).en = true ∧
      (let s := ready up 3
       Canon s ∧ canRead s 0 = true ∧ shown s 0 0 = true ∧ entryOk (s.sq 0) 0 = false ∧ (s.sq 0).fails ≠ 0 ∧ (s.sq 0).fails < 16 ∧
         Offered s 0 (entry 0x0001 0 []) 0x0001) ∧
      (dueQueue ready = some 0 ∧ shown ready 0 (1 <<< 32) = true ∧ entryOk (ready.sq 0) (1 <<< 32) = false) ∧
      (let s := ready up 16
       canRead s 0 = true ∧ shown s 0 0 = true ∧ entryOk (s.sq 0) 0 = false ∧ (s.sq 0).fails = 16) :=
  ⟨rfl, canon_of (by decide +kernel), rfl, rfl, by decide +kernel, by decide +kernel,
    ⟨canon_of (by decide +kernel), by decide +kernel, by decide +kernel, by decide +kernel, by decide +kernel, by decide +kernel, offered_of (by decide +kernel)⟩,
    ⟨by decide +kernel, by decide +kernel, by decide +kernel⟩, by decide +kernel, by decide +kernel, by decide +kernel, by decide +kernel⟩

/-- A host window whose first table entry is valid and writable. -/
def windowed (s : State) : State :=
  ready { s with host := { s.host with hwtEn := true, hostMem := [(0, some 3)] }, pins := { s.pins with full := true } }

/-- A SAVE region of 1,705 MiB at offset `o`. -/
def save (o : Nat) : Region := { region 4 false 0 (gaAt 0 o) with size := 0x6A900000 }

/-- An image that a module with both SAVE regions keeps. -/
def img1 : Image :=
  { img0 with regions := [save 0, save 0x2000000000]
              fabric := { selfmod := 0, ports := List.replicate 18 ⟨0, 0, 0, [], List.replicate 16 0⟩, sched := [], route := [] } }

/-! ### The bytes of an image and of a job configuration -/

/-- `l` as bytes of a block from offset `o` on. -/
def cells (o : Nat) : List Byte → SMap Byte
  | [] => []
  | b :: l => (o, b) :: cells (o + 1) l

theorem cells_keys (o : Nat) (l : List Byte) : ∀ e ∈ cells o l, o ≤ e.1 ∧ e.1 < o + l.length := by
  induction l generalizing o with
  | nil => simp [cells]
  | cons b l ih =>
    intro e he
    rcases List.mem_cons.mp he with rfl | h
    · simp
    · have := ih (o + 1) e h
      simp only [List.length_cons]
      omega

theorem get_skip {α : Type} (d : α) (p m : SMap α) (k : Nat) (h : ∀ e ∈ p, e.1 ≠ k) : SMap.get d (p ++ m) k = SMap.get d m k := by
  induction p with
  | nil => rfl
  | cons e p ih =>
    have := h e (by simp)
    simp only [List.cons_append, SMap.get, this, ite_false]
    exact ih fun x hx => h x (by simp [hx])

theorem getBytes_cells (p r : SMap Byte) (o : Nat) (l : List Byte) (h : ∀ e ∈ p, e.1 < o) :
    SMap.getBytes (p ++ (cells o l ++ r)) o l.length = l := by
  induction l generalizing o p with
  | nil => rfl
  | cons b l ih =>
    simp only [List.length_cons, SMap.getBytes]
    congr 1
    · rw [get_skip _ _ _ _ fun e he => by have := h e he; omega]
      simp [cells, SMap.get]
    · have := ih (p ++ [(o, b)]) (o + 1) fun e he => by
        rcases List.mem_append.mp he with h' | h'
        · have := h e h'; omega
        · simp only [List.mem_singleton] at h'; subst h'; simp
      simpa [cells] using this

theorem slice_all (m : SMap Byte) (n : Nat) (h : ∀ e ∈ m, e.1 < n) : slice m 0 n = m := by
  induction m with
  | nil => rfl
  | cons e m ih =>
    have h1 := h e (by simp)
    unfold slice at ih ⊢
    rw [List.filterMap_cons, ih fun x hx => h x (by simp [hx])]
    simp [h1]

/-- The block without the cells of a list that lies outside the range. -/
theorem slice_cells (o k n : Nat) (l : List Byte) (h : o + l.length ≤ k) : slice (cells o l) k n = [] := by
  unfold slice
  rw [List.filterMap_eq_nil_iff]
  intro e he
  have := cells_keys o l e he
  simp only [ite_eq_right_iff, reduceCtorEq, imp_false, Bool.and_eq_true, decide_eq_true_eq, not_and]
  omega

/-- An image of 0x180 bytes whose one section is AUTH, at 0x140: the header, the digest, and what follows. -/
def head0 : SMap Byte :=
  cells 0 [0x5A, 0x53, 0x49, 0x4D, 1, 0, 0xA1, 0, 1, 0, 0, 0, 0xF4, 1, 0, 0, 0x80, 1, 0, 0, 0, 0, 0, 0, 1]
def dir0 : SMap Byte := cells 0x100 [0xB, 0, 0, 0, 0, 0, 0, 0, 0x40, 1, 0, 0, 0, 0, 0, 0, 0x40]
def auth0 : Beat :=
  kdf 512 (kdf 256 0 [] "ZT-B4480 IMAGE") (blobBytes (head0 ++ dir0) 0x180) "ZT-B4480 IMAGE"
def tail0 : SMap Byte := dir0 ++ cells 0x140 (beatBytes auth0)
def digest0 : Beat := Config.shake256 (blobBytes (slice (head0 ++ tail0) 0x100 0x80) 0x80)
def bytes0 : SMap Byte := head0 ++ (cells 0xC0 (beatBytes digest0) ++ tail0)

theorem bytes0_keys : ∀ e ∈ bytes0, e.1 < 0x180 := by
  intro e he
  simp only [bytes0, head0, tail0, dir0, List.mem_append] at he
  rcases he with h | h | h | h
  · have := cells_keys _ _ e h; simp only [List.length_cons, List.length_nil] at this; omega
  · have := cells_keys _ _ e h; rw [beatBytes, leBytes_length] at this; omega
  · have := cells_keys _ _ e h; simp only [List.length_cons, List.length_nil] at this; omega
  · have := cells_keys _ _ e h; rw [beatBytes, leBytes_length] at this; omega

theorem bytes0_digest : beatOf (SMap.getBytes bytes0 0xC0 64) = digest0 := by
  have := getBytes_cells head0 tail0 0xC0 (beatBytes digest0) (by decide)
  rw [beatBytes, leBytes_length, ← beatBytes] at this
  rw [bytes0, this, beatOf_beatBytes]

theorem bytes0_covered : slice bytes0 0x100 0x80 = slice (head0 ++ tail0) 0x100 0x80 := by
  have := slice_cells 0xC0 0x100 0x80 (beatBytes digest0) (by rw [beatBytes, leBytes_length])
  simp only [bytes0, slice, List.filterMap_append] at this ⊢
  rw [this, List.nil_append]

/-- The bytes of a list at its own place, numbered from 0. -/
theorem slice_own (o j n : Nat) (l : List Byte) (h : j + l.length ≤ n) : slice (cells (o + j) l) o n = cells j l := by
  induction l generalizing j with
  | nil => rfl
  | cons b l ih =>
    simp only [List.length_cons] at h
    have := ih (j + 1) (by omega)
    unfold slice at this ⊢
    rw [cells, List.filterMap_cons, Nat.add_assoc, this]
    simp [show o + j < o + n by omega, cells]

theorem bytes0_auth : beatOf (SMap.getBytes (sect bytes0 (dirOf bytes0 1) 0xB) 0 64) = auth0 := by
  have hd : dirOf bytes0 1 = [⟨0xB, 0, 0x140, 64⟩] := by decide +kernel
  have hs : slice bytes0 0x140 64 = cells 0 (beatBytes auth0) := by
    have h1 := slice_cells 0xC0 0x140 64 (beatBytes digest0) (by rw [beatBytes, leBytes_length]; omega)
    have h2 := slice_own 0x140 0 64 (beatBytes auth0) (by rw [beatBytes, leBytes_length])
    have h3 : slice head0 0x140 64 = [] := by decide +kernel
    have h4 : slice dir0 0x140 64 = [] := by decide +kernel
    simp only [bytes0, tail0, slice, List.filterMap_append] at h1 h2 h3 h4 ⊢
    rw [h1, h2, h3, h4]
    simp
  rw [hd]
  show beatOf (SMap.getBytes (slice bytes0 0x140 64) 0 64) = auth0
  have := getBytes_cells [] [] 0 (beatBytes auth0) (by simp)
  rw [beatBytes, leBytes_length, ← beatBytes, List.append_nil, List.nil_append] at this
  rw [hs, this, beatOf_beatBytes]

theorem bytes0_ok : imageOk (imageOf bytes0) 0x180 = true := by
  have h : (imageOf bytes0).digest = Config.shake256
      (blobBytes (slice (imageOf bytes0).raw 0x100 ((imageOf bytes0).imageSize - 0x100)) ((imageOf bytes0).imageSize - 0x100)) := by
    have hi : (imageOf bytes0).imageSize = 0x180 := by decide +kernel
    rw [hi]
    show beatOf (SMap.getBytes bytes0 0xC0 64) = Config.shake256 (blobBytes (slice bytes0 0x100 0x80) 0x80)
    rw [bytes0_digest, bytes0_covered, digest0]
  unfold imageOk
  rw [Bool.and_eq_true]
  exact ⟨by decide +kernel, by rw [beq_iff_eq]; exact h⟩

theorem bytes0_authOk : imageAuthOk (windowed up) (imageOf bytes0) = true := by
  have h : imageAuthBytes (imageOf bytes0) = blobBytes (head0 ++ dir0) 0x180 := by decide +kernel
  have ha : (imageOf bytes0).auth = auth0 := bytes0_auth
  show (kdf 512 (kdf 256 0 [] "ZT-B4480 IMAGE") (imageAuthBytes (imageOf bytes0)) "ZT-B4480 IMAGE" == (imageOf bytes0).auth) = true
  rw [h, ha, auth0]
  exact beq_self_eq_true _

/-! ### What the host puts into its window, and what is read back of it -/

theorem bytes0_above (k : Nat) (h : 0x180 ≤ k) : SMap.get 0 bytes0 k = 0 := by
  rcases get_listed 0 bytes0 k with e | ⟨x, hx, e⟩
  · exact e
  · rcases SMap.get_mem 0 bytes0 k with e' | e'
    · exact e'
    · have := bytes0_keys _ e'
      simp only at this
      omega

/-- A block in canonical form that reads as `bytes0`. -/
def Reads (m : SMap Byte) : Prop := SMap.wf 0 m = true ∧ ∀ k, k < 0x180 → SMap.get 0 m k = SMap.get 0 bytes0 k

theorem reads_bytes {m : SMap Byte} (h : Reads m) (a n : Nat) (hn : a + n ≤ 0x180) : SMap.getBytes m a n = SMap.getBytes bytes0 a n :=
  SMap.getBytes_congr _ _ _ _ _ fun i hi => h.2 _ (by omega)

theorem imageOf_reads {m : SMap Byte} (h : Reads m) : imageOf m = { imageOf bytes0 with raw := m } := by
  have hb := fun a n hn => reads_bytes h a n hn
  have hd : dirOf bytes0 1 = [⟨0xB, 0, 0x140, 64⟩] := by decide +kernel
  have hn : SMap.getNat bytes0 8 4 = 1 := by decide +kernel
  have hdm : dirOf m 1 = [⟨0xB, 0, 0x140, 64⟩] := by
    rw [← hd]
    simp only [dirOf, SMap.getNat, List.range_one, List.map_cons, List.map_nil, hb _ _ (by omega : 0x100 + 32 * 0 + 4 ≤ 0x180),
      hb _ _ (by omega : 0x100 + 32 * 0 + 4 + 4 ≤ 0x180), hb _ _ (by omega : 0x100 + 32 * 0 + 8 + 8 ≤ 0x180),
      hb _ _ (by omega : 0x100 + 32 * 0 + 16 + 8 ≤ 0x180)]
  have hs : slice m 0x40 128 = slice bytes0 0x40 128 := by
    have h1 : slice bytes0 0x40 128 = [] := by
      have h1 := slice_cells 0xC0 0x40 128 (beatBytes digest0)
      unfold slice at h1 ⊢
      rw [List.filterMap_eq_nil_iff]
      intro e he
      simp only [bytes0, head0, tail0, dir0, List.mem_append] at he
      simp only [ite_eq_right_iff, reduceCtorEq, imp_false, Bool.and_eq_true, decide_eq_true_eq, not_and]
      rcases he with he | he | he | he
      · have := cells_keys _ _ e he; simp only [List.length_cons, List.length_nil] at this; omega
      · have := cells_keys _ _ e he; omega
      · have := cells_keys _ _ e he; omega
      · have := cells_keys _ _ e he; omega
    rw [h1]
    refine slice_zero m _ _ h.1 fun k hk => ?_
    rw [h.2 _ (by omega), ← get_slice bytes0 0x40 128 k hk, h1]
    rfl
  have hq : ∀ x : SMap Byte, tilesOf x [⟨0xB, 0, 0x140, 64⟩] = [] := fun x => by
    have : ((List.range 1024).filter fun t => ([⟨0xB, 0, 0x140, 64⟩] : List DirEnt).any fun e =>
      decide (2 ≤ e.type) && decide (e.type ≤ 6) && dirTile e == t) = [] := by decide +kernel
    simp only [tilesOf, this, List.map_nil]
  have hx : SMap.getBytes (sect m [⟨0xB, 0, 0x140, 64⟩] 0xB) 0 64 = SMap.getBytes (sect bytes0 [⟨0xB, 0, 0x140, 64⟩] 0xB) 0 64 :=
    SMap.getBytes_congr _ _ _ _ _ fun i hi => by
      show SMap.get 0 (slice m 0x140 64) (0 + i) = SMap.get 0 (slice bytes0 0x140 64) (0 + i)
      rw [get_slice _ _ _ _ (by omega), get_slice _ _ _ _ (by omega), h.2 _ (by omega)]
  have hno : ∀ (x : SMap Byte) (t : Nat), t ≠ 0xB → sect x [⟨0xB, 0, 0x140, 64⟩] t = [] := fun x t ht => by
    have : (0xB == t) = false := by simpa using Ne.symm ht
    simp only [sect, List.find?_cons, this, List.find?_nil]
  have hnm : SMap.getNat m 8 4 = 1 := by rw [← hn, SMap.getNat, SMap.getNat, hb 8 4 (by omega)]
  have ht : ∀ x : SMap Byte, tileMapOf x [⟨0xB, 0, 0x140, 64⟩] = [] := fun _ => rfl
  unfold imageOf
  have hg : ∀ a n, a + n ≤ 0x180 → SMap.getNat m a n = SMap.getNat bytes0 a n := fun a n hn => by rw [SMap.getNat, hb a n hn, SMap.getNat]
  simp only [hn, hnm, if_pos (by omega : 1 ≤ 4096), hd, hdm, hs, hq, ht, hx, hno _ 7 (by omega), hno _ 8 (by omega), hno _ 9 (by omega),
    hno _ 10 (by omega), hg 0 4 (by omega), hg 4 2 (by omega), hg 6 2 (by omega), hg 0xC 4 (by omega),
    hg 0x10 8 (by omega), hg 0x18 1 (by omega), hb 0xC0 64 (by omega)]

theorem imageOk_raw (i : Image) (m : SMap Byte) (n : Nat)
    (h : blobBytes (slice m 0x100 (i.imageSize - 0x100)) (i.imageSize - 0x100) =
      blobBytes (slice i.raw 0x100 (i.imageSize - 0x100)) (i.imageSize - 0x100)) :
    imageOk { i with raw := m } n = imageOk i n := by
  unfold imageOk
  rw [h]
  rfl

theorem reads_ok {m : SMap Byte} (h : Reads m) : imageOk (imageOf m) 0x180 = true := by
  rw [imageOf_reads h, imageOk_raw, bytes0_ok]
  have hi : (imageOf bytes0).imageSize = 0x180 := by decide +kernel
  rw [hi]
  show SMap.getBytes (slice m 0x100 0x80) 0 0x80 = SMap.getBytes (slice bytes0 0x100 0x80) 0 0x80
  exact SMap.getBytes_congr _ _ _ _ _ fun i hi => by
    rw [get_slice _ _ _ _ (by omega), get_slice _ _ _ _ (by omega), h.2 _ (by omega)]

theorem reads_authOk {m : SMap Byte} (h : Reads m) : imageAuthOk (windowed up) (imageOf m) = true := by
  have hi : (imageOf bytes0).imageSize = 0x180 := by decide +kernel
  have hd : (imageOf bytes0).dir = [⟨0xB, 0, 0x140, 64⟩] := by decide +kernel
  have hb : ∀ x : SMap Byte, imageAuthBytes { imageOf bytes0 with raw := x } =
      SMap.getBytes (zeroed (zeroed x 0xC0 64) 0x140 64) 0 0x180 := fun x => by
    unfold imageAuthBytes
    simp only [hi, hd]
    rfl
  have h1 : imageAuthBytes (imageOf m) = imageAuthBytes (imageOf bytes0) := by
    rw [imageOf_reads h, hb, show imageOf bytes0 = { imageOf bytes0 with raw := bytes0 } from rfl, hb]
    exact SMap.getBytes_congr _ _ _ _ _ fun i hi => by simp only [get_zeroed, h.2 (0 + i) (by omega)]
  have h2 : (imageOf m).auth = (imageOf bytes0).auth := by rw [imageOf_reads h]
  have h3 := bytes0_authOk
  unfold imageAuthOk at h3 ⊢
  rw [h1, h2]
  exact h3

/-- IMAGE_LOAD of an image in order, and of an extent long enough that a granule can fail after another was written. -/
theorem witness_image_load :
    let e := entry 0x0200 1 [(0x140, 64, 0x180), (0x180, 64, 0x10000)]
    let s := windowed up
    let ct := sealedLines s 0 bytes0 6
    let v := winAll (taking s 0 (.imageLoad 0 e ct .pass) e) 0 (entParam e 0x20 64) (entParam e 0x28 64)
    let img := imageOf (winPlain v.1 (entParam e 0x20 64) (entParam e 0x28 64) ct)
    Offered s 0 e 0x0200 ∧ s.image = none ∧ extentOk (entParam e 0x20 64) (entParam e 0x28 64) = true ∧ 256 ≤ entParam e 0x28 64 ∧
      entParam e 0x28 64 ≤ 2 ^ 34 ∧ entParam e 0x30 64 % 0x10000 = 0 ∧
      nearRange true (entParam e 0x30 64) (roundUp (entParam e 0x28 64) 0x10000) = true ∧ v.2 = true ∧
      imageOk img (entParam e 0x28 64) = true ∧ imageAuthOk s img = true := by
  have he : entParam (entry 0x0200 1 [(0x140, 64, 0x180), (0x180, 64, 0x10000)]) 0x28 64 = 64 * 6 := by decide +kernel
  have hw : entParam (entry 0x0200 1 [(0x140, 64, 0x180), (0x180, 64, 0x10000)]) 0x20 64 = 0 := by decide +kernel
  have hk : sessionKey (winAll (taking (windowed up) 0 (.imageLoad 0 (entry 0x0200 1 [(0x140, 64, 0x180), (0x180, 64, 0x10000)])
      (sealedLines (windowed up) 0 bytes0 6) .pass) (entry 0x0200 1 [(0x140, 64, 0x180), (0x180, 64, 0x10000)])) 0 0 (64 * 6)).1 =
      sessionKey (windowed up) := by decide +kernel
  have hr : Reads (winPlain (windowed up) 0 (64 * 6) (sealedLines (windowed up) 0 bytes0 6)) :=
    ⟨winPlain_wf .., fun k hk => winPlain_get _ _ 6 _ k (by omega)⟩
  refine ⟨offered_of (by decide +kernel), rfl, by decide +kernel, by decide +kernel, by decide +kernel, by decide +kernel, by decide +kernel,
    by decide +kernel, ?_, ?_⟩
  · rw [he, hw, winPlain_key _ (windowed up) _ _ _ (by rw [keyWx, hk, keyWx])]
    exact reads_ok hr
  · rw [he, hw, winPlain_key _ (windowed up) _ _ _ (by rw [keyWx, hk, keyWx])]
    exact reads_authOk hr

theorem witness_image_load_tags :
    let e := entry 0x0200 1 [(0x140, 64, 0x400), (0x180, 64, 0x10000)]
    let s := windowed up
    Offered s 0 e 0x0200 ∧ s.image = none ∧ extentOk (entParam e 0x20 64) (entParam e 0x28 64) = true ∧ 256 ≤ entParam e 0x28 64 ∧
      entParam e 0x28 64 ≤ 2 ^ 34 ∧ entParam e 0x30 64 % 0x10000 = 0 ∧
      nearRange true (entParam e 0x30 64) (roundUp (entParam e 0x28 64) 0x10000) = true ∧
      (∀ tags ∈ [Tags.failCheck, .failWrite 0, .failWrite 1],
        (winAll (taking s 0 (.imageLoad 0 e [] tags) e) 0 (entParam e 0x20 64) (entParam e 0x28 64)).2 = true) ∧
      512 * (0 + 1) - entParam e 0x20 64 % 512 < entParam e 0x28 64 :=
  ⟨offered_of (by decide +kernel), rfl, by decide +kernel, by decide +kernel, by decide +kernel, by decide +kernel, by decide +kernel,
    by decide +kernel, by decide +kernel⟩

/-- The bytes of a configuration of module 0 alone. -/
def jobBytes0 : SMap Byte :=
  [(0, 0x4A), (1, 0x43), (2, 0x46), (3, 0x47), (0x20, 1), (0x24, 0x1F), (0x3C, 0x10), (0x58, 1), (0x100, 1)]

def jobS : State := windowed { up with image := some ⟨img1, 0x80000000, 0x140⟩ }
def jobE : BitVec 2048 := entry 0x0210 1 [(0x140, 32, 0x1100)]
def jobCt : SMap Byte := sealedLines jobS 0 jobBytes0 68
def jobV : State × Bool := winAll (taking jobS 0 (.jobBind 0 jobE jobCt .pass) jobE) 0 0 0x1100

theorem jobV_key : sessionKey jobV.1 = sessionKey jobS := by decide +kernel

theorem jobBytes0_above (k : Nat) (h : 64 * 68 ≤ k) : SMap.get 0 jobBytes0 k = 0 := by
  simp (disch := omega) only [jobBytes0, SMap.get, if_neg]

theorem jobV_plain : winPlain jobV.1 0 0x1100 jobCt = jobBytes0 := by
  rw [winPlain_key jobV.1 jobS 0 0x1100 jobCt (congrArg (fun k => kdf 512 k [] "ZT-B4480 WINDOW") jobV_key)]
  exact winPlain_sealedLines jobS 0 68 jobBytes0 (by decide +kernel) jobBytes0_above

theorem jobV_bindOk :
    bindOk (countReads jobV.1 0x80000000 0x140) (keptNow jobV.1 ⟨img1, 0x80000000, 0x140⟩) (jobCfgOf jobBytes0 0x1100) 0x1100 = true := by
  decide +kernel

theorem witness_job_bind :
    Offered jobS 0 jobE 0x0210 ∧ jobS.image = some ⟨img1, 0x80000000, 0x140⟩ ∧ jobS.bound = false ∧ entParam jobE 0x20 64 = 0 ∧
      entParam jobE 0x28 32 = 0x1100 ∧ extentOk 0 0x1100 = true ∧ jobS.mem.scrub = false ∧ jobS.pins.full = true ∧ jobV.2 = true ∧
      bindOk (countReads jobV.1 0x80000000 0x140) (keptNow jobV.1 ⟨img1, 0x80000000, 0x140⟩)
        (jobCfgOf (winPlain jobV.1 0 0x1100 jobCt) 0x1100) 0x1100 = true := by
  refine ⟨offered_of (by decide +kernel), rfl, by decide +kernel, by decide +kernel, by decide +kernel, by decide +kernel,
    by decide +kernel, by decide +kernel, by decide +kernel, ?_⟩
  rw [jobV_plain]
  exact jobV_bindOk

/-- STEP_RUN of gang 0, PREEMPT, RESUME, REST_ENTER, snapshots, and the two snapshot events. -/
theorem witness_steps_begin :
    (let s := ready (jobWith .idle)
     let e := entry 0x0220 1 [(0x140, 64, 1)]
     Offered s 0 e 0x0220 ∧ s.stg.st = .idle ∧ s.flt.rebind = false ∧ s.pre.saved = false ∧ entParam e 0x20 64 = s.stg.step.toNat ∧
       (BitVec.ofNat 64 (entParam e 0x28 64) : DWord) ≠ 0 ∧ BitVec.ofNat 64 (entParam e 0x28 64) &&& ~~~(gangMask s) = 0 ∧
       Offered s 0 (entry 0x0221 1 []) 0x0221 ∧ s.pre.pending = none ∧ Offered s 0 (entry 0x0410 0 []) 0x0410 ∧
       s.stg.st ≠ .localDone ∧ s.stg.st ≠ .committing) ∧
    (let s := ready { jobWith .preempted with pre := { saved := true } }
     Offered s 0 (entry 0x0222 1 []) 0x0222 ∧ s.pre.saved = true ∧ s.pre.saving = false ∧ s.pre.restoring = none ∧ s.flt.rebind = false) ∧
    (let e := entry 0x0500 0 [(0x100, 64, 10000)]
     Offered ready 0 e 0x0500 ∧ ready.flt.snapPend = none ∧ entParam e 0x28 8 = 0 ∧ ready.ns + 10000 ≤ entParam e 0x20 64 ∧
       entParam e 0x20 64 ≤ ready.ns + 1000000000) ∧
    (let e := entry 0x0500 0 [(0x140, 8, 1)]
     Offered ready 0 e 0x0500 ∧ entParam e 0x28 8 = 1 ∧ ready.bound = false) ∧
    (let s := busy 0x0500 { up with flt := { up.flt with snapPend := some (0, false, 0) } }
     s.flt.snapPend = some (0, false, 0) ∧ 0 ≤ s.ns ∧ (s.sq 0).cur = some (takenCmd 0x0500) ∧ entOpcode (takenCmd 0x0500).entry = 0x0500) ∧
    (let s := busy 0x0500 { up with flt := { up.flt with snapPend := some (0, true, 0) } }
     s.flt.snapPend = some (0, true, 0) ∧ s.bound = false) :=
  ⟨⟨offered_of (by decide +kernel), rfl, rfl, rfl, by decide +kernel, by decide +kernel, by decide +kernel, offered_of (by decide +kernel),
      rfl, offered_of (by decide +kernel), by decide +kernel, by decide +kernel⟩,
    ⟨offered_of (by decide +kernel), rfl, rfl, rfl, rfl⟩,
    ⟨offered_of (by decide +kernel), rfl, by decide +kernel, by decide +kernel, by decide +kernel⟩,
    ⟨offered_of (by decide +kernel), by decide +kernel, by decide +kernel⟩,
    ⟨rfl, Nat.zero_le _, rfl, by decide +kernel⟩, rfl, by decide +kernel⟩

/-- COPY_IN of one beat, COPY_OUT of one granule, WRITE_INLINE of 16 bytes, all near. -/
theorem witness_copies :
    let s := windowed (jobWith .idle)
    (s.mem.poison = [] ∧ s.mover (copyMover 0) = { done := 0 } ∧ s.fab.outstanding = [] ∧ s.fab.drain = []) ∧
    (let e := entry 0x0300 1 [(0x180, 64, 64)]
     (∀ i, i < 8 → Sound s (gaAt 0 0 + 64 * i)) ∧ Offered s 0 e 0x0300 ∧ copyOk s e = true ∧ entParam e 0x30 64 = 64 * [(7 : Beat)].length ∧ bitB e 0x1DA = false ∧
       (∀ i, i < 1 → (reach s (dieOfMover (copyMover 0)) (entParam e 0x28 64 + 64 * i) true true = .ok (gaAt 0 0 + 64 * i) ∧
           Near s (gaAt 0 0 + 64 * i)) ∧
         hwinOk s (entParam e 0x20 64 + 64 * i) false = true)) ∧
    (let e := entry 0x0301 1 [(0x180, 64, 512)]
     Offered s 0 e 0x0301 ∧ copyOk s e = true ∧ entParam e 0x30 64 = 512 ∧ entParam e 0x20 64 % 512 = 0 ∧ s.host.linkUp = true ∧
       hwinOk s (entParam e 0x20 64) true = true ∧
       (∀ i, i < 8 → reach s (dieOfMover (copyMover 0)) (entParam e 0x28 64 + 64 * i) false true = .ok (gaAt 0 0 + 64 * i) ∧
         Near s (gaAt 0 0 + 64 * i) ∧ Readable s (gaAt 0 0 + 64 * i))) ∧
    (let e := entry 0x0302 1 [(48, 16, 32), (0x100, 64, 16)]
     Offered s 0 e 0x0302 ∧ copyOk s e = true ∧ bitB e 0x15A = false ∧ entPlen e - 16 = 16 ∧
       (∀ i, i < 1 → reach s (dieOfMover (copyMover 0)) (entParam e 0x20 64 / 64 * 64 + 64 * i) true true = .ok (gaAt 0 0 + 64 * i) ∧
         Near s (gaAt 0 0 + 64 * i)) ∧
       gaOff (gaAt 0 0) + 256 < 0x4000000000 ∧ gaAt 0 0 % 64 = 0 ∧
       ∀ i, i < 256 → memOff s (gaOff (gaAt 0 0) + i) = at_ s (gaAt 0 0) + i) := by
  refine ⟨⟨rfl, by decide +kernel, rfl, rfl⟩, ⟨?_, offered_of (by decide +kernel), ?_⟩, ⟨offered_of (by decide +kernel), ?_⟩,
    ⟨offered_of (by decide +kernel), ?_⟩⟩
  · unfold Sound; decide +kernel
  · unfold Near; decide +kernel
  · unfold Near Readable; decide +kernel
  · unfold Near; decide +kernel

/-! ### WRITE_INLINE whose payload opens -/

/-- The entry without its tag: 16 bytes for address 16. -/
def plainE : BitVec 2048 := entry 0x0302 1 [(48, 16, 32), (0x100, 64, 16)]
def inlineKey : Beat := kdf 256 0 [] "ZT-B4480 INLINE"
def inlineTag : BitVec 128 :=
  Config.gcmTag inlineKey (leBytes 4 1 ++ leBytes 8 0) (leBytes 4 1 ++ leBytes 8 16 ++ leBytes 2 32) (List.replicate 16 0)
def taggedE : BitVec 2048 := setFld plainE 640 128 inlineTag.toNat
def inlineE : BitVec 2048 := setFld taggedE 0x1E0 32 (entryCrc taggedE).toNat

theorem inlineE_fld (lo len : Nat) (h : lo + len ≤ 480 ∨ (512 ≤ lo ∧ lo + len ≤ 640)) : fldN inlineE lo len = fldN plainE lo len := by
  rw [inlineE, fldN_setFld_other _ _ _ _ _ _ (by omega), taggedE, fldN_setFld_other _ _ _ _ _ _ (by omega)]

theorem inlineE_word (lo len : Nat) (h : lo + len ≤ 480) : fld inlineE lo len = fld plainE lo len :=
  BitVec.eq_of_toNat_eq (inlineE_fld lo len (.inl h))

theorem inlineE_bit (i : Nat) (h : i < 480) : bitB inlineE i = bitB plainE i := by
  rw [inlineE, bitB_setFld_other _ _ _ _ _ (by omega) (by omega), taggedE, bitB_setFld_other _ _ _ _ _ (by omega) (by omega)]

theorem inlineE_crc : entryCrc inlineE = fld inlineE 0x1E0 32 := entryCrc_sealed taggedE

theorem inlineE_op : entOpcode inlineE = 0x0302 := by rw [entOpcode, inlineE_fld _ _ (.inl (by omega))]; decide +kernel
theorem inlineE_plen : entPlen inlineE = 32 := by rw [entPlen, inlineE_fld _ _ (.inl (by omega))]; decide +kernel
theorem inlineE_session : entSession inlineE = 1 := by rw [entSession, inlineE_fld _ _ (.inl (by omega))]; decide +kernel
theorem inlineE_va : entParam inlineE 0x20 64 = 16 := by rw [entParam, inlineE_fld _ _ (.inl (by omega))]; decide +kernel

theorem inlineE_fieldsOk : fieldsOk inlineE = true := by
  rw [fieldsOk_congr inlineE plainE (fun lo len h => inlineE_fld lo len (.inl h)) (inlineE_bit 33 (by omega))]
  decide +kernel

theorem inlineE_offered : Offered (windowed (jobWith .idle)) 0 inlineE 0x0302 := by
  refine ⟨canon_of (by decide +kernel), by decide +kernel, ?_, inlineE_op, all_sqs (P := fun x => x.cur = none) rfl (by decide +kernel),
    by decide +kernel, by decide +kernel, ?_⟩
  · rw [entryOk, inlineE_crc, entPhase, inlineE_bit _ (by omega)]
    simp only [beq_self_eq_true, Bool.and_true]
    decide +kernel
  · unfold commonCheck
    rw [inlineE_op, inlineE_fieldsOk, inlineE_session]
    decide +kernel

theorem inlineE_tag : fldN inlineE 640 128 = inlineTag.toNat := by
  rw [inlineE, fldN_setFld_other _ _ _ _ _ _ (.inr (by omega)), taggedE, fldN_setFld _ _ _ _ (by omega), Nat.mod_eq_of_lt inlineTag.isLt]

theorem inlineE_ct : leBytes 16 (fldN inlineE 512 128) = List.replicate 16 0 := by
  rw [inlineE_fld _ _ (.inr (by omega))]
  decide +kernel

theorem inlineE_front : (entPayload inlineE).take 16 = List.replicate 16 0 := by
  rw [payload_front inlineE 16 16 inlineE_plen]
  exact inlineE_ct

theorem inlineE_back : (entPayload inlineE).drop 16 = leBytes 16 inlineTag.toNat := by
  rw [payload_back inlineE 16 16 inlineE_plen]
  exact congrArg (leBytes 16) inlineE_tag

theorem inlineS : (windowed (jobWith .idle)).trust.session = some (1, 0, 0, 0) := rfl

theorem inlineE_opens :
    inlinePlain (windowed (jobWith .idle)) inlineE = some (gcmXor inlineKey (leBytes 4 1 ++ leBytes 8 0) (List.replicate 16 0)) :=
  inlinePlain_of _ _ 0 1 0 0 16 inlineE_plen inlineE_va inlineS inlineE_front inlineE_back

theorem inlineE_copyOk : copyOk (windowed (jobWith .idle)) inlineE = true := by
  rw [copyOk_congr _ inlineE plainE fun lo len h => inlineE_fld lo len (.inl h)]
  decide +kernel

/-- Its payload opens, in the session's own key. -/
theorem witness_inline_opens :
    Offered (windowed (jobWith .idle)) 0 inlineE 0x0302 ∧ copyOk (windowed (jobWith .idle)) inlineE = true ∧ bitB inlineE 0x15A = false ∧
      ∃ bs, inlinePlain (windowed (jobWith .idle)) inlineE = some bs ∧ bs.length ≤ entPlen inlineE - 16 := by
  refine ⟨inlineE_offered, inlineE_copyOk, ?_, _, inlineE_opens, ?_⟩
  · rw [inlineE_bit _ (by omega)]; decide +kernel
  · rw [gcmXor_length, List.length_replicate, inlineE_plen]

/-- POWER_SET of a cap, FIRMWARE_STAGE and FIRMWARE_ACTIVATE, PORT_CONFIG of port 0 out and back. -/
def fw0 : FwPkg :=
  ⟨[]⟩

theorem witness_settings :
    (let e := entry 0x0400 0 [(0x100, 32, 200000), (0x128, 8, 1)]
     Offered ready 0 e 0x0400 ∧ entParam e 0x25 8 = 1 ∧ 1 ≤ entParam e 0x20 32 ∧ entParam e 0x20 32 ≤ 2000000 ∧
       180000 ≤ entParam e 0x20 32 ∧ ready.gov.effCap ≠ min (entParam e 0x20 32) ready.gov.bmcCap.toNat) ∧
    (let e := entry 0x0400 0 [(0x100, 32, 1650000), (0x120, 8, 3), (0x128, 8, 3)]
     Offered ready 0 e 0x0400 ∧ entParam e 0x25 8 = 3 ∧ entParam e 0x20 32 ≤ 2000000 ∧ 180000 ≤ entParam e 0x20 32 ∧
       entParam e 0x24 8 ≤ 7 ∧ ready.gov.effCap = min (entParam e 0x20 32) ready.gov.bmcCap.toNat) ∧
    (let e := entry 0x0400 0 [(0x100, 32, 1000), (0x128, 8, 1)]
     Offered ready 0 e 0x0400 ∧ entParam e 0x25 8 = 1 ∧ 1 ≤ entParam e 0x20 32 ∧ entParam e 0x20 32 < 180000) ∧
    (let e := entry 0x0400 0 [(0x120, 8, 7), (0x128, 8, 2)]
     Offered ready 0 e 0x0400 ∧ entParam e 0x25 8 = 2 ∧ entParam e 0x24 8 ≤ 7) ∧
    (let e := entry 0x0600 1 [(0x140, 32, 4096)]
     let s := windowed up
     Offered s 0 e 0x0600 ∧ s.trust.pldmHolds = false ∧ extentOk (entParam e 0x20 64) (entParam e 0x28 32) = true ∧
       4096 ≤ entParam e 0x28 32 ∧ entParam e 0x28 32 ≤ 2 ^ 26 ∧
       (winAll (taking s 0 (.firmwareStage 0 e fw0 true) e) 0 (entParam e 0x20 64) (entParam e 0x28 32)).2 = true) ∧
    (let s := ready { up with trust := { up.trust with staged := true } }
     Offered s 0 (entry 0x0601 1 []) 0x0601 ∧ s.bound = false ∧ s.image = none ∧ s.trust.staged = true) ∧
    (let s := ready (linkState { st := .up } .idle)
     Offered s 0 (entry 0x0700 0 []) 0x0700 ∧ entParam (entry 0x0700 0 []) 0x21 8 = 0 ∧ entParam (entry 0x0700 0 []) 0x20 8 < 18 ∧
       (s.port (entParam (entry 0x0700 0 []) 0x20 8)).st = .up ∧ Offered s 0 (entry 0x0700 0 [(0x108, 8, 1)]) 0x0700 ∧
       entParam (entry 0x0700 0 [(0x108, 8, 1)]) 0x21 8 = 1) :=
  ⟨⟨offered_of (by decide +kernel), by decide +kernel⟩, ⟨offered_of (by decide +kernel), by decide +kernel⟩,
    ⟨offered_of (by decide +kernel), by decide +kernel⟩, ⟨offered_of (by decide +kernel), by decide +kernel⟩,
    ⟨offered_of (by decide +kernel), rfl, by decide +kernel, by decide +kernel, by decide +kernel, by decide +kernel⟩,
    ⟨offered_of (by decide +kernel), by decide +kernel, rfl, rfl⟩,
    ⟨offered_of (by decide +kernel), by decide +kernel, by decide +kernel, by decide +kernel, offered_of (by decide +kernel),
      by decide +kernel⟩⟩

/-! ## Power, heat, lacing and time -/

/-- The state at `n` ns. -/
def atNs (n : Nat) (s : State) : State := { s with tm := { s.tm with now := BitVec.ofNat 96 (n * 2 ^ 32) } }

/-- A window; 10 ms of a cap too low; a board clock switch due at slot 0; heat at 105 °C. -/
theorem witness_power :
    (up.pins.mainOn = true ∧ up.rest.st = .awake ∧ up.gov.droopHold = none ∧ 1 ≤ up.gov.duty) ∧
    (let s := atNs 1000 { up with gov := { up.gov with droopHold := some 0, droopDuty := 6, duty := 1 } }
     s.pins.mainOn = true ∧ s.rest.st = .awake ∧ s.gov.droopHold = some 0 ∧ 0 + 1000 ≤ s.ns ∧ min s.gov.droopDuty (maxDuty s) = 1) ∧
    (let s := atNs 10000000 { up with gov := { up.gov with lowSince := some 0, frozenGains := true } }
     s.pins.mainOn = true ∧ s.gov.frozenGains = true ∧ s.gov.lowSince = some 0 ∧ 0 + 10000000 ≤ s.ns ∧ s.gov.unattainable = false ∧
       s.rest.st = .awake) ∧
    (up.pins.palert = false ∧
      (let s := { up with gov := { up.gov with alertDue := true }, pins := { up.pins with palert := true } }
       s.pins.mainOn = true ∧ s.gov.alertDue = true ∧ s.clk.slot = 0 ∧ s.rest.st = .awake ∧ s.pins.palert = true)) ∧
    (up.gov.droopHold = none ∧ { up with clk := { up.clk with stretch := 1 } }.clk.stretch = 1 ∧ up.gov.distrust = false ∧
      { up with gov := { up.gov with distrust := true } }.gov.distrust = true ∧
      { up with gov := { up.gov with sensorFault := true } }.gov.sensorFault = true ∧ SMap.wf 0 up.gov.margin = true ∧
      fldN up.gov.ctrl 0 3 = 0 ∧ up.pins.phase = .up ∧ State.reset.pins.phase ≠ .up) ∧
    (let s := { up with gov := { up.gov with phaseLost := [(2, 0)], maxOpAvail := 15 } }
     (1, 0) ∉ s.gov.phaseLost ∧ 0 < railPhases 1 ∧ (∀ e ∈ s.gov.phaseLost, e.1 ≠ 1) ∧ (2, 1) ∉ s.gov.phaseLost ∧ 1 < railPhases 2 ∧
       (2, 0) ∈ s.gov.phaseLost ∧ 3 < s.gov.maxOpAvail ∧ s.gov.maxOpAvail ≤ 15 ∧ railPhases 19 ≤ 0) := by decide +kernel

/-- A margin called for that no band supplies at OP 1. -/
theorem witness_trim : up.gov.op0Out = false ∧ opCeil 1 < Config.vbase 7 1 + roundUp ((List.replicate 8 100000).getD 7 0) 5 := by
  have h : opCeil 1 < roundUp ((List.replicate 8 100000).getD 7 0) 5 := by decide +kernel
  exact ⟨by decide +kernel, by omega⟩

/-- A module at round 5 whose port is a NODE peer's, parent 0 and child 1. -/
def laced (p : Nat) (m : Msg) (n : Nat) (b : LaceBlk := { k := 5 }) : State := { atNs n (round .running p m) with lace := b }

/-- A new round; an OFFER from the child; SET from the parent; the limits passed; a level due. -/
theorem witness_lacing :
    (let s := laced 1 (msg 0x23 5) 600000
     s.lace.k < s.ns / 100000) ∧
    (let m := msg 0x23 5
     let s := laced 1 m 500000
     Arrives s 1 0x23 15 m ∧ mArg m = s.lace.k % 2 ^ 32 ∧ 1 ∈ laceKids s ∧ ∀ o ∈ s.lace.offers, o.1 ≠ 1) ∧
    (let m := msg 0x24 5
     let s := laced 0 m 580000
     Arrives s 0 0x24 15 m ∧ mArg m = s.lace.k % 2 ^ 32 ∧ laceRoot s = false ∧ 0 = s.cm.parent ∧ s.lace.level = none ∧
       s.lace.missed = false ∧ s.ns ≤ s.lace.k * 100000 + 80000 ∧ ∃ c ∈ laceKids s, (s.port c).st ≠ .detoured) ∧
    (let m := msg 0x24 5
     let s := laced 0 m 580001
     Arrives s 0 0x24 15 m ∧ mArg m = s.lace.k % 2 ^ 32 ∧ laceRoot s = false ∧ 0 = s.cm.parent ∧ s.lace.level = none ∧
       s.lace.missed = false ∧ s.lace.k * 100000 + 80000 < s.ns) ∧
    (let s := laced 0 (msg 0x24 5) 580000
     laceRoot s = false ∧ s.lace.sent = false ∧ (s.port s.cm.parent).st ≠ .detoured ∧ s.lace.k * 100000 + 45000 ≤ s.ns ∧ s.lace.level = none ∧ s.lace.missed = false ∧
       s.lace.k * 100000 + 80000 ≤ s.ns) ∧
    (let s := atNs 50000 up
     laceRoot s = true ∧ s.lace.sent = false ∧ s.lace.k * 100000 + 50000 ≤ s.ns) ∧
    (let s := laced 0 (msg 0x24 5) 580000 { k := 5, due := some 9 }
     s.lace.due = some 9 ∧ s.pins.mainOn = true ∧ s.rest.st = .awake ∧ s.clk.slot = 0 ∧
       levelOp (min 9 (hardCeil s)) ≠ s.gov.op ∧ s.gov.droopHold = none ∧ s.gov.distrust = false) := by
  unfold Arrives Comes
  decide +kernel

/-- TIME on NODE port 0; the instant L_k + 50 µs with one NODE port and with none; a Sync, its Follow_Up and a Delay_Resp of domain 0. -/
def ann (src : BitVec 80) (pri : Nat) : PtpAnn :=
  { domain := 0, transport := 0, src := src, priority1 := pri, clockClass := 6, accuracy := 0x21, variance := 0, priority2 := 128
    grandmaster := 1, steps := 0 }
def ptp (t : TimeBlk) : State := { up with tm := { t with cfg := 1, announced := [ann 1 100] } }
def ptpMsg : PtpMsg :=
  { domain := 0, transport := 0, src := 1, seq := 3, origin := 100, correction := 0, arrival := 200, twoStep := true, logInterval := 0 }
/-- The announcers known once `a` has sent. -/
def known (s : State) (a : PtpAnn) : List PtpAnn := (s.tm.announced.filter fun o => o.src != a.src) ++ [a]

theorem witness_time :
    (let m := msg 0x25 0 [(128, 64, 30), (192, 64, 40)]
     let s := laced 0 m 550000
     let s := { s with ports := [(0, { s.port 0 with stamps := [(9, 50)], timeTx := 20 })] }
     Canon s ∧ Arrives s 0 0x25 15 m ∧ 0 ∈ nodePorts s ∧ s.bound = true ∧ s.lace.timeSent = false ∧
       s.lace.k * 100000 + 50000 ≤ s.ns ∧ nodePorts s = [0] ∧ portUp s 0 = true ∧ stampOf (s.port 0) 9 = some 50) ∧
    (let s := atNs 50000 (bound .running)
     s.bound = true ∧ s.lace.timeSent = false ∧ s.lace.k * 100000 + 50000 ≤ s.ns ∧ nodePorts s = []) ∧
    (ptpFrom (ptp {}) ptpMsg = true ∧ ptpFrom (ptp {}) { ptpMsg with src := 2 } = false ∧ (ptp {}).pins.mainOn = true ∧
      bitB (ptp {}).tm.cfg 0 = true) ∧
    (let s := ptp { waitFollow := true, sync := some (3, 0, 200) }
     ptpFrom s ptpMsg = true ∧ s.tm.waitFollow = true ∧ s.tm.sync = some (ptpMsg.seq, 0, 200)) ∧
    (let s := ptp { sync := some (2, 100, 200) }
     ptpTakes s (ann 1 100).domain (ann 1 100).transport = true ∧ s.tm.sync.isSome = true ∧ s.tm.st = .free ∧ (ptp {}).tm.sync = none ∧
       (bestAnn (known s (ann 1 100))).map (·.src) = (bestAnn s.tm.announced).map (·.src) ∧
       (bestAnn (known s (ann 2 50))).map (·.src) ≠ (bestAnn s.tm.announced).map (·.src) ∧ ptpTakes s 5 0 = false) ∧
    (let s := ptp { delayReq := some (3, 150), sync := some (2, 100, 200) }
     ptpFrom s ptpMsg = true ∧ s.tm.delayReq = some (ptpMsg.seq, 150) ∧ s.tm.sync = some (2, 100, 200) ∧
       s.tm.waitFollow = false ∧ s.tm.sync.isSome = true ∧ s.tm.st = .free) := by
  unfold Arrives Comes
  refine ⟨⟨canon_of (by decide +kernel), ?_⟩, ?_⟩ <;> decide +kernel

/-! ## Boot, trust, faults, power -/

theorem witness_boot_and_firmware :
    (let s := { up with trust := { up.trust with restartDue := true } }
     s.trust.restartDue = true ∧ s.pins.phase = .up) ∧
    (let s := atNs 500000000 { up with trust := { up.trust with restartAt := some 0 }, host := { up.host with ready := false } }
     s.trust.restartAt = some 0 ∧ 0 + 500000000 ≤ s.ns ∧ s.host.ready = false ∧ s.pins.phase = .up) ∧
    (up.pins.phase = .up ∧ stageHolds up = false) ∧
    (let s := atNs 1000000000 { up with trust := { up.trust with boardDirty := true } }
     s.trust.boardDirty = true ∧ s.trust.boardAt + 1000000000 ≤ s.ns ∧ s.trust.flash.brVer ≠ 0xFFFFFFFF ∧
       s.trust.flash.copyA.ver ≤ s.trust.flash.brVer.toNat ∧ s.trust.flash.copyB.ver ≤ s.trust.flash.brVer.toNat) := by decide +kernel

/-! ### A flash the factory filled -/

def pkgFront : List Byte :=
  leBytes 4 0x57465A54 ++ leBytes 4 1 ++ leBytes 4 0 ++ leBytes 4 3 ++ leBytes 8 2884 ++ List.replicate 40 0
/-- A package the vendor signed, its components empty. -/
def signedPkg : FwPkg :=
  ⟨pkgFront ++ fixLen 2820 (Config.xmssMade Config.vendorKey (beatBytes (Config.shake256 pkgFront)))⟩
def signedFactory : Factory :=
  { idPubkey := Config.xmssPub identityKey
    sig := fixLen 2820 (Config.xmssMade Config.vendorKey (beatBytes (Config.xmssPub identityKey) ++ [] ++ [])) }
def filled : Flash :=
  { bank0 := some signedPkg, vendorKey := Config.vendorKey, factory := signedFactory, rpfKey := kRpf
    copyA := { tag := fieldTag {} }, copyB := { ver := 5 } }
/-- The rails are up over flash `f`. -/
def railsUp (f : Flash) : State := { up with pins := { up.pins with phase := .rails }, trust := { up.trust with flash := f } }

theorem fixLen_length (n : Nat) (bs : List Byte) : (fixLen n bs).length = n := by
  rw [fixLen, List.length_take, List.length_append, List.length_replicate]
  omega

theorem pkgFront_length : pkgFront.length = 64 := by decide +kernel
theorem signedPkg_length : signedPkg.bytes.length = 2884 := by
  rw [signedPkg, List.length_append, fixLen_length, pkgFront_length]
theorem signedPkg_front (i n : Nat) (h : i + n ≤ 64) : (signedPkg.bytes.drop i).take n = (pkgFront.drop i).take n := by
  rw [signedPkg, List.drop_append_of_le_length (by rw [pkgFront_length]; omega), List.take_append_of_le_length]
  simp only [List.length_drop, pkgFront_length]
  omega

theorem vendorKey_ok (f : Flash) (h : f.vendorKey = Config.vendorKey) (msg sig : List Byte)
    (hs : sig = fixLen 2820 (Config.xmssMade Config.vendorKey msg)) : vendorOk f msg sig = true := by
  unfold vendorOk xmssOk romKeyDigest
  rw [h, hs, beq_self_eq_true, beq_self_eq_true]
  rfl

theorem signedPkg_ok (s : State) (hk : s.trust.flash.vendorKey = Config.vendorKey) (hf : s.trust.flash.fwFloor = 0) :
    fwOk s signedPkg = true := by
  have hl := signedPkg_length
  have hs : pkgSigned signedPkg = pkgFront := by
    rw [pkgSigned, hl]
    exact List.take_left' pkgFront_length
  have hg : pkgSig signedPkg = fixLen 2820 (Config.xmssMade Config.vendorKey (beatBytes (Config.shake256 pkgFront))) := by
    rw [pkgSig, hl]
    exact List.drop_left' pkgFront_length
  have hn : ∀ i n, i + n ≤ 64 → pkgNum signedPkg i n = leNat ((pkgFront.drop i).take n) := fun i n h => by
    rw [pkgNum, signedPkg_front i n h]
  have h1 : pkgHead signedPkg = true := by
    rw [pkgHead, hl, hn 0 4 (by omega), hn 0xC 4 (by omega), hn 0x10 8 (by omega), signedPkg_front 0x18 40 (by omega)]
    decide +kernel
  rw [fwOk, h1, hs, hg, vendorKey_ok _ hk _ _ rfl, hf]
  rfl

/-- Boots that start, of which firmware and board record are in order; one without firmware, one whose copies are too new, one whose
secret fails. -/
theorem witness_boot :
    (let s := railsUp filled
     s.pins.phase = .rails ∧ s.trust.flash.rpfKey = kRpf ∧ fwOk s signedPkg = true ∧ s.trust.flash.active1 = false ∧
       s.trust.flash.bank0 = some signedPkg ∧
       vendorOk filled (beatBytes filled.factory.idPubkey ++ filled.factory.idCert ++ filled.factory.rest) filled.factory.sig = true ∧
       filled.factory.idPubkey = Config.xmssPub identityKey ∧ tagOk filled.copyA = true ∧ filled.copyA.ver = filled.brVer.toNat ∧
       filled.copyB.ver ≠ filled.brVer.toNat ∧ filled.copyB.ver + 1 ≠ filled.brVer.toNat ∧ s.trust.ak = none ∧
       filled.idIdx.toNat < 65536 ∧ { filled with idIdx := 0x10000 }.idIdx.toNat = 65536 ∧
       { s with trust := { s.trust with ak := some (0, 0) } }.trust.ak.isSome = true) ∧
    (let s := railsUp { filled with copyA := { ver := 7 } }
     s.trust.flash.rpfKey = kRpf ∧ fwOk s signedPkg = true ∧ ∀ c, c = s.trust.flash.copyA ∨ c = s.trust.flash.copyB →
       c.ver ≠ s.trust.flash.brVer.toNat ∧ c.ver + 1 ≠ s.trust.flash.brVer.toNat) ∧
    (let s := railsUp { filled with bank0 := none }
     s.trust.flash.rpfKey = kRpf ∧ s.trust.flash.bank0 = none ∧ s.trust.flash.bank1 = none) ∧
    (⟨false, true, true, []⟩ : BootIn).pufOk = false ∧ (⟨true, true, true, []⟩ : BootIn).pufOk = true := by
  refine ⟨⟨rfl, rfl, signedPkg_ok _ rfl rfl, rfl, rfl, vendorKey_ok _ rfl _ _ rfl, rfl, ?_, by decide, by decide, by decide, rfl,
    by decide, by decide, rfl⟩, ⟨rfl, signedPkg_ok _ rfl rfl, ?_⟩, ⟨rfl, rfl, rfl⟩, rfl, rfl⟩
  · rw [tagOk, show filled.copyA.tag = fieldTag {} from rfl, show fieldTag filled.copyA = fieldTag {} from rfl, beq_self_eq_true]
  · rintro c (rfl | rfl) <;> decide

theorem witness_spdm :
    let s := { up with trust := { up.trust with
      algs := true, ak := some (0, 0), kem := some 0, flash := { up.trust.flash with psk := [(2, some 7)] }
      spdm := [⟨1, 2, false⟩, ⟨2, 2, true⟩] } }
    s.pins.phase = .up ∧ s.trust.algs = true ∧ (SMap.get none s.trust.flash.psk 2).isSome = true ∧ spdmOf s 1 false = some ⟨1, 2, false⟩ ∧
      (spdmOf s 2 true).isSome = true ∧ s.trust.ak = some (0, 0) ∧ s.trust.idExhausted = false ∧ s.trust.kem = some 0 ∧
      SMap.get none s.trust.flash.psk 0 = none ∧ spdmOf s 3 true = none ∧ State.reset.pins.phase ≠ .up ∧
      { s with trust := { s.trust with ak := some (0, 1024) } }.trust.ak = some (0, 1024) := by decide +kernel

/-- A PSK for an empty slot, sealed under what the module decapsulates, in an area that authenticates. -/
theorem witness_psk_provision :
    let ct : List Byte := List.replicate 1568 0
    let key := (Config.kemDecap 0 ct).setWidth 512
    let psk : List Byte := List.replicate 64 0
    let s := { railsUp filled with pins := up.pins, trust := { (railsUp filled).trust with kem := some 0 } }
    s.pins.phase = .up ∧ s.trust.kem = some 0 ∧ s.trust.flash.rpfKey = kRpf ∧ SMap.get none s.trust.flash.psk 2 = none ∧
      (∃ bs, gcmOpen key (leBytes 12 0) ct psk (leBytes 16 (Config.gcmTag key (leBytes 12 0) ct psk).toNat) = some bs ∧ bs.length = 64) ∧
      gcmOpen key (leBytes 12 0) ct psk [] = none :=
  ⟨rfl, rfl, rfl, rfl, ⟨_, gcmOpen_tag .., by rw [gcmXor_length, List.length_replicate]⟩,
    gcmOpen_bad _ _ _ _ _ fun h => by have := congrArg List.length h; rw [leBytes_length] at this; exact absurd this (by decide)⟩

theorem witness_faults_and_darning :
    (Canon (jobWith .running) ∧ up.pins.mainOn = true ∧ up.pins.phase ≠ .fatalHold ∧ up.flt.coreSpare = false ∧
      { up with flt := { up.flt with coreSpare := true } }.flt.coreSpare = true ∧ rowFree (jobWith .running) 5 = true ∧
      servedBy up 0 = some 0 ∧ 0 ∉ up.flt.chanFailing) ∧
    (let s := { up with trust := { up.trust with board := { up.trust.board with darned := [(0, 7)] } } }
     rowFree s 5 = false ∧ 5 ∉ s.flt.unavail) ∧
    (let s := { up with flt := { up.flt with chanCe := [(0, 4097)] } }
     servedBy s 0 = some 0 ∧ 0 ∉ s.flt.chanFailing ∧ 4096 < SMap.get 0 s.flt.chanCe 0 ∧ SMap.get 0 s.flt.chanCe 1 ≤ 4096) ∧
    (let s := { up with mem := { up.mem with poison := (List.range 65).map fun i => (2048 * i, true) } }
     servedBy s 0 = some 0 ∧ badPages up 0 ≤ 64 ∧ 64 < badPages s 0) ∧
    (let s := { up with tiles := [(5, { failing := true })] }
     darnDue s 5 = true ∧ rowSpare s 5 = true) ∧
    (let s := { up with clk := { up.clk with cycle := 54304 }, flt := { up.flt with darning := some ⟨5, 54304, true, true⟩ } }
     s.flt.darning = some ⟨5, 54304, true, true⟩ ∧ 54304 ≤ s.clk.cycle) ∧
    (let s := { up with flt := { up.flt with chanFailing := [3] } }
     restful s = true ∧ nextChannel s = some (3, 3)) :=
  ⟨⟨canon_of (by decide +kernel), by decide +kernel⟩, by decide +kernel, by decide +kernel, by decide +kernel, by decide +kernel⟩

theorem witness_rest_and_scrub :
    restDue { up with rest := { st := .pending } } = true ∧ Canon { up with rest := { st := .pending } } ∧
    (let s := atNs 1000000 { up with rest := { st := .waking, wakeAt := some 0, forced := true } }
     s.rest.forced = true ∧ s.rest.st = .waking ∧ s.rest.wakeAt = some 0 ∧ 0 + 1000000 ≤ s.ns) ∧
    { up with mem := { up.mem with scrub := true } }.mem.scrub = true ∧
    (let s := { jobWith .running with rest := { st := .pending } }
     restDue s = true ∧ Canon s ∧ (s.tile 5).gang = some 0 ∧ (s.gang 0).seamAt = none ∧ s.stg.st = .running) :=
  ⟨by decide +kernel, canon_of (by decide +kernel), by decide +kernel, rfl, by decide +kernel, canon_of (by decide +kernel),
    by decide +kernel⟩

/-- The pins in each phase the rows of power ask for, a thermal trip in service among them. -/
theorem witness_pins :
    (∀ ph : Phase, ph ∈ [Phase.unpowered, .standby, .rails, .up] → { up with pins := { up.pins with phase := ph } }.pins.phase = ph) ∧
    (up.pins.phase ≠ .unpowered ∧ up.pins.mainOn = true ∧ up.pins.modReset = false ∧ up.pins.seqFails = 0 ∧ up.pins.tb = some 0 ∧
      up.flt.ring.length < 65536 ∧ up.pins.vinWarnAt = none ∧ up.ns < 0 + 1000000000 ∧ up.ns < up.pins.auxDue) ∧
    (let s := atNs 10000000 State.reset
     s.pins.phase = .standby ∧ s.pins.modReset = false ∧ s.pins.auxDue ≤ s.ns ∧ s.pins.seqFails = 0 ∧ s.pins.tb = none) ∧
    (let s := { up with pins := { up.pins with modReset := true, phase := .inReset, fatalCause := 2, fatalAt := 0 } }
     s.pins.modReset = true ∧ s.pins.phase = .inReset ∧ flushing s = true ∧
       flushing { s with pins := { s.pins with fatalCause := 0 } } = false) ∧
    ({ up with pins := { up.pins with modReset := true } }.pins.modReset = true ∧
      { up with pins := { up.pins with full := false } }.pins.full = false) ∧
    (let s := atNs 1000000000 { up with pins := { up.pins with phase := .seqRetry, seqFails := 1, seqAt := 0, tb := none } }
     s.pins.phase = .seqRetry ∧ s.pins.seqAt + 1000000000 ≤ s.ns ∧ s.pins.seqFails = 1 ∧ s.pins.tb = none) := by decide +kernel

/-! ## The block as a whole -/

/-- A state in good order, from which a step is taken. -/
theorem witness_good_order : GoodOrder up ∧ step up = .next (tick up) ∧ RingOk State.reset :=
  ⟨⟨canon_of (by decide +kernel), by decide +kernel, by rintro l ⟨⟩⟩, rfl, by decide +kernel, by rintro l ⟨⟩⟩

theorem witness_round_trip : encodeThread (.addi 5 1 4 5 0xFFFFFFFF) = some (5, 1, 0x000FFFFFFFF05410) := by decide

theorem witness_rounding : (0 : Rat) ≤ 1 := by decide

/-- A gang at a seam mark with an entry its tiles raise; an entry at a commit. -/
theorem witness_ladder :
    (let s := { inSeam with clk := { cycle := 1 } }
     SMap.wf ({} : LadderEnt) s.pc.ladder = true ∧ Canon s ∧ (s.gang 0).seamAt = some 0 ∧ s.clk.cycle = 0 + 1) ∧
    (let s := { atMark with pc := { atMark.pc with ladder := [(3, { valid := true, base := 1, rung := 2, relax := 1 })] } }
     SMap.wf ({} : LadderEnt) s.pc.ladder = true ∧ s.refMode = false ∧ (s.ladder 3).valid = true ∧ (s.ladder 3).jobwide = false ∧
       (s.ladder 3).clean < 255) :=
  ⟨⟨by decide +kernel, canon_of (by decide +kernel), by decide +kernel, by decide +kernel⟩, by decide +kernel⟩

theorem witness_rebind :
    let s := ready { up with flt := { up.flt with rebind := true } }
    s.flt.rebind = true ∧ Offered s 0 (entry 0x0220 1 []) 0x0220 ∧ Offered s 0 (entry 0x0222 1 []) 0x0222 :=
  ⟨rfl, offered_of (by decide +kernel), offered_of (by decide +kernel)⟩

/-- R57, R58: the mangle generator's test vectors, and R100's example. -/
theorem test_mangle :
    mangle 0 0 0 0 = 0x19EBEC32 ∧ mangle 0x0000001100000022 5 3 0x00100000100 = 0x32ED8DE1 ∧ mangle 0 0 0xFFFFF 0 = 0x6472C0A2 := by
  decide +kernel

/-- R54's example: 1.3 on the KE4 grid under 12 random bits 814 rounds to 1. -/
theorem test_round_stochastic : roundMag (gridOf 2) (.sr 12 814) (13 / 10) = 1 := by decide +kernel

/-- *Worked encoding*: eight values to KE4, element 3 patched, scale 2^-3 × 1.875, one underflow. -/
theorem test_encode :
    let v : List Rat := [3 / 10, 11 / 10, 3 / 4, 40, 1 / 20, 1 / 2, 7 / 5, 0]
    let els := v.zipIdx.map fun (m, i) => (⟨i, i, i, .fin (i == 1 || i == 5) m⟩ : LiveEl)
    let r := encodeBlock els 0x102 ⟨0, 0, 0⟩ 15 {}
    ((List.range 8).map fun i => (r.codes.find? (·.1 == i)).map (·.2)) = [3, 14, 5, 8, 0, 12, 7, 0].map some ∧
      fldN r.scale 8 8 = 0x7C ∧ fldN r.scale 5 3 = 7 ∧ fldN r.scale 2 3 = 1 ∧ r.kfs.unf = 1 ∧ r.room = 14 := by decide +kernel

/-- R129, R131 with R310's example: 1 + 2^-24 ties to the even neighbour, 2^-23 is kept. -/
theorem test_sum_s32 :
    toPlain 10 (roundIeee 10 (addX (.fin false 1) (.fin false (pow2 (-24))))) = 0x3F800000 ∧
      toPlain 10 (roundIeee 10 (addX (.fin false (pow2 (-23))) (.fin false 1))) = 0x3F800001 := by decide +kernel

/-- *A masked softmax*: a row with nothing kept is zeros and empty; a row of one element gives 1. -/
theorem test_softmax :
    softmaxRow [none, none] = ([Machine.Num.zero, Machine.Num.zero], true) ∧ softmaxRow [some (.fin false 5), none] = ([.fin false 1, Machine.Num.zero], false) := by decide +kernel

/-- R249's example: the shadow view reads P1 at PARITY 0 and P0 at PARITY 1. -/
theorem test_translate :
    let r : Region := { kind := 2, wr := true, self0 := false, self1 := false, reservedOk := true, size := 0x10000, va0 := 0x44A1230000
                        va1 := 0x8044A1230000, gpa0 := 0x8000440024000000, gpa1 := 0x8000440028000000 }
    let s := jobWith .running
    let s := buildTables s 0 [r]
    (∀ die, die < 2 → translate s die 0x8044A1230000 false false = .ok 0x8000440028000000) ∧
      translate { s with stg := { s.stg with parity := true } } 0 0x8044A1230000 false false = .ok 0x8000440024000000 ∧
      translate s 0 0x44A1230000 true false = .error 3 ∧ translate s 1 0x8044A1240000 false false = .error 1 := by decide +kernel

end Sys2Proof.Tests
end

section
/-! SUPPORT. Commands taken from the queue, what a completion sends toward the host, the run of a COPY_OUT, and a window page that
lies over the window table itself: the counterexample to O35. -/

namespace Sys2Proof.Machine
open Sys2Proof.Claims

section

/-! ## A command offered to a free module -/

variable {s : State} {q : Nat}

theorem retryWaiting_of_free (h : ∀ i, (s.sq i).cur = none) : retryWaiting s = s := by
  unfold retryWaiting
  induction List.range 16 with
  | nil => rfl
  | cons i l ih => simpa only [List.foldl_cons, h i] using ih

/-- An awake module has no wake to start (R400). -/
theorem wakeFor_awake (e : BitVec 2048) (h : s.rest.st = .awake) : wakeFor s e = s := by
  simp [wakeFor, wakeUp, h]

theorem taking_rest (c : Instr) (e : BitVec 2048) : (taking s q c e).rest = s.rest := by
  unfold taking takeEntry reserve turnOver snoopEntry
  dsimp only
  split <;> split <;> simp

/-- An offered entry of the row's own opcode is taken and served (R343). -/
theorem command_offered {e : BitVec 2048} {op : Nat} (c : Instr) {row : Bool} (h : Offered s q e op) (hrow : row = true) :
    command s q c e row = serveCmd (taking s q c e) q := by
  obtain ⟨-, hread, hok, -, hfree, hawake, -, -⟩ := h
  have hw : wakeFor (taking s q c e) e = taking s q c e := wakeFor_awake e (by rw [taking_rest, hawake])
  simp only [command, retryWaiting_of_free hfree, hread, hok, hrow, Bool.not_true, Bool.false_eq_true, if_false, if_true,
    Bool.true_or, takeServe]
  exact congrArg (serveCmd · q) hw

theorem exec_copyOut (q : Nat) (e : BitVec 2048) (s : State) :
    exec (.copyOut q e) s = .next (command s q (.copyOut q e) e (isOp e 0x0301)) := rfl

/-- A taken COPY_OUT that no check refuses starts its copy (R363, R371). -/
theorem serveCmd_copyOut {k : Taken} {i : Nat} {e : BitVec 2048} (hk : (s.sq q).cur = some k) (hc : k.cmd = .copyOut i e)
    (hrest : inRest s = false) (hheld : cmdHeld s q = false)
    (hcheck : commonCheck (s.modSq q fun x => { x with cur := some { k with waiting := false } }) k.entry = 0)
    (hok : copyOk (s.modSq q fun x => { x with cur := some { k with waiting := false } }) k.entry = true) :
    serveCmd s q = copyStart (s.modSq q fun x => { x with cur := some { k with waiting := false } }) q k.entry := by
  obtain ⟨cmd⟩ := k
  subst hc
  dsimp only at hcheck hok
  simp [serveCmd, hk, hrest, hheld, hcheck, serveCopyOut, hok]

/-- The copy of a COPY_OUT at the head of its mover: its run, and its end once the run is over (R372). -/
theorem copyGo_copyOut {k : Taken} {i : Nat} {e : BitVec 2048} (hk : (s.sq q).cur = some k) (hc : k.cmd = .copyOut i e)
    (hwait : k.waiting = false) (hhead : copyHead s q = true) (hheld : (s.mover (copyMover q)).held = none)
    (hrest : s.rest.st = .awake) :
    copyGo s q =
      let r := copyOutRun (entParam e 0x30 64 / 32 + 2) s q (entParam e 0x20 64) (entParam e 0x28 64) (entParam e 0x30 64)
      if r.2 then copyEnd r.1 q (if ((r.1.sq q).cur.map (·.poison)).getD false then 0x0105 else 0) else r.1 := by
  simp [copyGo, hk, hwait, hhead, hheld, hrest, hc]

/-! ## What a completion has sent before it -/

theorem dramRead_host (off : Nat) : (dramRead s off).2.2.host = s.host := by
  unfold dramRead
  dsimp only
  repeat' split
  all_goals rfl

theorem readRest_host (off : Nat) (own : Bool) : (readRest s off own).host = s.host := by
  have one : ∀ (u : State) a, (readForTag u a).host = u.host := fun u a => by
    unfold readForTag
    dsimp only
    split <;> exact dramRead_host (s := u) a
  unfold readRest
  split
  · exact foldl_keep (P := fun u : State => u.host = s.host) _ _ (fun u a h => (one u a).trans h) s rfl
  · rfl

theorem tagForm_host (off : Nat) : (tagForm s off).host = s.host := by
  unfold tagForm
  split <;> rfl

theorem beatEvent_host (off : Nat) : (beatEvent s off).host = s.host := rfl

theorem dramWrite_host (off : Nat) (b : Beat) : (dramWrite s off b).host = s.host := by
  simp only [dramWrite, tagForm_host, State.modMem_fields, beatEvent_host, readRest_host]

theorem dramWriteBytes_host (off : Nat) (bs : List Byte) : (dramWriteBytes s off bs).host = s.host := by
  simp only [dramWriteBytes, tagForm_host, State.modMem_fields, beatEvent_host, readRest_host]

/-- What `u` has sent toward the host begins with what `s` had sent. -/
def SentOn (s u : State) : Prop := s.host.out <+: u.host.out

theorem SentOn.trans {s u v : State} (h : SentOn s u) (k : SentOn u v) : SentOn s v := List.IsPrefix.trans h k

theorem SentOn.of_host {s u : State} (h : u.host.out = s.host.out) : SentOn s u := by
  rw [SentOn, h]

theorem hostSend_sentOn (o : HostOut) (x : Bool) : SentOn s (hostSend s o x) := by
  unfold hostSend
  split
  · exact List.prefix_append ..
  · exact List.prefix_rfl

theorem msixSend_sentOn (v : Nat) : SentOn s (msixSend s v) := by
  unfold msixSend
  dsimp only
  split
  · exact List.prefix_rfl
  · split
    · exact List.prefix_append ..
    · exact List.prefix_rfl

theorem xareaPut_sentOn (off : Nat) (bs : List Byte) : SentOn s (xareaPut s off bs) := by
  unfold xareaPut
  refine foldl_keep (P := SentOn s) _ _ (fun u i h => h.trans ?_) s List.prefix_rfl
  dsimp only
  refine SentOn.trans (u := u.modHost fun h => { h with out := h.out ++ [.bisnpInv ((off + 64 * i) / 64 * 64)] })
    (List.prefix_append ..) (.of_host ?_)
  split
  · rw [dramWrite_host]
  · rw [dramWriteBytes_host]

theorem postCq_sentOn (cq cid st sq sqhd i0 i1 gen : Nat) (rv : Bool) : SentOn s (postCq s cq cid st sq sqhd i0 i1 gen rv) := by
  unfold postCq
  extract_lets c size e u v wrap
  have hu : SentOn s u := by
    dsimp only [u]
    split
    · exact xareaPut_sentOn ..
    · exact List.prefix_rfl
  exact hu.trans (hostSend_sentOn (s := u) _ _)

/-- A completion without a result adds to what has been sent (R348, R349). -/
theorem complete_sentOn (st i0 i1 : Nat) : SentOn s (complete s q st i0 i1) := by
  have hf : SentOn s (finish s q st i0 i1) := by
    unfold finish
    split
    · exact List.prefix_rfl
    · dsimp only
      split
      · exact postCq_sentOn ..
      · exact postCq_sentOn ..
  unfold complete
  split
  · exact List.prefix_rfl
  · refine hf.trans ?_
    unfold cqNotify
    split
    · exact msixSend_sentOn _
    · exact List.prefix_rfl

/-! ## The run of a COPY_OUT -/

/-- `k` lines in a row read at once into the granule being gathered, none where one of them waits, is held or begins another
granule. -/
def gatherRun (q woff va len : Nat) : Nat → State → Option State
  | 0, s => some s
  | k + 1, s =>
    let m := copyMover q
    let part := (s.mover m).part
    let n := copyBytes s q + 64 * part.length
    if n < len && (part.isEmpty || (woff + n) % 512 != 0) then
      match copyFetch s q (n / 64) (va + n) with
      | (_, none) => none
      | (s, some (x, p)) =>
        let s := s.modMover m fun v => { v with part := v.part ++ [x] }
        gatherRun q woff va len k
          (if p then s.modSq q fun x => { x with cur := x.cur.map fun k => { k with poison := true } } else s)
    else none

theorem copyOutRun_gather (woff va len k fuel : Nat) {u : State} (h : gatherRun q woff va len k s = some u) :
    copyOutRun (k + fuel) s q woff va len = copyOutRun fuel u q woff va len := by
  induction k generalizing s with
  | zero =>
    cases h
    rw [Nat.zero_add]
  | succ k ih =>
    rw [Nat.succ_add, copyOutRun]
    simp only [gatherRun] at h
    split at h
    · next hn =>
      rw [if_pos hn]
      split at h
      · cases h
      · next hf =>
        rw [hf]
        exact ih h
    · cases h

/-- A gathered granule whose window is served is written (R427). -/
theorem copyOutRun_flush (woff va len fuel : Nat) {a : Beat} {part : List Beat} (hp : (s.mover (copyMover q)).part = a :: part)
    (hn : copyBytes s q + 64 * (part.length + 1) = len) (hw : hwinOk s (woff + copyBytes s q) true = true) :
    copyOutRun (fuel + 1) s q woff va len =
      copyOutRun fuel (addBytes ((flushGranule (hwtFill s (woff + copyBytes s q)) (woff + copyBytes s q) (a :: part)).modMover
        (copyMover q) fun v => { v with part := [] }) q (64 * (part.length + 1))) q woff va len := by
  simp [copyOutRun, hp, hn, winReady, hw]

end

/-! ## A window page that lies over the window table

Two blocks that differ in one word of host memory: the window table's entry of the page that holds the granules' tags. COPY_OUT
writes its first line over that word, so it leads both to one next state, while the statement has the tag go to two addresses. -/

section
set_option maxRecDepth 100000

/-- COPY_OUT of 512 bytes from virtual address 0 to window offset 0x1E0000, in session 1. -/
def copyOutEntry : BitVec 2048 :=
  let e := pack 2048 [(0, 16, 0x0301), (32, 1, 1), (64, 32, 1), (0x100, 64, 0x1E0000), (0x180, 64, 512)]
  setFld e 0x1E0 32 (entryCrc e).toNat

/-- The host memory with `w` at 0x3E0000, entry 0x7C000 of a window table at address 0: that of the page of the tags (R351, R427). -/
def withTagsEntry (s : State) (w : DWord) : State := { s with host := { s.host with hostMem := [(0x7C000, some w)] } }

/-- A bound module with one entry offered, its session open, and the first GiB of virtual addresses mapped to its near tier.
Page 0 of the window stands at host address 0x200000, so that window offset 0x1E0000 is host address 0x3E0000. -/
def overTable (w : DWord) : State := withTagsEntry { State.reset with
  stg := { st := .idle }
  mem := { reserve := [(0x1FC0000000 / 8, 0x1FC0010000001), (0x1FC0010000 / 8, 7)] }
  host := { ready := true, linkUp := true, hwtEn := true, hwtCache := [(0, 0x200003)]
            sqs := [(0, { en := true, tail := 1 })], cqs := [(0, { en := true, phase := true })] }
  trust := { session := some (1, 0, 0, 0) } } w

/-- The page of the tags at host address 0 or at 0x200000. -/
def tagsEntry (b : Bool) : DWord := if b then 0x200003 else 3

theorem overTable_canon (b : Bool) : Canon (overTable (tagsEntry b)) :=
  ⟨⟨rfl, by decide +kernel +revert, rfl, rfl⟩, rfl, rfl, rfl, rfl, by decide +kernel +revert, by decide +kernel +revert,
    fun _ => ⟨rfl, rfl⟩⟩

theorem overTable_free (b : Bool) (i : Nat) : ((overTable (tagsEntry b)).sq i).cur = none := by
  simp only [overTable, withTagsEntry, State.sq, SMap.get]
  split <;> rfl

theorem overTable_offered (b : Bool) : Offered (overTable (tagsEntry b)) 0 copyOutEntry 0x0301 :=
  ⟨overTable_canon b, by decide +kernel +revert, by decide +kernel +revert, by decide +kernel, overTable_free b, rfl,
    by decide +kernel +revert, by decide +kernel +revert⟩

/-- The tags' page decides where the tag of the granule goes. -/
theorem wtagAddr_overTable : wtagAddr (overTable (tagsEntry true)) 0xF00 ≠ wtagAddr (overTable (tagsEntry false)) 0xF00 := by
  decide +kernel

/-- The entry taken as the copy's command. -/
def copyTaken : Taken :=
  { cmd := .copyOut 0 copyOutEntry, entry := copyOutEntry, gen := 1, sqhd := 1, cq := 0, waiting := false }

/-- The block as the copy begins: the entry taken, and the copy at the head of its mover. -/
def copyBegun (w : DWord) : State :=
  let s := (taking (overTable w) 0 (.copyOut 0 copyOutEntry) copyOutEntry).modSq 0 fun x => { x with cur := some copyTaken }
  (mvPut s (copyMover 0) ⟨copyDesc copyOutEntry, 0, 64⟩).modMover (copyMover 0) fun v => { v with busy := true }

theorem command_overTable (b : Bool) :
    command (overTable (tagsEntry b)) 0 (.copyOut 0 copyOutEntry) copyOutEntry (isOp copyOutEntry 0x0301) =
      copyGo (copyBegun (tagsEntry b)) 0 := by
  have hk : ((taking (overTable (tagsEntry b)) 0 (.copyOut 0 copyOutEntry) copyOutEntry).sq 0).cur = some copyTaken := by
    decide +kernel +revert
  rw [command_offered _ (overTable_offered b) (by decide +kernel), serveCmd_copyOut hk rfl (by decide +kernel +revert)
    (by decide +kernel +revert) (by decide +kernel +revert) (by decide +kernel +revert)]
  rfl

/-- The block with the granule gathered, but for the tags' entry. -/
def gathered : State := (gatherRun 0 0x1E0000 0 512 8 (copyBegun 0)).getD State.reset

theorem gatherRun_copyBegun (b : Bool) :
    gatherRun 0 0x1E0000 0 512 8 (copyBegun (tagsEntry b)) = some (withTagsEntry gathered (tagsEntry b)) := by
  decide +kernel +revert

/-- The words of a line at 0x3E0000 replace the tags' entry, whatever that was. -/
theorem hostPut_withTagsEntry (s : State) (v w : DWord) {bs : List Byte} (h : bs.length = 64) :
    hostPut (withTagsEntry s v) 0x3E0000 bs = hostPut (withTagsEntry s w) 0x3E0000 bs := by
  have first : ∀ (u : DWord) x, SMap.set none [(0x7C000, some u)] (0x3E0000 / 8 + 0) (some x) = [(0x7C000, some x)] := fun u x => by
    simp [SMap.set]
  have words : List.range (bs.length / 8) = 0 :: [1, 2, 3, 4, 5, 6, 7] := by rw [h]; rfl
  simp only [hostPut, State.modHost, withTagsEntry, words, List.foldl_cons, first]

theorem hwtFill_withTagsEntry {s : State} (hc : s.host.hwtCache = [(0, 0x200003)]) (w : DWord) :
    hwtFill (withTagsEntry s w) 0x1E0000 = withTagsEntry s w := by
  simp [hwtFill, withTagsEntry, hc]

theorem hwinAddr_withTagsEntry {s : State} (hc : s.host.hwtCache = [(0, 0x200003)]) (w : DWord) :
    hwinAddr (withTagsEntry s w) 0x1E0000 = 0x3E0000 := by
  have entry : hwtEntry (withTagsEntry s w) 0x1E0000 = 0x200003 := by
    simp only [hwtEntry, withTagsEntry, hc]
    rfl
  rw [hwinAddr, entry]
  decide

theorem hostSend_withTagsEntry (s : State) (w : DWord) (o : HostOut) :
    hostSend (withTagsEntry s w) o false = withTagsEntry (hostSend s o false) w := by
  cases h : s.host.linkUp <;> simp [hostSend, State.modHost, withTagsEntry, h]

/-- The granule's first line replaces the tags' entry, whatever that was. -/
theorem windowPut_withTagsEntry {s : State} (hc : s.host.hwtCache = [(0, 0x200003)]) (v w : DWord) (ct : Beat) :
    windowPut (withTagsEntry s v) 0x1E0000 ct = windowPut (withTagsEntry s w) 0x1E0000 ct := by
  simp only [windowPut, hwtFill_withTagsEntry hc, hwinAddr_withTagsEntry hc, hostSend_withTagsEntry]
  exact hostPut_withTagsEntry _ v w (leBytes_length 64 _)

theorem flushGranule_withTagsEntry {s : State} (hc : s.host.hwtCache = [(0, 0x200003)]) (v w : DWord) {a : Beat} {part : List Beat}
    (hp : part.length = 7) :
    flushGranule (withTagsEntry s v) 0x1E0000 (a :: part) = flushGranule (withTagsEntry s w) 0x1E0000 (a :: part) := by
  have sealed : ∀ u o b, winSeal (withTagsEntry s u) o b = winSeal s o b := fun _ _ _ => rfl
  simp only [flushGranule, List.length_cons, hp, if_true, List.zipIdx_cons, List.map_cons, List.foldl_cons, sealed]
  rw [windowPut_withTagsEntry hc v w]

/-- The run of the copy is the same from the flush of its granule on, whichever page the tags' entry named. -/
theorem copyOutRun_copyBegun : copyOutRun 18 (copyBegun (tagsEntry true)) 0 0x1E0000 0 512 =
    copyOutRun 18 (copyBegun (tagsEntry false)) 0 0x1E0000 0 512 := by
  have hc : gathered.host.hwtCache = [(0, 0x200003)] := by decide +kernel
  have flush : ∀ b, copyOutRun 18 (copyBegun (tagsEntry b)) 0 0x1E0000 0 512 =
      copyOutRun 9 (addBytes ((flushGranule (withTagsEntry gathered (tagsEntry b)) 0x1E0000 (0 :: List.replicate 7 0)).modMover
        (copyMover 0) fun v => { v with part := [] }) 0 512) 0 0x1E0000 0 512 := fun b => by
    have hb : copyBytes (withTagsEntry gathered (tagsEntry b)) 0 = 0 := by decide +kernel +revert
    rw [copyOutRun_gather _ _ _ 8 10 (gatherRun_copyBegun b), copyOutRun_flush (a := 0) (part := List.replicate 7 0)
      (hp := by decide +kernel +revert) (hn := by rw [hb]; rfl) (hw := by decide +kernel +revert), hb,
      hwtFill_withTagsEntry hc, List.length_replicate]
  rw [flush, flush, flushGranule_withTagsEntry hc (tagsEntry true) (tagsEntry false) (List.length_replicate ..)]

/-- COPY_OUT leads both blocks to the same next state: what the tags' entry was is gone before the tag is written. -/
theorem exec_copyOut_overTable : exec (.copyOut 0 copyOutEntry) (overTable (tagsEntry true)) =
    exec (.copyOut 0 copyOutEntry) (overTable (tagsEntry false)) := by
  have go : ∀ b, exec (.copyOut 0 copyOutEntry) (overTable (tagsEntry b)) = .next (
      let r := copyOutRun 18 (copyBegun (tagsEntry b)) 0 0x1E0000 0 512
      if r.2 then copyEnd r.1 0 (if ((r.1.sq 0).cur.map (·.poison)).getD false then 0x0105 else 0) else r.1) := fun b => by
    have hk : ((copyBegun (tagsEntry b)).sq 0).cur = some copyTaken := by decide +kernel +revert
    have hwoff : entParam copyOutEntry 0x20 64 = 0x1E0000 := by decide +kernel
    have hva : entParam copyOutEntry 0x28 64 = 0 := by decide +kernel
    have hlen : entParam copyOutEntry 0x30 64 = 512 := by decide +kernel
    rw [exec_copyOut, command_overTable, copyGo_copyOut hk rfl rfl (by decide +kernel +revert) (by decide +kernel +revert)
      (by decide +kernel +revert), hwoff, hva, hlen]
  rw [go, go, copyOutRun_copyBegun]

theorem overTable_copyOk (b : Bool) : copyOk (overTable (tagsEntry b)) copyOutEntry = true := by decide +kernel +revert

theorem overTable_hwinOk (b : Bool) : hwinOk (overTable (tagsEntry b)) (entParam copyOutEntry 0x20 64) true = true := by
  decide +kernel +revert

/-- The source of the copy is the near tier from its first byte on, all of it readable. -/
theorem overTable_reads (b : Bool) : ∀ i, i < 8 →
    (reach (overTable (tagsEntry b)) (dieOfMover (copyMover 0)) (entParam copyOutEntry 0x28 64 + 64 * i) false true =
        .ok (2 ^ 63 + 64 * i) ∧ Near (overTable (tagsEntry b)) (2 ^ 63 + 64 * i)) ∧
      Readable (overTable (tagsEntry b)) (2 ^ 63 + 64 * i) := by
  unfold Near Readable
  decide +kernel +revert

theorem taking_overTable_out (b : Bool) :
    (taking (overTable (tagsEntry b)) 0 (.copyOut 0 copyOutEntry) copyOutEntry).host.out = [] := by decide +kernel +revert

/-- What the statement would have COPY_OUT send for that block: eight lines, then the tag of granule 0xF00 to the address that the
table gave before the command. -/
theorem tagSent_of_copiesMoveBytes (h : Obligations.CopiesMoveBytes) (b : Bool) :
    ∃ s' lines tag, exec (.copyOut 0 copyOutEntry) (overTable (tagsEntry b)) = .next s' ∧ List.length lines = 8 ∧
      lines ++ [.wtag 0xF00 (wtagAddr (overTable (tagsEntry b)) 0xF00) tag] <+: s'.host.out := by
  obtain ⟨-, hout, -⟩ := h (overTable (tagsEntry b)) 0 0 copyOutEntry (fun i => 2 ^ 63 + 64 * i) rfl rfl (by rintro r ⟨⟩)
    (by rintro d ⟨⟩)
  obtain ⟨v, hv, -, -, -, hsent⟩ := hout (overTable_offered b) (overTable_copyOk b) (by decide +kernel) (by decide +kernel) rfl
    (overTable_reads b) (overTable_hwinOk b)
  have hwoff : entParam copyOutEntry 0x20 64 = 0x1E0000 := by decide +kernel
  dsimp only at hsent
  rw [taking_overTable_out, hwoff, List.nil_append] at hsent
  have hp : SentOn v (complete v 0 0 512 0) := complete_sentOn ..
  rw [SentOn, hsent] at hp
  exact ⟨_, _, _, hv, by rw [List.length_map, List.length_range], hp⟩

/-- Refutes O35, by COPY_OUT: where the window's page lies over the window table, the granule's lines replace the entry of the page
that holds the tags, so the tag goes to the address that the new entry gives (R351, R352), not to the one of the table as it stood
before the command. The statement has no hypothesis that the lines miss the table. -/
theorem not_copiesMoveBytes : ¬ Obligations.CopiesMoveBytes := by
  intro h
  obtain ⟨s1, l1, t1, he1, hl1, hp1⟩ := tagSent_of_copiesMoveBytes h true
  obtain ⟨s2, l2, t2, he2, hl2, hp2⟩ := tagSent_of_copiesMoveBytes h false
  have hs : s1 = s2 := by
    rw [exec_copyOut_overTable, he2] at he1
    injection he1 with he
    exact he.symm
  subst hs
  have heq := (List.prefix_of_prefix_length_le hp1 hp2 (by simp [hl1, hl2])).eq_of_length (by simp [hl1, hl2])
  have htag := (List.append_inj heq (hl1.trans hl2.symm)).2
  injection htag with htag
  injection htag with _ haddr
  exact wtagAddr_overTable haddr

end

end Sys2Proof.Machine
end

section
/-! SUPPORT. Powers of two and the binary logarithm, the step of a grid at a magnitude, and what each rounding mode gives: O59. -/

namespace Sys2Proof.Machine
open Sys2Proof.Claims

/-! ## Powers of two and the binary logarithm -/

theorem pow2_eq_zpow (e : Int) : pow2 e = (2 : Rat) ^ e := by
  cases e with
  | ofNat n => simp [pow2]
  | negSucc n => simp [pow2, zpow_negSucc]

theorem pow2_pos (e : Int) : 0 < pow2 e := by
  rw [pow2_eq_zpow]
  positivity

theorem pow2_add (a b : Int) : pow2 (a + b) = pow2 a * pow2 b := by
  simp only [pow2_eq_zpow, zpow_add₀ (two_ne_zero' Rat)]

theorem pow2_natCast (n : Nat) : pow2 n = 2 ^ n := by
  rw [pow2_eq_zpow, zpow_natCast]

theorem pow2_le_pow2 {a b : Int} (h : a ≤ b) : pow2 a ≤ pow2 b := by
  simpa only [pow2_eq_zpow] using zpow_le_zpow_right₀ one_le_two h

/-- A power of two is a multiple of every smaller one. -/
theorem exists_pow2_eq_mul {a b : Int} (h : a ≤ b) : ∃ n : Nat, pow2 b = ((2 ^ n : Nat) : Rat) * pow2 a := by
  obtain ⟨n, rfl⟩ := Int.le.dest h
  exact ⟨n, by rw [add_comm, pow2_add, pow2_natCast]; push_cast; rfl⟩

theorem pow2_log2_le {n : Nat} (h : n ≠ 0) : pow2 n.log2 ≤ n := by
  rw [pow2_natCast]
  exact_mod_cast Nat.log2_self_le h

theorem lt_pow2_log2_succ (n : Nat) : (n : Rat) < pow2 (n.log2 + 1) := by
  rw [← Nat.cast_succ, pow2_natCast]
  exact_mod_cast Nat.lt_log2_self

/-- The logarithms of numerator and denominator give the binade but for one. -/
theorem pow2_bounds {q : Rat} (hq : 0 < q) :
    let e : Int := (q.num.natAbs.log2 : Int) - (q.den.log2 : Int)
    pow2 (e - 1) ≤ q ∧ q < pow2 (e + 1) := by
  intro e
  have hnum : (q.num.natAbs : Rat) = q * q.den := by
    rw [Rat.mul_den_eq_num, ← Int.cast_natCast, Int.natAbs_of_nonneg (Rat.num_pos.2 hq).le]
  have hden : (0 : Rat) < q.den := by exact_mod_cast q.den_pos
  have hn := pow2_log2_le (Int.natAbs_ne_zero.2 (Rat.num_pos.2 hq).ne')
  have hn' := lt_pow2_log2_succ q.num.natAbs
  rw [hnum] at hn hn'
  constructor
  · refine le_of_mul_le_mul_right ?_ hden
    calc pow2 (e - 1) * q.den ≤ pow2 (e - 1) * pow2 (q.den.log2 + 1) :=
          mul_le_mul_of_nonneg_left (lt_pow2_log2_succ _).le (pow2_pos _).le
      _ = pow2 q.num.natAbs.log2 := by rw [← pow2_add]; congr 1; omega
      _ ≤ q * q.den := hn
  · refine lt_of_mul_lt_mul_right ?_ hden.le
    calc q * q.den < pow2 (q.num.natAbs.log2 + 1) := hn'
      _ = pow2 (e + 1) * pow2 q.den.log2 := by rw [← pow2_add]; congr 1; omega
      _ ≤ pow2 (e + 1) * q.den := mul_le_mul_of_nonneg_left (pow2_log2_le q.den_ne_zero) (pow2_pos _).le

theorem pow2_ilog2_le {q : Rat} (hq : 0 < q) : pow2 (ilog2 q) ≤ q := by
  unfold ilog2
  dsimp only
  split
  case isTrue h => exact h
  case isFalse => exact (pow2_bounds hq).1

theorem lt_pow2_ilog2_succ {q : Rat} (hq : 0 < q) : q < pow2 (ilog2 q + 1) := by
  unfold ilog2
  dsimp only
  split
  case isTrue => exact (pow2_bounds hq).2
  case isFalse h => simpa using h

section

variable {g : Grid} {m y : Rat}

/-! ## The step of a grid at a magnitude -/

theorem gridStep_pos : 0 < gridStep g m := pow2_pos _

/-- The binade that fixes the step: the lowest one, or the one that holds `m`. -/
theorem gridStep_binade (hm : 0 ≤ m) :
    ∃ e, g.emin ≤ e ∧ gridStep g m = pow2 (e - g.fb) ∧ m < pow2 (e + 1) ∧ (e = g.emin ∨ pow2 e ≤ m) := by
  refine ⟨_, ?_, rfl, ?_⟩
  · split
    · exact le_rfl
    · exact le_max_right ..
  · split
    case isTrue h => exact ⟨h ▸ pow2_pos _, .inl rfl⟩
    case isFalse h =>
      have hpos : 0 < m := lt_of_le_of_ne hm (Ne.symm h)
      refine ⟨(lt_pow2_ilog2_succ hpos).trans_le (pow2_le_pow2 (by omega)), ?_⟩
      rcases le_total (ilog2 m) g.emin with hle | hle
      · exact .inl (max_eq_right hle)
      · exact .inr ((max_eq_left hle).symm ▸ pow2_ilog2_le hpos)

/-- A magnitude of the grid is a multiple of the step at `m`, or some multiple of that step lies between it and `m`. -/
theorem multiple_or_lt_multiple_of_onGrid (hm : 0 ≤ m) (hy : OnGrid g y) :
    (∃ j : Int, y = j * gridStep g m) ∨ ∃ j : Int, y < j * gridStep g m ∧ j * gridStep g m ≤ m := by
  obtain ⟨e, -, hst, -, hlow⟩ := gridStep_binade (g := g) hm
  obtain ⟨k, f, hf, hk, rfl⟩ := hy
  rw [hst]
  rcases le_or_gt e f with hef | hfe
  · obtain ⟨n, hn⟩ := exists_pow2_eq_mul (show e - g.fb ≤ f - g.fb by omega)
    exact .inl ⟨(k * 2 ^ n : Nat), by rw [hn]; push_cast; ring⟩
  · have hbin : pow2 e = ((2 ^ g.fb : Nat) : Int) * pow2 (e - g.fb) := by
      push_cast
      rw [← pow2_natCast, ← pow2_add, add_sub_cancel]
    refine .inr ⟨(2 ^ g.fb : Nat), hbin ▸ ?_, hbin ▸ hlow.resolve_left (by omega)⟩
    calc (k : Rat) * pow2 (f - g.fb) < pow2 (g.fb + 1 : Nat) * pow2 (f - g.fb) :=
          mul_lt_mul_of_pos_right (by rw [pow2_natCast]; exact_mod_cast hk) (pow2_pos _)
      _ = pow2 (f + 1) := by rw [← pow2_add]; congr 1; push_cast; ring
      _ ≤ pow2 e := pow2_le_pow2 hfe

/-! ## The multiples of the step on the two sides of a magnitude -/

theorem roundMag_rtz : roundMag g .rtz m = (m / gridStep g m).floor * gridStep g m := by
  unfold roundMag
  dsimp only
  split
  case isTrue h => exact h.symm
  case isFalse => rfl

theorem roundMag_rtz_le : roundMag g .rtz m ≤ m := by
  rw [roundMag_rtz, ← le_div_iff₀ gridStep_pos]
  exact Int.floor_le _

theorem lt_roundMag_rtz_add_step : m < roundMag g .rtz m + gridStep g m := by
  rw [roundMag_rtz, ← add_one_mul, ← div_lt_iff₀ gridStep_pos]
  exact Int.lt_floor_add_one _

/-- No multiple of the step lies between that not above `m` and the next. -/
theorem multiple_le_roundMag_rtz_or (j : Int) :
    j * gridStep g m ≤ roundMag g .rtz m ∨ roundMag g .rtz m + gridStep g m ≤ j * gridStep g m := by
  rw [roundMag_rtz, ← add_one_mul, mul_le_mul_iff_left₀ gridStep_pos, mul_le_mul_iff_left₀ gridStep_pos]
  exact_mod_cast le_or_gt j (m / gridStep g m).floor

/-- No magnitude of the grid lies between the two multiples of the step around `m`. -/
theorem le_roundMag_rtz_or_of_onGrid (hm : 0 ≤ m) (hy : OnGrid g y) :
    y ≤ roundMag g .rtz m ∨ roundMag g .rtz m + gridStep g m ≤ y := by
  rcases multiple_or_lt_multiple_of_onGrid hm hy with ⟨j, rfl⟩ | ⟨j, hj, hjm⟩
  · exact multiple_le_roundMag_rtz_or j
  · refine .inl (hj.le.trans ((multiple_le_roundMag_rtz_or j).resolve_right fun h => ?_))
    exact lt_roundMag_rtz_add_step.not_ge (h.trans hjm)

/-- R53: round toward zero gives the largest magnitude of the grid not above the input's. -/
theorem le_roundMag_rtz_of_onGrid (hm : 0 ≤ m) (hy : OnGrid g y) (h : y ≤ m) : y ≤ roundMag g .rtz m :=
  (le_roundMag_rtz_or_of_onGrid hm hy).resolve_right fun h' => lt_roundMag_rtz_add_step.not_ge (h'.trans h)

theorem roundMag_rtz_add_step_le_of_onGrid (hm : 0 ≤ m) (hlt : roundMag g .rtz m < m) (hy : OnGrid g y) (h : m ≤ y) :
    roundMag g .rtz m + gridStep g m ≤ y :=
  (le_roundMag_rtz_or_of_onGrid hm hy).resolve_left (hlt.trans_le h).not_ge

theorem roundMag_rtz_eq_of_onGrid (hm : 0 ≤ m) (h : OnGrid g m) : roundMag g .rtz m = m :=
  roundMag_rtz_le.antisymm (le_roundMag_rtz_of_onGrid hm h le_rfl)

/-- A multiple of the step at `m` up to the end of `m`'s binade is a magnitude of the grid; the end itself by the binade above. -/
theorem onGrid_multiple_step (hm : 0 ≤ m) {j : Int} (hj : 0 ≤ j) (h : (j - 1) * gridStep g m ≤ m) :
    OnGrid g (j * gridStep g m) := by
  obtain ⟨e, he, hst, hlt, -⟩ := gridStep_binade (g := g) hm
  rw [hst] at h ⊢
  lift j to Nat using hj
  have hend : pow2 (e + 1) = (2 ^ (g.fb + 1) : Nat) * pow2 (e - g.fb) := by
    rw [Nat.cast_pow, Nat.cast_ofNat, ← pow2_natCast, ← pow2_add]
    congr 1
    push_cast
    ring
  have hj : j ≤ 2 ^ (g.fb + 1) := by
    have := h.trans_lt (hlt.trans_eq hend)
    rw [mul_lt_mul_iff_left₀ (pow2_pos _), sub_lt_iff_lt_add] at this
    exact Nat.lt_succ_iff.1 (by exact_mod_cast this)
  rcases hj.lt_or_eq with hj | rfl
  · exact ⟨j, e, he, hj, rfl⟩
  · refine ⟨2 ^ g.fb, e + 1, by omega, Nat.pow_lt_pow_right one_lt_two (Nat.lt_succ_self _), ?_⟩
    rw [show e + 1 - g.fb = (1 : Nat) + (e - g.fb) by push_cast; ring, pow2_add, pow2_natCast]
    push_cast
    ring

theorem onGrid_roundMag_rtz (hm : 0 ≤ m) : OnGrid g (roundMag g .rtz m) := by
  have hle := roundMag_rtz_le (g := g) (m := m)
  rw [roundMag_rtz] at hle ⊢
  refine onGrid_multiple_step hm (Int.floor_nonneg.2 (div_nonneg hm gridStep_pos.le)) (hle.trans' ?_)
  exact mul_le_mul_of_nonneg_right (sub_le_self _ zero_le_one) gridStep_pos.le

theorem onGrid_roundMag_rtz_add_step (hm : 0 ≤ m) : OnGrid g (roundMag g .rtz m + gridStep g m) := by
  have hle := roundMag_rtz_le (g := g) (m := m)
  rw [roundMag_rtz] at hle ⊢
  rw [← add_one_mul, ← Int.cast_one, ← Int.cast_add]
  refine onGrid_multiple_step hm ?_ ?_
  · exact Int.add_nonneg (Int.floor_nonneg.2 (div_nonneg hm gridStep_pos.le)) zero_le_one
  · rwa [Int.cast_add, Int.cast_one, add_sub_cancel_right]

/-! ## The rounding modes -/

theorem roundMag_of_rtz_eq (mode : RMode) (h : roundMag g .rtz m = m) : roundMag g mode m = m :=
  if_pos (roundMag_rtz.symm.trans h)

/-- Every mode gives the multiple of the step not above the input, or, for an input between two, the next one. -/
theorem roundMag_eq_rtz_or (mode : RMode) :
    roundMag g mode m = roundMag g .rtz m ∨
      (roundMag g .rtz m < m ∧ roundMag g mode m = roundMag g .rtz m + gridStep g m) := by
  by_cases h : roundMag g .rtz m = m
  · exact .inl ((roundMag_of_rtz_eq mode h).trans h.symm)
  · have hlt := lt_of_le_of_ne roundMag_rtz_le h
    rw [roundMag_rtz] at h hlt ⊢
    rw [roundMag, if_neg h]
    exact (ite_eq_or_eq _ _ _).symm.imp_right fun hup => ⟨hlt, hup⟩

theorem onGrid_roundMag (mode : RMode) (hm : 0 ≤ m) : OnGrid g (roundMag g mode m) := by
  rcases roundMag_eq_rtz_or (g := g) (m := m) mode with h | ⟨-, h⟩
  · exact h ▸ onGrid_roundMag_rtz hm
  · exact h ▸ onGrid_roundMag_rtz_add_step hm

theorem roundMag_eq_self_of_onGrid (mode : RMode) (hm : 0 ≤ m) (h : OnGrid g m) : roundMag g mode m = m := by
  have hrtz := roundMag_rtz_eq_of_onGrid hm h
  rcases roundMag_eq_rtz_or (g := g) (m := m) mode with hr | ⟨hlt, -⟩
  · exact hr.trans hrtz
  · exact absurd hrtz hlt.ne

/-- R54: a rounding, a stochastic one too, gives one of the two neighbours. -/
theorem roundMag_eq_rtz_or_least_above (mode : RMode) (hm : 0 ≤ m) :
    roundMag g mode m = roundMag g .rtz m ∨
      (m < roundMag g mode m ∧ ∀ y, OnGrid g y → m ≤ y → roundMag g mode m ≤ y) := by
  refine (roundMag_eq_rtz_or mode).imp_right fun ⟨hlt, h⟩ => ?_
  rw [h]
  exact ⟨lt_roundMag_rtz_add_step, fun y => roundMag_rtz_add_step_le_of_onGrid hm hlt⟩

/-- The distance above the multiple of the step, as the rounding measures it in steps. -/
theorem sub_roundMag_rtz : m - roundMag g .rtz m = (m / gridStep g m - (m / gridStep g m).floor) * gridStep g m := by
  rw [roundMag_rtz, sub_mul, div_mul_cancel₀ _ gridStep_pos.ne']

/-- Between two multiples of the step round to nearest even goes up from more than half a step on, and at the half from an odd one. -/
theorem roundMag_rne_of_lt (h : roundMag g .rtz m < m) :
    roundMag g .rne m =
      if gridStep g m / 2 < m - roundMag g .rtz m ∨
          (m - roundMag g .rtz m = gridStep g m / 2 ∧ (m / gridStep g m).floor % 2 = 1) then
        roundMag g .rtz m + gridStep g m
      else roundMag g .rtz m := by
  have hst : 0 < gridStep g m := gridStep_pos
  simp only [sub_roundMag_rtz, div_eq_inv_mul _ (2 : Rat), mul_lt_mul_iff_left₀ hst, mul_left_inj' hst.ne']
  rw [roundMag_rtz] at h ⊢
  refine (if_neg h.ne).trans ?_
  simp only [gt_iff_lt, one_div, Bool.or_eq_true, Bool.and_eq_true, decide_eq_true_eq]

/-- R53: round to nearest even stays below up to half a step and goes up from there. -/
theorem roundMag_rne_cases (hm : roundMag g .rtz m < m) :
    (roundMag g .rne m = roundMag g .rtz m ∧ m - roundMag g .rtz m ≤ gridStep g m / 2) ∨
      (roundMag g .rne m = roundMag g .rtz m + gridStep g m ∧ gridStep g m / 2 ≤ m - roundMag g .rtz m) := by
  rw [roundMag_rne_of_lt hm]
  split
  case isTrue h => exact .inr ⟨rfl, h.elim le_of_lt fun h => h.1.ge⟩
  case isFalse h => exact .inl ⟨rfl, not_lt.1 fun hlt => h (.inl hlt)⟩

/-- R53: at half a step round to nearest even gives the even one of the two multiples. -/
theorem roundMag_rne_even (h : m - roundMag g .rtz m = gridStep g m / 2) :
    ∃ k : Int, roundMag g .rne m = 2 * k * gridStep g m := by
  have hst : 0 < gridStep g m := gridStep_pos
  rw [roundMag_rne_of_lt (by linarith), h, roundMag_rtz]
  simp only [lt_irrefl, true_and, false_or]
  rcases Int.even_or_odd' (m / gridStep g m).floor with ⟨k, hk | hk⟩
  · rw [if_neg (by omega), hk]
    exact ⟨k, by push_cast; rfl⟩
  · rw [if_pos (by omega), hk]
    exact ⟨k + 1, by push_cast; ring⟩

/-- R53: no magnitude of the grid is nearer to the input than the one that round to nearest even gives, and another is as near only at
half a step. -/
theorem roundMag_rne_nearest (hm : 0 ≤ m) (hy : OnGrid g y) :
    |roundMag g .rne m - m| ≤ |y - m| ∧
      (|y - m| = |roundMag g .rne m - m| → y ≠ roundMag g .rne m → m - roundMag g .rtz m = gridStep g m / 2) := by
  rcases (roundMag_rtz_le (g := g) (m := m)).eq_or_lt with heq | hlt
  · rw [roundMag_of_rtz_eq .rne heq, sub_self, abs_zero, abs_eq_zero, sub_eq_zero]
    exact ⟨abs_nonneg _, fun h hne => absurd h hne⟩
  · have hhi := lt_roundMag_rtz_add_step (g := g) (m := m)
    have hrne := roundMag_rne_cases hlt
    rcases le_roundMag_rtz_or_of_onGrid hm hy with h | h
    · rw [abs_of_neg (show y - m < 0 by linarith)]
      rcases hrne with ⟨hr, hd⟩ | ⟨hr, hd⟩
      · rw [hr, abs_of_neg (by linarith)]
        exact ⟨by linarith, fun he hne => absurd (by linarith) hne⟩
      · rw [hr, abs_of_pos (by linarith)]
        exact ⟨by linarith, fun he _ => by linarith⟩
    · rw [abs_of_pos (show 0 < y - m by linarith)]
      rcases hrne with ⟨hr, hd⟩ | ⟨hr, hd⟩
      · rw [hr, abs_of_neg (by linarith)]
        exact ⟨by linarith, fun he _ => by linarith⟩
      · rw [hr, abs_of_pos (by linarith)]
        exact ⟨by linarith, fun he hne => absurd (by linarith) hne⟩

end

/-- Settles O59: the grid has no magnitude strictly between the two multiples of the step around the input, both are on the grid, and
every mode gives one of them (R53, R54). -/
theorem roundingGivesNeighbours : Obligations.RoundingGivesNeighbours := by
  intro g m hm
  refine ⟨fun mode => ⟨onGrid_roundMag mode hm, roundMag_eq_self_of_onGrid mode hm⟩, fun y hy => ?_, roundMag_rtz_le,
    fun y => le_roundMag_rtz_of_onGrid hm, fun n r => roundMag_eq_rtz_or_least_above _ hm⟩
  obtain ⟨hnear, htie⟩ := roundMag_rne_nearest hm hy
  exact ⟨hnear, fun he hne => roundMag_rne_even (htie he hne)⟩

end Sys2Proof.Machine
end

section
/-! SUPPORT. A signal to a counter of a tile: what it leaves alone, and all that one of the tile's own gang does (R165, R166). -/

namespace Sys2Proof.Machine
open Sys2Proof.Claims

theorem State.tile_modPc (s : State) (f : PcBlk → PcBlk) (t : Nat) : (s.modPc f).tile t = s.tile t := rfl

theorem signalLocal_pc (s : State) (src : Option Nat) (t c amt : Nat) : (signalLocal s src t c amt).pc = s.pc := by
  unfold signalLocal deliverSignal
  split
  · rfl
  · split <;> rfl

theorem signalLocal_tile_other (s : State) (src : Option Nat) {t j : Nat} (c amt : Nat) (h : j ≠ t) :
    (signalLocal s src t c amt).tile j = s.tile j := by
  unfold signalLocal deliverSignal
  split
  · rfl
  · split
    · rfl
    · exact State.tile_modTile_other _ _ _ _ h

theorem signalLocal_gang (s : State) (src : Option Nat) {t : Nat} (c amt : Nat) (h : (s.tile t).gang.isSome = true) :
    ((signalLocal s src t c amt).tile t).gang = (s.tile t).gang := by
  unfold signalLocal deliverSignal
  split
  · rfl
  · split
    · rfl
    · rw [applySignal, State.tile_modTile_used _ _ _ h]
      rfl

/-- A signal of a used tile's own gang to one of its counters (R165, R181). -/
theorem signalLocal_own_tile (s : State) {t : Nat} (c amt : Nat) (h : (s.tile t).gang.isSome = true) :
    (signalLocal s (s.tile t).gang t c amt).tile t =
      { s.tile t with ec := raised (s.tile t).ec c amt, ts := countSig (s.tile t).ts amt } := by
  rw [signalLocal_own s t c amt h]
  by_cases ha : amt = 0
  · simp only [if_pos ha, raised, countSig]
  · simp only [if_neg ha, raised, countSig]
    exact State.tile_modTile_used _ _ _ h

/-- Beside its tile such a signal changes AUD_SIG_LOCAL alone (R452). -/
theorem signalLocal_own_frame (s : State) {t : Nat} (c amt : Nat) (h : (s.tile t).gang.isSome = true) :
    let u := signalLocal s (s.tile t).gang t c amt
    { u with tiles := s.tiles, flt := { u.flt with sigLocal := s.flt.sigLocal } } = s := by
  intro u
  have hu : u = _ := signalLocal_own s t c amt h
  rw [hu]
  split <;> rfl

end Sys2Proof.Machine
end

section
/-! SUPPORT. The outcome of a press check and the verdict of an interval: O11. -/

namespace Sys2Proof.Machine
open Sys2Proof.Claims

section
variable {s : State} {t : Nat} {v : Interval} {e : PressEnt}

theorem exec_pressCheckComplete (t : Nat) (s : State) : exec (.pressCheckComplete t) s = execPressCheckComplete t s := rfl

theorem exec_pressVerdict (t : Nat) (s : State) : exec (.pressVerdict t) s = execPressVerdict t s := rfl

/-! ## A check (R103 to R107) -/

/-- The cycles that the check under way has had are those of the press engine. -/
theorem checkCycles_of_pressOn {x : Tile} {m : SMap Byte} (h : x.pressOn = some (v.id, e.op, m)) :
    checkCycles x v e = x.pressCycles := by
  simp [checkCycles, h]

/-- A check under way that has had its cycles ends (R103, R106). -/
theorem exec_pressCheckComplete_of_cycles {m : SMap Byte} (hcur : currentCheck (s.tile t) = some (v, e))
    (hsnap : e.snap.isSome = true) (hon : (s.tile t).pressOn = some (v.id, e.op, m))
    (hcyc : 8 * mJ e.desc + 24 ≤ (s.tile t).pressCycles) :
    exec (.pressCheckComplete t) s = .next (finishCheck s t v e) := by
  simp [exec_pressCheckComplete, execPressCheckComplete, hcur, hsnap, checkCycles_of_pressOn hon, hcyc]

/-- The outcome of the check of entry `e` of tile `t`, on the scratchpad `m` (R105, R106). -/
def checkResult (s : State) (t : Nat) (e : PressEnt) (m : SMap Byte) : Check × Option Nat :=
  pressCompare ((e.snap.getD []).map ofA36) ((outElems e.desc).map fun p => pressElement { s.tile t with scratch := m } e.desc p.1 p.2)
    (threshOf s (opRung e.desc))

/-- The request that a check attaches to its interval (R107). -/
def checkReq (s : State) (t : Nat) (e : PressEnt) (c : Check) : List EscReq :=
  if c = .fail then [⟨.check, checkEntries s t e.desc⟩] else []

/-- The tile after the check of entry `e` of interval `v` with outcome `c` and requests `req`. -/
def checkedTile (v : Interval) (e : PressEnt) (c : Check) (req : List EscReq) (x : Tile) : Tile :=
  { x with
    pressCycles := 0, pressOn := none
    press := x.press.map fun i =>
      if i.id = v.id then
        { i with ents := i.ents.map (fun a => if a.op = e.op then { a with checked := true } else a)
                 checks := i.checks + 1, reqs := i.reqs ++ req, failed := i.failed || c == .fail }
      else i }

/-- The press block's counts after a check with outcome `r` and requests `req` (R118). -/
def countCheck (r : Check × Option Nat) (req : List EscReq) (p : PcBlk) : PcBlk :=
  { p with
    checked := sat32 (p.checked + 1), maxDq := max p.maxDq (r.2.getD 0)
    fail := if r.1 = .fail then sat32 (p.fail + 1) else p.fail
    wide := if r.1 = .wide then sat32 (p.wide + 1) else p.wide
    wideFlag := p.wideFlag || r.1 == .wide
    named := (p.named ++ req.flatMap (·.entries)).eraseDups }

/-- A check whose operands were read into `m` writes its tile and the press block's counts. -/
theorem finishCheck_eq {m : SMap Byte} (hon : (s.tile t).pressOn = some (v.id, e.op, m)) :
    finishCheck s t v e =
      let r := checkResult s t e m
      (s.modTile t (checkedTile v e r.1 (checkReq s t e r.1))).modPc (countCheck r (checkReq s t e r.1)) := by
  unfold finishCheck
  dsimp only
  rw [hon]
  rfl

/-- An entry is named by an operand where it is in the list of those that the operands name. -/
theorem mem_operandEntries (d : Beat) (n : Nat) :
    n ∈ ((if mLva d then [mLadA d] else []) ++ (if mLvb d then [mLadB d] else [])).eraseDups ↔ names d n := by
  simp only [List.mem_eraseDups, List.mem_append, List.mem_ite_nil_right, List.mem_singleton, names, eq_comm (a := n)]

/-- R107: a failed check names, of the entries that its operands name below CEIL, those at the lowest effective rung. -/
theorem mem_checkEntries (d : Beat) (n : Nat) :
    n ∈ checkEntries s t d ↔ names d n ∧ heldRung s (s.tile t) n < (s.ladder n).ceil ∧
      ∀ k, names d k → heldRung s (s.tile t) k < (s.ladder k).ceil → heldRung s (s.tile t) n ≤ heldRung s (s.tile t) k := by
  simp only [checkEntries, List.mem_filter, List.all_eq_true, decide_eq_true_eq, mem_operandEntries, and_imp, and_assoc]

/-! ## A verdict (R104, R107 to R109, R120) -/

/-- A verdict that is due is delivered (R104). -/
theorem exec_pressVerdict_of_due {l : List Interval} (hp : (s.tile t).press = v :: l) (hcl : v.closed = true) (hpend : v.pend = 0)
    (hck : ∀ e ∈ v.ents, e.checked = true) (hat : v.closedAt + 1 ≤ s.clk.cycle) :
    exec (.pressVerdict t) s = .next (deliverVerdict s t v) := by
  have hall : (v.ents.all fun e => e.checked) = true := List.all_eq_true.2 hck
  simp [exec_pressVerdict, execPressVerdict, hp, hcl, hpend, hall, hat]

theorem heldRung_of_not_raised {x : Tile} {n : Nat} (h : ∀ e ∈ x.raises, e.entry ≠ n) : heldRung s x n = (s.ladder n).rung := by
  unfold heldRung
  refine List.foldlRecOn (motive := fun r => r = (s.ladder n).rung) _ _ rfl fun r hr e he => ?_
  rw [if_neg (by simpa using h e he), hr]

/-- A pool request that names one entry, the gang's own and below CEIL, has it raised (R107). -/
theorem resolveReq_one {r : Resol} {n round : Nat} (hw : r.want = []) (href : r.s.refMode = false)
    (hj : (r.s.ladder n).jobwide = false) (hlow : heldRung r.s (r.s.tile t) n < (r.s.ladder n).ceil) :
    resolveReq t round r ⟨.pool, [n]⟩ = { r with want := [n] } := by
  simp [resolveReq, href, hj, hlow, wantEntry, hw]

/-- The block after the one raise of entry `n` for tile `t` (R108). -/
def raiseOne (s : State) (t n : Nat) : State :=
  (s.modTile t fun x =>
      { x with raises := (s.tile t).raises ++ [⟨n, (s.ladder n).rung + 1, (s.ladder n).scope⟩] }).modPc fun p =>
    { p with raise := sat32 (p.raise + 1) }

theorem raiseOne_tile (n : Nat) (hg : (s.tile t).gang.isSome = true) : (raiseOne s t n).tile t =
    { s.tile t with raises := (s.tile t).raises ++ [⟨n, (s.ladder n).rung + 1, (s.ladder n).scope⟩] } := by
  rw [raiseOne, State.tile_modPc, State.tile_modTile_used _ _ _ hg]

theorem raiseOne_tile_other (n : Nat) {j : Nat} (hj : j ≠ t) : (raiseOne s t n).tile j = s.tile j := by
  rw [raiseOne, State.tile_modPc, State.tile_modTile_other _ _ _ _ hj]

/-- An entry not yet listed joins a list of fewer than 8, one rung up (R108). -/
theorem raiseEntry_new {r : Resol} {n : Nat} (hnew : ∀ e ∈ (r.s.tile t).raises, e.entry ≠ n) (hlen : (r.s.tile t).raises.length < 8) :
    raiseEntry t r n = { r with made := r.made + 1, s := raiseOne r.s t n } := by
  have hany : ((r.s.tile t).raises.any fun e => e.entry == n) = false := by
    simpa using hnew
  simp [raiseEntry, raiseOne, hany, Nat.not_le.2 hlen]

/-- A tile's requests resolved and its raises made, when the verdict of interval `v` is delivered (R107, R108). -/
def resolved (s : State) (t : Nat) (v : Interval) : Resol :=
  let r := v.reqs.foldl (resolveReq t v.round) ⟨s, [], 0, 0⟩
  r.want.foldl (raiseEntry t) r

/-- PCT_VERDICT after a resolution `r` (R120). -/
def verdictWord (r : Resol) (v : Interval) : Word :=
  pack 32 [(0, 1, 1), (1, 1, (r.made != 0).toNat), (2, 1, (r.fails != 0).toNat), (4, 4, v.checks), (8, 4, min 15 v.skipped)]

/-- Interval `v` leaves tile `t`, PCT_VERDICT becoming `word`. -/
def leaveInterval (t : Nat) (v : Interval) (word : Word) (s : State) : State :=
  s.modTile t fun x => { x with pctVerdict := word, press := x.press.filter fun i => i.id != v.id }

theorem deliverVerdict_eq (s : State) (t : Nat) (v : Interval) : deliverVerdict s t v =
    let w := leaveInterval t v (verdictWord (resolved s t v) v) (resolved s t v).s
    signalLocal w (w.tile t).gang t v.cnt.toNat 1 := rfl

/-- What a delivered verdict makes of its tile, once its requests are resolved (R104, R120). -/
theorem deliverVerdict_tile {r : Resol} (hr : resolved s t v = r) (hg : (r.s.tile t).gang.isSome = true) :
    (deliverVerdict s t v).tile t = { r.s.tile t with
      pctVerdict := verdictWord r v, press := (r.s.tile t).press.filter fun i => i.id != v.id
      ec := raised (r.s.tile t).ec v.cnt.toNat 1, ts := countSig (r.s.tile t).ts 1 } := by
  have hw : (leaveInterval t v (verdictWord r v) r.s).tile t = _ := State.tile_modTile_used _ _ _ hg
  rw [deliverVerdict_eq, hr]
  exact (signalLocal_own_tile _ _ 1 (by rw [hw]; exact hg)).trans (by rw [hw])

theorem deliverVerdict_tile_other {r : Resol} (hr : resolved s t v = r) {j : Nat} (hj : j ≠ t) :
    (deliverVerdict s t v).tile j = r.s.tile j := by
  rw [deliverVerdict_eq, hr]
  exact (signalLocal_tile_other _ _ _ _ hj).trans (State.tile_modTile_other _ _ _ _ hj)

theorem deliverVerdict_pc {r : Resol} (hr : resolved s t v = r) : (deliverVerdict s t v).pc = r.s.pc := by
  rw [deliverVerdict_eq, hr]
  exact signalLocal_pc ..

theorem deliverVerdict_frame {r : Resol} (hr : resolved s t v = r) (hg : (r.s.tile t).gang.isSome = true) :
    let u := deliverVerdict s t v
    { u with tiles := r.s.tiles, flt := { u.flt with sigLocal := r.s.flt.sigLocal } } = r.s := by
  have hw : (leaveInterval t v (verdictWord r v) r.s).tile t = _ := State.tile_modTile_used _ _ _ hg
  have hf := signalLocal_own_frame (leaveInterval t v (verdictWord r v) r.s) (t := t) v.cnt.toNat 1 (by rw [hw]; exact hg)
  rw [deliverVerdict_eq, hr]
  exact congrArg (fun u : State => { u with tiles := r.s.tiles }) hf

theorem resolved_nil (h : v.reqs = []) : resolved s t v = ⟨s, [], 0, 0⟩ := by
  rw [resolved, h]
  rfl

/-- One pool request for an entry of the gang's own, below CEIL and not listed, raises it (R107, R108). -/
theorem resolved_one {n : Nat} (h : v.reqs = [⟨.pool, [n]⟩]) (href : s.refMode = false) (hj : (s.ladder n).jobwide = false)
    (hlow : (s.ladder n).rung < (s.ladder n).ceil) (hnew : ∀ e ∈ (s.tile t).raises, e.entry ≠ n)
    (hlen : (s.tile t).raises.length < 8) : resolved s t v = ⟨raiseOne s t n, [n], 1, 0⟩ := by
  rw [resolved, h, List.foldl_cons, List.foldl_nil,
    resolveReq_one (r := ⟨s, [], 0, 0⟩) rfl href hj ((heldRung_of_not_raised hnew).trans_lt hlow)]
  exact raiseEntry_new (r := ⟨s, [n], 0, 0⟩) hnew hlen

/-- A field that holds 0 adds nothing to a word. -/
theorem pack_zero_field {w : Nat} (l fs : List (Nat × Nat × Nat)) (lo len : Nat) :
    pack w (l ++ (lo, len, 0) :: fs) = pack w (l ++ fs) := by
  simp [pack]

/-- PCT_VERDICT of a resolution that met no failure. -/
theorem verdictWord_of_no_fail (u : State) (want : List Nat) (made : Nat) : verdictWord ⟨u, want, made, 0⟩ v =
    pack 32 [(0, 1, 1), (1, 1, (made != 0).toNat), (4, 4, v.checks), (8, 4, min 15 v.skipped)] := by
  rw [verdictWord, bne_self_eq_false, Bool.toNat_false]
  exact pack_zero_field [_, _] ..

end

/-- Settles O11: a check and a verdict are delivered by `finishCheck` and `deliverVerdict`; what they write is one change of the tile
beside the counts of the press block. -/
theorem pressChecksDecide : Obligations.PressChecksDecide := by
  refine ⟨fun s t v e m hcur hsnap hon hcyc hg => ?_, fun s t v l hp hcl hpend hck hat hg => ?_⟩
  · have hexec := exec_pressCheckComplete_of_cycles hcur hsnap hon hcyc
    rw [finishCheck_eq hon] at hexec
    exact ⟨_, hexec, State.tile_modTile_used s t _ hg, rfl, fun j hj => State.tile_modTile_other s t j _ hj, rfl,
      mem_checkEntries e.desc⟩
  · have hexec := exec_pressVerdict_of_due hp hcl hpend hck hat
    refine ⟨fun hreq => ⟨_, hexec, ?_⟩, fun n hreq href hj hlow hnew hlen => ⟨_, hexec, ?_⟩⟩
    · have hr := resolved_nil (s := s) (t := t) hreq
      refine ⟨?_, fun j hj => deliverVerdict_tile_other hr hj, deliverVerdict_pc hr, deliverVerdict_frame hr hg⟩
      rw [deliverVerdict_tile hr hg, verdictWord_of_no_fail, hp]
      rfl
    · have hr := resolved_one hreq href hj hlow hnew hlen
      have ht := raiseOne_tile n hg
      have hg' : ((raiseOne s t n).tile t).gang.isSome = true := by rw [ht]; exact hg
      refine ⟨?_, fun j hj => ?_, deliverVerdict_pc hr, ?_⟩
      · rw [deliverVerdict_tile hr hg', verdictWord_of_no_fail, ht]
        dsimp only
        rw [hp]
        rfl
      · exact (deliverVerdict_tile_other hr hj).trans (raiseOne_tile_other n hj)
      · exact congrArg (fun u : State => { u with tiles := s.tiles, pc := s.pc }) (deliverVerdict_frame hr hg')

end Sys2Proof.Machine
end

section
/-! SUPPORT. Entries of the press ladder through a run of changes, at a seam and at a step commit: O57. -/

namespace Sys2Proof.Machine
open Sys2Proof.Claims

/-! ## What leaves the press block alone -/

section
variable {s u : State}

theorem Posted.pc (h : Posted s u) : u.pc = s.pc := by
  obtain ⟨_, _, _, _, _, _, _, _, _, _, _, _, _, _, _, _, _, _, _, _, rfl⟩ := h
  rfl

theorem Sent.pc (h : Sent s u) : u.pc = s.pc := by
  obtain ⟨_, _, _, _, rfl⟩ := h
  rfl

theorem detourSend_sent {p : Nat} {m : Msg} (h : detourSend s p m = some u) : Sent s u := by
  obtain ⟨d, -, rfl⟩ := Option.map_eq_some_iff.mp h
  exact (modPort_sent s ..).trans (modPort_sent ..)

theorem enqPort_sent (p : Nat) (m : Msg) : Sent s (enqPort s p m) := by
  unfold enqPort
  dsimp only
  split
  · cases h : detourSend s p m with
    | none =>
      rw [Option.getD_none]
      exact modPort_sent ..
    | some u => exact detourSend_sent h
  · exact modPort_sent ..

theorem sendDirect_pc (p : Nat) (m : Msg) : (sendDirect s p m).pc = s.pc := (enqPort_sent ..).pc

theorem sendDirects_pc {β : Type} (l : List β) (p : β → Nat) (m : Msg) :
    (l.foldl (fun s b => sendDirect s (p b) m) s).pc = s.pc :=
  foldl_keep (P := fun u : State => u.pc = s.pc) l _ (fun _ _ h => (sendDirect_pc ..).trans h) s rfl

theorem answerQueriers_pc (step : Nat) (m : Msg) (last : Bool) : (answerQueriers s step m last).pc = s.pc := by
  unfold answerQueriers
  dsimp only
  split
  · exact sendDirects_pc _ Prod.fst m
  · exact sendDirects_pc _ Prod.fst m

theorem reportStep_pc (discarded rolled : Bool) : (reportStep s discarded rolled).pc = s.pc := by
  unfold reportStep
  dsimp only
  split
  · exact (complete_posted ..).pc
  · rfl

theorem doRelease_pc (rolled : Bool) : (doRelease s rolled).pc = s.pc :=
  (reportStep_pc ..).trans ((answerQueriers_pc ..).trans (sendDirects_pc _ id _))

/-- An acknowledgement, and the release it may be, leave the press block alone (R327). -/
theorem tryAck_pc : (tryAck s).pc = s.pc := by
  unfold tryAck
  split
  · rfl
  · dsimp only
    split
    · split
      · exact doRelease_pc _
      · rfl
    · exact sendDirect_pc ..

end

/-! ## A ladder entry through a run of changes -/

/-- A map in canonical form lists a key once, with its value, where that is not the default. -/
theorem SMap.filter_key {α : Type} [DecidableEq α] (d : α) (m : SMap α) (n : Nat) (h : SMap.wf d m = true) :
    m.filter (fun e => e.1 == n) = if SMap.get d m n = d then [] else [(n, SMap.get d m n)] := by
  induction m with
  | nil => simp [SMap.get]
  | cons e m ih =>
    obtain ⟨k, v⟩ := e
    obtain ⟨hv, hlow, hw⟩ := (SMap.wf_cons d k v m).1 h
    by_cases hk : k = n
    · subst hk
      have hd : SMap.get d m k = d := SMap.get_of_lowKeys d m k hlow
      have hm : m.filter (fun e => e.1 == k) = [] := by rw [ih hw, if_pos hd]
      simp [SMap.get, hv, hm]
    · simp [SMap.get, hk, ih hw]

/-- The entries that a condition picks from the ladder, of number `n`: the entry itself where the condition holds of it. -/
theorem ladder_filter_key {s : State} (hw : SMap.wf {} s.pc.ladder = true) (p : LadderEnt → Bool) (hp : p {} = false) (n : Nat) :
    (s.pc.ladder.filter fun e => p e.2).filter (fun e => e.1 == n) = if p (s.ladder n) then [(n, s.ladder n)] else [] := by
  rw [List.filter_filter, List.filter_congr fun e _ => Bool.and_comm .., ← List.filter_filter, SMap.filter_key {} _ n hw]
  change (if s.ladder n = {} then [] else [(n, s.ladder n)]).filter _ = _
  split
  case isTrue h => rw [h, hp]; rfl
  case isFalse => simp [List.filter_cons]

/-- `u` is a state of the same step as `s`, so far as a change of the ladder looks: the ladder in canonical form, the same entries
named, reference mode as it was. -/
structure SameStep (s u : State) : Prop where
  wf : SMap.wf {} u.pc.ladder = true
  named : u.pc.named = s.pc.named
  refMode : u.refMode = s.refMode

/-- From `u` to `v`, in the step of `s`, the ladder's entry `k` has become `f` of what it was, and no other entry differs. -/
structure Moves (s u v : State) (k : Nat) (f : LadderEnt → LadderEnt) : Prop where
  step : SameStep s v
  ladder : ∀ j, v.ladder j = if k = j then f (u.ladder j) else u.ladder j

section
variable {s u v : State} {k n : Nat} {f : LadderEnt → LadderEnt}

theorem SameStep.refl (h : SMap.wf {} s.pc.ladder = true) : SameStep s s := ⟨h, rfl, rfl⟩

theorem SameStep.modLadder (h : SameStep s u) : Moves s u (u.modLadder k f) k f where
  step := ⟨SMap.wf_upd _ _ _ _ h.wf, h.named, h.refMode⟩
  ladder j := by
    split
    case isTrue hj => subst hj; exact SMap.get_upd_same _ _ _ _ h.wf
    case isFalse hj => exact SMap.get_upd_other _ _ _ _ _ fun e => hj e.symm

/-- A state that stays moves an entry that stays. -/
theorem SameStep.stays (h : SameStep s u) (hf : f (u.ladder k) = u.ladder k) : Moves s u u k f where
  step := h
  ladder j := by
    split
    case isTrue hj => rw [← hj, hf]
    case isFalse => rfl

/-- What else the press block counts does not matter. -/
theorem Moves.modPc (h : Moves s u v k f) {c : PcBlk → PcBlk} (hl : (c v.pc).ladder = v.pc.ladder)
    (hn : (c v.pc).named = v.pc.named) (hc : (c v.pc).ctrlNow = v.pc.ctrlNow) : Moves s u (v.modPc c) k f where
  step := ⟨by rw [← h.step.wf, ← hl]; rfl, by rw [← h.step.named, ← hn]; rfl, by
    rw [← h.step.refMode, State.refMode, State.refMode, ← hc]; rfl⟩
  ladder j := by rw [← h.ladder, State.ladder, State.ladder, ← hl]; rfl

/-- A run of moves: each entry has made those of its own number, in their order. -/
theorem SameStep.foldl {β : Type} (key : β → Nat) (f : β → LadderEnt → LadderEnt) (step : State → β → State)
    (hstep : ∀ u b, SameStep s u → Moves s u (step u b) (key b) (f b)) (l : List β) (h : SameStep s u) :
    SameStep s (l.foldl step u) ∧
      ∀ n, (l.foldl step u).ladder n = (l.filter fun b => key b == n).foldl (fun e b => f b e) (u.ladder n) := by
  induction l generalizing u with
  | nil => exact ⟨h, fun _ => rfl⟩
  | cons b l ih =>
    have hb := hstep u b h
    obtain ⟨hs, hl⟩ := ih hb.step
    refine ⟨hs, fun n => ?_⟩
    rw [List.foldl_cons, hl, hb.ladder, List.filter_cons]
    by_cases hk : key b = n <;> simp [hk]

/-! ## At a seam (R110) -/

/-- What one raise to `rung` makes of an entry (R110). -/
def LadderEnt.raiseTo (l : LadderEnt) (rung : Nat) : LadderEnt :=
  { l with rung := max l.rung (min rung l.ceil), raised := true, clean := 0, records := 0 }

theorem foldl_raiseTo (rs : List Nat) (l : LadderEnt) :
    rs.foldl LadderEnt.raiseTo l = if rs = [] then l
      else { l with rung := rs.foldl (fun m r => max m (min r l.ceil)) l.rung, raised := true, clean := 0, records := 0 } := by
  induction rs generalizing l with
  | nil => rfl
  | cons r rs ih =>
    rw [List.foldl_cons, ih]
    cases rs with
    | nil => rfl
    | cons r' rs => rfl

theorem applyRaises_ladder (h : SMap.wf {} s.pc.ladder = true) (g : Nat) (rs : List Raise) (n : Nat) :
    (applyRaises s g rs).ladder n = ((rs.filter fun r => r.entry == n).map (·.rung)).foldl LadderEnt.raiseTo
      { s.ladder n with raised := (s.ladder n).raised && !((s.ladder n).valid && (s.ladder n).gang == g) } := by
  obtain ⟨hs, hl⟩ := SameStep.foldl (fun e : Nat × LadderEnt => e.1) (fun _ l => { l with raised := false })
    (fun s e => s.modLadder e.1 fun l => { l with raised := false }) (fun _ _ hu => hu.modLadder)
    (s.pc.ladder.filter fun e => e.2.valid && e.2.gang == g) (SameStep.refl h)
  obtain ⟨-, hr⟩ := SameStep.foldl (fun r : Raise => r.entry) (fun r l => l.raiseTo r.rung)
    (fun s r => s.modLadder r.entry fun l => l.raiseTo r.rung) (fun _ _ hu => hu.modLadder) rs hs
  refine (hr n).trans ?_
  rw [hl, ladder_filter_key h (fun l => l.valid && l.gang == g) rfl, List.foldl_map]
  congr 1
  cases hv : (s.ladder n).valid && (s.ladder n).gang == g
  · simp
  · simp

theorem applyRaises_tiles (s : State) (g : Nat) (rs : List Raise) : (applyRaises s g rs).tiles = s.tiles := by
  have keep : ∀ {β : Type} (l : List β) (k : β → Nat) (f : β → LadderEnt → LadderEnt) (u : State),
      (l.foldl (fun s b => s.modLadder (k b) (f b)) u).tiles = u.tiles := fun l k f u =>
    foldl_keep (P := fun v : State => v.tiles = u.tiles) l (fun s b => s.modLadder (k b) (f b)) (fun _ _ h => h) u rfl
  exact (keep ..).trans (keep ..)

theorem countSkipped_ladder (s : State) (n : Nat) : (countSkipped s n).pc.ladder = s.pc.ladder := by
  unfold countSkipped
  split <;> rfl

theorem countSkipped_tiles (s : State) (n : Nat) : (countSkipped s n).tiles = s.tiles := by
  unfold countSkipped
  split <;> rfl

/-- What closing a tile's intervals counts and signals, before the tile's own registers are cleared (R102, R110, R120). -/
def closeCounts (t : Nat) (s : State) : State :=
  let x := s.tile t
  let s := countSkipped s ((x.press.map fun v => v.ents.length).sum)
  let s := (x.press.flatMap (·.reqs)).foldl (fun s _ => escFail s) s
  (x.press.filter (·.closed)).foldl (fun s v => signalLocal s x.gang t v.cnt.toNat 1) s

/-- A tile's registers cleared at its seam, one new interval open. -/
def clearPress (n : Nat) (x : Tile) : Tile :=
  { x with press := [{ id := n }], pressCycles := 0, pressOn := none, raises := [], pctVerdict := 0 }

theorem closePress_eq (t : Nat) (s : State) :
    closePress t s = (closeCounts t s).modTile t (clearPress (((s.tile t).press.getLast?.map (·.id + 1)).getD 0)) := rfl

/-- What every step of `closeCounts` keeps is kept. -/
theorem closeCounts_keep {P : State → Prop} (t : Nat) (hskip : ∀ u n, P u → P (countSkipped u n)) (hesc : ∀ u, P u → P (escFail u))
    (hsig : ∀ u c, P u → P (signalLocal u (s.tile t).gang t c 1)) (h : P s) : P (closeCounts t s) := by
  unfold closeCounts
  exact foldl_keep _ _ (fun u (v : Interval) => hsig u v.cnt.toNat) _ (foldl_keep _ _ (fun u _ => hesc u) _ (hskip _ _ h))

theorem closePress_ladder (t : Nat) : (closePress t s).pc.ladder = s.pc.ladder :=
  closeCounts_keep (P := fun u => u.pc.ladder = s.pc.ladder) t (fun u n h => (countSkipped_ladder u n).trans h) (fun _ h => h)
    (fun u c h => (congrArg _ (signalLocal_pc u _ t c 1)).trans h) rfl

theorem closePress_tile_other {t j : Nat} (hj : j ≠ t) : (closePress t s).tile j = s.tile j := by
  rw [closePress_eq, State.tile_modTile_other _ _ _ _ hj]
  exact closeCounts_keep (P := fun u => u.tile j = s.tile j) t
    (fun u n h => by rw [← h, State.tile, countSkipped_tiles]; rfl) (fun _ h => h)
    (fun u c h => (signalLocal_tile_other u _ c 1 hj).trans h) rfl

theorem closeCounts_gang (t : Nat) (hg : (s.tile t).gang.isSome = true) :
    ((closeCounts t s).tile t).gang = (s.tile t).gang :=
  closeCounts_keep (P := fun u => (u.tile t).gang = (s.tile t).gang) t
    (fun u n h => by rw [← h, State.tile, countSkipped_tiles]; rfl) (fun _ h => h)
    (fun u c h => (signalLocal_gang u _ c 1 (by rw [h, hg])).trans h) rfl

/-- A used tile stays its gang's and has no raise left. -/
theorem closePress_tile_same (t : Nat) (hg : (s.tile t).gang.isSome = true) :
    ((closePress t s).tile t).gang = (s.tile t).gang ∧ ((closePress t s).tile t).raises = [] := by
  have hc := closeCounts_gang t hg
  rw [closePress_eq, State.tile_modTile_used _ _ _ (by rw [clearPress, hc, hg])]
  exact ⟨hc, rfl⟩

theorem closePresses_ladder (l : List Nat) : (l.foldl (fun s t => closePress t s) s).pc.ladder = s.pc.ladder :=
  foldl_keep (P := fun u : State => u.pc.ladder = s.pc.ladder) l _ (fun _ t h => (closePress_ladder t).trans h) s rfl

theorem closePresses_raises {t : Nat} (l : List Nat) (hg : (s.tile t).gang.isSome = true) (h : t ∈ l ∨ (s.tile t).raises = []) :
    ((l.foldl (fun s t => closePress t s) s).tile t).raises = [] := by
  induction l generalizing s with
  | nil => exact h.resolve_left List.not_mem_nil
  | cons j l ih =>
    rw [List.foldl_cons]
    by_cases hj : t = j
    · subst hj
      obtain ⟨hgang, hraises⟩ := closePress_tile_same t hg
      exact ih (hgang ▸ hg) (.inr hraises)
    · have ht : (closePress j s).tile t = s.tile t := closePress_tile_other hj
      exact ih (ht ▸ hg) (by rw [ht]; exact h.imp_left fun hm => (List.mem_cons.1 hm).resolve_left hj)

theorem mem_gangTiles {g t : Nat} (h : (s.tile t).gang = some g) : t ∈ s.gangTiles g := by
  have hmem : (t, s.tile t) ∈ s.tiles := (SMap.get_mem ({} : Tile) s.tiles t).resolve_left fun e => by
    rw [State.tile, e] at h
    cases h
  exact List.mem_map.2 ⟨(t, s.tile t), List.mem_filter.2 ⟨hmem, beq_iff_eq.2 h⟩, rfl⟩

/-- The cycle after a gang takes its seam closes its intervals and applies its raise lists (R110, R171). -/
theorem seamCycle_next {g t0 : Nat} (h : (s.gang g).seamAt = some t0) (hc : s.clk.cycle = t0 + 1) :
    seamCycle s g = applyRaises ((s.gangTiles g).foldl (fun s t => closePress t s) s) g
      ((s.tiles.filter fun e => e.2.gang == some g).flatMap fun e => e.2.raises) := by
  unfold seamCycle
  rw [h]
  exact if_pos hc

theorem seamCycle_raises {g t0 t : Nat} (h : (s.gang g).seamAt = some t0) (hc : s.clk.cycle = t0 + 1)
    (ht : (s.tile t).gang = some g) : ((seamCycle s g).tile t).raises = [] := by
  rw [seamCycle_next h hc, State.tile, applyRaises_tiles]
  exact closePresses_raises _ (by rw [ht]; rfl) (.inl (mem_gangTiles ht))

theorem seamCycle_ladder {g t0 : Nat} (hw : SMap.wf {} s.pc.ladder = true) (h : (s.gang g).seamAt = some t0)
    (hc : s.clk.cycle = t0 + 1) (n : Nat) :
    (seamCycle s g).ladder n = (raisedRungs s g n).foldl LadderEnt.raiseTo
      { s.ladder n with raised := (s.ladder n).raised && !((s.ladder n).valid && (s.ladder n).gang == g) } := by
  have hl := closePresses_ladder (s := s) (s.gangTiles g)
  rw [seamCycle_next h hc, applyRaises_ladder (hl ▸ hw), State.ladder, hl]
  rfl

/-! ## At a step commit (R112 to R115) -/

/-- A run of moves of other entries leaves entry `n`. -/
theorem SameStep.foldl_other {β : Type} {key : β → Nat} {step : State → β → State} {l : List β}
    (hstep : ∀ u b, SameStep s u → ∃ f, Moves s u (step u b) (key b) f) (hn : ∀ b ∈ l, key b ≠ n) (h : SameStep s u) :
    SameStep s (l.foldl step u) ∧ (l.foldl step u).ladder n = u.ladder n := by
  refine List.foldlRecOn (motive := fun v => SameStep s v ∧ v.ladder n = u.ladder n) l step ⟨h, rfl⟩ fun v ⟨hv, hl⟩ b hb => ?_
  obtain ⟨f, hf⟩ := hstep v b hv
  exact ⟨hf.step, by rw [hf.ladder, if_neg (hn b hb), hl]⟩

theorem jobwide_of_mem_jobwideList (hw : SMap.wf {} s.pc.ladder = true) (h : k ∈ jobwideList s) : (s.ladder k).jobwide = true := by
  obtain ⟨e, he, rfl⟩ := List.mem_map.1 h
  obtain ⟨hm, hp⟩ := List.mem_filter.1 he
  have hl : s.ladder e.1 = e.2 := SMap.get_of_mem ({} : LadderEnt) _ _ _ hw hm
  rw [hl]
  exact (Bool.and_eq_true_iff.1 hp).2

/-- An entry that is not job-wide is none of those the round moves. -/
theorem ne_of_mem_jobwideList (hw : SMap.wf {} s.pc.ladder = true) (hj : (s.ladder n).jobwide = false) :
    ∀ e ∈ (jobwideList s).zipIdx, e.1 ≠ n := by
  rintro e he rfl
  rw [jobwide_of_mem_jobwideList hw (List.fst_mem_of_mem_zipIdx he)] at hj
  cases hj

theorem applyMarks_other (h : SameStep s u) (mark : BitVec 256) (hj : (u.ladder n).jobwide = false) :
    SameStep s (applyMarks u mark) ∧ (applyMarks u mark).ladder n = u.ladder n := by
  unfold applyMarks
  split
  · exact ⟨h, rfl⟩
  · refine SameStep.foldl_other (fun v e hv => ?_) (ne_of_mem_jobwideList h.wf hj) h
    split
    · exact ⟨_, hv.modLadder.modPc rfl rfl rfl⟩
    · exact ⟨id, hv.stays rfl⟩

theorem lowerGrads_other (h : SameStep s u) (qual : BitVec 256) (hj : (u.ladder n).jobwide = false) :
    SameStep s (lowerGrads u qual) ∧ (lowerGrads u qual).ladder n = u.ladder n := by
  unfold lowerGrads
  split
  · exact ⟨h, rfl⟩
  · refine SameStep.foldl_other (fun v e hv => ?_) (ne_of_mem_jobwideList h.wf hj) h
    dsimp only
    split
    · exact ⟨_, hv.modLadder.modPc rfl rfl rfl⟩
    · exact ⟨id, hv.stays rfl⟩

/-- An entry with one record more of its last four (R114). -/
def LadderEnt.recorded (l : LadderEnt) : LadderEnt := { l with records := min 4 (l.records + 1) }

/-- One entry's step of `appendRecords`. -/
def recordStep (s : State) (e : Nat × LadderEnt) : State :=
  (s.modPc fun p => { p with gsum := SMap.set [] p.gsum e.1 (recsWith s e.1) }).modLadder e.1 LadderEnt.recorded

theorem appendRecords_eq (s : State) : appendRecords s =
    if s.refMode then s else (s.pc.ladder.filter fun e => e.2.valid && e.2.grad).foldl recordStep s := rfl

theorem recordStep_moves (h : SameStep s u) (e : Nat × LadderEnt) : Moves s u (recordStep u e) e.1 LadderEnt.recorded := by
  have hs : SameStep s (u.modPc fun p => { p with gsum := SMap.set [] p.gsum e.1 (recsWith u e.1) }) := ⟨h.wf, h.named, h.refMode⟩
  exact ⟨hs.modLadder.step, hs.modLadder.ladder⟩

/-- The step's gradient record changes RECORDS of the GRAD entries alone (R114). -/
theorem appendRecords_ladder (h : SameStep s u) (href : s.refMode = false) (n : Nat) :
    SameStep s (appendRecords u) ∧ (appendRecords u).ladder n =
      if (u.ladder n).valid && (u.ladder n).grad then (u.ladder n).recorded else u.ladder n := by
  rw [appendRecords_eq, h.refMode, href, if_neg Bool.false_ne_true]
  obtain ⟨hs, hl⟩ := SameStep.foldl (fun e : Nat × LadderEnt => e.1) (fun _ => LadderEnt.recorded) recordStep
    (fun _ e hv => recordStep_moves hv e) (u.pc.ladder.filter fun e => e.2.valid && e.2.grad) h
  refine ⟨hs, ?_⟩
  rw [hl, ladder_filter_key h.wf (fun l => l.valid && l.grad) rfl]
  split <;> rfl

theorem appendRecords_records (h : SameStep s u) (href : s.refMode = false) (n : Nat) :
    ∃ r, (appendRecords u).ladder n = { u.ladder n with records := r } := by
  rw [(appendRecords_ladder h href n).2]
  split
  · exact ⟨_, rfl⟩
  · exact ⟨_, rfl⟩

/-- An entry that a commit may lower: not job-wide, with RELAX, and its rung above BASE (R113). -/
def LadderEnt.mayRelax (l : LadderEnt) : Bool := l.valid && !l.jobwide && l.relax != 0 && l.base < l.rung

/-- CLEAN of an entry once the step is counted, or cleared where a request named it (R113). -/
def cleanNow (named : List Nat) (e : Nat × LadderEnt) : Nat := if named.contains e.1 then 0 else min 255 (e.2.clean + 1)

/-- What the commit makes of the ladder's entry `e` (R113). -/
def relaxBy (named : List Nat) (e : Nat × LadderEnt) : LadderEnt → LadderEnt :=
  if e.2.relax ≤ cleanNow named e then fun l => { l with rung := l.rung - 1, clean := 0 }
  else fun l => { l with clean := cleanNow named e }

/-- One entry's step of `relaxEntries`. -/
def relaxStep (s : State) (e : Nat × LadderEnt) : State :=
  if e.2.relax ≤ cleanNow s.pc.named e then
    (s.modLadder e.1 fun l => { l with rung := l.rung - 1, clean := 0 }).modPc fun p => { p with relax := sat32 (p.relax + 1) }
  else s.modLadder e.1 fun l => { l with clean := cleanNow s.pc.named e }

theorem relaxEntries_eq (s : State) :
    relaxEntries s = if s.refMode then s else (s.pc.ladder.filter fun e => e.2.mayRelax).foldl relaxStep s := rfl

theorem relaxStep_moves (h : SameStep s u) (e : Nat × LadderEnt) : Moves s u (relaxStep u e) e.1 (relaxBy s.pc.named e) := by
  unfold relaxStep relaxBy
  rw [h.named]
  split
  · exact h.modLadder.modPc rfl rfl rfl
  · exact h.modLadder

theorem relaxEntries_ladder (h : SameStep s u) (href : s.refMode = false) (n : Nat) :
    (relaxEntries u).ladder n =
      if (u.ladder n).mayRelax then relaxBy s.pc.named (n, u.ladder n) (u.ladder n) else u.ladder n := by
  rw [relaxEntries_eq, h.refMode, href, if_neg Bool.false_ne_true]
  obtain ⟨-, hl⟩ := SameStep.foldl (fun e : Nat × LadderEnt => e.1) (relaxBy s.pc.named) relaxStep
    (fun _ e hv => relaxStep_moves hv e) (u.pc.ladder.filter fun e => e.2.mayRelax) h
  rw [hl, ladder_filter_key h.wf LadderEnt.mayRelax rfl]
  split <;> rfl

/-- After the relaxation a commit leaves the ladder: the flip, what it drops, and the acknowledgement (R231, R327). -/
theorem doCommit_ladder_relaxEntries (a : Agg) (n : Nat) : (doCommit s a).ladder n =
    (relaxEntries (applyMarks (lowerGrads (appendRecords s) a.qual) a.mark)).ladder n := by
  rw [doCommit, State.ladder, tryAck_pc]
  rfl

/-- A commit moves an entry that is not job-wide by its relaxation alone, but for RECORDS (R113). -/
theorem doCommit_ladder (hw : SMap.wf {} s.pc.ladder = true) (href : s.refMode = false) (hj : (s.ladder n).jobwide = false)
    (a : Agg) : ∃ r, (doCommit s a).ladder n =
      let l := { s.ladder n with records := r }
      if l.mayRelax then relaxBy s.pc.named (n, l) l else l := by
  obtain ⟨h1, -⟩ := appendRecords_ladder (SameStep.refl hw) href n
  obtain ⟨r, hr⟩ := appendRecords_records (SameStep.refl hw) href n
  obtain ⟨h2, hl2⟩ := lowerGrads_other (n := n) h1 a.qual (by rw [hr]; exact hj)
  obtain ⟨h3, hl3⟩ := applyMarks_other (n := n) h2 a.mark (by rw [hl2, hr]; exact hj)
  exact ⟨r, by rw [doCommit_ladder_relaxEntries, relaxEntries_ladder h3 href, hl3, hl2, hr]⟩

theorem mayRelax_iff {l : LadderEnt} (hv : l.valid = true) (hj : l.jobwide = false) :
    l.mayRelax = true ↔ l.relax ≠ 0 ∧ l.base < l.rung := by
  simp [LadderEnt.mayRelax, hv, hj]

end

/-- Settles O57: the seam's raises are one run over the ladder after RAISED of the gang's entries is cleared; of what a commit does
only the relaxation moves an entry that is not job-wide. -/
theorem ladderMovesAtSeamAndCommit : Obligations.LadderMovesAtSeamAndCommit := by
  intro s g n hw
  refine ⟨fun t0 hseam hcyc _ => ⟨fun t ht => seamCycle_raises hseam hcyc ht, ?_⟩, fun a href hv hj hclean => ?_⟩
  · exact (seamCycle_ladder hw hseam hcyc n).trans (foldl_raiseTo _ _)
  · obtain ⟨r, hr⟩ := doCommit_ladder hw href hj a
    have hmay := mayRelax_iff (l := { s.ladder n with records := r }) hv hj
    have hc : cleanNow s.pc.named (n, { s.ladder n with records := r }) = if n ∈ s.pc.named then 0 else (s.ladder n).clean + 1 := by
      simp only [cleanNow, List.contains_iff_mem]
      split
      · rfl
      · omega
    dsimp only
    rw [hr]
    dsimp only
    split
    case isTrue h =>
      have hfalls := hmay.1 h
      dsimp only at hfalls
      rw [relaxBy, hc]
      by_cases hrel : (s.ladder n).relax ≤ if n ∈ s.pc.named then 0 else (s.ladder n).clean + 1 <;> simp [hfalls, hrel]
    case isFalse h =>
      have hstays := mt hmay.2 h
      dsimp only at hstays
      simp [hstays]

end Sys2Proof.Machine
end

section
/-! SUPPORT. The block at reset: O54. -/

namespace Sys2Proof.Machine
open Sys2Proof.Claims

theorem reset_canon : Canon State.reset :=
  ⟨⟨rfl, rfl, rfl, rfl⟩, rfl, rfl, rfl, rfl, rfl, rfl, fun _ => ⟨rfl, rfl⟩⟩

theorem reset_ringOk : RingOk State.reset := ⟨Nat.zero_le _, fun _ h => by cases h⟩

/-- Settles O54: each register stands at the value that the declaration of its field gives, and no indexed part lists anything. -/
theorem resetValues : Obligations.ResetValues := by
  refine ⟨⟨reset_canon, reset_ringOk⟩, rfl, rfl, rfl, rfl, rfl, rfl, rfl, rfl, rfl, rfl, rfl, rfl, rfl, rfl, rfl, rfl, rfl, rfl, rfl,
    rfl, ?_⟩
  exact ⟨fun _ => rfl, fun _ => rfl, fun _ => ⟨rfl, rfl, rfl⟩, fun _ => rfl, fun _ => rfl, rfl, rfl, rfl, rfl⟩

end Sys2Proof.Machine
end

section
/-! SUPPORT. Fields of the thread instruction formats, and the words that spell an instruction: O55, O56. -/

namespace Sys2Proof.Machine
open Sys2Proof.Claims

/-! ## Fields of a word put together (R186) -/

section
variable {m n : Nat} (x : BitVec m) (y : BitVec n) {lo len : Nat}

/-- A field of the low part. The word's width may stand as one number, so it is not looked at when `simp` picks the lemma. -/
theorem fld_append_low (h : lo + len ≤ n) : fld (no_index (x ++ y)) lo len = fld y lo len :=
  BitVec.extractLsb'_append_eq_of_add_le h

/-- A field of the high part. -/
theorem fld_append_high (h : n ≤ lo) : fld (no_index (x ++ y)) lo len = fld x (lo - n) len :=
  BitVec.extractLsb'_append_eq_of_le h

theorem fld_all : fld y 0 n = y := BitVec.extractLsb'_eq_self

theorem fldN_eq : fldN y lo len = (fld y lo len).toNat := rfl

end

/-- A flag put into a word is the bit of its place. -/
theorem bitB_eq_of_fld {w i : Nat} {x : BitVec w} {b : Bool} (h : fld x i 1 = BitVec.ofBool b) : bitB x i = b := by
  have hb := congrArg (BitVec.getLsbD · 0) h
  simpa [fld, bitB] using hb

/-! ## The formats (R186) -/

section
variable (op : BitVec 8)

theorem decodeT_encodeT (f : TFields) : decodeT (encodeT op f) = f := by
  have hdl : bitB (encodeT op f) 28 = f.dl := bitB_eq_of_fld (by simp [encodeT, fld_append_low, fld_append_high, fld_all])
  simp only [decodeT, hdl]
  simp [encodeT, fld_append_low, fld_append_high, fld_all]

theorem decodeD_encodeD (f : DFields) : decodeD (encodeD op f) = f := by
  have hdl : bitB (encodeD op f) 36 = f.dl := bitB_eq_of_fld (by simp [encodeD, fld_append_low, fld_append_high, fld_all])
  simp only [decodeD, hdl]
  simp [encodeD, fld_append_low, fld_append_high, fld_all]

theorem decodeN_encodeN (f : NFields) : decodeN (encodeN op f) = f := by
  simp [decodeN, encodeN, fld_append_low, fld_append_high, fld_all]

end

/-- Settles O55: OP tells the instructions apart, and each format's fields read back as they were laid down. -/
theorem threadWordsRoundTrip : Obligations.ThreadWordsRoundTrip := by
  intro i t th w h
  unfold encodeThread at h
  split at h
  case h_38 => cases h
  case h_25 | h_26 => -- NOP and HALT, words without a field
    cases h
    rfl
  case h_31 | h_32 | h_33 | h_34 => -- the T format
    cases h
    simp only [decodeThread, decodeT_encodeT]
    simp [fldN_eq, encodeT, fld_append_low, fld_all]
  case h_35 => -- the D format
    cases h
    simp only [decodeThread, decodeD_encodeD]
    simp [fldN_eq, encodeD, fld_append_low, fld_all]
  case h_36 | h_37 => -- the N format
    cases h
    simp only [decodeThread, decodeN_encodeN]
    simp [fldN_eq, encodeN, fld_append_low, fld_all]
  all_goals -- the R, I, W and S formats
    cases h
    simp [decodeThread, fldN_eq, encodeR, encodeI, fld_append_low, fld_append_high, fld_all]

/-- Settles O56: each word decodes by its fields (R186, R187). -/
theorem threadWordsDecode : Obligations.ThreadWordsDecode := by
  refine ⟨rfl, rfl, rfl, rfl, rfl, rfl, rfl, rfl, ?_⟩
  decide

end Sys2Proof.Machine
end

section
/-! SUPPORT. A thread's instruction from its issue to the context it leaves: O1, O3. -/

namespace Sys2Proof.Machine
open Sys2Proof.Claims

/-! ## What issues in this cycle (R156, R157, R185) -/

/-- What a word decodes to is a thread instruction of the tile and thread it was decoded for. -/
theorem encodeThread_of_decodeThread {t th : Nat} {w : BitVec 64} {i : Instr} (h : decodeThread t th w = some i) :
    ∃ v, encodeThread i = some (t, th, v) := by
  unfold decodeThread at h
  dsimp only at h
  split at h <;> cases h <;> exact ⟨_, rfl⟩

section
variable {s : State} {t th : Nat} {i : Instr} {w : BitVec 64}

/-- The thread of an instruction that issues is in RUN. -/
theorem canIssue_run (h : canIssue s t i = true) (hi : encodeThread i = some (t, th, w)) : (s.ctx t th).st = .run := by
  obtain ⟨-, -, th', v, hd, hrun⟩ := canIssue_spec h
  obtain ⟨w', hw⟩ := encodeThread_of_decodeThread hd
  cases hi.symm.trans hw
  exact hrun

theorem canIssue_used (h : canIssue s t i = true) : (s.tile t).gang.isSome = true := (canIssue_spec h).1

/-- Instructions issue only while a job is bound (R213). -/
theorem canIssue_bound (h : canIssue s t i = true) : s.bound = true := by
  have hissues : tileIssues s t = true := by
    by_contra hn
    simp [canIssue, issueNext, hn] at h
  simp only [tileIssues, tilesRun, Bool.and_eq_true] at hissues
  obtain ⟨⟨⟨⟨⟨-, hbound⟩, -⟩, -⟩, -⟩, -⟩ := hissues
  exact hbound

theorem issued_of_canIssue (h : canIssue s t i = true) (body : State → State) :
    issued s t th i body = body (beginIssue s t th) := if_pos h

/-! ## An issue that succeeds (R157, R181, R188) -/

/-- The tile in which the instruction of thread `th` has succeeded. -/
theorem issueOk_tile (th : Nat) (f : Ctx → Ctx) (hg : (s.tile t).gang.isSome = true) :
    (issueOk s t th f).tile t = { (s.tile t).setCtx th (f (s.ctx t th)) with
      ts := { (s.tile t).ts with issued := sat64 ((s.tile t).ts.issued + 1) } } := by
  have hset : (s.setCtx t th (f (s.ctx t th))).tile t = (s.tile t).setCtx th (f (s.ctx t th)) := State.tile_modTile_used _ _ _ hg
  rw [issueOk, countIssue, State.tile_modTile_used _ _ _ (by rw [hset]; exact hg), hset]
  rfl

theorem issueOk_tile_other (th : Nat) (f : Ctx → Ctx) {u : Nat} (hu : u ≠ t) : (issueOk s t th f).tile u = s.tile u :=
  (State.tile_modTile_other _ _ _ _ hu).trans (State.tile_modTile_other _ _ _ _ hu)

theorem issueOk_rest (t th : Nat) (f : Ctx → Ctx) : { issueOk s t th f with tiles := s.tiles } = s := rfl

/-- The context of the issuing thread as its instruction finds it. -/
def issuing (s : State) (t th : Nat) : Ctx := { s.ctx t th with waiting := false }

theorem beginIssue_ctx (h : canIssue s t i = true) (hi : encodeThread i = some (t, th, w)) :
    (beginIssue s t th).ctx t th = issuing s t th :=
  (beginIssue_spec s t th (canIssue_used h) (canIssue_run h hi)).1

/-- Of its tile an issue that begins changes only what is the sequencer's own. -/
theorem beginIssue_tile (h : canIssue s t i = true) (hi : encodeThread i = some (t, th, w)) :
    ∃ fl la, (beginIssue s t th).tile t =
      { s.tile t with threads := ((beginIssue s t th).tile t).threads, last := la, issuedNow := true, fills := fl } := by
  obtain ⟨-, -, ht, -⟩ := beginIssue_spec s t th (canIssue_used h) (canIssue_run h hi)
  exact ht

theorem beginIssue_gang (h : canIssue s t i = true) (hi : encodeThread i = some (t, th, w)) :
    ((beginIssue s t th).tile t).gang = (s.tile t).gang := by
  obtain ⟨fl, la, ht⟩ := beginIssue_tile h hi
  rw [ht]

theorem beginIssue_used (h : canIssue s t i = true) (hi : encodeThread i = some (t, th, w)) :
    ((beginIssue s t th).tile t).gang.isSome = true := by
  rw [beginIssue_gang h hi]
  exact canIssue_used h

/-- The issue and the context it leaves, which is `f` of the one the instruction finds, are all that happens. -/
theorem issueOk_threadStep {f g : Ctx → Ctx} (h : canIssue s t i = true) (hi : encodeThread i = some (t, th, w))
    (hfg : f (issuing s t th) = g (issuing s t th)) (hst : (g (issuing s t th)).st ≠ .empty) :
    ThreadStep s (issueOk (beginIssue s t th) t th f) t th g := by
  have htile := issueOk_tile th f (beginIssue_used h hi)
  obtain ⟨hctx, hothers, ⟨fl, la, hbegun⟩, htiles, hrest⟩ := beginIssue_spec s t th (canIssue_used h) (canIssue_run h hi)
  change (beginIssue s t th).ctx t th = issuing s t th at hctx
  have hne : g (issuing s t th) ≠ Ctx.empty := fun e => hst (by rw [e]; rfl)
  refine ⟨?_, fun j hj => ?_, ?_, ?_, fun u hu => (issueOk_tile_other th f hu).trans (htiles u hu), hrest⟩
  · rw [State.ctx, htile, hctx, hfg]
    exact Tile.ctx_setCtx_same _ _ _ hne
  · rw [State.ctx, htile]
    exact (Tile.ctx_setCtx_other _ _ _ _ hj).trans (hothers j hj)
  · rw [htile, hbegun]
  · rw [htile, hbegun]
    rfl

/-! ## Scalar and control instructions (R188) -/

variable {next : Ctx → Word} {f g : Ctx → Ctx}

/-- A scalar instruction completes with its context, where it looks only at registers and PC, and leaves the thread in no
empty context. -/
theorem completes_scalar (hi : encodeThread i = some (t, th, w)) (hexec : exec i s = .next (scalar s t th i next f))
    (hg : ∀ c, { f c with pc := next c } = g c) (hnext : ∀ c, (g { c with waiting := false }).pc = (g c).pc)
    (hst : ∀ c, c.st = .run → (f c).st ≠ .empty) : Completes s t th i g := by
  intro h hpc
  have hctx := beginIssue_ctx h hi
  have hok : pcOk (next (issuing s t th)) = true := by
    rw [← hpc, ← hnext (s.ctx t th), ← hg]
    rfl
  refine ⟨_, hexec, ?_⟩
  rw [scalar, issued_of_canIssue h]
  dsimp only
  rw [hctx, if_pos hok]
  exact issueOk_threadStep h hi (hg _) (by rw [← hg]; exact hst _ (canIssue_run h hi))

/-- An operation on two registers. -/
theorem completes_alu {sd sa sb : BitVec 4} {op : Word → Word → Word} {v : Ctx → Word} (hi : encodeThread i = some (t, th, w))
    (hexec : exec i s = .next (alu s t th i sd sa sb op)) (hv : ∀ c, op (get c sa) (get c sb) = v c) :
    Completes s t th i (write sd v) :=
  completes_scalar hi hexec (fun c => by rw [write, ← hv]; rfl) (fun _ => rfl) fun c hc => by simp [setReg, hc]

/-- A comparison of two registers. -/
theorem completes_branch {sa sb : BitVec 4} {imm : Word} {cmp : Word → Word → Bool} {b : Ctx → Bool}
    (hi : encodeThread i = some (t, th, w)) (hexec : exec i s = .next (branch s t th i sa sb imm cmp))
    (hb : ∀ c, cmp (get c sa) (get c sb) = b c) :
    Completes s t th i fun c => { c with pc := if b c then imm else c.pc + 8 } := by
  have hb' : ∀ c, b { c with waiting := false } = b c := fun c => (hb _).symm.trans (hb c)
  refine completes_scalar hi hexec (fun c => ?_) (fun c => by simp only [hb']) fun c hc => by simp [hc]
  rw [← hb]
  rfl

end

/-- Settles O1: NOP, HALT and WAIT are scalar instructions; SEAM succeeds where no other mark stands in its gang. -/
theorem threadControlCompletes : Obligations.ThreadControlCompletes := by
  intro s t th sa cnt imm tset
  refine ⟨completes_scalar rfl rfl (fun _ => rfl) (fun _ => rfl) fun c hc => by simp [hc],
    completes_scalar rfl rfl (fun _ => rfl) (fun _ => rfl) fun c _ => by simp,
    completes_scalar rfl rfl (fun _ => rfl) (fun _ => rfl) fun c hc => by simp [hc], fun h hpc hmark => ?_⟩
  have hctx := beginIssue_ctx h rfl
  refine ⟨issueOk (beginIssue s t th) t th fun c => { c with pc := pcNext c, st := .seam, markNo := imm, markSet := tset }, ?_,
    issueOk_threadStep h rfl rfl (by simp)⟩
  rw [← beginIssue_gang h rfl] at hmark
  have hpc' : pcOk (pcNext (issuing s t th)) = true := hpc
  change execSeam t th imm tset s = _
  rw [execSeam, issued_of_canIssue h, hctx, hpc', hmark]
  rfl

section
variable {s : State} {t th : Nat} {i : Instr} {w : BitVec 64}

/-- The shifts take bits [4:0] of their second operand (R187). -/
theorem fldN_shift (b : Word) : fldN b 0 5 = b.toNat % 32 := by
  simp [fldN, BitVec.extractLsb'_toNat]

theorem flag01_ult (a b : Word) : flag01 (a.ult b) = if a.toNat < b.toNat then 1 else 0 := by
  simp [flag01, BitVec.ult]

theorem flag01_slt (a b : Word) : flag01 (a.slt b) = if a.toInt < b.toInt then 1 else 0 := by
  simp [flag01, BitVec.slt]

theorem not_ult_eq (a b : Word) : (!a.ult b) = decide (b.toNat ≤ a.toNat) := by
  simp [BitVec.ult, ← decide_not]

theorem not_slt_eq (a b : Word) : (!a.slt b) = decide (b.toInt ≤ a.toInt) := by
  simp [BitVec.slt, ← decide_not]

/-! ## The reads of RDSYS and RDTR (R189) -/

theorem sysValue_beginIssue (imm : Word) (h : canIssue s t i = true) (hi : encodeThread i = some (t, th, w)) :
    sysValue (beginIssue s t th) t th imm = sysValue s t th imm := by
  obtain ⟨fl, la, ht⟩ := beginIssue_tile h hi
  unfold sysValue
  rw [ht]
  rfl

theorem completes_rdsys (sd : BitVec 4) {imm v : Word} (hv : sysValue s t th imm = some v) :
    Completes s t th (.rdsys t th sd imm) (write sd fun _ => v) := by
  intro h hpc
  have hctx := beginIssue_ctx h rfl
  have hpc' : pcOk (pcNext (issuing s t th)) = true := hpc
  refine ⟨issueOk (beginIssue s t th) t th fun c => { setReg c sd v with pc := pcNext c }, ?_,
    issueOk_threadStep h rfl rfl (by simp [write, issuing, canIssue_run h rfl])⟩
  change execRdsys t th sd imm s = _
  rw [execRdsys, issued_of_canIssue h, sysValue_beginIssue imm h rfl, hv]
  dsimp only
  rw [hctx, if_pos hpc']

theorem completes_rdtr (sd : BitVec 4) {sa : BitVec 4} {imm : Word} (halign : (get (s.ctx t th) sa + imm).toNat % 4 = 0)
    (hlow : (get (s.ctx t th) sa + imm).toNat < 0x10000) : Completes s t th (.rdtr t th sd sa imm) (write sd fun c =>
      tileWord ((beginIssue s t th).modTile t fun x => { x with ec := x.ecPrev }) t (get c sa + imm).toNat) := by
  intro h hpc
  have hctx := beginIssue_ctx h rfl
  have hpc' : pcOk (pcNext (issuing s t th)) = true := hpc
  have halign' : (reg (issuing s t th) sa + imm).toNat % 4 = 0 := halign
  have hlow' : (reg (issuing s t th) sa + imm).toNat < 0x10000 := hlow
  refine ⟨issueOk (beginIssue s t th) t th fun c => { setReg c sd (tileWord ((beginIssue s t th).modTile t fun x =>
      { x with ec := x.ecPrev }) t (reg (issuing s t th) sa + imm).toNat) with pc := pcNext c }, ?_,
    issueOk_threadStep h rfl rfl (by simp [write, issuing, canIssue_run h rfl])⟩
  change execRdtr t th sd sa imm s = _
  rw [execRdtr, issued_of_canIssue h]
  dsimp only
  rw [hctx, if_neg (by simp only [hpc', halign', Nat.not_le.2 hlow', Bool.not_true, bne_self_eq_false, decide_false, Bool.or_self,
    Bool.false_eq_true, not_false_eq_true])]

/-! ## A PC that may not be set (R168, R188, R206) -/

/-- The tile and thread whose PC an instruction sets are those it is encoded for. -/
theorem encodeThread_of_pcAfter {next : Ctx → Word} (h : pcAfter i = some (t, th, next)) :
    ∃ v, encodeThread i = some (t, th, v) := by
  unfold pcAfter at h
  split at h <;> cases h <;> exact ⟨_, rfl⟩

/-- No such PC depends on whether the thread waits. -/
theorem pcAfter_waiting {next : Ctx → Word} (hi : pcAfter i = some (t, th, next)) (c : Ctx) (b : Bool) :
    next { c with waiting := b } = next c := by
  unfold pcAfter at hi
  split at hi <;> cases hi <;> rfl

theorem scalar_badPc {next : Ctx → Word} {f : Ctx → Ctx} (h : canIssue s t i = true)
    (hpc : pcOk (next ((beginIssue s t th).ctx t th)) = false) :
    scalar s t th i next f = issueFault (beginIssue s t th) t th 2 := by
  rw [scalar, issued_of_canIssue h]
  dsimp only
  rw [hpc]
  rfl

/-- An instruction that would leave such a PC faults, whatever else it does. -/
theorem exec_badPc {next : Ctx → Word} (h : canIssue s t i = true) (hi : pcAfter i = some (t, th, next))
    (hpc : pcOk (next ((beginIssue s t th).ctx t th)) = false) :
    exec i s = .next (issueFault (beginIssue s t th) t th 2) := by
  unfold pcAfter at hi
  split at hi
  case h_28 => cases hi
  all_goals cases hi
  case h_7 | h_9 => -- BGEU and BGE, whose comparisons the model writes as the negations of BLTU's and BLT's
    simp only [← not_ult_eq, ← not_slt_eq] at hpc
    exact congrArg Host.Outcome.next (scalar_badPc h hpc)
  case h_26 => -- PRESS_POINT
    refine congrArg Host.Outcome.next ((issued_of_canIssue h _).trans (if_pos ?_))
    rw [pcNext, hpc]
    rfl
  case h_27 => -- SEAM
    refine congrArg Host.Outcome.next ((issued_of_canIssue h _).trans (if_pos ?_))
    rw [pcNext, hpc]
    rfl
  all_goals exact congrArg Host.Outcome.next (scalar_badPc h hpc)

/-- What the fault of such a PC is, before the step is abandoned: the thread in FAULT, the record in TS_FAULT, the gang frozen and
DATA set (R168, R225). -/
theorem badPc_fault {next : Ctx → Word} {g : Nat} (h : canIssue s t i = true) (hi : pcAfter i = some (t, th, next))
    (hpc : pcOk (next (s.ctx t th)) = false) (hg : (s.tile t).gang = some g) :
    ∃ u, exec i s = .next (abandonStep u) ∧
      (u.ctx t th).st = .fault ∧ (u.ctx t th).pc = (s.ctx t th).pc ∧ (u.ctx t th).regs = (s.ctx t th).regs ∧
      (u.tile t).ts.faults = sat32 ((s.tile t).ts.faults + 1) ∧
      (u.tile t).ts.fault = (if bitB (s.tile t).ts.fault 63 then (s.tile t).ts.fault
        else pack 64 [(0, 8, 7), (8, 8, 0xFF), (16, 8, s.slotN), (24, 12, th), (63, 1, 1)]) ∧
      (u.gang g).frozen = true ∧ bitB u.stg.loc 3 = true ∧
      (∀ v, v ≠ t → u.tile v = s.tile v) ∧ u.mem = s.mem ∧ u.trust = s.trust := by
  obtain ⟨v, henc⟩ := encodeThread_of_pcAfter hi
  have hctx := beginIssue_ctx h henc
  obtain ⟨-, -, ⟨fl, la, hbegun⟩, hothers, -⟩ := beginIssue_spec s t th (canIssue_used h) (canIssue_run h henc)
  have hbound : s.bound = true := canIssue_bound h
  obtain ⟨u, hfault, hown, -, htile, htiles, hfrozen, hstg, hframe⟩ :=
    slotFault_thread (beginIssue s t th) t th g 7 0xFF s.slotN 2 ((beginIssue_gang h henc).trans hg) hbound
  have hexec : exec i s = .next (abandonStep u) := by
    rw [exec_badPc h hi (by rw [hctx, issuing, pcAfter_waiting hi, hpc]), ← hfault]
    rfl
  have hts : ((beginIssue s t th).tile t).ts = (s.tile t).ts := by rw [hbegun]
  rw [hctx] at hown
  rw [hts] at htile
  refine ⟨u, hexec, by rw [hown], by rw [hown]; rfl, by rw [hown]; rfl, by rw [htile], by rw [htile], hfrozen, ?_,
    fun j hj => (htiles j hj).trans (hothers j hj), (congrArg State.mem hframe :), (congrArg State.trust hframe :)⟩
  rw [hstg]
  simp [bitB]

end

/-- Settles O3: each instruction is one change of its thread's context, and each that would leave a PC that may not be set faults. -/
theorem scalarInstructionsExecute : Obligations.ScalarInstructionsExecute := by
  refine ⟨fun s t th sd sa sb => ?_, fun s t th sd sa imm => ?_, fun s t th sd sa sb imm => ?_,
    fun s t th g i next h hi hpc hg => badPc_fault h hi hpc hg⟩
  · refine ⟨?_, ?_, ?_, ?_, ?_, ?_, ?_, ?_, ?_, ?_, ?_⟩
    case refine_6 | refine_7 | refine_8 => -- SHL, SHR, SRA
      exact completes_alu rfl rfl fun c => by rw [fldN_shift]
    case refine_10 => exact completes_alu rfl rfl fun c => flag01_ult _ _ -- SLTU
    case refine_11 => exact completes_alu rfl rfl fun c => flag01_slt _ _ -- SLT
    all_goals exact completes_alu rfl rfl fun _ => rfl
  · exact ⟨completes_scalar rfl rfl (fun _ => rfl) (fun _ => rfl) fun c hc => by simp [setReg, hc],
      completes_scalar rfl rfl (fun _ => rfl) (fun _ => rfl) fun c hc => by simp [setReg, hc],
      fun _ hv => completes_rdsys sd hv, fun ⟨halign, hlow⟩ => completes_rdtr sd halign hlow⟩
  · refine ⟨?_, ?_, ?_, ?_, ?_, ?_, ?_, ?_, ?_⟩
    case refine_1 | refine_3 => -- JMP, JR
      exact completes_scalar rfl rfl (fun _ => rfl) (fun _ => rfl) fun c hc => by simp [hc]
    case refine_2 => -- JAL
      exact completes_scalar rfl rfl (fun _ => rfl) (fun _ => rfl) fun c hc => by simp [setReg, hc]
    case refine_7 => exact completes_branch rfl rfl fun c => not_ult_eq _ _ -- BGEU
    case refine_9 => exact completes_branch rfl rfl fun c => not_slt_eq _ _ -- BGE
    all_goals exact completes_branch rfl rfl fun _ => rfl

end Sys2Proof.Machine
end

section
/-! SUPPORT. Operations put into their start latches: O5. -/

namespace Sys2Proof.Machine
open Sys2Proof.Claims

section
variable {s : State} {t th : Nat} {i : Instr} {w : BitVec 64}

/-! ## The start latch (R162, R195) -/

theorem beginIssue_nextOp (h : canIssue s t i = true) (hi : encodeThread i = some (t, th, w)) :
    ((beginIssue s t th).tile t).nextOp = (s.tile t).nextOp := by
  obtain ⟨fl, la, hbegun⟩ := beginIssue_tile h hi
  rw [hbegun]

/-- Where the checks of R195 pass, the thread's PC steps and the operation stands last among the tile's. -/
theorem launch_of_fits {us : List Use} {ts : Nat} {mk : Nat → Op} (h : Fits s t th us) :
    launch s t th ts us none mk = (issueOk s t th fun c => { c with pc := c.pc + 8 }).modTile t fun x =>
      { x with ops := x.ops ++ [mk x.nextOp], nextOp := x.nextOp + 1 } := by
  obtain ⟨hlatch, hown, hfree⟩ := h
  simp only [launch, hlatch, hown, hfree, Bool.false_eq_true, if_false]

theorem launch_tile {us : List Use} {ts : Nat} {mk : Nat → Op} (h : Fits s t th us) (hg : (s.tile t).gang.isSome = true) :
    (launch s t th ts us none mk).tile t = { (issueOk s t th fun c => { c with pc := c.pc + 8 }).tile t with
      ops := (s.tile t).ops ++ [mk (s.tile t).nextOp], nextOp := (s.tile t).nextOp + 1 } := by
  have htile := issueOk_tile th (fun c => { c with pc := c.pc + 8 }) hg
  rw [launch_of_fits h, State.tile_modTile_used _ _ _ (by rw [htile]; exact hg), htile]
  rfl

/-- An instruction whose operation fits has latched it. -/
theorem launch_latched {us : List Use} {ts : Nat} {mk : Nat → Op} (h : canIssue s t i = true)
    (hi : encodeThread i = some (t, th, w)) (hfits : Fits (beginIssue s t th) t th us) :
    Latched s (launch (beginIssue s t th) t th ts us none mk) t th (mk (s.tile t).nextOp) := by
  have hstep := issueOk_threadStep (f := fun c => { c with pc := c.pc + 8 }) (g := fun c => { c with pc := c.pc + 8 }) h hi rfl
    (by simp [issuing, canIssue_run h hi])
  have htile := launch_tile (ts := ts) (mk := mk) hfits (beginIssue_used h hi)
  obtain ⟨fl, la, hbegun⟩ := beginIssue_tile h hi
  have hops : ((beginIssue s t th).tile t).ops = (s.tile t).ops := by rw [hbegun]
  rw [hops, beginIssue_nextOp h hi] at htile
  refine ⟨?_, ?_, ?_, ?_, fun j hj => ?_, ?_, fun j hj => ?_, ?_⟩
  · rw [htile]
    exact List.getLast?_concat ..
  · rw [htile]
    exact List.length_append ..
  · rw [htile]
  · rw [State.ctx, htile]
    exact hstep.own
  · rw [State.ctx, htile]
    exact hstep.others j hj
  · rw [htile, hstep.tile]
    exact ⟨rfl, rfl, rfl, rfl, rfl⟩
  · rw [launch_of_fits hfits, State.tile_modTile_other _ _ _ _ hj]
    exact hstep.tiles j hj
  · rw [launch_of_fits hfits]
    rfl

theorem launch_outUsed {us : List Use} {ts : Nat} {mk : Nat → Op} (h : canIssue s t i = true)
    (hi : encodeThread i = some (t, th, w)) (hfits : Fits (beginIssue s t th) t th us) (c : Bool) :
    outUsed ((launch (beginIssue s t th) t th ts us none mk).tile t) c = outUsed (s.tile t) c := by
  obtain ⟨fl, la, hbegun⟩ := beginIssue_tile h hi
  rw [launch_tile hfits (beginIssue_used h hi), issueOk_tile th _ (beginIssue_used h hi), hbegun]
  rfl

theorem launch_gang {us : List Use} {ts : Nat} {mk : Nat → Op} (h : Fits s t th us) (hg : (s.tile t).gang.isSome = true) :
    ((launch s t th ts us none mk).tile t).gang = (s.tile t).gang := by
  rw [launch_tile h hg, issueOk_tile th _ hg]
  rfl

theorem launch_pc {us : List Use} {ts : Nat} {mk : Nat → Op} (h : Fits s t th us) :
    (launch s t th ts us none mk).pc = s.pc := by
  rw [launch_of_fits h]
  rfl

/-! ## Operations that a descriptor plans (R194, R195) -/

/-- The operation that thread `th` issues for plan `p`, from cycle `ts`. -/
def plannedOp (kind : OpKind) (th ts : Nat) (p : Plan) (id : Nat) : Op :=
  { id := id, kind := kind, thread := th, desc := p.desc, ts := ts, fin := p.fin, uses := p.uses }

/-- An operation whose descriptor is valid and whose plan fits goes into its start latch, and what its kind does beside follows. -/
theorem issueOp_of_fits {f : TFields} {optype : Nat} {kind : OpKind}
    {off : Beat → Option Word × Option Word × Option Word → Option Beat} {plan : State → Nat → Beat → Nat → Option Plan}
    {after : State → Nat → Beat → State} {d e : Beat} {p : Plan} (h : canIssue s t i = true)
    (hi : encodeThread i = some (t, th, w)) (hd : latchDesc (beginIssue s t th) t th f.dl optype = .ok d)
    (he : off d (offRegs ((beginIssue s t th).ctx t th) f) = some e)
    (hp : plan (beginIssue s t th) t e (startCycle s f.phase) = some p) (hhaz : p.hazard = none)
    (hfits : Fits (beginIssue s t th) t th p.uses) :
    issueOp s t th i f optype kind off plan after =
      after (launch (beginIssue s t th) t th (startCycle s f.phase) p.uses none (plannedOp kind th (startCycle s f.phase) p))
        (s.tile t).nextOp p.desc := by
  have hstart : startCycle (beginIssue s t th) f.phase = startCycle s f.phase := rfl
  have hnext : ((launch (beginIssue s t th) t th (startCycle s f.phase) p.uses none
      (plannedOp kind th (startCycle s f.phase) p)).tile t).nextOp ≠ (s.tile t).nextOp := by
    rw [(launch_latched h hi hfits).next]
    omega
  rw [issueOp, issued_of_canIssue h]
  simp only [hd, hstart, he, Option.bind_some, hp, hhaz, beginIssue_nextOp h hi]
  exact if_neg hnext

/-! ## Messages and descriptor loads (R193, R205) -/

theorem beatsOk_of_le {a n : Nat} (halign : a % 64 = 0) (hend : a + 64 * n ≤ 2097152) : beatsOk a n = true := by
  simp [beatsOk, spBytes, halign, hend]

/-- A descriptor load from an aligned address. -/
theorem exec_dload {f : DFields} (h : canIssue s t (.dload t th f) = true) (hpc : pcOk ((s.ctx t th).pc + 8) = true)
    (hb : beatsOk (get (s.ctx t th) f.sa + f.imm.setWidth 32).toNat 1 = true) :
    let a := (get (s.ctx t th) f.sa + f.imm.setWidth 32).toNat
    let ts := startCycle s f.phase
    exec (.dload t th f) s = .next (launch (beginIssue s t th) t th ts [⟨a / 0x20000, ts, ts⟩] none fun id =>
      { id := id, kind := .dload, thread := th, ts := ts, fin := ts, uses := [⟨a / 0x20000, ts, ts⟩], addr := a, cnt := f.cnt
        dl := f.dl }) := by
  intro a ts
  have hpc' : pcOk (pcNext (issuing s t th)) = true := hpc
  have hb' : beatsOk (reg (issuing s t th) f.sa + f.imm.setWidth 32).toNat 1 = true := hb
  change execDload t th f s = _
  rw [execDload, issued_of_canIssue h]
  dsimp only
  rw [beginIssue_ctx h rfl, hpc', hb']
  rfl

/-- A send or a receive from an aligned address. -/
theorem issueNet_eq {n : NFields} {kind : OpKind} {port : Nat} (h : canIssue s t i = true) (hi : encodeThread i = some (t, th, w))
    (hpc : pcOk ((s.ctx t th).pc + 8) = true) (hb : beatsOk (get (s.ctx t th) n.sa).toNat (n.nflit.toNat + 1) = true) :
    let a := (get (s.ctx t th) n.sa).toNat
    let ts := startCycle s n.phase
    let us := (⟨port + n.port.toNat, ts, ts + n.nflit.toNat⟩ : Use) :: rowUses a (n.nflit.toNat + 1) ts
    issueNet s t th i n kind port = launch (beginIssue s t th) t th ts us none fun id =>
      { id := id, kind := kind, thread := th, ts := ts, fin := ts + n.nflit.toNat, uses := us, addr := a, cnt := n.cnt
        port := n.port, nflit := n.nflit.toNat } := by
  intro a ts us
  have hpc' : pcOk (pcNext (issuing s t th)) = true := hpc
  have hb' : beatsOk (reg (issuing s t th) n.sa).toNat (n.nflit.toNat + 1) = true := hb
  rw [issueNet, issued_of_canIssue h]
  dsimp only
  rw [beginIssue_ctx h hi, hpc', hb']
  rfl

/-! ## Transfers (R194, R201, R254) -/

/-- The plan of a transfer looks at the ladder, and of its tile at the gang, the raises and the memories. -/
theorem planXfer_congr {u : State} {ts : Nat} {d : Beat} (hpc : u.pc = s.pc) (hgang : (u.tile t).gang = (s.tile t).gang)
    (hraises : (u.tile t).raises = (s.tile t).raises) (hscratch : (u.tile t).scratch = (s.tile t).scratch)
    (hhamper : (u.tile t).hamper = (s.tile t).hamper) : planXfer u t d ts = planXfer s t d ts := by
  have hladder : ∀ n, u.ladder n = s.ladder n := fun n => by rw [State.ladder, hpc]; rfl
  have href : u.refMode = s.refMode := by rw [State.refMode, hpc]; rfl
  have hformat : ∀ v n k, laddered u t v n k = laddered s t v n k := fun v n k => by
    simp only [laddered, effRung, hladder, href, hgang, hraises]
  have hmem : ∀ k, kindMem (u.tile t) k = kindMem (s.tile t) k := fun k => by rw [kindMem, hscratch, hhamper]; rfl
  have hsrc : ∀ d, xSrcT (u.tile t) d = xSrcT (s.tile t) d := fun d => by rw [xSrcT, hmem]; rfl
  have hdst : ∀ d, xDstT (u.tile t) d = xDstT (s.tile t) d := fun d => by rw [xDstT, hmem]; rfl
  have hok : ∀ d, xferOk u (u.tile t) d = xferOk s (s.tile t) d := fun d => by
    simp only [xferOk, refWriteOk, hsrc, hdst, href]
  simp only [planXfer, hformat, hok, hsrc, hdst]

theorem planXfer_beginIssue {ts : Nat} {d : Beat} (h : canIssue s t i = true) (hi : encodeThread i = some (t, th, w)) :
    planXfer (beginIssue s t th) t d ts = planXfer s t d ts := by
  obtain ⟨fl, la, hbegun⟩ := beginIssue_tile h hi
  exact planXfer_congr rfl (by rw [hbegun]) (by rw [hbegun]) (by rw [hbegun]) (by rw [hbegun])

theorem latchDesc_beginIssue {dl : Bool} {optype : Nat} (h : canIssue s t i = true) (hi : encodeThread i = some (t, th, w)) :
    latchDesc (beginIssue s t th) t th dl optype = latchDesc s t th dl optype := by
  obtain ⟨fl, la, hbegun⟩ := beginIssue_tile h hi
  have hdl : ((beginIssue s t th).tile t).dlPrev = (s.tile t).dlPrev := by rw [hbegun]
  rw [latchDesc, beginIssue_ctx h hi, hdl]
  rfl

theorem offRegs_beginIssue (f : TFields) (h : canIssue s t i = true) (hi : encodeThread i = some (t, th, w)) :
    offRegs ((beginIssue s t th).ctx t th) f = offRegs (s.ctx t th) f := by
  rw [beginIssue_ctx h hi]
  rfl

theorem xferCredits_of_le {d : Beat} (h : xWrite2 d = true → xBeats d + outUsed (s.tile t) (xChan d) ≤ 512) :
    xferCredits s t d = true := by
  cases hw : xWrite2 d <;> simp [xferCredits, hw, h]

/-- The outbound credits that a transfer takes at its issue (R254). -/
def takeCredits (t : Nat) (s : State) (d : Beat) : State :=
  if xWrite2 d then s.modTile t fun x => setOut x (xChan d) (outUsed x (xChan d) + xBeats d) else s

/-- A transfer whose plan has credits enough is issued as any other operation is. -/
theorem exec_xfer {f : TFields} {d e : Beat} {p : Plan} (h : canIssue s t (.xfer t th f) = true) (hoz : bitB f.off 2 = false)
    (hd : latchDesc (beginIssue s t th) t th f.dl 4 = .ok d)
    (he : xferOffsets d (offRegs ((beginIssue s t th).ctx t th) f) = some e)
    (hp : planXfer (beginIssue s t th) t e (startCycle s f.phase) = some p) (hcred : xferCredits s t p.desc = true) :
    exec (.xfer t th f) s =
      .next (issueOp s t th (.xfer t th f) f 4 .xfer xferOffsets planXfer fun s _ d => takeCredits t s d) := by
  have hd' := (latchDesc_beginIssue h rfl).symm.trans hd
  have he' : xferOffsets d (offRegs (s.ctx t th) f) = some e := by rw [← offRegs_beginIssue f h rfl, he]
  have hp' := (planXfer_beginIssue h rfl).symm.trans hp
  change execXfer t th f s = _
  simp only [execXfer, hoz, hd', he', Option.bind_some, hp', hcred, Bool.not_true, Bool.false_eq_true, if_false]
  rfl

theorem outUsed_setOut (x : Tile) (b c : Bool) (n : Nat) : outUsed (setOut x b n) c = if c == b then n else outUsed x c := by
  cases b <;> cases c <;> rfl

/-- Taking credits is no part of what an operation's latch is about. -/
theorem latched_setOut {s' : State} {o : Op} (h : Latched s s' t th o) (hg : (s'.tile t).gang.isSome = true) (b : Bool)
    (n : Tile → Nat) : Latched s (s'.modTile t fun x => setOut x b (n x)) t th o := by
  have htile : (s'.modTile t fun x => setOut x b (n x)).tile t = setOut (s'.tile t) b (n (s'.tile t)) :=
    State.tile_modTile_used _ _ _ (by cases b <;> exact hg)
  obtain ⟨hlast, hcount, hnext, hown, hothers, hmem, htiles, hrest⟩ := h
  refine ⟨?_, ?_, ?_, ?_, fun j hj => ?_, ?_, fun u hu => (State.tile_modTile_other _ _ _ _ hu).trans (htiles u hu), hrest⟩
  case refine_4 => cases b <;> rw [State.ctx, htile] <;> exact hown
  case refine_5 => cases b <;> rw [State.ctx, htile] <;> exact hothers j hj
  all_goals
    rw [htile]
    cases b
    all_goals assumption

/-- The credits that a transfer takes leave its latch as it is, and stand beside those in use. -/
theorem takeCredits_latched {s' : State} {o : Op} {d : Beat} (h : Latched s s' t th o) (hg : (s'.tile t).gang.isSome = true)
    (hout : ∀ c, outUsed (s'.tile t) c = outUsed (s.tile t) c) :
    Latched s (takeCredits t s' d) t th o ∧ (takeCredits t s' d).pc = s'.pc ∧
      ∀ c, outUsed ((takeCredits t s' d).tile t) c = outUsed (s.tile t) c + if xWrite2 d && c == xChan d then xBeats d else 0 := by
  cases hw : xWrite2 d
  · simp [takeCredits, hw, h, hout]
  · simp only [takeCredits, hw, if_true]
    refine ⟨latched_setOut h hg _ _, rfl, fun c => ?_⟩
    rw [State.tile_modTile_used _ _ _ (by cases xChan d <;> exact hg), outUsed_setOut]
    by_cases hc : c = xChan d <;> simp [hc, hout]

end

/-- Settles O5: each instruction is its launch; a transfer of the write direction takes its credits after it. -/
theorem transfersAndMessagesIssue : Obligations.TransfersAndMessagesIssue := by
  refine ⟨fun s t th f d e p h hoz hd he hp hhaz hfits hcred => ?_, fun s t th f n hpc =>
    ⟨fun h halign hend hfits => ?_, fun halign hend => ⟨fun h hfits => ?_, fun h hfits => ?_⟩⟩⟩
  · have hexec := exec_xfer h hoz hd he hp (xferCredits_of_le hcred)
    rw [issueOp_of_fits h rfl hd he hp hhaz hfits] at hexec
    obtain ⟨hlatch, hpc, hout⟩ := takeCredits_latched (d := p.desc)
      (launch_latched (ts := startCycle s f.phase) (mk := plannedOp .xfer th (startCycle s f.phase) p) h rfl hfits)
      (by rw [launch_gang hfits (beginIssue_used h rfl)]; exact beginIssue_used h rfl) (launch_outUsed h rfl hfits)
    exact ⟨_, hexec, hlatch, hpc.trans (launch_pc hfits), hout⟩
  · exact ⟨_, exec_dload h hpc (beatsOk_of_le halign hend), launch_pc hfits, launch_latched h rfl hfits⟩
  · exact ⟨_, congrArg Host.Outcome.next (issueNet_eq h rfl hpc (beatsOk_of_le halign hend)), launch_pc hfits,
      launch_latched h rfl hfits⟩
  · exact ⟨_, congrArg Host.Outcome.next (issueNet_eq h rfl hpc (beatsOk_of_le halign hend)), launch_pc hfits,
      launch_latched h rfl hfits⟩

end Sys2Proof.Machine
end

section
/-! SUPPORT. The end of an operation that signals, the beats of a copy between the scratchpad and the hamper, and the end of a
transfer: O8. -/

namespace Sys2Proof.Machine
open Sys2Proof.Claims

/-! ## One operation among a tile's -/

section
variable {s : State} {t id : Nat}

theorem tile_modOp (f : Op → Op) (hg : (s.tile t).gang.isSome = true) : (s.modOp t id f).tile t =
    { s.tile t with ops := (s.tile t).ops.map fun o => if o.id == id then f o else o } := State.tile_modTile_used _ _ _ hg

theorem tile_dropOp (hg : (s.tile t).gang.isSome = true) : (s.dropOp t id).tile t =
    { s.tile t with ops := (s.tile t).ops.filter fun o => o.id != id } := State.tile_modTile_used _ _ _ hg

theorem tile_dropOp_other {u : Nat} (hu : u ≠ t) : (s.dropOp t id).tile u = s.tile u := State.tile_modTile_other _ _ _ _ hu

theorem id_of_op? {o : Op} (h : s.op? t id = some o) : o.id = id := by
  simpa using List.find?_some h

/-- The operation reads back as changed. -/
theorem op?_modOp {f : Op → Op} {o : Op} (hf : ∀ o, (f o).id = o.id) (hg : (s.tile t).gang.isSome = true)
    (h : s.op? t id = some o) : (s.modOp t id f).op? t id = some (f o) := by
  have hid := id_of_op? h
  have hsame : ((fun p : Op => p.id == id) ∘ fun p => if p.id == id then f p else p) = fun p => p.id == id := by
    funext p
    by_cases hp : p.id = id <;> simp [hp, hf]
  rw [State.op?] at h
  rw [State.op?, tile_modOp f hg, List.find?_map, hsame, h]
  simp [hid]

/-- The others stay. -/
theorem filter_modOp {f : Op → Op} (hf : ∀ o, (f o).id = o.id) (l : List Op) :
    (l.map fun o => if o.id == id then f o else o).filter (fun o => o.id != id) = l.filter fun o => o.id != id := by
  induction l with
  | nil => rfl
  | cons o l ih => by_cases h : o.id = id <;> simp_all

end

/-! ## An operation that is over (R166) -/

theorem signalLocal_stg (s : State) (src : Option Nat) (t c amt : Nat) : (signalLocal s src t c amt).stg = s.stg := by
  unfold signalLocal deliverSignal
  split
  · rfl
  · split <;> rfl

/-- The signal of an operation that is gone from its tile, whose tile is otherwise `x`. -/
theorem over_signalLocal {s v : State} {t op : Nat} {x : Tile} (c amt : Nat) (hg : x.gang.isSome = true)
    (htile : v.tile t = { x with ops := (s.tile t).ops.filter fun o => o.id != op, ec := (s.tile t).ec, ts := (s.tile t).ts })
    (htiles : ∀ u, u ≠ t → v.tile u = s.tile u) (hrest : { v with tiles := s.tiles, pc := s.pc, stg := s.stg } = s) :
    Over s (signalLocal v x.gang t c amt) t op c amt x := by
  have hgang : (v.tile t).gang = x.gang := by rw [htile]
  have hused : (v.tile t).gang.isSome = true := by rw [hgang, hg]
  have hflt : v.flt = s.flt := (congrArg State.flt hrest :)
  rw [← hgang]
  refine ⟨?_, fun u hu => (signalLocal_tile_other v _ c amt hu).trans (htiles u hu), ?_, ?_⟩
  · rw [signalLocal_own_tile v c amt hused, htile]
  · rw [signalLocal_own v t c amt hused, ← hflt]
    split <;> rfl
  · have hframe := signalLocal_own_frame v c amt hused
    rw [← hflt]
    exact (congrArg (fun u : State => { u with tiles := s.tiles, pc := s.pc, stg := s.stg }) hframe).trans hrest

/-! ## What a transfer's completion leaves of its tile (R204, R253) -/

/-- Tile `t` of `v` is that of `s` but for its memories, which are those of `y`, and for operation `id`; beside it only the hampers'
high-water mark and their corrected errors have moved (R218, R235). -/
structure Copied (s v : State) (t id : Nat) (y : Tile) : Prop where
  tile : v.tile t = { y with ops := (v.tile t).ops }
  kept : { y with scratch := (s.tile t).scratch, hamper := (s.tile t).hamper } = s.tile t
  others : (v.tile t).ops.filter (fun o => o.id != id) = (s.tile t).ops.filter fun o => o.id != id
  tiles : ∀ u, u ≠ t → v.tile u = s.tile u
  stg : { v.stg with hwm := s.stg.hwm, ce := s.stg.ce } = s.stg
  rest : { v with tiles := s.tiles, stg := s.stg } = s

section
variable {s v : State} {t id : Nat} {x y : Tile} {o : Op}

theorem Copied.refl (s : State) (t id : Nat) : Copied s s t id (s.tile t) := ⟨rfl, rfl, rfl, fun _ _ => rfl, rfl, rfl⟩

theorem Copied.gang (h : Copied s v t id y) : y.gang = (s.tile t).gang := by rw [← h.kept]

theorem Copied.gang_tile (h : Copied s v t id y) : (v.tile t).gang = (s.tile t).gang := by rw [h.tile, ← h.gang]

/-- The end of a transfer: it is over, and a remote signal it carries follows where it has not been ended. -/
theorem finishXfer_over (h : Copied s v t o.id y) (hg : (s.tile t).gang.isSome = true) :
    ∃ u, finishXfer v t o = (if xRsig o.desc && !o.stopped then
        signalTo u (s.tile t).gang (xRmod o.desc) (xRtile o.desc) (xRcnt o.desc) (xRamt o.desc) else u) ∧
      Over (retryGone s false t o.id) u t o.id (dCnt o.desc) (dAmt o.desc) y ∧ u.pc = s.pc ∧ u.stg = v.stg := by
  have hused : (v.tile t).gang.isSome = true := by rw [h.gang_tile, hg]
  have hec : y.ec = (s.tile t).ec := by rw [← h.kept]
  have hts : y.ts = (s.tile t).ts := by rw [← h.kept]
  let w := retryGone (v.dropOp t o.id) false t o.id
  have hw : w.tile t = { y with ops := (s.tile t).ops.filter fun p => p.id != o.id, ec := (s.tile t).ec, ts := (s.tile t).ts } := by
    change (v.dropOp t o.id).tile t = _
    rw [tile_dropOp hused, ← h.others, ← hec, ← hts, h.tile]
  have htiles : ∀ u, u ≠ t → w.tile u = s.tile u := fun u hu => (tile_dropOp_other hu).trans (h.tiles u hu)
  have hrest : { w with tiles := s.tiles, pc := s.pc, stg := s.stg } = retryGone s false t o.id := by
    have hpc : v.pc = s.pc := (congrArg State.pc h.rest :)
    rw [← hpc]
    exact congrArg (fun u => retryGone u false t o.id) h.rest
  have hover := over_signalLocal (s := retryGone s false t o.id) (dCnt o.desc) (dAmt o.desc) (by rw [h.gang, hg]) hw htiles hrest
  refine ⟨_, ?_, hover, ?_, ?_⟩
  · rw [finishXfer, h.gang_tile, h.gang]
  · exact (signalLocal_pc ..).trans (congrArg State.pc h.rest :)
  · exact signalLocal_stg ..

end

/-! ## One beat of a copy (R202) -/

theorem kindMem_setKindMem (x : Tile) (k : Nat) (m : SMap Byte) : kindMem (setKindMem x k m) k = m := by
  by_cases hk : k = 1 <;> simp [kindMem, setKindMem, hk]

theorem setKindMem_setKindMem (x : Tile) (k : Nat) (m n : SMap Byte) : setKindMem (setKindMem x k m) k n = setKindMem x k n := by
  by_cases hk : k = 1 <;> simp [setKindMem, hk]

theorem setKindMem_kindMem (x : Tile) (k : Nat) : setKindMem x k (kindMem x k) = x := by
  by_cases hk : k = 1 <;> simp [kindMem, setKindMem, hk]

/-- The tile with beat `b` written at address `a` of its memory of kind `k`. -/
def putBeat (k a : Nat) (b : Beat) (x : Tile) : Tile := setKindMem x k (SMap.setBeat (kindMem x k) a b)

theorem putBeat_eq (k a : Nat) (b : Beat) (x : Tile) : ∃ m n, putBeat k a b x = { x with scratch := m, hamper := n } := by
  by_cases hk : k = 1
  · exact ⟨x.scratch, _, by rw [putBeat, setKindMem, if_pos hk]⟩
  · exact ⟨_, x.hamper, by rw [putBeat, setKindMem, if_neg hk]⟩

theorem putBeat_ops (k a : Nat) (b : Beat) (x : Tile) (l : List Op) :
    putBeat k a b { x with ops := l } = { putBeat k a b x with ops := l } := by
  by_cases hk : k = 1 <;> simp only [putBeat, setKindMem, kindMem, hk, if_true, if_false]

/-- The operation with its next beat, `b`, read. -/
def beatRead (b : Beat) (p : Op) : Op :=
  { p with buf := p.buf ++ [(p.reqd, xDstAt p.desc p.reqd, b, false)], reqd := p.reqd + 1 }

/-- The operation with a beat written, and those of `l` still held. -/
def beatWritten (l : List (Nat × Nat × Beat × Bool)) (p : Op) : Op := { p with buf := l, done := p.done + 1 }

/-- The operation once it has read its next beat from the memories of `y`, if it has not read all. -/
def readBeat (y : Tile) (p : Op) : Op :=
  if xBeats p.desc ≤ p.reqd then p else beatRead (SMap.getBeat (kindMem y (xSkind p.desc)) (xSrcAt p.desc p.reqd)) p

/-- The memories and the operation once it has written the oldest beat it holds. -/
def writeBeat (y : Tile) (p : Op) : Tile × Op :=
  match p.buf with
  | [] => (y, p)
  | e :: l => (putBeat (xDkind p.desc) e.2.1 e.2.2.1 y, beatWritten l p)

/-- One step of a copy at its end: a beat is read, and one written that was read two steps before, or, all being read, the next. -/
def moveBeat (a : Tile × Op) : Tile × Op :=
  let p := readBeat a.1 a.2
  if p.done + 3 ≤ p.reqd || xBeats p.desc ≤ p.reqd then writeBeat a.1 p else (a.1, p)

/-- The same step of the block. -/
def moveStep (t id : Nat) (s : State) : State :=
  let s := readNext s t id
  match s.op? t id with
  | some p => if p.done + 3 ≤ p.reqd || xBeats p.desc ≤ p.reqd then writeNext s t id else s
  | none => s

theorem copyRest_eq (s : State) (t : Nat) (o : Op) : copyRest s t o = (moveStep t o.id)^[xBeats o.desc + 2] s := by
  rw [← List.length_range (n := xBeats o.desc + 2), ← List.foldl_const]
  rfl

/-- In `v` the copy of descriptor `d` has come from `s` to memories `a.1` and operation `a.2`, whose further reads meet no error. -/
structure Copying (s v : State) (t id : Nat) (d : Beat) (a : Tile × Op) : Prop where
  copied : Copied s v t id a.1
  op : v.op? t id = some a.2
  desc : a.2.desc = d
  running : a.2.stopped = false
  clean : xBeats d ≤ a.2.reqd ∨ (a.2.ceWords = [] ∧ a.2.ueWords = [])

section
variable {s v : State} {t id : Nat} {d : Beat} {y : Tile} {p : Op} {a : Tile × Op}

/-- The step guard's counts of the hampers. -/
theorem Copying.modStg (h : Copying s v t id d a) {f : StgBlk → StgBlk}
    (hf : ∀ g n m, { f g with hwm := n, ce := m } = { g with hwm := n, ce := m }) : Copying s (v.modStg f) t id d a := by
  obtain ⟨⟨htile, hkept, hothers, htiles, hstg, hrest⟩, hop, hdesc, hrun, hclean⟩ := h
  exact ⟨⟨htile, hkept, hothers, htiles, (hf ..).trans hstg, hrest⟩, hop, hdesc, hrun, hclean⟩

theorem Copied.modOp (h : Copied s v t id y) (hg : (s.tile t).gang.isSome = true) {f : Op → Op} (hf : ∀ o, (f o).id = o.id) :
    Copied s (v.modOp t id f) t id y := by
  have htile := tile_modOp (id := id) f (by rw [h.gang_tile, hg])
  refine ⟨?_, h.kept, ?_, fun u hu => (State.tile_modTile_other _ _ _ _ hu).trans (h.tiles u hu), h.stg, h.rest⟩
  · rw [htile, h.tile]
  · rw [htile, ← h.others]
    exact filter_modOp hf _

/-- A beat written by the block. -/
theorem Copying.put (h : Copying s v t id d a) (hg : (s.tile t).gang.isSome = true) (k m : Nat) (b : Beat) :
    Copying s (v.modTile t (putBeat k m b)) t id d (putBeat k m b a.1, a.2) := by
  obtain ⟨⟨htile, hkept, hothers, htiles, hstg, hrest⟩, hop, hdesc, hrun, hclean⟩ := h
  obtain ⟨p, q, hput⟩ := putBeat_eq k m b a.1
  have hops : putBeat k m b (v.tile t) = { putBeat k m b a.1 with ops := (v.tile t).ops } := by
    rw [← putBeat_ops, ← htile]
  have hgang : a.1.gang = (s.tile t).gang := by rw [← hkept]
  have hnew : (v.modTile t (putBeat k m b)).tile t = _ := State.tile_modTile_used _ _ _ (by rw [hops, hput, hgang, hg])
  rw [hops] at hnew
  refine ⟨⟨by rw [hnew], by rw [hput, ← hkept], by rw [hnew]; exact hothers,
    fun u hu => (State.tile_modTile_other _ _ _ _ hu).trans (htiles u hu), hstg, hrest⟩, ?_, hdesc, hrun, hclean⟩
  rw [State.op?, hnew]
  exact hop

/-- A beat of a source in the tile, whose words meet no error (R218). -/
theorem readLocal_clean (s : State) (t a : Nat) (hce : p.ceWords = []) (hue : p.ueWords = []) : ∃ n, readLocal s t p a =
    (SMap.getBeat (kindMem (s.tile t) (xSkind p.desc)) a, s.modStg fun g => { g with ce := n }) := by
  by_cases hk : xSkind p.desc = 1
  · refine ⟨sat32 (s.stg.ce + 0), ?_⟩
    simp only [readLocal, hk, if_true, hce, hue, List.filter_nil, List.length_nil]
    rfl
  · refine ⟨s.stg.ce, ?_⟩
    simp only [readLocal, hk, if_false]
    rfl

/-- The block's read of the next beat. -/
theorem Copying.read (h : Copying s v t id d a) (hg : (s.tile t).gang.isSome = true) (hlocal : xRead2 d = false) :
    Copying s (readNext v t id) t id d (a.1, readBeat a.1 a.2) := by
  have hkind : xSkind a.2.desc ≠ 2 := by simpa [xRead2, ← h.desc] using hlocal
  by_cases hall : xBeats a.2.desc ≤ a.2.reqd
  · have hstays : readNext v t id = v := by simp [readNext, h.op, hall]
    rw [hstays, readBeat, if_pos hall]
    exact h
  · obtain ⟨hce, hue⟩ := h.clean.resolve_left (h.desc ▸ hall)
    obtain ⟨n, hn⟩ := readLocal_clean v t (xSrcAt a.2.desc a.2.reqd) hce hue
    have hmem : kindMem (v.tile t) (xSkind a.2.desc) = kindMem a.1 (xSkind a.2.desc) := by rw [h.copied.tile]; rfl
    have hcounted := h.modStg (f := fun g => { g with ce := n }) fun _ _ _ => rfl
    have hnext : readNext v t id = (v.modStg fun g => { g with ce := n }).modOp t id
        (beatRead (SMap.getBeat (kindMem a.1 (xSkind a.2.desc)) (xSrcAt a.2.desc a.2.reqd))) := by
      simp only [readNext, h.op, hkind, h.running, hall, hn, hmem, decide_false, Bool.or_self, Bool.false_eq_true, if_false]
      rfl
    rw [hnext, readBeat, if_neg hall]
    exact ⟨hcounted.copied.modOp hg fun _ => rfl, op?_modOp (fun _ => rfl) (by rw [hcounted.copied.gang_tile, hg]) hcounted.op,
      h.desc, h.running, .inr ⟨hce, hue⟩⟩

/-- The block's write of the oldest beat held. -/
theorem Copying.write (h : Copying s v t id d a) (hg : (s.tile t).gang.isSome = true) (hread : xRead2 d = false)
    (hwrite : xWrite2 d = false) : Copying s (writeNext v t id) t id d (writeBeat a.1 a.2) := by
  have hkind : xKind2 a.2 = false := by simp [xKind2, h.desc, hread, hwrite]
  cases hbuf : a.2.buf with
  | nil =>
    have hstays : writeNext v t id = v := by simp [writeNext, h.op, hbuf]
    simpa only [hstays, writeBeat, hbuf] using h
  | cons e l =>
    have hput := h.put hg (xDkind a.2.desc) e.2.1 e.2.2.1
    have hmoved : Copying s ((v.modTile t (putBeat (xDkind a.2.desc) e.2.1 e.2.2.1)).modOp t id (beatWritten l)) t id d
        (writeBeat a.1 a.2) := by
      rw [writeBeat, hbuf]
      exact ⟨hput.copied.modOp hg fun _ => rfl, op?_modOp (fun _ => rfl) (by rw [hput.copied.gang_tile, hg]) hput.op, h.desc,
        h.running, h.clean⟩
    have hnext : writeNext v t id =
        noteHwm ((v.modTile t (putBeat (xDkind a.2.desc) e.2.1 e.2.2.1)).modOp t id (beatWritten l)) (xDkind a.2.desc)
          (e.2.1 + 64) := by
      simp only [writeNext, h.op, hbuf, hkind]
      rfl
    rw [hnext, noteHwm]
    split
    · exact hmoved.modStg fun _ _ _ => rfl
    · exact hmoved

/-- The block's step is that of its tile's memories and the operation. -/
theorem Copying.move (h : Copying s v t id d a) (hg : (s.tile t).gang.isSome = true) (hread : xRead2 d = false)
    (hwrite : xWrite2 d = false) : Copying s (moveStep t id v) t id d (moveBeat a) := by
  have hr := h.read hg hread
  simp only [moveStep, hr.op, moveBeat]
  split
  · exact hr.write hg hread hwrite
  · exact hr

theorem Copying.moves (h : Copying s v t id d a) (hg : (s.tile t).gang.isSome = true) (hread : xRead2 d = false)
    (hwrite : xWrite2 d = false) (n : Nat) : Copying s ((moveStep t id)^[n] v) t id d (moveBeat^[n] a) := by
  induction n with
  | zero => exact h
  | succ n ih =>
    rw [Function.iterate_succ_apply', Function.iterate_succ_apply']
    exact ih.move hg hread hwrite

end

/-! ## All beats of a copy (R202) -/

section
variable {d : Beat} {y : Tile} {p : Op}

/-- The memories once beats `l`, each with its address, have been written to the kind the descriptor names. -/
def putBeats (d : Beat) (l : List (Nat × Nat × Beat × Bool)) (y : Tile) : Tile :=
  l.foldl (fun y e => putBeat (xDkind d) e.2.1 e.2.2.1 y) y

theorem putBeats_eq (d : Beat) (l : List (Nat × Nat × Beat × Bool)) (y : Tile) : putBeats d l y =
    setKindMem y (xDkind d) (l.foldl (fun m e => SMap.setBeat m e.2.1 e.2.2.1) (kindMem y (xDkind d))) := by
  induction l generalizing y with
  | nil => exact (setKindMem_kindMem ..).symm
  | cons e l ih =>
    rw [putBeats, List.foldl_cons, ← putBeats, ih, putBeat, kindMem_setKindMem, setKindMem_setKindMem, List.foldl_cons]

/-- A copy that has read all its beats only writes. -/
theorem moveBeat_of_read (h : xBeats p.desc ≤ p.reqd) : moveBeat (y, p) = writeBeat y p := by
  simp [moveBeat, readBeat, h]

/-- It writes all that it holds, given steps enough (R202). -/
theorem moveBeats_of_read (h : xBeats p.desc ≤ p.reqd) (n : Nat) (hn : p.buf.length ≤ n) :
    (moveBeat^[n] (y, p)).1 = putBeats p.desc p.buf y := by
  induction n generalizing y p with
  | zero =>
    rw [List.eq_nil_of_length_eq_zero (Nat.le_zero.1 hn)]
    rfl
  | succ n ih =>
    rw [Function.iterate_succ_apply, moveBeat_of_read h, writeBeat]
    cases hbuf : p.buf with
    | nil =>
      rw [ih h (by rw [hbuf]; exact Nat.zero_le n), hbuf]
    | cons e l =>
      rw [hbuf, List.length_cons] at hn
      exact ih (p := beatWritten l p) h (Nat.le_of_succ_le_succ hn)

/-- Beat `i` as the copy holds it, the beats read so far being `l`. -/
def heldBeat (d : Beat) (l : List Beat) (i : Nat) : Nat × Nat × Beat × Bool := (i, xDstAt d i, l.getD i 0, false)

/-- The copy `p` with beats `l` read and the first `k` of them written. -/
def holding (p : Op) (l : List Beat) (k : Nat) : Op :=
  { p with reqd := l.length, done := k, buf := ((List.range l.length).drop k).map (heldBeat p.desc l) }

/-- Such a copy writes in a step where the beat was read two steps before, or all are read. -/
theorem holding_writes (p : Op) (l : List Beat) (k : Nat) : (decide ((holding p l k).done + 3 ≤ (holding p l k).reqd) ||
    decide (xBeats (holding p l k).desc ≤ (holding p l k).reqd)) = decide (k + 3 ≤ l.length ∨ xBeats p.desc ≤ l.length) := by
  rw [Bool.decide_or]
  rfl

/-- The beat read in step `j`. -/
def stepBeat (d : Beat) (y : Tile) (j : Nat) : Beat := SMap.getBeat (kindMem y (xSkind d)) (xSrcAt d j)

/-- The memories once beat `i` of those read, `l`, has been written. -/
def putRead (d : Beat) (l : List Beat) (y : Tile) (i : Nat) : Tile := putBeat (xDkind d) (xDstAt d i) (l.getD i 0) y

/-- The step of a copy that reads a beat, as the statement has it (R202). -/
theorem copyStep_of_lt {l : List Beat} (h : l.length < xBeats d) : copyStep d (y, l) l.length =
    (if 2 ≤ l.length then putRead d (l ++ [stepBeat d y l.length]) y (l.length - 2) else y, l ++ [stepBeat d y l.length]) := by
  simp only [copyStep, if_pos h]
  rfl

/-- One that reads none. -/
theorem copyStep_of_le {l : List Beat} {j : Nat} (h : xBeats d ≤ j) :
    copyStep d (y, l) j = (if 2 ≤ j then putRead d l y (j - 2) else y, l) := by
  simp only [copyStep, if_neg (Nat.not_lt.2 h)]
  rfl

theorem heldBeat_append {l : List Beat} {i : Nat} (hi : i < l.length) (b : Beat) : heldBeat d (l ++ [b]) i = heldBeat d l i := by
  rw [heldBeat, List.getD_append _ _ _ _ hi, heldBeat]

/-- The beats held stay what they were as another is read. -/
theorem readBeat_holding {l : List Beat} {k : Nat} (hk : k ≤ l.length) (h : l.length < xBeats p.desc) :
    readBeat y (holding p l k) = holding p (l ++ [stepBeat p.desc y l.length]) k := by
  have hold : ∀ b, ((List.range l.length).drop k).map (heldBeat p.desc (l ++ [b])) =
      ((List.range l.length).drop k).map (heldBeat p.desc l) := fun b =>
    List.map_congr_left fun i hi => heldBeat_append (List.mem_range.1 (List.mem_of_mem_drop hi)) b
  have hnew : ∀ b, heldBeat p.desc (l ++ [b]) l.length = (l.length, xDstAt p.desc l.length, b, false) := fun b => by
    simp [heldBeat]
  have hall : ¬ xBeats (holding p l k).desc ≤ (holding p l k).reqd := Nat.not_le.2 h
  rw [readBeat, if_neg hall]
  simp only [holding, beatRead, List.length_append, List.length_singleton, List.range_succ,
    List.drop_append_of_le_length (show k ≤ (List.range l.length).length by simpa using hk), List.map_append, List.map_singleton,
    hold, hnew]
  rfl

/-- The oldest beat held is the first not written. -/
theorem writeBeat_holding {l : List Beat} {k : Nat} (hk : k < l.length) :
    writeBeat y (holding p l k) = (putRead p.desc l y k, holding p l (k + 1)) := by
  have hdrop : (List.range l.length).drop k = k :: (List.range l.length).drop (k + 1) := by
    rw [List.drop_eq_getElem_cons (by simpa using hk), List.getElem_range]
  simp only [writeBeat, holding, hdrop, List.map_cons]
  rfl

/-- All that is held written in its order. -/
theorem putBeats_holding (l : List Beat) (k : Nat) :
    putBeats p.desc (holding p l k).buf y = ((List.range l.length).drop k).foldl (putRead p.desc l) y := by
  rw [putBeats, holding, List.foldl_map]
  rfl

/-- While beats are still to be read, the block's steps are those of the statement: two beats are held from the second step on. -/
theorem moveBeat_holding {l : List Beat} (h : l.length + 1 < xBeats p.desc) : moveBeat (y, holding p l (l.length - 2)) =
    let c := copyStep p.desc (y, l) l.length
    (c.1, holding p c.2 (c.2.length - 2)) := by
  simp only [moveBeat, readBeat_holding (Nat.sub_le ..) (show l.length < xBeats p.desc by omega),
    copyStep_of_lt (show l.length < xBeats p.desc by omega)]
  generalize hr : l ++ [stepBeat p.desc y l.length] = r
  have hlen : r.length = l.length + 1 := by rw [← hr]; simp
  rw [holding_writes]
  by_cases hj : 2 ≤ l.length
  · rw [if_pos (by simp; omega), if_pos hj, writeBeat_holding (by omega), show l.length - 2 + 1 = r.length - 2 by omega]
  · rw [if_neg (by simp; omega), if_neg hj, show l.length - 2 = r.length - 2 by omega]

/-- The two run alike up to the last beat. -/
theorem moveBeats_holding {j : Nat} (hj : j < xBeats p.desc) :
    let c := (List.range j).foldl (copyStep p.desc) (y, [])
    c.2.length = j ∧ moveBeat^[j] (y, holding p [] 0) = (c.1, holding p c.2 (j - 2)) := by
  induction j with
  | zero => exact ⟨rfl, rfl⟩
  | succ j ih =>
    obtain ⟨hlen, hrun⟩ := ih (by omega)
    rw [List.range_succ, List.foldl_append, List.foldl_cons, List.foldl_nil, Function.iterate_succ_apply', hrun]
    generalize (List.range j).foldl (copyStep p.desc) (y, []) = c at hlen ⊢
    obtain ⟨z, l⟩ := c
    dsimp only at hlen
    subst hlen
    have hnew := congrArg Prod.snd (copyStep_of_lt (y := z) (show l.length < xBeats p.desc by omega))
    have hlen : (copyStep p.desc (z, l) l.length).2.length = l.length + 1 := by rw [hnew]; simp
    refine ⟨hlen, ?_⟩
    rw [moveBeat_holding hj]
    dsimp only
    rw [hlen]

/-- The last beat read, the beats still held are written in their order. -/
theorem putBeats_last {l : List Beat} (h : l.length < xBeats p.desc) (hlast : xBeats p.desc ≤ l.length + 1) :
    (moveBeat^[3] (y, holding p l (l.length - 2))).1 = ([l.length, l.length + 1, l.length + 2].foldl (copyStep p.desc) (y, l)).1 := by
  have hread := readBeat_holding (y := y) (Nat.sub_le l.length 2) h
  simp only [List.foldl_cons, List.foldl_nil, copyStep_of_lt h, copyStep_of_le hlast, copyStep_of_le (Nat.le_succ_of_le hlast)]
  generalize hr : l ++ [stepBeat p.desc y l.length] = r at hread ⊢
  have hlen : r.length = l.length + 1 := by rw [← hr]; simp
  have hall : xBeats (holding p r (l.length - 2)).desc ≤ (holding p r (l.length - 2)).reqd := hlast.trans_eq hlen.symm
  have hsame : moveBeat (y, holding p l (l.length - 2)) = moveBeat (y, holding p r (l.length - 2)) := by
    rw [moveBeat_of_read hall, moveBeat, hread, if_pos (by simp [hall])]
  have hbuf : (holding p r (l.length - 2)).buf.length ≤ 3 := by
    simp only [holding, List.length_map, List.length_drop, List.length_range]
    omega
  have hwritten : _ = putBeats p.desc (holding p r (l.length - 2)).buf y := moveBeats_of_read hall 3 hbuf
  rw [Function.iterate_succ_apply, ← hsame, ← Function.iterate_succ_apply] at hwritten
  rw [hwritten, putBeats_holding, hlen]
  generalize l.length = m
  match m with
  | 0 => rfl
  | 1 => rfl
  | m + 2 =>
    rw [List.range_eq_range', List.drop_range', show m + 2 + 1 - (m + 2 - 2) = 3 by omega]
    simp [List.range'_succ]

/-- A copy that has moved no beat yet makes every step of the statement's. -/
theorem moveBeats_from_start (y : Tile) (p : Op) : (moveBeat^[xBeats p.desc + 2] (y, holding p [] 0)).1 =
    ((List.range (xBeats p.desc + 2)).foldl (copyStep p.desc) (y, [])).1 := by
  rcases Nat.eq_zero_or_pos (xBeats p.desc) with hn | hn
  · have hnone : (List.range (xBeats p.desc + 2)).foldl (copyStep p.desc) (y, []) = (y, []) := by
      rw [hn]
      simp [List.range_succ, copyStep, hn]
    have hall : xBeats (holding p [] 0).desc ≤ (holding p [] 0).reqd := hn.le
    rw [moveBeats_of_read hall _ (Nat.zero_le _), hnone]
    rfl
  · obtain ⟨m, hm⟩ := Nat.exists_eq_succ_of_ne_zero hn.ne'
    obtain ⟨hlen, hrun⟩ := moveBeats_holding (y := y) (show m < xBeats p.desc by omega)
    rw [hm, show m.succ + 2 = 3 + m by omega, Function.iterate_add_apply, hrun, show 3 + m = m + 3 by omega, List.range_succ,
      List.range_succ, List.range_succ]
    simp only [List.foldl_append]
    generalize (List.range m).foldl (copyStep p.desc) (y, []) = c at hlen ⊢
    obtain ⟨z, l⟩ := c
    dsimp only at hlen
    subst hlen
    exact putBeats_last hm.ge hm.le

end

/-! ## XFER_COMPLETE (R202, R253) -/

section
variable {s : State} {t : Nat} {o : Op} {ce ue : List Nat}

theorem used_of_finished {k : OpKind} (h : Finished s t k o) : (s.tile t).gang.isSome = true := by
  obtain ⟨-, -, -, -, hg⟩ := h
  exact hg

theorem completable_of_finished {k : OpKind} (h : Finished s t k o) : completable s t o.id k = some o := by
  obtain ⟨hop, hkind, hstarted, hfin, -⟩ := h
  simp [completable, hop, hkind, hstarted, hfin]

theorem exec_xferComplete_copy (h : Finished s t .xfer o) (hkind : xKind2 o = false) (hconv : xConv o.desc = false) :
    exec (.xferComplete t o.id ce ue) s = .next (finishXfer (copyRest (foundWords s t o.id ce ue) t o) t o) := by
  change execXferComplete t o.id ce ue s = _
  simp only [execXferComplete, completable_of_finished h, hkind, hconv, Bool.false_eq_true, if_false]

theorem exec_xferComplete_kind2 (h : Finished s t .xfer o) (hkind : xKind2 o = true) :
    exec (.xferComplete t o.id ce ue) s = .next (if xferDone s t o then finishXfer s t o else s) := by
  change execXferComplete t o.id ce ue s = _
  simp only [execXferComplete, completable_of_finished h, hkind, if_true]

/-- The operation with the words of the hamper that its further reads find corrected and uncorrectable (R218). -/
def withWords (ce ue : List Nat) (o : Op) : Op := { o with ceWords := o.ceWords ++ ce, ueWords := o.ueWords ++ ue }

/-- A copy whose further reads meet no error ends with its steps made in its tile's memories. -/
theorem copyRest_copied (h : Finished s t .xfer o) (hread : xRead2 o.desc = false) (hwrite : xWrite2 o.desc = false)
    (hrun : o.stopped = false) (hclean : xBeats o.desc ≤ o.reqd ∨ (o.ceWords ++ ce = [] ∧ o.ueWords ++ ue = [])) :
    Copied s (copyRest (foundWords s t o.id ce ue) t o) t o.id
      (moveBeat^[xBeats o.desc + 2] (s.tile t, withWords ce ue o)).1 := by
  have hg := used_of_finished h
  obtain ⟨hop, -, -, -, -⟩ := h
  have hstart : Copying s (foundWords s t o.id ce ue) t o.id o.desc (s.tile t, withWords ce ue o) :=
    ⟨(Copied.refl s t o.id).modOp hg fun _ => rfl, op?_modOp (fun _ => rfl) hg hop, rfl, hrun, hclean⟩
  rw [copyRest_eq]
  exact (hstart.moves hg hread hwrite _).copied

/-- The end of a copy, in a tile whose memories its steps have made those of `y`. -/
theorem xferComplete_copy {y : Tile} (h : Finished s t .xfer o) (hread : xRead2 o.desc = false) (hwrite : xWrite2 o.desc = false)
    (hconv : xConv o.desc = false) (hrun : o.stopped = false)
    (hclean : xBeats o.desc ≤ o.reqd ∨ (o.ceWords ++ ce = [] ∧ o.ueWords ++ ue = []))
    (hy : (moveBeat^[xBeats o.desc + 2] (s.tile t, withWords ce ue o)).1 = y) :
    ∃ u, exec (.xferComplete t o.id ce ue) s = .next (if xRsig o.desc then
        signalTo u (s.tile t).gang (xRmod o.desc) (xRtile o.desc) (xRcnt o.desc) (xRamt o.desc) else u) ∧
      Over (retryGone s false t o.id) u t o.id (dCnt o.desc) (dAmt o.desc) y ∧ u.pc = s.pc ∧
      { u.stg with hwm := s.stg.hwm, ce := s.stg.ce } = s.stg := by
  have hcopied := copyRest_copied h hread hwrite hrun hclean
  rw [hy] at hcopied
  obtain ⟨u, hend, hover, hpc, hstg⟩ := finishXfer_over hcopied (used_of_finished h)
  refine ⟨u, ?_, hover, hpc, by rw [hstg]; exact hcopied.stg⟩
  rw [exec_xferComplete_copy h (by simp [xKind2, hread, hwrite]) hconv, hend, hrun]
  simp

theorem xferDone_iff : xferDone s t o = true ↔ o.asked = [] ∧ o.buf = [] ∧ opOut s t o.id = [] ∧ refills s t o.id = false ∧
    o.held = none ∧ (o.stopped = true ∨ xBeats o.desc ≤ o.reqd) := by
  simp [xferDone, opQuiet, and_assoc]

end

/-- Settles O8: the beats of a copy are moved as the statement's steps move them, and every end of a transfer is one change of its tile
with its signal. -/
theorem copiesAndTransfersComplete : Obligations.CopiesAndTransfersComplete := by
  refine ⟨fun s t o h _ hread hwrite hconv hrun => ⟨fun hall hlen ce ue => ?_, fun hreqd hdone hbuf hce hue => ?_⟩,
    fun s t o h hkind ce ue => ⟨fun hdone => ?_, fun hdone => ?_⟩⟩
  · refine xferComplete_copy h hread hwrite hconv hrun (.inl hall) ?_
    rw [← putBeats_eq]
    exact moveBeats_of_read (p := withWords ce ue o) hall _ (Nat.le_add_right_of_le hlen)
  · refine xferComplete_copy h hread hwrite hconv hrun (.inr (by simp [hce, hue])) ?_
    have hstart : withWords [] [] o = holding o [] 0 := by
      cases o
      simp_all [withWords, holding]
    rw [hstart, moveBeats_from_start]
  · obtain ⟨u, hend, hover, hpc, hstg⟩ := finishXfer_over (Copied.refl s t o.id) (used_of_finished h)
    exact ⟨u, by rw [exec_xferComplete_kind2 h hkind, if_pos (xferDone_iff.2 hdone), hend], hover, hpc, hstg⟩
  · rw [exec_xferComplete_kind2 h hkind, if_neg fun hd => hdone (xferDone_iff.1 hd)]

end Sys2Proof.Machine
end

section
/-! SUPPORT. One change after another, each of a tile of its own; a command that has been taken and is served: O34. -/

namespace Sys2Proof.Machine
open Sys2Proof.Claims

/-! ## Keys of a map in canonical form -/

/-- What a map in canonical form holds at a key, stored there again, leaves the map as it is. -/
theorem SMap.set_get_self {α : Type} [DecidableEq α] (d : α) (m : SMap α) (k : Nat) (h : SMap.wf d m = true) :
    SMap.set d m k (SMap.get d m k) = m := by
  induction m with
  | nil => simp [SMap.get, SMap.set]
  | cons e m ih =>
    obtain ⟨j, v⟩ := e
    obtain ⟨hv, hlow, hw⟩ := (SMap.wf_cons d j v m).1 h
    rcases Nat.lt_trichotomy k j with hk | rfl | hk
    · have hget : SMap.get d ((j, v) :: m) k = d := SMap.get_of_lowKeys d _ k fun e he => by
        rcases List.mem_cons.1 he with rfl | he
        · exact hk
        · exact Nat.le_trans (by omega) (hlow e he)
      rw [hget, SMap.set, if_pos hk, if_pos rfl]
    · simp [SMap.get, SMap.set, hv]
    · have hne : j ≠ k := by omega
      simp [SMap.get, SMap.set, hne, hne.symm, show ¬ k < j by omega, ih hw]

theorem SMap.nodup_keys {α : Type} [DecidableEq α] (d : α) (m : SMap α) (h : SMap.wf d m = true) : (m.map (·.1)).Nodup := by
  induction m with
  | nil => exact List.nodup_nil
  | cons e m ih =>
    obtain ⟨k, v⟩ := e
    obtain ⟨-, hlow, hw⟩ := (SMap.wf_cons d k v m).1 h
    refine List.nodup_cons.2 ⟨fun hk => ?_, ih hw⟩
    obtain ⟨e, he, hek⟩ := List.mem_map.1 hk
    have := hlow e he
    simp only at hek
    omega

/-! ## Tiles changed one after the other -/

section
variable {s : State} {t : Nat}

theorem nodup_usedTiles (h : SMap.wf {} s.tiles = true) : s.usedTiles.Nodup :=
  SMap.nodup_keys ({} : Tile) _ (SMap.wf_filter _ _ _ h)

/-- A tile in use is listed. -/
theorem mem_tiles (h : (s.tile t).gang.isSome = true) : (t, s.tile t) ∈ s.tiles :=
  (SMap.get_mem ({} : Tile) s.tiles t).resolve_left fun e => by
    rw [State.tile, e] at h
    cases h

theorem mem_usedTiles (h : SMap.wf {} s.tiles = true) : t ∈ s.usedTiles ↔ (s.tile t).gang.isSome = true := by
  simp only [State.usedTiles, List.mem_map, List.mem_filter]
  constructor
  · rintro ⟨e, ⟨he, hg⟩, rfl⟩
    rwa [State.tile, SMap.get_of_mem {} _ _ _ h he]
  · exact fun hg => ⟨(t, s.tile t), ⟨mem_tiles hg, hg⟩, rfl⟩

/-- A run of changes, each of one tile of a list: a tile outside the list stays, and one in it is what its own change makes of it. -/
theorem foldl_tiles {P : State → Prop} {g : State → Nat → State} (hP : ∀ u t, P u → P (g u t))
    (hother : ∀ u t j, j ≠ t → (g u t).tile j = u.tile j) {l : List Nat} (hl : l.Nodup) (h : P s) :
    (∀ t ∉ l, (l.foldl g s).tile t = s.tile t) ∧
      ∀ t ∈ l, ∃ u, P u ∧ u.tile t = s.tile t ∧ (l.foldl g s).tile t = (g u t).tile t := by
  induction l generalizing s with
  | nil => exact ⟨fun _ _ => rfl, fun t ht => nomatch ht⟩
  | cons a l ih =>
    obtain ⟨ha, hl⟩ := List.nodup_cons.1 hl
    obtain ⟨hout, hin⟩ := ih hl (hP s a h)
    refine ⟨fun t ht => ?_, fun t ht => ?_⟩
    · obtain ⟨hta, htl⟩ := not_or.1 (mt List.mem_cons.2 ht)
      exact (hout t htl).trans (hother s a t hta)
    · by_cases hta : t = a
      · subst hta
        exact ⟨s, h, rfl, hout t ha⟩
      · obtain ⟨u, hu, htile, heq⟩ := hin t ((List.mem_cons.1 ht).resolve_left hta)
        exact ⟨u, hu, htile.trans (hother s a t hta), heq⟩

/-- Changes of tiles write the tile map alone. -/
theorem modTiles_frame (f : Nat → Tile → Tile) (l : List Nat) (s : State) :
    ∃ m, l.foldl (fun s t => s.modTile t (f t)) s = { s with tiles := m } :=
  foldl_keep (P := fun u : State => ∃ m, u = { s with tiles := m }) l _
    (fun u t ⟨m, h⟩ => by subst h; exact ⟨_, rfl⟩) s ⟨s.tiles, rfl⟩

/-- A change of every used tile that leaves it in use. -/
theorem modUsed_tile (h : SMap.wf {} s.tiles = true) {f : Nat → Tile → Tile} (hf : ∀ t x, (f t x).gang = x.gang) (t : Nat) :
    (s.usedTiles.foldl (fun s t => s.modTile t (f t)) s).tile t =
      if (s.tile t).gang.isSome = true then f t (s.tile t) else s.tile t := by
  obtain ⟨hout, hin⟩ := foldl_tiles (P := fun _ => True) (g := fun u t => u.modTile t (f t)) (fun _ _ _ => trivial)
    (fun u t j hj => u.tile_modTile_other t j (f t) hj) (nodup_usedTiles h) (s := s) trivial
  split
  next hg =>
    obtain ⟨u, -, htile, heq⟩ := hin t ((mem_usedTiles h).2 hg)
    rw [heq, State.tile_modTile_used _ _ _ (by rw [hf, htile, hg]), htile]
  next hg => exact hout t (mt (mem_usedTiles h).1 hg)

end

/-! ## A command that is taken (R343) -/

section
variable {s u : State} {q : Nat} {c : Instr} {e : BitVec 2048}

/-- The queue's turn, the host's copies taken back and the completion's slot reserved write the host block alone, and there neither
the submission queues nor the link-loss latch (R336, R343). -/
theorem turn_frame (s : State) (q : Nat) : ∃ o m, reserve (turnOver (snoopEntry s q) q) q =
    { s with host := { s.host with out := o, turn := (q + 1) % 16, cqs := m } } := by
  have hsnoop : ∃ o, snoopEntry s q = { s with host := { s.host with out := o } } := by
    unfold snoopEntry
    dsimp only
    split <;> exact ⟨_, rfl⟩
  obtain ⟨o, ho⟩ := hsnoop
  unfold reserve
  rw [ho]
  split <;> exact ⟨o, _, rfl⟩

/-- Taking an entry writes the host block alone, and there not the link-loss latch. -/
theorem taking_frame (s : State) (q : Nat) (c : Instr) (e : BitVec 2048) :
    ∃ h, taking s q c e = { s with host := h } ∧ h.llr = s.host.llr := by
  obtain ⟨o, m, h⟩ := turn_frame s q
  rw [taking, takeEntry, h]
  exact ⟨_, rfl, rfl⟩

theorem taking_evolves (s : State) (q : Nat) (c : Instr) (e : BitVec 2048) : Evolves s (taking s q c e) :=
  takeEntry_evolves (turnOver_evolves (snoopEntry_evolves (Evolves.refl s) q) q) q c e

theorem taking_sq_other {i : Nat} (h : i ≠ q) : (taking s q c e).sq i = s.sq i := by
  obtain ⟨o, m, hturn⟩ := turn_frame s q
  rw [taking, takeEntry, State.sq_modSq_other _ _ _ _ h, hturn]
  rfl

/-- What stands in the queue once its entry is taken. -/
theorem taking_cur (s : State) (q : Nat) (c : Instr) (e : BitVec 2048) : ∃ k, ((taking s q c e).sq q).cur = some k ∧ k.cmd = c ∧
    k.entry = e ∧ k.waiting = false ∧ k.takenAt = s.ns := by
  have hns : (turnOver (snoopEntry s q) q).ns = s.ns := by
    unfold snoopEntry
    dsimp only
    split <;> rfl
  unfold taking takeEntry
  rw [State.sq, State.modSq, SMap.get_set_ne]
  · exact ⟨_, rfl, rfl, rfl, rfl, hns⟩
  · exact fun h => nomatch congrArg Sq.cur h

/-- Command `c` with entry `e`, just taken of queue `q`, may be served: no check refuses it, and nothing holds it back. -/
structure Ready (u : State) (q : Nat) (c : Instr) (e : BitVec 2048) : Prop where
  taken : ∃ k, (u.sq q).cur = some k ∧ k.cmd = c ∧ k.entry = e ∧ k.waiting = false
  wf : SMap.wf {} u.host.sqs = true
  awake : inRest u = false
  held : cmdHeld u q = false
  check : commonCheck u e = 0

theorem taking_ready {op : Nat} (h : Offered s q e op) (c : Instr) : Ready (taking s q c e) q c e := by
  obtain ⟨hcanon, -, -, -, -, hrest, hheld, hcheck⟩ := h
  obtain ⟨k, hk, hcmd, hent, hwait, -⟩ := taking_cur s q c e
  have hw := ((taking_evolves s q c e).canon hcanon).sqs
  obtain ⟨b, hb, hllr⟩ := taking_frame s q c e
  rw [hb] at hk hw ⊢
  refine ⟨⟨k, hk, hcmd, hent, hwait⟩, hw, by rw [inRest, hrest]; rfl, hheld, ?_⟩
  rw [← hcheck]
  unfold commonCheck sessionOf
  rw [hllr]

/-- Serving a command that does not wait notes nothing in its queue. -/
theorem modSq_notWaiting {k : Taken} (hw : SMap.wf {} u.host.sqs = true) (hk : (u.sq q).cur = some k) (hwait : k.waiting = false) :
    (u.modSq q fun x => { x with cur := some { k with waiting := false } }) = u := by
  have hx : { u.sq q with cur := some { k with waiting := false } } = u.sq q := by
    rw [← hwait, ← hk]
  rw [State.modSq, hx, State.sq, SMap.set_get_self _ _ _ hw]

/-- A command that may be served has its own meaning. -/
theorem Ready.serve (h : Ready u q c e) :
    (c = .stepRun q e → serveCmd u q = serveStepRun u q e) ∧ (c = .preempt q e → serveCmd u q = servePreempt u q) ∧
    (c = .resume q e → serveCmd u q = serveResume u q) ∧ (c = .restEnter q e → serveCmd u q = serveRestEnter u q) ∧
    (c = .countersSnapshotInstant q e → serveCmd u q = serveSnapshot u q e) ∧
    (c = .countersSnapshotSeam q e → serveCmd u q = serveSnapshot u q e) := by
  obtain ⟨⟨k, hk, hcmd, rfl, hwait⟩, hw, hrest, hheld, hcheck⟩ := h
  have hsame := modSq_notWaiting hw hk hwait
  refine ⟨?_, ?_, ?_, ?_, ?_, ?_⟩ <;>
    · rintro rfl
      simp only [serveCmd, hk, hrest, hheld, Bool.or_false, Bool.false_eq_true, if_false, hsame, hcheck, bne_self_eq_false]
      rw [hcmd]

end

/-! ## Steps begin (R215) -/

section
variable {s u : State} {q : Nat} {e : BitVec 2048}

/-- Only the queue just served holds a command, and that is no copy. -/
theorem liveCopies_taking (h : Offered s q e 0x0220) (c : Instr) : liveCopies (taking s q c e) = false := by
  obtain ⟨-, -, -, hop, hfree, -⟩ := h
  rw [liveCopies, List.any_eq_false]
  intro i _
  by_cases hi : i = q
  · subst hi
    obtain ⟨k, hk, -, rfl, -⟩ := taking_cur s i c e
    simp [hk, hop]
  · simp [taking_sq_other hi, hfree i]

theorem startStep_tile (hw : SMap.wf {} s.tiles = true) (gangs : DWord) (t : Nat) :
    (startStep s q gangs).tile t = if (s.tile t).gang.isSome = true then startTile (s.tile t) else s.tile t :=
  modUsed_tile (s := s.modStg _) hw (f := fun _ => startTile) (fun _ _ => rfl) t

/-- The registers as the step begins. -/
theorem startStep_stg (gangs : DWord) : (startStep s q gangs).stg = { s.stg with
    st := .running, loc := 0, gangDone := 0, hwm := 0, ueLoc := 0, spillWr := 0, spillRd := 0, gangs := gangs
    startAt := some s.ns, timer := none, excluded := 0, exclFrom := none, reporter := some q
    deadlineNow := s.stg.deadlineUs.toNat, rewindDue := false, midStep := true } := by
  obtain ⟨m, hm⟩ := modTiles_frame (fun _ => startTile) s.usedTiles (s.modStg _)
  exact congrArg State.stg hm

theorem startStep_dram (gangs : DWord) : (startStep s q gangs).mem.dram = s.mem.dram := by
  obtain ⟨m, hm⟩ := modTiles_frame (fun _ => startTile) s.usedTiles (s.modStg _)
  exact (congrArg (fun u : State => u.mem.dram) hm :)

end

/-! ## Commands that begin what waits -/

section
variable {s u : State} {q : Nat} {c : Instr} {e : BitVec 2048} {op : Nat}

theorem runs_of_serve {row : Bool} {f : State → State} (h : Offered s q e op) (hexec : exec c s = .next (command s q c e row))
    (hrow : row = true) (hserve : serveCmd (taking s q c e) q = f (taking s q c e)) : Runs s q e c f := by
  rw [Runs, hexec, command_offered c h hrow, hserve]

theorem isOp_of_offered (h : Offered s q e op) : isOp e op = true := beq_iff_eq.2 h.2.2.2.1

/-- A STEP_RUN for the step and for gangs of the tile map, in IDLE, begins the step (R215). -/
theorem runs_stepRun (h : Offered s q e 0x0220) (hidle : s.stg.st = .idle) (hrebind : s.flt.rebind = false)
    (hsaved : s.pre.saved = false) (hstep : entParam e 0x20 64 = s.stg.step.toNat)
    (hgangs : (BitVec.ofNat 64 (entParam e 0x28 64) : DWord) ≠ 0#64)
    (hmask : (BitVec.ofNat 64 (entParam e 0x28 64) : DWord) &&& ~~~(gangMask s) = 0) :
    Runs s q e (.stepRun q e) fun u => startStep u q (BitVec.ofNat 64 (entParam e 0x28 64)) := by
  obtain ⟨b, hb, -⟩ := taking_frame s q (.stepRun q e) e
  have hlive := liveCopies_taking h (.stepRun q e)
  refine runs_of_serve h rfl (isOp_of_offered h) (((taking_ready h _).serve.1 rfl).trans ?_)
  rw [hb] at hlive ⊢
  have hmask' : BitVec.ofNat 64 (entParam e 0x28 64) &&& ~~~(gangMask { s with host := b }) = 0 := hmask
  simp [serveStepRun, State.bound, hidle, hrebind, hsaved, hlive, hstep, hgangs, hmask']

theorem runs_preempt (h : Offered s q e 0x0221) (hst : s.stg.st = .running ∨ s.stg.st = .idle) (hpend : s.pre.pending = none)
    (hsaved : s.pre.saved = false) : Runs s q e (.preempt q e) fun u => { u with pre := { u.pre with pending := some q } } := by
  obtain ⟨b, hb, -⟩ := taking_frame s q (.preempt q e) e
  refine runs_of_serve h rfl (isOp_of_offered h) (((taking_ready h _).serve.2.1 rfl).trans ?_)
  rw [hb]
  rcases hst with hst | hst <;> simp [servePreempt, State.bound, hst, hpend, hsaved]

theorem runs_resume (h : Offered s q e 0x0222) (hsaved : s.pre.saved = true) (hsaving : s.pre.saving = false)
    (hrest : s.pre.restoring = none) (hrebind : s.flt.rebind = false) :
    Runs s q e (.resume q e) fun u => { u with pre := { u.pre with restoring := some q } } := by
  obtain ⟨b, hb, -⟩ := taking_frame s q (.resume q e) e
  refine runs_of_serve h rfl (isOp_of_offered h) (((taking_ready h _).serve.2.2.1 rfl).trans ?_)
  rw [hb]
  simp [serveResume, hsaved, hsaving, hrest, hrebind]

theorem runs_restEnter (h : Offered s q e 0x0410) (hdone : s.stg.st ≠ .localDone) (hcommit : s.stg.st ≠ .committing) :
    Runs s q e (.restEnter q e) fun u => { u with rest := { u.rest with st := .pending, queue := some q } } := by
  obtain ⟨b, hb, -⟩ := taking_frame s q (.restEnter q e) e
  have hawake : s.rest.st = .awake := h.2.2.2.2.2.1
  refine runs_of_serve h rfl (isOp_of_offered h) (((taking_ready h _).serve.2.2.2.1 rfl).trans ?_)
  rw [hb]
  simp [serveRestEnter, hawake, hdone, hcommit]

/-- A snapshot at an instant is noted where AT is 10 µs to 1 s after the take (R374). -/
theorem runs_snapshotInstant (h : Offered s q e 0x0500) (hpend : s.flt.snapPend = none) (hmode : entParam e 0x28 8 = 0)
    (hlo : s.ns + 10000 ≤ entParam e 0x20 64) (hhi : entParam e 0x20 64 ≤ s.ns + 1000000000) :
    Runs s q e (.countersSnapshotInstant q e) fun u =>
      { u with flt := { u.flt with snapPend := some (q, false, entParam e 0x20 64) } } := by
  obtain ⟨k, hk, -, -, -, hat⟩ := taking_cur s q (.countersSnapshotInstant q e) e
  obtain ⟨b, hb, -⟩ := taking_frame s q (.countersSnapshotInstant q e) e
  refine runs_of_serve h rfl (by simp [isOp_of_offered h, hmode]) (((taking_ready h _).serve.2.2.2.2.1 rfl).trans ?_)
  rw [hb] at hk ⊢
  simp [serveSnapshot, State.modFlt, hpend, hmode, hk, hat, hlo, hhi]

theorem takeSnapshot_eq (s : State) (seam : Bool) : ∃ m, takeSnapshot s seam =
    s.modFlt fun f => { f with snap := m, snapGen := s.flt.snapGen + 1, snapPend := none } :=
  ⟨bytesMap (snapBytes s (s.flt.snapGen + 1) seam), rfl⟩

/-- A snapshot moves the generation on and leaves the tiles, the memory and the step guard alone. -/
theorem takeSnapshot_frame (s : State) (seam : Bool) : (takeSnapshot s seam).flt.snapGen = s.flt.snapGen + 1 ∧
    (takeSnapshot s seam).flt.snapPend = none ∧ (takeSnapshot s seam).tiles = s.tiles ∧ (takeSnapshot s seam).mem = s.mem ∧
    (takeSnapshot s seam).stg = s.stg := by
  obtain ⟨m, h⟩ := takeSnapshot_eq s seam
  rw [h]
  exact ⟨rfl, rfl, rfl, rfl, rfl⟩

/-- What waited for a snapshot, other than an AUDIT_READ, completes with its generation's time (R374). -/
theorem snapDone_eq {k : Taken} (hk : (u.sq q).cur = some k) (hop : entOpcode k.entry = 0x0500) :
    snapDone u q = complete u q 0 (snapNat u 8 8) 0 := by
  simp [snapDone, hk, hop]

theorem runs_snapshotSeam (h : Offered s q e 0x0500) (hpend : s.flt.snapPend = none) (hmode : entParam e 0x28 8 = 1)
    (hbound : s.bound = false) :
    let v := takeSnapshot (taking s q (.countersSnapshotSeam q e) e) true
    Runs s q e (.countersSnapshotSeam q e) fun _ => complete v q 0 (snapNat v 8 8) 0 := by
  intro v
  obtain ⟨k, hk, -, hent, -⟩ := taking_cur s q (.countersSnapshotSeam q e) e
  obtain ⟨b, hb, -⟩ := taking_frame s q (.countersSnapshotSeam q e) e
  have hdone : snapDone v q = complete v q 0 (snapNat v 8 8) 0 := snapDone_eq hk (by rw [hent, h.2.2.2.1])
  refine runs_of_serve h rfl (by simp [isOp_of_offered h, hmode]) (((taking_ready h _).serve.2.2.2.2.2 rfl).trans ?_)
  simp only [v] at hdone
  rw [← hdone, hb]
  have hbound' : State.bound { s with host := b } = false := hbound
  simp [serveSnapshot, hpend, hmode, hbound']

/-- The tick at AT (R450). -/
theorem exec_snapshotCopy {at_ : Nat} {k : Taken} (hpend : s.flt.snapPend = some (q, false, at_)) (hat : at_ ≤ s.ns)
    (hk : (s.sq q).cur = some k) (hop : entOpcode k.entry = 0x0500) : exec .snapshotCopy s =
      .next (complete (takeSnapshot s false) q 0 (snapNat (takeSnapshot s false) 8 8) 0) := by
  change execSnapshotCopy s = _
  rw [execSnapshotCopy, hpend]
  exact congrArg Host.Outcome.next ((if_pos hat).trans (snapDone_eq hk hop))

/-- With no job no gang is waited for (R374, R450). -/
theorem exec_snapshotSeamCopy {at_ : Nat} {k : Taken} (hpend : s.flt.snapPend = some (q, true, at_)) (hbound : s.bound = false)
    (hk : (s.sq q).cur = some k) (hop : entOpcode k.entry = 0x0500) : exec .snapshotSeamCopy s =
      .next (complete (takeSnapshot s true) q 0 (snapNat (takeSnapshot s true) 8 8) 0) := by
  have hst : s.stg.st = .unbound := by simpa [State.bound] using hbound
  change execSnapshotSeamCopy s = _
  rw [execSnapshotSeamCopy, hpend]
  exact congrArg Host.Outcome.next ((if_pos (by simp [hbound, hst])).trans (snapDone_eq hk hop))

end

/-- Settles O34: the entry is taken, which writes the host block alone, and its command's meaning is read off. -/
theorem stepsAndWaitsBegin : Obligations.StepsAndWaitsBegin := by
  refine fun s q e => ⟨fun h hidle hrebind hsaved hstep hgangs hmask => ?_, runs_preempt, runs_resume, runs_restEnter,
    runs_snapshotInstant, fun h hpend hmode hbound => ?_,
    fun at_ k hpend hat hk hop => ⟨_, _, exec_snapshotCopy hpend hat hk hop, takeSnapshot_frame s false⟩,
    fun at_ k hpend hbound hk hop => ⟨_, _, exec_snapshotSeamCopy hpend hbound hk hop, takeSnapshot_frame s true⟩⟩
  · have hrun := runs_stepRun h hidle hrebind hsaved hstep hgangs hmask
    have hw : SMap.wf {} s.tiles = true := h.1.tiles
    obtain ⟨b, hb, -⟩ := taking_frame s q (.stepRun q e) e
    rw [Runs, hb] at hrun
    refine ⟨_, hrun, ?_⟩
    rw [startStep_stg, startStep_dram]
    refine ⟨rfl, rfl, rfl, rfl, rfl, rfl, rfl, rfl, fun t ht => ?_, fun t ht => ?_, rfl⟩
    · exact (startStep_tile (s := { s with host := b }) hw _ t).trans (if_pos ht)
    · exact (startStep_tile (s := { s with host := b }) hw _ t).trans (if_neg (show ¬ (s.tile t).gang.isSome = true by simp [ht]))
  · obtain ⟨b, hb, -⟩ := taking_frame s q (.countersSnapshotSeam q e) e
    refine ⟨takeSnapshot (taking s q (.countersSnapshotSeam q e) e) true, _, runs_snapshotSeam h hpend hmode hbound, ?_⟩
    rw [hb]
    exact takeSnapshot_frame { s with host := b } true

end Sys2Proof.Machine
end

section
/-! SUPPORT. The image read back from the near tier and the tiles loaded from it: O13. -/

namespace Sys2Proof.Machine
open Sys2Proof.Claims

section
variable {s u : State} {k : Kept}

theorem Posted.tiles (h : Posted s u) : u.tiles = s.tiles := by
  obtain ⟨_, _, _, _, _, _, _, _, _, _, _, _, _, _, _, _, _, _, _, _, rfl⟩ := h
  rfl

theorem Posted.stg (h : Posted s u) : ∃ l, u.stg = { s.stg with lastStatus := l } := by
  obtain ⟨_, _, _, _, _, _, _, _, _, _, _, _, _, _, _, _, _, l, _, _, rfl⟩ := h
  exact ⟨_, rfl⟩

/-! ## Reads that count what they find (R264) -/

/-- A read of a tier changes no byte of it. -/
theorem dramRead_dram (s : State) (off : Nat) : (dramRead s off).2.2.mem.dram = s.mem.dram := by
  unfold dramRead
  dsimp only
  repeat' split
  all_goals rfl

theorem countReads_posted (s : State) (lo n : Nat) : Posted s (countReads s lo n) :=
  Posted.foldl s _ _ fun u a => dramRead_posted u a

theorem countReads_dram (s : State) (lo n : Nat) : (countReads s lo n).mem.dram = s.mem.dram :=
  foldl_keep (P := fun u : State => u.mem.dram = s.mem.dram) _ _ (fun u a h => (dramRead_dram u a).trans h) s rfl

/-- With no beat that may read poisoned nothing is counted. -/
theorem countReads_of_sound {lo n : Nat} (h : suspects s lo n = []) : countReads s lo n = s := by
  rw [countReads, h]
  rfl

/-! ## The tiles reloaded (R229, R230) -/

theorem keptNow_place (s : State) (k : Kept) : (keptNow s k).keep = k.keep ∧ (keptNow s k).size = k.size := by
  unfold keptNow
  dsimp only
  split <;> exact ⟨rfl, rfl⟩

/-- The image read, and every used tile loaded from what it now holds. -/
def loaded (s : State) (k : Kept) : State :=
  let u := countReads s k.keep k.size
  u.usedTiles.foldl (fun u t => u.modTile t (loadTile (imgTile (keptNow s k).img t))) u

theorem loaded_frame (s : State) (k : Kept) : ∃ m, loaded s k = { countReads s k.keep k.size with tiles := m } :=
  modTiles_frame (fun t => loadTile (imgTile (keptNow s k).img t)) _ _

theorem loaded_tile (h : SMap.wf {} s.tiles = true) (t : Nat) : (loaded s k).tile t =
    if (s.tile t).gang.isSome = true then loadTile (imgTile (keptNow s k).img t) (s.tile t) else s.tile t := by
  have htiles : (countReads s k.keep k.size).tiles = s.tiles := (countReads_posted s _ _).tiles
  have htile : (countReads s k.keep k.size).tile t = s.tile t := congrArg (SMap.get ({} : Tile) · t) htiles
  rw [loaded, modUsed_tile (htiles ▸ h) (f := fun t => loadTile (imgTile (keptNow s k).img t)) (fun _ _ => rfl), htile]

theorem reloadTiles_eq (h : s.image = some k) : reloadTiles s = { loaded s k with gangs := [], wires := [], crossing := [] } := by
  obtain ⟨hkeep, hsize⟩ := keptNow_place s k
  rw [reloadTiles, h]
  dsimp only
  rw [hkeep, hsize, loaded]

/-- The block with its tiles reloaded, IDLE again, before it reports the step. -/
def rewound (s : State) (k : Kept) : State :=
  ({ loaded s k with gangs := [], wires := [], crossing := [] } : State).modStg fun g =>
    { g with st := .idle, rewindDue := false, startAt := none }

/-- Rewind once its verdict is known and no unit is busy. -/
theorem exec_rewind (hc : Canon s) (hst : s.stg.st = .abandoned) (hdue : s.stg.rewindDue = true) (himg : s.image = some k)
    (hbusy : ∀ t, ∀ o ∈ (s.tile t).ops, o.started = false) : exec .rewind s = .next (reportStep (rewound s k) true false) := by
  have hall : (s.tiles.all fun e => e.2.ops.all fun o => !o.started) = true := by
    refine List.all_eq_true.2 fun e he => List.all_eq_true.2 fun o ho => ?_
    have htile : s.tile e.1 = e.2 := SMap.get_of_mem ({} : Tile) _ _ _ hc.tiles he
    rw [hbusy e.1 o (htile ▸ ho)]
    rfl
  change execRewind s = _
  rw [execRewind, if_pos (by simp [hst, hdue, hall]), reloadTiles_eq himg]
  rfl

theorem rewound_stg : ∃ l, (rewound s k).stg = { s.stg with lastStatus := l, st := .idle, rewindDue := false, startAt := none } := by
  obtain ⟨m, hm⟩ := loaded_frame s k
  obtain ⟨l, hl⟩ := (countReads_posted s k.keep k.size).stg
  refine ⟨l, ?_⟩
  rw [rewound, State.modStg, hm, hl]

theorem rewound_mem : (rewound s k).mem = (countReads s k.keep k.size).mem := by
  obtain ⟨m, hm⟩ := loaded_frame s k
  rw [rewound, State.modStg, hm]

end

/-- Settles O13: the tiles are loaded one by one from the image read, and beside them a read writes counts alone. -/
theorem rewindReloadsTiles : Obligations.RewindReloadsTiles := by
  intro s k hc hst hdue himg hbusy
  obtain ⟨l, hstg⟩ := rewound_stg (s := s) (k := k)
  have htile := loaded_tile (k := k) hc.tiles
  refine ⟨rewound s k, exec_rewind hc hst hdue himg hbusy, ?_⟩
  rw [hstg, rewound_mem, countReads_dram]
  refine ⟨rfl, rfl, rfl, rfl, rfl, rfl, fun hsound => by rw [countReads_of_sound hsound], fun t ht => ?_, fun t ht => ?_⟩
  · have hload : (rewound s k).tile t = loadTile (imgTile (keptNow s k).img t) (s.tile t) := (htile t).trans (if_pos ht)
    rw [hload]
    exact ⟨rfl, rfl, rfl, rfl, rfl, rfl, rfl, rfl, rfl, rfl⟩
  · exact (htile t).trans (if_neg (by simp [ht]))

end Sys2Proof.Machine
end

section
/-! SUPPORT. What the end of transfers, messages and a discarded round leave alone, the EC[0] signal, and the abandoned step: O12. -/

namespace Sys2Proof.Machine
open Sys2Proof.Claims

/-! ## What leaves bytes, gangs and the step alone -/

/-- `u` may come after `s` in the wake of an abandoned step: the bytes of the tiers and of the tiles' memories and the gangs are as they
were, STG_LOCAL has lost no bit, and of the step guard's other registers only the outcome of a discard has been written. -/
structure Quiet (s u : State) : Prop where
  tiles : SMap.wf {} s.tiles = true → SMap.wf {} u.tiles = true ∧
    ∀ t, (u.tile t).scratch = (s.tile t).scratch ∧ (u.tile t).hamper = (s.tile t).hamper
  gangs : u.gangs = s.gangs
  dram : u.mem.dram = s.mem.dram
  stg : ∃ d v r, u.stg = { s.stg with loc := u.stg.loc, discards := d, verdict := v, rewindDue := r }
  loc : ∀ b, bitB s.stg.loc b = true → bitB u.stg.loc b = true

section
variable {r s u : State}

/-- A change of other blocks. -/
theorem Quiet.of_eq (htiles : u.tiles = s.tiles) (hgangs : u.gangs = s.gangs) (hdram : u.mem.dram = s.mem.dram)
    (hstg : u.stg = s.stg) : Quiet s u where
  tiles hw := ⟨htiles ▸ hw, fun t => by simp only [State.tile, htiles, and_self]⟩
  gangs := hgangs
  dram := hdram
  stg := ⟨_, _, _, by rw [hstg]⟩
  loc _ h := by rw [hstg]; exact h

theorem Quiet.refl (s : State) : Quiet s s := .of_eq rfl rfl rfl rfl

theorem Quiet.trans (h : Quiet r s) (k : Quiet s u) : Quiet r u where
  tiles hw := by
    obtain ⟨hws, hs⟩ := h.tiles hw
    obtain ⟨hwu, hu⟩ := k.tiles hws
    exact ⟨hwu, fun t => ⟨(hu t).1.trans (hs t).1, (hu t).2.trans (hs t).2⟩⟩
  gangs := k.gangs.trans h.gangs
  dram := k.dram.trans h.dram
  stg := by
    obtain ⟨_, _, _, hs⟩ := h.stg
    obtain ⟨_, _, _, hu⟩ := k.stg
    exact ⟨_, _, _, by rw [hu, hs]⟩
  loc b hb := k.loc b (h.loc b hb)

theorem Quiet.update (h : Quiet r s) (htiles : u.tiles = s.tiles) (hgangs : u.gangs = s.gangs)
    (hdram : u.mem.dram = s.mem.dram) (hstg : u.stg = s.stg) : Quiet r u := h.trans (.of_eq htiles hgangs hdram hstg)

theorem Quiet.foldl {β : Type} (h : Quiet r s) (l : List β) {f : State → β → State} (hf : ∀ u b, Quiet r u → Quiet r (f u b)) :
    Quiet r (l.foldl f s) := foldl_keep (P := Quiet r) l f hf s h

theorem Quiet.st (h : Quiet r s) : s.stg.st = r.stg.st := by
  obtain ⟨_, _, _, hs⟩ := h.stg
  rw [hs]

/-- A change of a tile that leaves its memories alone. -/
theorem modTile_quiet (h : Quiet r s) {t : Nat} {f : Tile → Tile}
    (hf : (f (s.tile t)).scratch = (s.tile t).scratch ∧ (f (s.tile t)).hamper = (s.tile t).hamper) : Quiet r (s.modTile t f) := by
  refine h.trans ⟨fun hw => ⟨SMap.wf_set _ _ _ _ hw, fun j => ?_⟩, rfl, rfl, ⟨_, _, _, rfl⟩, fun _ hb => hb⟩
  by_cases hj : j = t
  · subst hj
    rw [State.tile, State.modTile, State.setTile, SMap.get_set_same _ _ _ _ hw]
    exact hf
  · rw [State.tile_modTile_other _ _ _ _ hj]
    exact ⟨rfl, rfl⟩

theorem bitB_or {w : Nat} (x y : BitVec w) (b : Nat) : bitB (x ||| y) b = (bitB x b || bitB y b) := BitVec.getLsbD_or

theorem setLocal_quiet (h : Quiet r s) (b : Nat) : Quiet r (setLocal s b) := by
  unfold setLocal
  split
  · refine h.trans ⟨fun hw => ⟨hw, fun _ => ⟨rfl, rfl⟩⟩, rfl, rfl, ⟨_, _, _, rfl⟩, fun i hi => ?_⟩
    change bitB (s.stg.loc ||| _) i = true
    rw [bitB_or, hi, Bool.true_or]
  · exact h

theorem Sent.quiet (hs : Sent s u) (h : Quiet r s) : Quiet r u := by
  obtain ⟨_, _, _, _, rfl⟩ := hs
  exact h.update rfl rfl rfl rfl

theorem ledger_quiet (h : Quiet r s) {sev : Nat} (hsev : sev ≠ 3) (src code unit data : Nat) :
    Quiet r (ledger s sev src code unit data) := by
  obtain ⟨_, _, _, _, hl⟩ := ledger_frame s sev src code unit data hsev
  rw [hl]
  exact h.update rfl rfl rfl rfl

theorem modFab_quiet (h : Quiet r s) (f : FabBlk → FabBlk) : Quiet r (s.modFab f) := h.update rfl rfl rfl rfl
theorem modCm_quiet (h : Quiet r s) (f : CmBlk → CmBlk) : Quiet r (s.modCm f) := h.update rfl rfl rfl rfl
theorem modPc_quiet (h : Quiet r s) (f : PcBlk → PcBlk) : Quiet r (s.modPc f) := h.update rfl rfl rfl rfl
theorem modFlt_quiet (h : Quiet r s) (f : FltBlk → FltBlk) : Quiet r (s.modFlt f) := h.update rfl rfl rfl rfl
theorem modMover_quiet (h : Quiet r s) (m : Nat) (f : Mover → Mover) : Quiet r (s.modMover m f) := h.update rfl rfl rfl rfl

/-! ## Messages and signals -/

theorem enqPort_quiet (h : Quiet r s) (p : Nat) (m : Msg) : Quiet r (enqPort s p m) := (enqPort_sent p m).quiet h

theorem sendDirect_quiet (h : Quiet r s) (p : Nat) (m : Msg) : Quiet r (sendDirect s p m) := enqPort_quiet h ..

theorem routeFault_quiet (h : Quiet r s) (m : Msg) : Quiet r (routeFault s m) := ledger_quiet (modFab_quiet h _) (by decide) ..

theorem respond_quiet (h : Quiet r s) (q : Msg) (opc code op0 : Nat) (data : List Beat) : Quiet r (respond s q opc code op0 data) := by
  unfold respond routeRsp
  split
  · exact enqPort_quiet (modFab_quiet h _) ..
  · exact routeFault_quiet (modFab_quiet h _) _

theorem routeDrop_quiet (h : Quiet r s) (m : Msg) : Quiet r (routeDrop s m) := by
  have hf := routeFault_quiet h m
  unfold routeDrop
  dsimp only
  split
  · exact hf
  · split
    · exact modFab_quiet hf _
    · exact respond_quiet hf ..

theorem goneErr_quiet (h : Quiet r s) (m : Msg) : Quiet r (goneErr s m) := by
  unfold goneErr
  split
  · exact modFab_quiet h _
  · exact respond_quiet h ..

theorem routeReq_quiet (h : Quiet r s) (m : Msg) : Quiet r (routeReq s m) := by
  unfold routeReq
  split
  · exact goneErr_quiet h m
  · split
    · exact enqPort_quiet h ..
    · exact routeDrop_quiet h m

theorem sendSignal_quiet (h : Quiet r s) (dst t c amt : Nat) : Quiet r (sendSignal s dst t c amt) := by
  unfold sendSignal
  split
  next hs =>
    obtain ⟨_, -, rfl⟩ := Option.map_eq_some_iff.1 hs
    exact routeReq_quiet (modFab_quiet h _) _
  next => exact modFab_quiet h _

theorem signalLocal_quiet (h : Quiet r s) (src : Option Nat) (t c amt : Nat) : Quiet r (signalLocal s src t c amt) := by
  unfold signalLocal
  split
  · exact h
  · unfold deliverSignal
    split
    · exact modFab_quiet (modFlt_quiet h _) _
    · unfold applySignal
      exact modTile_quiet (modFlt_quiet h _) ⟨rfl, rfl⟩

theorem dropSignal_quiet (h : Quiet r s) (t c amt : Nat) : Quiet r (dropSignal s t c amt) :=
  ledger_quiet (modFlt_quiet (modFab_quiet h _) _) (by decide) ..

theorem signalTo_quiet (h : Quiet r s) (src : Option Nat) (dst t c amt : Nat) : Quiet r (signalTo s src dst t c amt) := by
  unfold signalTo
  split
  · exact h
  · split
    · split
      · exact dropSignal_quiet h ..
      · exact signalLocal_quiet h ..
    · exact sendSignal_quiet (modFlt_quiet h _) ..

/-! ## Ends of transfers (R229, R260) -/

theorem modOp_quiet (h : Quiet r s) (t id : Nat) (f : Op → Op) : Quiet r (s.modOp t id f) := modTile_quiet h ⟨rfl, rfl⟩

theorem dropOp_quiet (h : Quiet r s) (t id : Nat) : Quiet r (s.dropOp t id) := modTile_quiet h ⟨rfl, rfl⟩

theorem retryGone_quiet (h : Quiet r s) (mover : Bool) (unit op : Nat) : Quiet r (retryGone s mover unit op) := by
  unfold retryGone
  exact h.update rfl rfl rfl rfl

theorem killFrom_quiet (h : Quiet r s) (t id beat : Nat) : Quiet r (killFrom s t id beat) := by
  unfold killFrom
  exact modFab_quiet h _

theorem killMover_quiet (h : Quiet r s) (m b : Nat) : Quiet r (killMover s m b) := by
  unfold killMover
  exact modFab_quiet h _

theorem dropFaults_quiet (h : Quiet r s) (l : List FaultRec) : Quiet r (l.foldl (fun s f => dropFault s f.n) s) :=
  h.foldl l fun _ _ hu => hu.update rfl rfl rfl rfl

theorem setOut_memories (x : Tile) (chan : Bool) (n : Nat) :
    (setOut x chan n).scratch = x.scratch ∧ (setOut x chan n).hamper = x.hamper := by
  unfold setOut
  split <;> exact ⟨rfl, rfl⟩

theorem returnCredits_quiet (h : Quiet r s) (t : Nat) (chan : Bool) (n : Nat) : Quiet r (returnCredits s t chan n) := by
  unfold returnCredits
  extract_lets s1
  have h1 : Quiet r s1 := modTile_quiet h (setOut_memories (s.tile t) chan _)
  exact signalLocal_quiet h1 ..

theorem finishXfer_quiet (h : Quiet r s) (t : Nat) (o : Op) : Quiet r (finishXfer s t o) := by
  unfold finishXfer
  extract_lets g s1 s2
  have h2 : Quiet r s2 := signalLocal_quiet (retryGone_quiet (dropOp_quiet h ..) ..) ..
  split
  · exact signalTo_quiet h2 ..
  · exact h2

theorem endXfer_quiet (h : Quiet r s) (t id from_ : Nat) : Quiet r (endXfer s t id from_) := by
  unfold endXfer
  split
  · exact h
  · extract_lets lost s1 s2 s3 s4
    have h3 : Quiet r s3 := modOp_quiet (killFrom_quiet (dropFaults_quiet h _) ..) ..
    have h4 : Quiet r s4 := by
      dsimp only [s4]
      split
      · exact h3
      · exact returnCredits_quiet h3 ..
    split
    · split
      · exact finishXfer_quiet h4 ..
      · exact h4
    · exact h4

theorem moverDone_quiet (h : Quiet r s) (m : Nat) : Quiet r (moverDone s m) := by
  unfold moverDone
  split
  · exact h
  · unfold moverNext
    exact signalTo_quiet (modMover_quiet (modMover_quiet (retryGone_quiet h ..) ..) ..) ..

theorem endMover_quiet (h : Quiet r s) (m b : Nat) : Quiet r (endMover s m b) := by
  unfold endMover
  extract_lets s1 s2 s3
  have h3 : Quiet r s3 := modMover_quiet (killMover_quiet (dropFaults_quiet h _) ..) ..
  split
  · exact moverDone_quiet h3 m
  · exact h3

theorem abandonOp_quiet (h : Quiet r s) (t : Nat) (o : Op) : Quiet r (abandonOp s t o) := by
  unfold abandonOp
  dsimp only
  split
  · exact h
  split
  · split
    · exact returnCredits_quiet (modOp_quiet h ..) ..
    · exact modOp_quiet h ..
  split
  · exact endXfer_quiet (setLocal_quiet h 6) ..
  split
  · exact endXfer_quiet h ..
  · exact modOp_quiet h ..

theorem abandonMover_quiet (h : Quiet r s) (m : Nat) : Quiet r (abandonMover s m) := by
  unfold abandonMover
  extract_lets v s1
  have h1 : Quiet r s1 := modMover_quiet h ..
  split
  · exact h
  split
  · exact h1
  split
  · exact endMover_quiet (setLocal_quiet h1 6) ..
  · exact endMover_quiet h1 ..

theorem abandonTransfers_quiet (h : Quiet r s) : Quiet r (abandonTransfers s) :=
  (h.foldl _ fun _ e hu => hu.foldl _ fun _ o hv => abandonOp_quiet hv e.1 o).foldl _ fun _ m hu => abandonMover_quiet hu m

/-! ## The round of an abandoned step (R229, R231, R323 to R326) -/

theorem sendAbandon_quiet (h : Quiet r s) : Quiet r (sendAbandon s) := by
  unfold sendAbandon
  split
  · exact h
  · exact (modCm_quiet h _).foldl _ fun _ _ hu => sendDirect_quiet hu ..

theorem applyMarks_quiet (h : Quiet r s) (mark : BitVec 256) : Quiet r (applyMarks s mark) := by
  unfold applyMarks
  split
  · exact h
  · refine h.foldl _ fun u e hu => ?_
    split
    · exact hu.update rfl rfl rfl rfl
    · exact hu

theorem answerQueriers_quiet (h : Quiet r s) (step : Nat) (m : Msg) (last : Bool) : Quiet r (answerQueriers s step m last) := by
  have hsent := h.foldl (s.cm.queriers.filter fun q => q.2.toNat == step) (f := fun s q => sendDirect s q.1 m)
    fun _ q hu => sendDirect_quiet hu q.1 m
  unfold answerQueriers
  dsimp only
  split
  · exact modCm_quiet hsent _
  · exact hsent

/-- A change of the registers that a discard writes. -/
theorem modStg_quiet (h : Quiet r s) {f : StgBlk → StgBlk} {d : Nat} {v : BitVec 10} {b : Bool}
    (hf : f s.stg = { s.stg with discards := d, verdict := v, rewindDue := b }) : Quiet r (s.modStg f) :=
  h.trans ⟨fun hw => ⟨hw, fun _ => ⟨rfl, rfl⟩⟩, rfl, rfl, ⟨d, v, b, by rw [State.modStg, hf]⟩, fun _ hb => by
    rw [State.modStg, hf]; exact hb⟩

/-- A module in ABANDONED notes the discard and goes on waiting for its rewind. -/
theorem doDiscard_quiet (h : Quiet r s) (hst : r.stg.st = .abandoned) (a : Agg) : Quiet r (doDiscard s a) := by
  unfold doDiscard
  extract_lets s1 s2 s3
  have h2 : Quiet r s2 := modPc_quiet (applyMarks_quiet h _) _
  have h3 : Quiet r s3 := modStg_quiet h2 rfl
  have hne : ¬ (s3.stg.st == .localDone) = true := by rw [h3.st, hst]; decide
  rw [if_neg hne]
  exact modCm_quiet (modCm_quiet (modStg_quiet h3 rfl) _) _

theorem takeResult_quiet (h : Quiet r s) (hst : r.stg.st = .abandoned) (a : Agg) (commit : Bool) :
    Quiet r (takeResult s a commit) := by
  unfold takeResult
  split
  next hc =>
    obtain rfl : commit = false := by
      have hguard := (Bool.and_eq_true_iff.1 hc).1
      simpa [h.st, hst] using hguard
    extract_lets step m s1 s2
    have h1 : Quiet r s1 := modCm_quiet h _
    exact doDiscard_quiet (answerQueriers_quiet (h1.foldl _ fun _ _ hu => sendDirect_quiet hu ..) ..) hst a
  next => exact h

theorem orphanQuery_quiet (h : Quiet r s) : Quiet r (orphanQuery s) := by
  unfold orphanQuery sendQueries
  split
  · exact modCm_quiet (h.foldl _ fun _ _ hu => sendDirect_quiet hu ..) _
  · exact h

/-- The vote of an abandoned member, at the root the step's discard (R229, R324). -/
theorem tryVote_quiet (h : Quiet r s) (hst : r.stg.st = .abandoned) : Quiet r (tryVote s) := by
  unfold tryVote
  dsimp only
  split
  · exact h
  · have h1 := modCm_quiet h fun c => { c with votedAt := some s.ns }
    split
    · exact takeResult_quiet h1 hst ..
    · exact orphanQuery_quiet (sendDirect_quiet h1 ..)

end

/-! ## The abandoned step (R229) -/

section
variable {s : State}

theorem mem_gangList {t g : Nat} (h : (s.tile t).gang = some g) : g ∈ s.gangList :=
  List.mem_eraseDups.2 (List.mem_filterMap.2 ⟨_, mem_tiles (by rw [h]; rfl), h⟩)

/-- The block as the step is abandoned, its gangs not yet frozen. -/
def abandoning (s : State) : State :=
  let u := (setLocal s 8).modStg fun g => { g with
    st := .abandoned, abandons := sat32 (g.abandons + 1), timer := none, exclFrom := none }
  ledger u 2 7 0x0701 noUnit u.stg.loc.toNat

theorem abandonStep_of_running (h : s.stg.st = .running) :
    abandonStep s = tryVote (sendAbandon (abandonTransfers (freezeAll (abandoning s)))) := by
  unfold abandonStep
  rw [if_neg (by rw [h]; decide)]
  rfl

theorem abandonStep_of_not_running (h : s.stg.st ≠ .running) : abandonStep s = s := by
  unfold abandonStep
  rw [if_pos (by simpa using h)]

theorem abandoning_frame (h : s.stg.st = .running) : ∃ f, abandoning s = { s with flt := f, stg := { s.stg with
    loc := s.stg.loc ||| BitVec.ofNat 10 (2 ^ 8), st := .abandoned, abandons := sat32 (s.stg.abandons + 1), timer := none
    exclFrom := none } } := by
  have hb : s.bound = true := by rw [State.bound, h]; rfl
  unfold abandoning
  rw [setLocal_bound s 8 hb]
  obtain ⟨r, n, q, d, hl⟩ := ledger_frame (({ s with stg := { s.stg with loc := s.stg.loc ||| BitVec.ofNat 10 (2 ^ 8) } } :
    State).modStg fun g => { g with st := .abandoned, abandons := sat32 (g.abandons + 1), timer := none, exclFrom := none })
    2 7 0x0701 noUnit (s.stg.loc ||| BitVec.ofNat 10 (2 ^ 8)).toNat (by decide)
  exact ⟨_, hl⟩

/-- The step abandoned and its gangs frozen, what follows (transfers ended, ABANDON and the vote sent) is quiet. -/
theorem abandonStep_quiet (h : s.stg.st = .running) : ∃ f g, (∀ n ∈ s.gangList, (SMap.get {} g n : Gang).frozen = true) ∧
    Quiet { s with flt := f, gangs := g, stg := { s.stg with
      loc := s.stg.loc ||| BitVec.ofNat 10 (2 ^ 8), st := .abandoned, abandons := sat32 (s.stg.abandons + 1), timer := none
      exclFrom := none } } (abandonStep s) := by
  obtain ⟨f, hab⟩ := abandoning_frame h
  obtain ⟨g, hfreeze, hfrozen⟩ := freezeAll_frame (abandoning s)
  rw [hab] at hfreeze hfrozen
  refine ⟨f, g, hfrozen, ?_⟩
  rw [abandonStep_of_running h, hab, hfreeze]
  exact tryVote_quiet (sendAbandon_quiet (abandonTransfers_quiet (Quiet.refl _))) rfl

end

/-! ## The EC[0] signal (R215) -/

section
variable {s : State}

/-- A signal from outside any gang, with no context saved, writes its tile and the audit's count of signals. -/
theorem signalLocal_open_frame {u : State} (h : u.pre.saved = false) (t c amt : Nat) :
    ∃ m f, signalLocal u none t c amt = { u with tiles := m, flt := f } := by
  unfold signalLocal
  split
  · exact ⟨_, _, rfl⟩
  · unfold deliverSignal
    rw [if_neg (by simp [contextSaved, h])]
    exact ⟨_, _, rfl⟩

/-- A signal of 1 adds 1 to its counter. -/
theorem signalLocal_open_tile {u : State} (h : u.pre.saved = false) {t : Nat} (hg : (u.tile t).gang.isSome = true) (c : Nat) :
    ∃ ts b, (signalLocal u none t c 1).tile t =
      { u.tile t with ec := SMap.upd 0 (u.tile t).ec c (fun v => v + 1), ts := ts, breaches := b } := by
  unfold signalLocal deliverSignal
  rw [if_neg (by decide), if_neg (by simp [contextSaved, h]), applySignal, State.tile_modTile_used _ _ _ hg]
  exact ⟨_, _, rfl⟩

/-- Used tiles of the gangs that the step names. -/
def namedTiles (s : State) : List Nat := s.usedTiles.filter fun t =>
  match (s.tile t).gang with
  | some g => bitB s.stg.gangs g
  | none => false

/-- The block once its named tiles have the signal. -/
def signalled (s : State) : State := (namedTiles s).foldl (fun s t => signalLocal s none t 0 1) s

theorem mem_namedTiles (h : SMap.wf {} s.tiles = true) {t : Nat} :
    t ∈ namedTiles s ↔ ∃ g, (s.tile t).gang = some g ∧ bitB s.stg.gangs g = true := by
  rw [namedTiles, List.mem_filter, mem_usedTiles h]
  cases (s.tile t).gang <;> simp

/-- In the step's first cycle with slot index 255 that ends late enough the signal is given and the timer starts (R215, R228). -/
theorem exec_stepStartSignal {t0 : Nat} (hat : s.stg.startAt = some t0) (hrun : tilesRun s = true) (hidle : idleNow s = false)
    (hslot : s.clk.slot = 255) (hst : s.stg.st = .running) (hend : s.endsAfter (t0 + 1000) = true) :
    exec .stepStartSignal s = .next ((signalled s).modStg fun g =>
      { g with startAt := none, timer := some (signalled s).ns, excluded := 0, exclFrom := none }) := by
  have hs : (s.slotN == 255) = true := by rw [State.slotN, hslot]; rfl
  change execStepStartSignal s = _
  rw [execStepStartSignal, hat]
  dsimp only
  rw [if_pos (by simp [hrun, hidle, hs, hst, hend])]
  rfl

theorem signalled_frame (h : s.pre.saved = false) : ∃ m f, signalled s = { s with tiles := m, flt := f } := by
  refine foldl_keep (P := fun u : State => ∃ m f, u = { s with tiles := m, flt := f }) _ _ ?_ s ⟨_, _, rfl⟩
  rintro _ t ⟨m, f, rfl⟩
  obtain ⟨m', f', hu⟩ := signalLocal_open_frame (u := { s with tiles := m, flt := f }) h t 0 1
  exact ⟨m', f', hu⟩

/-- Each named tile has its EC[0] raised by 1; the others are as they were. -/
theorem signalled_tiles (hc : Canon s) (h : s.pre.saved = false) :
    (∀ t ∉ namedTiles s, (signalled s).tile t = s.tile t) ∧ ∀ t ∈ namedTiles s, ∃ ts b, (signalled s).tile t =
      { s.tile t with ec := SMap.upd 0 (s.tile t).ec 0 (fun v => v + 1), ts := ts, breaches := b } := by
  have hkeep : ∀ (u : State) t, u.pre.saved = false → (signalLocal u none t 0 1).pre.saved = false := fun u t hu => by
    obtain ⟨_, _, hf⟩ := signalLocal_open_frame hu t 0 1
    rw [hf]
    exact hu
  obtain ⟨hout, hin⟩ := foldl_tiles (s := s) (P := fun u => u.pre.saved = false) hkeep
    (fun u t j hj => signalLocal_tile_other u none 0 1 hj) ((nodup_usedTiles hc.tiles).filter _) h
  refine ⟨hout, fun t ht => ?_⟩
  obtain ⟨g, hg, -⟩ := (mem_namedTiles hc.tiles).1 ht
  obtain ⟨u, hu, htile, heq⟩ := hin t ht
  obtain ⟨ts, b, hsig⟩ := signalLocal_open_tile hu (t := t) (by rw [htile, hg]; rfl) 0
  exact ⟨ts, b, heq.trans (htile ▸ hsig)⟩

end

theorem bitB_or_pow (x : BitVec 10) {b : Nat} (h : b < 10) : bitB (x ||| BitVec.ofNat 10 (2 ^ b)) b = true := by
  rw [bitB_or, bitB, bitB, BitVec.getLsbD_ofNat, Nat.testBit_two_pow_self, decide_eq_true h, Bool.and_true, Bool.or_true]

/-- Settles O12: the signal is one of each named tile; what follows on the abandonment leaves bytes, gangs and the step alone. -/
theorem stepsStartAndAbandon : Obligations.StepsStartAndAbandon := by
  refine ⟨fun s t0 hc hat hrun hidle hslot hst hend hsaved => ?_, fun s hst => ⟨fun hlate => ?_, fun hok => ?_⟩,
    fun s hc => ⟨fun hst => ?_, abandonStep_of_not_running⟩⟩
  · obtain ⟨m, f, hframe⟩ := signalled_frame hsaved
    obtain ⟨hout, hin⟩ := signalled_tiles hc hsaved
    refine ⟨_, exec_stepStartSignal hat hrun hidle hslot hst hend, ?_, fun t g hg hb => ?_, fun t ht => ?_, ?_⟩
    · rw [hframe]
      rfl
    · obtain ⟨ts, b, htile⟩ := hin t ((mem_namedTiles hc.tiles).2 ⟨g, hg, hb⟩)
      exact ⟨(congrArg Tile.ec htile :), (congrArg Tile.threads htile :)⟩
    · refine hout t fun hmem => ?_
      obtain ⟨g, hg, hb⟩ := (mem_namedTiles hc.tiles).1 hmem
      rw [ht g hg] at hb
      cases hb
    · rw [hframe]
      rfl
  · have hb : s.bound = true := by rw [State.bound, hst]; rfl
    refine ⟨setLocal s 7, ?_, ?_, ?_⟩
    · change execDeadlineCheck s = _
      rw [execDeadlineCheck, if_pos (by simp [hst, hlate])]
    · rw [setLocal_bound s 7 hb]
      exact bitB_or_pow _ (by decide)
    · rw [setLocal_bound s 7 hb]
  · change execDeadlineCheck s = _
    refine congrArg Host.Outcome.next (if_neg fun h => ?_)
    obtain ⟨⟨-, hset⟩, hlate⟩ : (_ ∧ s.stg.deadlineNow ≠ 0) ∧ 1000 * s.stg.deadlineNow < stepNs s := by simpa using h
    exact hok.elim hset fun hle => by omega
  · obtain ⟨f, g, hfrozen, hq⟩ := abandonStep_quiet hst
    obtain ⟨d, v, r, hstg⟩ := hq.stg
    refine ⟨hq.st, hq.loc 8 (bitB_or_pow _ (by decide)), by rw [hstg], by rw [hstg], by rw [hstg], by rw [hstg],
      fun t n hn => ?_, (hq.tiles hc.tiles).2, hq.dram⟩
    rw [State.gang, hq.gangs]
    exact hfrozen n (mem_gangList hn)

end Sys2Proof.Machine
end

section
/-! SUPPORT. Reads and writes of a tier's beat: what they return, what they write, and what they leave alone (R263, R264, R381). -/

namespace Sys2Proof.Machine
open Sys2Proof.Claims

section
variable {s u v : State} {off : Nat}

/-! ## What a read counts -/

/-- From `s` to `u` beats of the tiers have been read: beside the counts of those found poisoned, their ledger entries, the memory events
and the free values drawn, at most beats have been marked poisoned (R263, R264, R381). -/
def Counted (s u : State) : Prop := ∃ p nu tf fp r nx ql sd ev k, u = { s with
  mem := { s.mem with poison := p, nearUe := nu, tagFail := tf, farPoison := fp }
  flt := { s.flt with ring := r, next := nx, qlen := ql, suppressed := sd }
  gov := { s.gov with events := ev }
  free := k }

theorem Counted.of (s : State) (p nu tf fp r nx ql sd ev k) : Counted s { s with
    mem := { s.mem with poison := p, nearUe := nu, tagFail := tf, farPoison := fp }
    flt := { s.flt with ring := r, next := nx, qlen := ql, suppressed := sd }
    gov := { s.gov with events := ev }
    free := k } := ⟨_, _, _, _, _, _, _, _, _, _, rfl⟩

theorem Counted.refl (s : State) : Counted s s := .of s ..

theorem Counted.trans (h : Counted s u) (k : Counted u v) : Counted s v := by
  obtain ⟨_, _, _, _, _, _, _, _, _, _, rfl⟩ := h
  obtain ⟨_, _, _, _, _, _, _, _, _, _, rfl⟩ := k
  exact .of s ..

theorem Counted.foldl (s : State) (l : List Nat) {f : State → Nat → State} (hf : ∀ u a, Counted u (f u a)) :
    Counted s (l.foldl f s) := foldl_keep (P := Counted s) l f (fun u a h => h.trans (hf u a)) s (.refl s)

theorem dramRead_counted (s : State) (off : Nat) : Counted s (dramRead s off).2.2 := by
  have hlog : ∀ {x y : State} n, Counted x y → Counted x (ledger y 2 2 0x0202 noUnit n) := fun n h => h.trans (.of _ ..)
  have hevent : Counted s (beatEvent s off) := .of s ..
  have hdrawn : Counted s (drawBeat (beatEvent s off)).2 := hevent.trans (.of _ ..)
  unfold dramRead
  dsimp only
  split
  · exact hlog _ (hdrawn.trans (.of _ ..))
  split
  · exact hlog _ (hdrawn.trans (.of _ ..))
  split
  · refine hlog _ (hevent.trans ?_)
    split
    · exact .of _ ..
    · exact .of _ ..
  split
  · exact hlog _ (hevent.trans (.of _ ..))
  · exact hevent

theorem readForTag_counted (s : State) (off : Nat) : Counted s (readForTag s off) := by
  unfold readForTag
  dsimp only
  split
  · exact (dramRead_counted s off).trans (.of _ ..)
  · exact dramRead_counted s off

theorem readRest_counted (s : State) (off : Nat) (own : Bool) : Counted s (readRest s off own) := by
  unfold readRest
  split
  · exact .foldl s _ readForTag_counted
  · exact .refl s

theorem countReads_counted (s : State) (lo n : Nat) : Counted s (countReads s lo n) := .foldl s _ dramRead_counted

/-! ## What a read returns (R264) -/

/-- A near-tier beat that its device returns whole and its tag does not tell against. -/
theorem dramRead_clean (hoff : off < 0x4000000000) (hdead : chanDead s off = false)
    (hpoison : SMap.get false s.mem.poison (off / 64) = false) (htag : tagMatches s off = true) :
    dramRead s off = (SMap.getBeat s.mem.dram (memOff s off), false, beatEvent s off) := by
  have hfar : ¬ off ≥ 0x10000000000 := by omega
  have hdead' : chanDead (beatEvent s off) off = false := hdead
  have hpoison' : SMap.get false (beatEvent s off).mem.poison (off / 64) = false := hpoison
  have htag' : tagMatches (beatEvent s off) off = true := htag
  simp only [dramRead, hfar, hdead', hpoison', htag', decide_false, Bool.false_and, Bool.and_false, Bool.not_true, Bool.false_eq_true,
    if_false]
  rfl

/-- A poisoned near-tier beat counts in MEM_NEAR_UE and is logged. -/
theorem dramRead_poisoned (hoff : off < 0x4000000000) (hdead : chanDead s off = false)
    (hpoison : SMap.get false s.mem.poison (off / 64) = true) :
    dramRead s off = (SMap.getBeat s.mem.dram (memOff s off), true,
      ledger ((beatEvent s off).modMem fun m => { m with nearUe := sat32 (m.nearUe + 1) }) 2 2 0x0202 noUnit (gAddr s.self off)) := by
  have hfar : ¬ off ≥ 0x10000000000 := by omega
  have hdead' : chanDead (beatEvent s off) off = false := hdead
  have hpoison' : SMap.get false (beatEvent s off).mem.poison (off / 64) = true := hpoison
  simp only [dramRead, hfar, hdead', hpoison', decide_false, Bool.false_and, Bool.and_false, Bool.false_eq_true, if_false, if_true]
  rfl

/-- A near-tier beat whose tag does not match counts in MEM_TAG_FAIL, is logged and comes poisoned. -/
theorem dramRead_tagFail (hoff : off < 0x4000000000) (hdead : chanDead s off = false)
    (hpoison : SMap.get false s.mem.poison (off / 64) = false) (htag : tagMatches s off = false) :
    dramRead s off = (SMap.getBeat s.mem.dram (memOff s off), true,
      ledger ((beatEvent s off).modMem fun m => { m with tagFail := sat32 (m.tagFail + 1) }) 2 2 0x0202 noUnit (gAddr s.self off)) := by
  have hfar : ¬ off ≥ 0x10000000000 := by omega
  have hdead' : chanDead (beatEvent s off) off = false := hdead
  have hpoison' : SMap.get false (beatEvent s off).mem.poison (off / 64) = false := hpoison
  have htag' : tagMatches (beatEvent s off) off = false := htag
  simp only [dramRead, hfar, hdead', hpoison', htag', decide_false, Bool.false_and, Bool.and_false, Bool.not_false, Bool.false_eq_true,
    if_false, if_true]
  rfl

/-! ## What a write writes -/

theorem Counted.memOff (h : Counted s u) (off : Nat) : memOff u off = memOff s off := by
  obtain ⟨_, _, _, _, _, _, _, _, _, _, rfl⟩ := h
  rfl

theorem Counted.dram (h : Counted s u) : u.mem.dram = s.mem.dram := by
  obtain ⟨_, _, _, _, _, _, _, _, _, _, rfl⟩ := h
  rfl

theorem tagForm_frame (s : State) (off : Nat) : ∃ g, tagForm s off = { s with mem := { s.mem with tags := g } } := by
  unfold tagForm
  split
  · exact ⟨_, rfl⟩
  · exact ⟨_, rfl⟩

theorem tagForm_written (v : State) (d : SMap Byte) (p w : SMap Bool) (off : Nat) : ∃ g,
    tagForm { v with mem := { v.mem with dram := d, poison := p, farWritten := w } } off =
      { v with mem := { v.mem with dram := d, poison := p, farWritten := w, tags := g } } := tagForm_frame _ off

/-- A write reads the rest of its granule where that keeps a tag, and then writes its beat, which is no longer poisoned, and what the
controller keeps beside it. -/
theorem dramWrite_frame (s : State) (off : Nat) (b : Beat) : ∃ v w g, Counted s v ∧ dramWrite s off b = { v with
    mem := { v.mem with dram := SMap.setBeat s.mem.dram (memOff s off) b, poison := SMap.set false v.mem.poison (off / 64) false
                        farWritten := w, tags := g } } := by
  have hread : Counted s (beatEvent (readRest s off false) off) := (readRest_counted s off false).trans (.of _ ..)
  unfold dramWrite
  generalize beatEvent (readRest s off false) off = v at hread
  rw [← hread.memOff, ← hread.dram]
  obtain ⟨g, hg⟩ := tagForm_written v (SMap.setBeat v.mem.dram (memOff v off) b) (SMap.set false v.mem.poison (off / 64) false)
    (if off ≥ 0x10000000000 then SMap.set false v.mem.farWritten (off / 64) true else v.mem.farWritten) off
  simp only [State.modMem]
  exact ⟨v, _, g, hread, hg⟩

/-- The same for bytes within a beat, which stays poisoned where it was. -/
theorem dramWriteBytes_frame (s : State) (off : Nat) (bs : List Byte) : ∃ v w g, Counted s v ∧ dramWriteBytes s off bs = { v with
    mem := { v.mem with dram := SMap.setBytes s.mem.dram (memOff s off) bs, farWritten := w, tags := g } } := by
  have hread : Counted s (beatEvent (readRest s off true) off) := (readRest_counted s off true).trans (.of _ ..)
  unfold dramWriteBytes
  generalize beatEvent (readRest s off true) off = v at hread
  rw [← hread.memOff, ← hread.dram]
  obtain ⟨g, hg⟩ := tagForm_frame (v.modMem _) off
  exact ⟨v, _, g, hread, hg⟩

/-! ## The near tier's place in the local map -/

theorem placeOf_near (h : off < 0x4000000000) : placeOf off = .near off := if_pos h

theorem limited_near (h : off < 0x4000000000) : limited s off = memFull s := by rw [limited, placeOf_near h]

theorem heldBack_near (h : off < 0x4000000000) :
    heldBack s off = { s with gov := { s.gov with heldBeat := s.gov.heldBeat + 1 } } := by rw [heldBack, placeOf_near h]; rfl

end

end Sys2Proof.Machine
end

section
/-! SUPPORT. A near-tier beat that returns: the errors it meets, and its way into the tile (R252, R264, R443). -/

namespace Sys2Proof.Machine
open Sys2Proof.Claims

section
variable {s u : State} {t b off : Nat} {o : Op} {bad d : Beat}

/-! ## The errors that meet a beat -/

/-- What of a tier stands at the beat after the device returned it wrong by `bad`. -/
def corrupted (s : State) (off : Nat) (bad : Beat) : SMap Byte :=
  if bad = 0 then s.mem.dram else SMap.setBeat s.mem.dram (memOff s off) (SMap.getBeat s.mem.dram (memOff s off) ^^^ bad)

theorem corrupt_eq (s : State) (off : Nat) (bad : Beat) :
    corrupt s off bad = { s with mem := { s.mem with dram := corrupted s off bad } } := by
  unfold corrupt corrupted
  by_cases h : bad = 0
  · rw [if_pos h, if_pos (beq_iff_eq.2 h)]
  · rw [if_neg h, if_neg (by simpa using h)]
    rfl

theorem getBeat_corrupted (hc : SMap.wf 0 s.mem.dram = true) :
    SMap.getBeat (corrupted s off bad) (memOff s off) = SMap.getBeat s.mem.dram (memOff s off) ^^^ bad := by
  unfold corrupted
  split
  · next h => exact h ▸ (BitVec.xor_zero).symm
  · exact SMap.getBeat_setBeat _ _ _ hc

theorem memErrors_none (s : State) (off : Nat) : memErrors s off false false = s := by
  simp [memErrors]

theorem memErrors_ue (s : State) (off : Nat) : ∃ rd, memErrors s off false true =
    { s with mem := { s.mem with poison := SMap.set false s.mem.poison (off / 64) true, retireDue := rd } } := by
  simp only [memErrors, Bool.false_and, Bool.false_eq_true, if_false, if_true]
  split
  · exact ⟨_, rfl⟩
  · exact ⟨_, rfl⟩

theorem noteChanCe_frame (s : State) (off : Nat) : ∃ f, noteChanCe s off = { s with flt := f } := by
  unfold noteChanCe
  dsimp only
  split
  · exact ⟨_, rfl⟩
  · exact ⟨_, rfl⟩

theorem noteChanCe_mem (s : State) (off : Nat) : (noteChanCe s off).mem = s.mem := by
  obtain ⟨f, hf⟩ := noteChanCe_frame s off
  rw [hf]

theorem memErrors_ce (hoff : off < 0x4000000000) (s : State) (ue : Bool) : ∃ pc rd, memErrors s off true ue = { noteChanCe s off with
    mem := { s.mem with
      nearCe := sat32 (s.mem.nearCe + 1), pageCe := pc, retireDue := rd
      poison := if ue then SMap.set false s.mem.poison (off / 64) true else s.mem.poison } } := by
  have hnear : off < 0x10000000000 := by omega
  rw [← noteChanCe_mem s off]
  unfold memErrors
  generalize noteChanCe s off = u
  cases ue <;> simp only [hnear, decide_true, Bool.true_and, if_true, Bool.false_eq_true, if_false]
  · split
    · exact ⟨_, _, rfl⟩
    · exact ⟨_, _, rfl⟩
  · split
    · exact ⟨_, _, rfl⟩
    · exact ⟨_, _, rfl⟩

/-! ## Its arrival at the scratchpad's queue -/

theorem beatArrive_scratch (hk : xDkind o.desc = 0) (hs : inSpill s (xSrcAt o.desc b) = false) (p : Bool) :
    beatArrive s t o b d p = (noteData s p).modOp t o.id fun q => { q with buf := q.buf ++ [(b, xDstAt o.desc b, d, p)] } := by
  have hspill : spillRd s (xSrcAt o.desc b) = s := by rw [spillRd, hs]; rfl
  rw [beatArrive, hspill, hk]
  rfl

theorem noteData_frame (s : State) (p : Bool) : ∃ l, noteData s p = { s with stg := { s.stg with loc := l } } := by
  cases p
  · exact ⟨_, rfl⟩
  · exact setLocal_frame s 6

theorem noteData_poisoned (hb : s.bound = true) : bitB (noteData s true).stg.loc 6 = true := by
  rw [noteData, if_pos rfl, setLocal_bound s 6 hb]
  exact bitB_or_pow _ (by decide)

/-- A near-tier beat read as it returns: its data are what stands there, wrong by what the device returned wrong, and it is poisoned where
its errors are not corrected, which counts and is logged. -/
theorem dramRead_returned (hoff : off < 0x4000000000) (hc : SMap.wf 0 s.mem.dram = true) (hdead : chanDead s off = false)
    (hpoison : SMap.get false s.mem.poison (off / 64) = false)
    (hbad : (bad = 0 ∧ tagMatches s off = true) ∨ tagged s off = false) (ue : Bool) :
    ∃ u p rd nu f, dramRead (memErrors (corrupt s off bad) off false ue) off = (SMap.getBeat s.mem.dram (memOff s off) ^^^ bad, ue, u) ∧
      u = { beatEvent s off with
        mem := { s.mem with dram := corrupted s off bad, poison := p, retireDue := rd, nearUe := nu }, flt := f } ∧
      (ue = false → p = s.mem.poison ∧ rd = s.mem.retireDue ∧ nu = s.mem.nearUe) ∧
      (ue = true → nu = sat32 (s.mem.nearUe + 1)) := by
  have hu := corrupt_eq s off bad
  have hdead' : chanDead (corrupt s off bad) off = false := by rw [hu]; exact hdead
  have hpoison' : SMap.get false (corrupt s off bad).mem.poison (off / 64) = false := by rw [hu]; exact hpoison
  have hdata : SMap.getBeat (corrupt s off bad).mem.dram (memOff (corrupt s off bad) off) =
      SMap.getBeat s.mem.dram (memOff s off) ^^^ bad := by rw [hu]; exact getBeat_corrupted hc
  have htag : ue = false → tagMatches (corrupt s off bad) off = true := fun _ => by
    rcases hbad with ⟨hbad, htag⟩ | htag
    · have hsame : corrupt s off bad = s := by rw [corrupt, if_pos (beq_iff_eq.2 hbad)]
      rw [hsame]
      exact htag
    · have htag' : tagged (corrupt s off bad) off = false := by rw [hu]; exact htag
      rw [tagMatches, htag']
      rfl
  generalize corrupt s off bad = u at *
  cases ue with
  | false =>
    rw [memErrors_none, dramRead_clean hoff hdead' hpoison' (htag rfl), hdata, hu]
    exact ⟨_, _, _, _, _, rfl, rfl, fun _ => ⟨rfl, rfl, rfl⟩, fun h => nomatch h⟩
  | true =>
    obtain ⟨rd, hrd⟩ := memErrors_ue u off
    have hread := dramRead_poisoned (s := memErrors u off false true) hoff (by rw [hrd]; exact hdead')
      (by rw [hrd]; exact SMap.get_set_ne _ _ _ _ (by decide))
    obtain ⟨r, n, q, d, hl⟩ := ledger_frame ((beatEvent (memErrors u off false true) off).modMem fun m =>
      { m with nearUe := sat32 (m.nearUe + 1) }) 2 2 0x0202 noUnit (gAddr (memErrors u off false true).self off) (by decide)
    have hdata' : SMap.getBeat (memErrors u off false true).mem.dram (memOff (memErrors u off false true) off) =
        SMap.getBeat s.mem.dram (memOff s off) ^^^ bad := by rw [hrd]; exact hdata
    rw [hread, hl, hdata', hrd, hu]
    exact ⟨_, _, rd, _, _, rfl, rfl, fun h => (nomatch h), fun _ => rfl⟩

/-- An operation whose beat `b` is no longer outstanding. -/
def unasked (b : Nat) (o : Op) : Op := { o with asked := o.asked.filter (fun a => a.1 != b) }

/-- An operation whose beat `b` has come back and waits for its bank. -/
def arrived (b : Nat) (d : Beat) (p : Bool) (o : Op) : Op :=
  { o with asked := o.asked.filter (fun a => a.1 != b), buf := o.buf ++ [(b, xDstAt o.desc b, d, p)] }

theorem exec_memoryBeatReturn_near {op ga : Nat} (ht : t < 1024) (hop : s.op? t op = some o)
    (hask : o.asked.find? (fun a => a.1 == b) = some (b, ga)) (hnear : gaOff ga < 0x4000000000) (win : Beat) (ok ce : Bool) (e : BeatErr) :
    exec (.memoryBeatReturn t op b win ok ce e) s = .next (
      if memFull s then { s with gov := { s.gov with heldBeat := s.gov.heldBeat + 1 } }
      else
        let r := dramRead (memErrors (corrupt s (gaOff ga) e.bad) (gaOff ga) ce e.ue) (gaOff ga)
        beatArrive (r.2.2.modOp t op (unasked b)) t o b r.1 r.2.1) := by
  show execMemoryBeatReturn t op b win ok ce e s = _
  rw [execMemoryBeatReturn, if_neg (by omega), hop]
  simp only [hask, placeOf_near hnear, limited_near hnear, heldBack_near hnear]
  rfl

/-- The error run of an operating system over a near-tier beat (R443). -/
theorem exec_memoryBeatReturn_scan (hmain : s.pins.mainOn = true) (hnear : 64 * b < 0x4000000000) (op : Nat) (win : Beat) (ok ce : Bool)
    (e : BeatErr) : exec (.memoryBeatReturn 1024 op b win ok ce e) s = .next (memErrors (corrupt s (64 * b) e.bad) (64 * b) ce e.ue) := by
  show execMemoryBeatReturn 1024 op b win ok ce e s = _
  simp only [execMemoryBeatReturn, hmain, placeOf_near hnear, Bool.not_true, Bool.false_eq_true, if_false, if_true]

theorem noteChanCe_within_hour (h : s.ns - s.flt.chanHour < 3600000000000) : noteChanCe s off = { s with
    flt := { s.flt with chanCe := SMap.upd 0 s.flt.chanCe (physChan s (chanKey off)) fun n => n + 1 } } := by
  rw [noteChanCe, if_neg (by omega)]
  rfl

theorem onOp_onOp {f g : Op → Op} (hf : ∀ o, (f o).id = o.id) (l : List Op) (id : Nat) :
    onOp (onOp l id f) id g = onOp l id fun o => g (f o) := by
  rw [onOp, onOp, onOp, List.map_map]
  refine List.map_congr_left fun o _ => ?_
  by_cases h : o.id = id
  · simp [h, hf]
  · simp [h]

theorem modOp_tile (f : Op → Op) (hw : SMap.wf {} s.tiles = true) (id : Nat) :
    (s.modOp t id f).tile t = { s.tile t with ops := onOp (s.tile t).ops id f } := SMap.get_set_same _ _ _ _ hw

/-- Two changes of one operation are one change. -/
theorem modOp_modOp_tile {f g : Op → Op} (hf : ∀ o, (f o).id = o.id) (hw : SMap.wf {} s.tiles = true) (id : Nat) :
    ((s.modOp t id f).modOp t id g).tile t = { s.tile t with ops := onOp (s.tile t).ops id fun o => g (f o) } := by
  rw [modOp_tile g (SMap.wf_set _ _ _ _ hw), modOp_tile f hw, ← onOp_onOp hf]

/-- A beat into the scratchpad arrives for the operation that asked for it: it waits in the tile, and a poisoned one is told to the STG. -/
theorem beatArrive_waits {p : Bool} (hw : SMap.wf {} s.tiles = true) (huniq : ∀ q ∈ (s.tile t).ops, q.id = o.id → q = o)
    (hkind : xDkind o.desc = 0) (hspill : inSpill s (xSrcAt o.desc b) = false) :
    let u := beatArrive (s.modOp t o.id (unasked b)) t o b d p
    u.tile t = { s.tile t with ops := onOp (s.tile t).ops o.id (arrived b d p) } ∧ (∀ v, v ≠ t → u.tile v = s.tile v) ∧
      u.mem = s.mem ∧ (p = false → u.stg = s.stg) ∧ (p = true → s.bound = true → bitB u.stg.loc 6 = true) := by
  intro u
  have hu : u = _ := beatArrive_scratch (s := s.modOp t o.id (unasked b)) hkind hspill p
  obtain ⟨l, hl⟩ := noteData_frame (s.modOp t o.id (unasked b)) p
  refine ⟨?_, fun v hv => ?_, ?_, ?_, ?_⟩
  · have hops : onOp (s.tile t).ops o.id (arrived b d p) =
        onOp (s.tile t).ops o.id fun q => { unasked b q with buf := (unasked b q).buf ++ [(b, xDstAt o.desc b, d, p)] } := by
      refine List.map_congr_left fun q hq => ?_
      by_cases h : q.id = o.id
      · rw [huniq q hq h]
        rfl
      · simp [h]
    rw [hu, hl, hops]
    exact modOp_modOp_tile (s := { s with stg := { s.stg with loc := l } }) (fun _ => by rfl) hw o.id
  · have hfirst : (s.modOp t o.id (unasked b)).tile v = s.tile v := State.tile_modTile_other _ _ _ _ hv
    rw [hu, hl]
    exact (State.tile_modTile_other _ _ _ _ hv).trans hfirst
  · rw [hu, hl]
    rfl
  · rintro rfl
    rw [hu]
    rfl
  · rintro rfl hb
    rw [hu]
    exact noteData_poisoned (s := s.modOp t o.id _) hb

/-- A near-tier beat of a transfer into the scratchpad comes back: it waits in the tile, and only the errors it met are counted. -/
theorem memoryBeatReturn_into_scratch {ga : Nat} (hc : Canon s) (ht : t < 1024) (hop : s.op? t o.id = some o)
    (huniq : ∀ p ∈ (s.tile t).ops, p.id = o.id → p = o)
    (hask : o.asked.find? (fun a => a.1 == b) = some (b, ga)) (hnear : gaOff ga < 0x4000000000) (hdead : chanDead s (gaOff ga) = false)
    (hbad : (bad = 0 ∧ tagMatches s (gaOff ga) = true) ∨ tagged s (gaOff ga) = false)
    (hpoison : SMap.get false s.mem.poison (gaOff ga / 64) = false) (hkind : xDkind o.desc = 0)
    (hspill : inSpill s (xSrcAt o.desc b) = false) (hbound : s.bound = true) (hfree : memFull s = false) (win : Beat) (ok ue : Bool) :
    let d := SMap.getBeat s.mem.dram (at_ s ga) ^^^ bad
    ∃ s', exec (.memoryBeatReturn t o.id b win ok false ⟨ue, bad⟩) s = .next s' ∧
      (s'.tile t).ops = onOp (s.tile t).ops o.id (fun o => { o with
        asked := o.asked.filter (fun a => a.1 != b)
        buf := o.buf ++ [(b, xDstAt o.desc b, d, ue)] }) ∧
      (s'.tile t).scratch = (s.tile t).scratch ∧ (s'.tile t).hamper = (s.tile t).hamper ∧ (∀ u, u ≠ t → s'.tile u = s.tile u) ∧
      s'.mem.dram = (if bad = 0 then s.mem.dram else SMap.setBeat s.mem.dram (at_ s ga) d) ∧
      (ue = false → s'.stg = s.stg ∧ { s'.mem with dram := s.mem.dram } = s.mem) ∧
      (ue = true → bitB s'.stg.loc 6 = true ∧ s'.mem.nearUe = sat32 (s.mem.nearUe + 1)) := by
  intro d
  obtain ⟨u, p, rd, nu, f, hread, hu, hwell, hill⟩ := dramRead_returned hnear hc.mem.dram hdead hpoison hbad ue
  have hstep : exec (.memoryBeatReturn t o.id b win ok false ⟨ue, bad⟩) s =
      .next (beatArrive (u.modOp t o.id (unasked b)) t o b d ue) := by
    rw [exec_memoryBeatReturn_near ht hop hask hnear, hfree, hread]
    rfl
  have htiles : u.tiles = s.tiles := by rw [hu]; rfl
  have hsame : ∀ v, u.tile v = s.tile v := fun v => by rw [State.tile, htiles]; rfl
  have hbeat : u.mem = { s.mem with dram := corrupted s (gaOff ga) bad, poison := p, retireDue := rd, nearUe := nu } := by rw [hu]
  obtain ⟨htile, hother, hmem, hclean, hpois⟩ := beatArrive_waits (s := u) (t := t) (b := b) (o := o) (d := d) (p := ue)
    (htiles ▸ hc.tiles) (hsame t ▸ huniq) hkind (by rw [hu]; exact hspill)
  rw [hsame] at htile
  rw [hbeat] at hmem
  refine ⟨_, hstep, congrArg Tile.ops htile, by rw [htile], by rw [htile],
    fun v hv => (hother v hv).trans (hsame v), congrArg MemBlk.dram hmem, fun h => ⟨(hclean h).trans (by rw [hu]; rfl), ?_⟩,
    fun h => ⟨hpois h (by rw [hu]; exact hbound), (congrArg MemBlk.nearUe hmem).trans (hill h)⟩⟩
  obtain ⟨hp, hrd, hnu⟩ := hwell h
  rw [hmem, hp, hrd, hnu]

end
end Sys2Proof.Machine
end

section
/-! SUPPORT. The errors an operating system scans for, and the beats a tile's buffers let go (R241, R252, R386, R387, R443). -/

namespace Sys2Proof.Machine
open Sys2Proof.Claims

section
variable {s : State} {t b bank : Nat} {o : Op} {bad d : Beat}

/-- A beat whose errors are counted as it is read next (R443). -/
theorem memErrors_scanned (hnear : 64 * b < 0x4000000000) (bad : Beat) (ce ue : Bool) :
    let u := memErrors (corrupt s (64 * b) bad) (64 * b) ce ue
    u.tiles = s.tiles ∧ (ue = true → SMap.get false u.mem.poison b = true) ∧
      u.mem.nearCe = (if ce then sat32 (s.mem.nearCe + 1) else s.mem.nearCe) ∧ (ce = false → u.flt = s.flt) ∧
      (ce = true → s.ns - s.flt.chanHour < 3600000000000 → u.flt = { s.flt with
        chanCe := SMap.upd 0 s.flt.chanCe (physChan s (chanKey (64 * b))) fun n => n + 1 }) ∧
      { u with mem := s.mem, flt := s.flt } = s := by
  intro u
  have hbeat : 64 * b / 64 = b := Nat.mul_div_cancel_left b (by decide)
  have hpois : ∀ m : SMap Bool, SMap.get false (SMap.set false m (64 * b / 64) true) b = true := fun m => by
    rw [hbeat]
    exact SMap.get_set_ne _ _ _ _ (by decide)
  have hcorrupt := corrupt_eq s (64 * b) bad
  cases ce with
  | false =>
    cases ue with
    | false =>
      have hu : u = _ := (memErrors_none (corrupt s (64 * b) bad) (64 * b)).trans hcorrupt
      rw [hu]
      exact ⟨rfl, fun h => (nomatch h), rfl, fun _ => rfl, fun h => (nomatch h), rfl⟩
    | true =>
      obtain ⟨rd, hrd⟩ := memErrors_ue (corrupt s (64 * b) bad) (64 * b)
      have hu : u = _ := hrd
      rw [hu, hcorrupt]
      exact ⟨rfl, fun _ => hpois _, rfl, fun _ => rfl, fun h => (nomatch h), rfl⟩
  | true =>
    obtain ⟨pc, rd, hrd⟩ := memErrors_ce hnear (corrupt s (64 * b) bad) ue
    obtain ⟨f, hf⟩ := noteChanCe_frame (corrupt s (64 * b) bad) (64 * b)
    have hu : u = _ := hrd
    have hflt : u.flt = (noteChanCe (corrupt s (64 * b) bad) (64 * b)).flt := by rw [hu]
    have hhour : s.ns - s.flt.chanHour < 3600000000000 → (noteChanCe (corrupt s (64 * b) bad) (64 * b)).flt = { s.flt with
        chanCe := SMap.upd 0 s.flt.chanCe (physChan s (chanKey (64 * b))) fun n => n + 1 } := fun h => by
      rw [noteChanCe_within_hour (by rw [hcorrupt]; exact h), hcorrupt]
      rfl
    refine ⟨?_, ?_, ?_, fun h => (nomatch h), fun _ h => hflt.trans (hhour h), ?_⟩
    · rw [hu, hf, hcorrupt]
    · rintro rfl
      rw [hu]
      exact hpois _
    · rw [hu, hcorrupt]
      rfl
    · rw [hu, hf, hcorrupt]

/-! ## The DRAIN slot -/

theorem tile_modOp_onOp (f : Op → Op) (id : Nat) (hg : (s.tile t).gang.isSome = true) :
    (s.modOp t id f).tile t = { s.tile t with ops := onOp (s.tile t).ops id f } := tile_modOp f hg

theorem tile_scratchWrite (hg : (s.tile t).gang.isSome = true) (a : Nat) (d : Beat) :
    (scratchWrite (useSlot s t bank) t a d).tile t = { s.tile t with
      scratch := SMap.setBeat (s.tile t).scratch a d, slotUsed := bank :: (s.tile t).slotUsed } := by
  have hslot : (useSlot s t bank).tile t = { s.tile t with slotUsed := bank :: (s.tile t).slotUsed } :=
    State.tile_modTile_used _ _ _ hg
  refine (State.tile_modTile_used _ _ _ (by rw [hslot]; exact hg)).trans ?_
  rw [hslot]

theorem tile_scratchWrite_other (a : Nat) (d : Beat) {v : Nat} (hv : v ≠ t) :
    (scratchWrite (useSlot s t bank) t a d).tile v = s.tile v :=
  (State.tile_modTile_other _ _ _ _ hv).trans (State.tile_modTile_other s _ _ _ hv)

theorem exec_inboundDrain_own {a : Nat} (hslot : bankSlot s t bank 0x42 = true) (hown : drainOwn s t bank = some (o, b, a, d)) :
    exec (.inboundDrain t bank) s = .next ((scratchWrite (useSlot s t bank) t a d).modOp t o.id fun o =>
      { o with buf := o.buf.filter (fun e => e.1 != b), done := o.done + 1 }) := by
  show execInboundDrain t bank s = _
  rw [execInboundDrain, hslot, hown]
  rfl

theorem exec_inboundDrain_foreign {e : DrainEnt} (hslot : bankSlot s t bank 0x42 = true) (hown : drainOwn s t bank = none)
    (hfind : s.fab.drain.find? (fun e => e.tile == t && e.addr / 0x20000 == bank && !e.done) = some e) (hwrite : e.rd = false) :
    exec (.inboundDrain t bank) s = .next (drainAfter ((scratchWrite (useSlot s t bank) t e.addr e.data).modFab fun f =>
      { f with drain := f.drain.erase e }) e) := by
  show execInboundDrain t bank s = _
  rw [execInboundDrain, hslot, hown]
  simp only [hfind, hwrite, Bool.not_true, Bool.false_eq_true, if_false]

/-- A DRAIN slot writes the beat that waits for its bank (R241). -/
theorem inboundDrain_writes_own {a : Nat} (hg : (s.tile t).gang.isSome = true) (hslot : bankSlot s t bank 0x42 = true)
    (hown : drainOwn s t bank = some (o, b, a, d)) :
    ∃ s', exec (.inboundDrain t bank) s = .next s' ∧
      s'.tile t = { s.tile t with
        scratch := SMap.setBeat (s.tile t).scratch a d, slotUsed := bank :: (s.tile t).slotUsed
        ops := onOp (s.tile t).ops o.id fun o => { o with buf := o.buf.filter (fun e => e.1 != b), done := o.done + 1 } } ∧
      (∀ u, u ≠ t → s'.tile u = s.tile u) ∧ { s' with tiles := s.tiles } = s := by
  have hwrite := tile_scratchWrite (bank := bank) hg a d
  refine ⟨_, exec_inboundDrain_own hslot hown, ?_, fun u hu => ?_, rfl⟩
  · rw [tile_modOp_onOp _ _ (by rw [hwrite]; exact hg), hwrite]
  · exact (State.tile_modTile_other _ _ _ _ hu).trans (tile_scratchWrite_other a d hu)

/-! ## The outbound buffers -/

theorem tlbNote_frame (s : State) (die va : Nat) : ∃ l, tlbNote s die va = { s with mem := { s.mem with tlb := l } } := by
  unfold tlbNote
  dsimp only
  split
  · exact ⟨_, rfl⟩
  · exact ⟨_, rfl⟩

/-- A write changes its tier; beside the tiers it counts what it read. -/
theorem dramWrite_outside (s : State) (off : Nat) (d : Beat) : ∃ v m, Counted s v ∧ dramWrite s off d = { v with mem := m } ∧
    m.dram = SMap.setBeat s.mem.dram (memOff s off) d := by
  obtain ⟨v, w, g, hv, hu⟩ := dramWrite_frame s off d
  exact ⟨v, (dramWrite s off d).mem, hv, by rw [hu], by rw [hu]⟩

theorem dramWrite_inSpill (s : State) (off : Nat) (d : Beat) (va : Nat) : inSpill (dramWrite s off d) va = inSpill s va := by
  obtain ⟨v, m, hv, hu, -⟩ := dramWrite_outside s off d
  obtain ⟨_, _, _, _, _, _, _, _, _, _, rfl⟩ := hv
  rw [hu]
  rfl

theorem dramWrite_tiles (s : State) (off : Nat) (d : Beat) :
    (dramWrite s off d).tiles = s.tiles ∧ (dramWrite s off d).stg = s.stg := by
  obtain ⟨v, m, hv, hu, -⟩ := dramWrite_outside s off d
  obtain ⟨_, _, _, _, _, _, _, _, _, _, rfl⟩ := hv
  rw [hu]
  exact ⟨rfl, rfl⟩

theorem placeWrite_near {off : Nat} (h : off < 0x4000000000) (s : State) (d : Beat) : placeWrite s off d = dramWrite s off d := by
  rw [placeWrite, placeOf_near h]

theorem exec_outboundBeatDrain_near {chan x : Bool} {va ga : Nat} (hmain : s.pins.mainOn = true) (hout : drainOut s t chan = some o)
    (hlow : lowBeat o = some (b, va, d, x)) (hreach : reach s (dieOfTile t) va true false = .ok ga) (hself : gaMod ga = s.self)
    (hnear : gaOff ga < 0x4000000000) (hspill : inSpill s va = false) :
    exec (.outboundBeatDrain t chan) s = .next (
      if memFull s then heldBack (tlbNote s (dieOfTile t) va) (gaOff ga)
      else beatLeaves (dramWrite (tlbNote s (dieOfTile t) va) (gaOff ga) d) t o b) := by
  show execOutboundBeatDrain t chan s = _
  rw [execOutboundBeatDrain, hmain, if_pos rfl, hout]
  simp only [hlow, hreach]
  have hspill' : ∀ v, inSpill v va = inSpill s va → spillWr v va = v := fun v hv => by
    rw [spillWr, hv, hspill]
    rfl
  obtain ⟨l, hl⟩ := tlbNote_frame s (dieOfTile t) va
  have hown : (gaMod ga == (tlbNote s (dieOfTile t) va).self) = true := by
    rw [hl]
    exact beq_iff_eq.2 hself
  have hfull : memFull (tlbNote s (dieOfTile t) va) = memFull s := by rw [hl]; rfl
  rw [if_pos hown, placeOf_near hnear]
  simp only [limited_near hnear, hfull, placeWrite_near hnear]
  rw [hspill' _ ((dramWrite_inSpill _ _ _ _).trans (by rw [hl]; rfl))]

/-- The tile whose beat has left an outbound buffer, before the credit returns. -/
def beatGone (x : Tile) (o : Op) (b : Nat) : Tile :=
  { setOut x (xChan o.desc) (outUsed x (xChan o.desc) - 1) with
    ops := onOp x.ops o.id fun o => { o with buf := o.buf.filter (fun e => e.1 != b), done := o.done + 1 } }

theorem beatGone_keeps (x : Tile) (o : Op) (b : Nat) : (beatGone x o b).gang = x.gang ∧ (beatGone x o b).ec = x.ec ∧
    (beatGone x o b).ts = x.ts ∧ (beatGone x o b).scratch = x.scratch ∧
    outUsed (beatGone x o b) (xChan o.desc) = outUsed x (xChan o.desc) - 1 := by
  unfold beatGone
  cases xChan o.desc
  · exact ⟨rfl, rfl, rfl, rfl, rfl⟩
  · exact ⟨rfl, rfl, rfl, rfl, rfl⟩

/-- A beat that has left an outbound buffer, and its credit that returned. -/
theorem beatLeaves_tile (hg : (s.tile t).gang.isSome = true) : (beatLeaves s t o b).tile t = { beatGone (s.tile t) o b with
    ec := raised (s.tile t).ec (if xChan o.desc then 255 else 254) 1, ts := countSig (s.tile t).ts 1 } := by
  have hops := tile_modOp_onOp (s := s) (t := t)
    (fun o => { o with buf := o.buf.filter (fun e => e.1 != b), done := o.done + 1 }) o.id hg
  have hgone : ((s.modOp t o.id fun o => { o with buf := o.buf.filter (fun e => e.1 != b), done := o.done + 1 }).modTile t fun x =>
      setOut x (xChan o.desc) (outUsed x (xChan o.desc) - 1)).tile t = beatGone (s.tile t) o b := by
    rw [State.tile_modTile_used, hops]
    · unfold beatGone
      cases xChan o.desc
      · rfl
      · rfl
    · rw [hops]
      cases xChan o.desc
      · exact hg
      · exact hg
  obtain ⟨hgang, hec, hts, -⟩ := beatGone_keeps (s.tile t) o b
  refine (signalLocal_own_tile _ _ _ ?_).trans ?_
  · rw [hgone, hgang]
    exact hg
  · rw [hgone, hec, hts]

theorem signalLocal_mem (s : State) (src : Option Nat) (t c amt : Nat) : (signalLocal s src t c amt).mem = s.mem := by
  unfold signalLocal deliverSignal
  split
  · rfl
  · split
    · rfl
    · rfl

theorem beatLeaves_frame (s : State) (t : Nat) (o : Op) (b : Nat) : (∀ v, v ≠ t → (beatLeaves s t o b).tile v = s.tile v) ∧
    (beatLeaves s t o b).mem = s.mem ∧ (beatLeaves s t o b).stg = s.stg := by
  unfold beatLeaves returnCredits
  refine ⟨fun v hv => ?_, ?_, signalLocal_stg ..⟩
  · refine (signalLocal_tile_other _ _ _ _ hv).trans ((State.tile_modTile_other _ _ _ _ hv).trans ?_)
    exact State.tile_modTile_other _ _ _ _ hv
  · exact signalLocal_mem ..

/-- A beat for the near tier leaves its outbound buffer (R254). -/
theorem outboundBeatDrain_writes {chan x : Bool} {va ga : Nat} (hg : (s.tile t).gang.isSome = true) (hmain : s.pins.mainOn = true)
    (hout : drainOut s t chan = some o) (hlow : lowBeat o = some (b, va, d, x))
    (hreach : reach s (dieOfTile t) va true false = .ok ga) (hself : gaMod ga = s.self) (hnear : gaOff ga < 0x4000000000)
    (hspill : inSpill s va = false) (hfree : memFull s = false) :
    ∃ s', exec (.outboundBeatDrain t chan) s = .next s' ∧ s'.mem.dram = SMap.setBeat s.mem.dram (at_ s ga) d ∧
      outUsed (s'.tile t) (xChan o.desc) = outUsed (s.tile t) (xChan o.desc) - 1 ∧
      (s'.tile t).ops = onOp (s.tile t).ops o.id (fun o => { o with buf := o.buf.filter (fun e => e.1 != b), done := o.done + 1 }) ∧
      (s'.tile t).ec = raised (s.tile t).ec (if xChan o.desc then 255 else 254) 1 ∧
      (s'.tile t).scratch = (s.tile t).scratch ∧ (∀ u, u ≠ t → s'.tile u = s.tile u) ∧ s'.stg = s.stg := by
  have hstep := exec_outboundBeatDrain_near hmain hout hlow hreach hself hnear hspill
  rw [hfree, if_neg (by decide)] at hstep
  obtain ⟨l, hl⟩ := tlbNote_frame s (dieOfTile t) va
  obtain ⟨v, m, -, hu, hdram⟩ := dramWrite_outside (tlbNote s (dieOfTile t) va) (gaOff ga) d
  obtain ⟨htiles, hstg⟩ := dramWrite_tiles (tlbNote s (dieOfTile t) va) (gaOff ga) d
  have hmem : (dramWrite (tlbNote s (dieOfTile t) va) (gaOff ga) d).mem.dram = SMap.setBeat s.mem.dram (at_ s ga) d := by
    rw [hu, hdram, hl]
    rfl
  generalize dramWrite (tlbNote s (dieOfTile t) va) (gaOff ga) d = w at hstep hmem htiles hstg
  have hsame : ∀ v, w.tile v = s.tile v := fun v => by
    rw [State.tile, htiles, hl]
    rfl
  obtain ⟨hother, hmem', hstg'⟩ := beatLeaves_frame w t o b
  have htile := beatLeaves_tile (s := w) (t := t) (b := b) (o := o) (by rw [hsame]; exact hg)
  rw [hsame] at htile
  obtain ⟨-, -, -, hscratch, hcount⟩ := beatGone_keeps (s.tile t) o b
  refine ⟨_, hstep, (congrArg MemBlk.dram hmem').trans hmem, ?_, ?_, ?_, ?_, fun u hu => (hother u hu).trans (hsame u),
    (hstg'.trans hstg).trans (by rw [hl])⟩
  · rw [htile]
    exact hcount
  · rw [htile]
    rfl
  · rw [htile]
  · rw [htile]
    exact hscratch

end

/-- Settles O25: a near-tier beat comes back with the errors it met, and the DRAIN slots and the outbound buffers let their beats go. -/
theorem beatsReturnAndDrain : Obligations.BeatsReturnAndDrain := by
  refine ⟨fun s t beat ga o win bad ok ce ue hc => ⟨?_, ?_⟩, fun s t o hg => ⟨?_, ?_, ?_⟩⟩
  · intro ht hop huniq hask hnear hdead _ hbad hpoison hkind hspill hbound d
    refine ⟨fun hfull => ?_, fun hfree => ?_⟩
    · rw [exec_memoryBeatReturn_near ht hop hask hnear, if_pos hfull]
    · exact memoryBeatReturn_into_scratch hc ht hop huniq hask hnear hdead hbad hpoison hkind hspill hbound hfree win ok ue
  · intro hnear hmain
    exact ⟨_, exec_memoryBeatReturn_scan hmain hnear o.id win ok ce ⟨ue, bad⟩, memErrors_scanned hnear bad ce ue⟩
  · intro bank b a d hslot hown
    exact inboundDrain_writes_own hg hslot hown
  · intro bank e hslot hown hfind hwrite
    exact ⟨_, exec_inboundDrain_foreign hslot hown hfind hwrite, rfl, tile_scratchWrite hg e.addr e.data,
      fun v hv => tile_scratchWrite_other e.addr e.data hv, rfl⟩
  · intro chan b va d x ga hmain hout hlow hreach hself hnear hspill
    refine ⟨fun hfull => ?_, fun hfree => ?_⟩
    · rw [exec_outboundBeatDrain_near hmain hout hlow hreach hself hnear hspill, if_pos hfull]
    · exact outboundBeatDrain_writes hg hmain hout hlow hreach hself hnear hspill hfree

end Sys2Proof.Machine
end

section
/-! SUPPORT. An atomic descriptor at the head of its mover: what of MEM_TAG_FAIL it leaves (R264, R287). -/

namespace Sys2Proof.Machine
open Sys2Proof.Claims

section
variable {s : State} {m ga : Nat} {d : Beat} {e : MvEnt} {q : List MvEnt}

/-! ## The end of a descriptor -/

theorem ledger_mem (s : State) {sev : Nat} (h : sev ≠ 3) (src code unit data : Nat) : (ledger s sev src code unit data).mem = s.mem := by
  obtain ⟨_, _, _, _, hl⟩ := ledger_frame s sev src code unit data h
  rw [hl]

theorem enqPort_mem (s : State) (p : Nat) (x : Msg) : (enqPort s p x).mem = s.mem := by
  obtain ⟨_, _, _, _, hu⟩ := enqPort_sent (s := s) p x
  rw [hu]

theorem routeFault_mem (s : State) (x : Msg) : (routeFault s x).mem = s.mem := ledger_mem _ (by decide) ..

theorem respond_mem (s : State) (r : Msg) (opc code op0 : Nat) (l : List Beat) : (respond s r opc code op0 l).mem = s.mem := by
  unfold respond routeRsp
  split
  · exact enqPort_mem ..
  · exact routeFault_mem ..

theorem routeReq_mem (s : State) (x : Msg) : (routeReq s x).mem = s.mem := by
  unfold routeReq
  split
  · unfold goneErr
    split
    · rfl
    · exact respond_mem ..
  · split
    · exact enqPort_mem ..
    · unfold routeDrop
      dsimp only
      split
      · exact routeFault_mem ..
      · split
        · exact routeFault_mem s x
        · exact (respond_mem ..).trans (routeFault_mem ..)

/-- A signal is no affair of memory. -/
theorem signalTo_mem (s : State) (src : Option Nat) (dst t c amt : Nat) : (signalTo s src dst t c amt).mem = s.mem := by
  unfold signalTo
  split
  · rfl
  · split
    · split
      · exact ledger_mem _ (by decide) ..
      · exact signalLocal_mem ..
    · unfold sendSignal
      split
      next hsent =>
        obtain ⟨_, -, rfl⟩ := Option.map_eq_some_iff.1 hsent
        exact routeReq_mem ..
      next => rfl

/-- A mover leaves the count of failed tags as it ends its descriptor. -/
theorem moverSettle_tagFail (s : State) (m : Nat) : (moverSettle s m).mem.tagFail = s.mem.tagFail := by
  unfold moverSettle
  split
  next hq =>
    split
    · simp only [moverDone, hq, signalTo_mem]
      rfl
    · rfl
  next => rfl

/-- The update in a granule without a tag counts what its read counts, and no more. -/
theorem dramWriteBytes_untagged {off : Nat} (h : tagged s off = false) (bs : List Byte) :
    (dramWriteBytes s off bs).mem.tagFail = s.mem.tagFail := by
  have hrest : readRest s off true = s := by rw [readRest, h]; rfl
  unfold dramWriteBytes
  dsimp only
  rw [hrest]
  obtain ⟨g, hg⟩ := tagForm_frame ((beatEvent s off).modMem _) off
  rw [hg]
  rfl

/-- The update at a target whose beat fails its tag, in a granule that itself has none. -/
theorem atomicDo_tagFail {off aop o0 o1 : Nat} {w64 : Bool} (hoff : off < 0x4000000000) (hdead : chanDead s (off / 64 * 64) = false)
    (hpoison : SMap.get false s.mem.poison (off / 64 * 64 / 64) = false) (htag : tagMatches s (off / 64 * 64) = false)
    (huntagged : tagged s off = false) :
    (atomicDo s off aop w64 o0 o1).2.2.mem.tagFail = sat32 (s.mem.tagFail + 1) := by
  have hread := dramRead_tagFail (show off / 64 * 64 < 0x4000000000 by omega) hdead hpoison htag
  obtain ⟨r, n, q, l, hl⟩ := ledger_frame ((beatEvent s (off / 64 * 64)).modMem fun m => { m with tagFail := sat32 (m.tagFail + 1) })
    2 2 0x0202 noUnit (gAddr s.self (off / 64 * 64)) (by decide)
  have hcount : (dramRead s (off / 64 * 64)).2.2.mem.tagFail = sat32 (s.mem.tagFail + 1) := by
    rw [hread, hl]
    rfl
  have hstill : tagged (dramRead s (off / 64 * 64)).2.2 off = false := by
    rw [hread, hl]
    exact huntagged
  exact (dramWriteBytes_untagged hstill _).trans hcount

theorem atomicTarget_near (hgot : (s.mover m).got = none) (hask : (s.mover m).asking = false)
    (hw : Writes s m (aTarget d) ga) : (atomicTarget s m d).mem.tagFail =
      (atomicDo (tlbNote s (dieOfMover m) (aTarget d)) (gaOff ga) (aOp d) (aW64 d) (aOp0 d) (aOp1 d)).2.2.mem.tagFail := by
  obtain ⟨hreach, hself, hnear⟩ := hw
  obtain ⟨l, hl⟩ := tlbNote_frame s (dieOfMover m) (aTarget d)
  have hown : (gaMod ga == (tlbNote s (dieOfMover m) (aTarget d)).self) = true := by
    rw [hl]
    exact beq_iff_eq.2 hself
  have hplace : atomicPlace (gaOff ga) = true := by rw [atomicPlace, placeOf_near hnear]
  simp only [atomicTarget, hgot, hask, hreach, hown, hplace, Option.isSome_none, Bool.false_eq_true, if_false, if_true]
  obtain ⟨lo, hlo⟩ := noteData_frame
    (atomicDo (tlbNote s (dieOfMover m) (aTarget d)) (gaOff ga) (aOp d) (aW64 d) (aOp0 d) (aOp1 d)).2.2
    (atomicDo (tlbNote s (dieOfMover m) (aTarget d)) (gaOff ga) (aOp d) (aW64 d) (aOp0 d) (aOp1 d)).2.1
  rw [hlo]
  rfl

/-- A result that is not returned goes nowhere. -/
theorem atomicRun_mem (hret : aRet d = false) (hpos : (s.mover m).pos = 0) : (atomicRun s m d).mem = (atomicTarget s m d).mem := by
  unfold atomicRun
  rw [if_pos hpos, hret]
  dsimp only
  split
  · rfl
  · split
    · rfl
    · rfl

/-- Mover `m` has taken its first descriptor. -/
def moverTaken (s : State) (m : Nat) : State := s.modMover m fun v => { v with busy := true }

theorem mover_moverTaken (s : State) (m : Nat) : (moverTaken s m).mover m = { s.mover m with busy := true } :=
  SMap.get_set_ne _ _ _ _ fun h => nomatch congrArg Mover.busy h

theorem exec_atomicDescriptor_head (hhead : AtHead s m e q) (htype : mvType e.desc = 6) (hvalid : atomicValid e.desc = true) :
    exec (.atomicDescriptor m) s = .next (moverSettle (atomicRun (moverTaken s m) m e.desc) m) := by
  obtain ⟨hjob, hmover, -, -, hmain, hawake⟩ := hhead
  have hfw : fwMover m = false := by
    unfold fwMover
    exact decide_eq_false (by omega)
  have hdesc : descValid e.desc = true := by
    unfold descValid
    rw [htype]
    exact hvalid
  have hrest : (s.rest.st == .resting) = false ∧ (s.rest.st == .waking) = false := by rw [hawake]; decide
  have hbusy : (s.modMover m fun v => { v with busy := true }).mover m = { s.mover m with busy := true } := mover_moverTaken s m
  show Host.Outcome.next (moverTake s m (· == 6) []) = _
  refine congrArg Host.Outcome.next ?_
  have hq : (s.mover m).queue = e :: q := by rw [hmover]
  have hidle : (s.mover m).busy = false := by rw [hmover]
  simp only [moverTake, hq, hfw, htype, hrest, hmain, hidle, hdesc, moverRun, hbusy, beq_self_eq_true, Bool.not_true, Bool.or_false,
    Bool.false_eq_true, if_false, if_true]
  rw [hmover]
  rfl

/-- An atomic whose target's beat fails its tag, in a granule that itself has none, counts in MEM_TAG_FAIL. -/
theorem exec_atomicDescriptor_tagFail (hhead : AtHead s m e q) (htype : mvType e.desc = 6) (hvalid : atomicValid e.desc = true)
    (hret : aRet e.desc = false) (hw : Writes (moverTaken s m) m (aTarget e.desc) ga) (hdead : chanDead s (gaOff ga / 64 * 64) = false)
    (hpoison : SMap.get false s.mem.poison (gaOff ga / 64 * 64 / 64) = false) (htag : tagMatches s (gaOff ga / 64 * 64) = false)
    (huntagged : tagged s (gaOff ga) = false) :
    ∃ u, exec (.atomicDescriptor m) s = .next u ∧ u.mem.tagFail = sat32 (s.mem.tagFail + 1) := by
  refine ⟨_, exec_atomicDescriptor_head hhead htype hvalid, ?_⟩
  obtain ⟨-, hmover, -⟩ := hhead
  obtain ⟨l, hl⟩ := tlbNote_frame (moverTaken s m) (dieOfMover m) (aTarget e.desc)
  rw [moverSettle_tagFail, atomicRun_mem hret (by rw [mover_moverTaken, hmover]),
    atomicTarget_near (by rw [mover_moverTaken, hmover]) (by rw [mover_moverTaken, hmover]) hw, hl]
  exact atomicDo_tagFail hw.2.2 hdead hpoison htag huntagged

end

/-! ## A kept image that begins within a beat -/

/-- An atomic addition to the 4 bytes at 0x10008, which signals tile 0 of this module. -/
def lowAtomic : Beat := pack 512 [(0, 8, 6), (8, 1, 1), (24, 8, 1), (32, 48, 0x10008)]

/-- A module whose kept image takes the near tier from byte 8 to byte 0x10007, with `lowAtomic` at the head of mover 0 and the
addresses below 1 GiB mapped to themselves; `l` are the tags that stand there. -/
def lowKept (l : SMap (Option DWord)) : State := { State.reset with
  pins := { mainOn := true }
  image := some ⟨imageOf [], 8, 1⟩
  mem := { reserve := [(0x1FC0000000 / 8, 0x1FC0010000001), (0x1FC0010000 / 8, 7)], tags := l }
  movers := [(0, { queue := [⟨lowAtomic, 0, 0⟩] })] }

/-- Its granule's tag is none of its bytes. -/
def lowTags : SMap (Option DWord) := [(tagOff (lowKept []) 0x10000 / 8, some (granuleTag (lowKept []) 0x10000 + 1))]

theorem lowKept_canon : Canon (lowKept lowTags) :=
  ⟨⟨rfl, by decide +kernel, by simp [lowKept, lowTags, SMap.wf], rfl⟩, rfl, rfl, by decide +kernel, rfl, rfl, rfl,
    fun _ => ⟨rfl, rfl⟩⟩

theorem lowKept_head : AtHead (lowKept lowTags) 0 ⟨lowAtomic, 0, 0⟩ [] :=
  ⟨by decide, rfl, List.forall_mem_nil _, List.forall_mem_nil _, rfl, rfl⟩

/-- The global address of the target. -/
def lowTarget : Nat := 2 ^ 63 + 0x10008

theorem gaOff_lowTarget : gaOff lowTarget = 0x10008 := by decide

theorem lowKept_writes : Writes (lowKept lowTags) 0 (aTarget lowAtomic) lowTarget ∧
    Writes (moverTaken (lowKept lowTags) 0) 0 (aTarget lowAtomic) lowTarget := by
  unfold Writes Near
  decide +kernel

/-- The target's bytes have no tag. -/
theorem lowKept_untagged : tagged (lowKept lowTags) 0x10008 = false := by decide +kernel

theorem granuleTag_lowKept : granuleTag (lowKept lowTags) 0x10000 = granuleTag (lowKept []) 0x10000 := rfl

theorem lowKept_readable : Readable (lowKept lowTags) lowTarget := by
  refine ⟨by decide +kernel, by decide +kernel, ?_⟩
  rw [gaOff_lowTarget, tagMatches, lowKept_untagged]
  rfl

/-- The beat they lie in has one, which fails. -/
theorem lowKept_tagFails : tagMatches (lowKept lowTags) 0x10000 = false := by
  have htagged : tagged (lowKept lowTags) 0x10000 = true := by decide +kernel
  have hkey : tagOff (lowKept lowTags) 0x10000 = tagOff (lowKept []) 0x10000 := by decide +kernel
  have hget : SMap.get none (lowKept lowTags).mem.tags (tagOff (lowKept lowTags) 0x10000 / 8) =
      some (granuleTag (lowKept []) 0x10000 + 1) := by
    rw [hkey]
    show SMap.get none lowTags _ = _
    simp [lowTags, SMap.get]
  have hwrong : granuleTag (lowKept []) 0x10000 + 1 ≠ granuleTag (lowKept []) 0x10000 := by simp
  rw [tagMatches, htagged, hget, granuleTag_lowKept]
  exact beq_false_of_ne hwrong

/-- The atomic's read of its beat counts in MEM_TAG_FAIL. -/
theorem exec_lowKept : ∃ u, exec (.atomicDescriptor 0) (lowKept lowTags) = .next u ∧ u.mem.tagFail = 1 :=
  exec_atomicDescriptor_tagFail lowKept_head (by decide +kernel) (by decide +kernel) (by decide +kernel) lowKept_writes.2
    (by decide +kernel) (by decide +kernel) lowKept_tagFails lowKept_untagged

/-- Refutes O19: `lowKept`, in good order, has a kept image that begins within a beat (`Canon` does not say where one begins). The atomic's
target has no tag, so that its beat counts as readable; but the beat begins in the kept image, where its granule's tag fails, and the read
of it counts in MEM_TAG_FAIL, which the statement says is kept. -/
theorem not_moversCopyAndUpdate : ¬ Obligations.MoversCopyAndUpdate := by
  intro h
  obtain ⟨u, hexec, -, hmem, -⟩ := h.2 (lowKept lowTags) 0 ⟨lowAtomic, 0, 0⟩ [] lowTarget lowKept_canon lowKept_head (by decide +kernel)
    (by decide +kernel) (by decide +kernel) lowKept_writes.1 lowKept_readable fun ht => by
      rw [gaOff_lowTarget, lowKept_untagged] at ht
      cases ht
  obtain ⟨v, hnext, hcount⟩ := exec_lowKept
  have hv := Host.Outcome.next.inj (hnext.symm.trans hexec)
  rw [hv, signalTo_mem] at hcount
  have hkept : u.mem.tagFail = 0 := congrArg MemBlk.tagFail hmem
  omega

end Sys2Proof.Machine
end

section
/-! SUPPORT. Far-tier ports, the requests held for them, and the near pages retired (R240, R265, R285). -/

namespace Sys2Proof.Machine
open Sys2Proof.Claims

section
variable {s : State} {p page : Nat}

/-! ## Far-tier ports -/

theorem foldl_unmoved {α β : Type} {f : β → α → β} {b : β} {l : List α} (h : ∀ a ∈ l, f b a = b) : l.foldl f b = b := by
  induction l with
  | nil => rfl
  | cons a l ih =>
    rw [List.foldl_cons, h a List.mem_cons_self]
    exact ih fun c hc => h c (List.mem_cons_of_mem a hc)

/-- A port out of service holds only the transfers with a beat outstanding there. -/
theorem exec_farPortDown_idle (hp : p < 4) (hidle : ∀ t, ∀ o ∈ (s.tile t).ops, farAsked o p = none) (hw : SMap.wf {} s.tiles = true) :
    exec (.farPortDown p) s = .next (s.modMem fun m => { m with farUp := SMap.set false m.farUp p false }) := by
  show execFarPortDown p s = _
  rw [execFarPortDown, if_neg (by omega)]
  refine congrArg Host.Outcome.next (foldl_unmoved fun e he => foldl_unmoved fun o ho => ?_)
  have htile : s.tile e.1 = e.2 := SMap.get_of_mem _ _ _ _ hw he
  rw [hidle e.1 o (htile ▸ ho)]

/-- A port with a capacity comes back; no request and no fault waits for it. -/
theorem exec_farPortUp_idle (hp : p < 4) (hcap : SMap.get 0 s.mem.farCap p ≠ 0) (hreqs : s.mem.heldReqs = [])
    (hfaults : s.mem.faults = []) :
    exec (.farPortUp p) s = .next (s.modMem fun m => { m with farUp := SMap.set false m.farUp p true }) := by
  have hgo : (decide (p ≥ 4) || SMap.get 0 s.mem.farCap p == 0) = false := by simp [hcap]; omega
  show execFarPortUp p s = _
  rw [execFarPortUp, hgo]
  simp only [State.modMem, hreqs, hfaults, List.filter_nil, List.foldl_nil, Bool.false_eq_true, if_false]

theorem exec_farPortEnumerated_on (hp : p < 4) (hmain : s.pins.mainOn = true) (cap : Nat) (ide : Bool) :
    exec (.farPortEnumerated p cap ide) s = .next (s.modMem fun m => { m with
      farCap := SMap.set 0 m.farCap p (min cap 512), farUp := SMap.set false m.farUp p (cap != 0)
      farIde := SMap.set false m.farIde p (ide && farSlotOk s p cap) }) := by
  have hgo : (decide (p ≥ 4) || !s.pins.mainOn) = false := by simp [hmain]; omega
  show execFarPortEnumerated p cap ide s = _
  rw [execFarPortEnumerated, hgo]
  rfl

/-- A message that waits at a port is taken from it; memory and tiles do not take part. -/
theorem takeMsg_waiting {m : Msg} {vc : Nat} (hp : p < 18) (hwait : waiting s p m = some (vc, m)) :
    ∃ u, takeMsg s p (mOpc m) m = some u ∧ u.mem = s.mem ∧ u.tiles = s.tiles := by
  have hloop : (p == 18) = false := beq_false_of_ne (by omega)
  unfold takeMsg
  rw [if_neg (by simp), hloop, hwait]
  refine ⟨_, rfl, ?_⟩
  split
  · exact ⟨rfl, rfl⟩
  · exact ⟨rfl, rfl⟩

/-! ## Pages -/

/-- A field record kept in the flash is the one given, but for its version and tag. -/
theorem boardFlush_frame (s : State) (ok : Bool) : ∃ tr f, boardFlush s ok = { s with trust := tr, flt := f } ∧
    tr.board.remap = s.trust.board.remap := by
  unfold boardFlush
  dsimp only
  split
  · exact ⟨_, _, rfl, rfl⟩
  · obtain ⟨r, n, q, d, hl⟩ := ledger_frame (s.modTrust fun t => { t with
      boardDirty := true, boardAt := s.ns, flash := putCopy s.trust.flash (nextField s.trust.flash s.trust.board) })
      2 6 0x0603 noUnit s.trust.flash.brVer.toNat (by decide)
    exact ⟨_, _, hl, rfl⟩

theorem boardSet_frame (s : State) (ok : Bool) (f : FieldRec → FieldRec) :
    ∃ tr l, boardSet s ok f = { s with trust := tr, flt := l } ∧ tr.board.remap = (f s.trust.board).remap :=
  boardFlush_frame (s.modTrust _) ok

theorem fwDone_mover (s : State) (die : Nat) :
    ((fwDone s die).mover (16 * die + 12)).done = sat32 ((s.mover (16 * die + 12)).done + 1) := by
  have hused : { s.mover (16 * die + 12) with done := sat32 ((s.mover (16 * die + 12)).done + 1) } ≠ ({} : Mover) := fun h => by
    have hdone : sat32 ((s.mover (16 * die + 12)).done + 1) = 0 := congrArg Mover.done h
    unfold sat32 at hdone
    omega
  exact congrArg Mover.done (SMap.get_set_ne _ _ _ _ hused)

/-- The block when a near page has been taken off the list of pages due. -/
def pageTaken (s : State) (page : Nat) : State :=
  s.modMem fun m => { m with retireDue := m.retireDue.erase page, pageCe := SMap.set 0 m.pageCe page 0 }

/-- The block when the page's bytes stand in the half's next spare page, before the board record is written: `c` has read the page. -/
def pageCopied (c : State) (page n : Nat) : State :=
  (fwDone c (page / 0x200000 % 2)).draw.2.modMem fun m => { m with
    retired := m.retired + (if SMap.get 0 c.trust.board.remap page = 0 then 1 else 0)
    dram := copyPage m.dram (memOff c (page * 0x10000)) (spareBase (page / 0x200000) + n * 0x10000) }

theorem exec_pageRetire_due (hrest : restful s = true) (hdue : page ∈ s.mem.retireDue) (hspare : remapsUsed s page < 4096) :
    exec (.pageRetire page) s = .next (ledger (boardSet
      (pageCopied (countReads (pageTaken s page) (page * 0x10000) 0x10000) page (remapsUsed s page))
      ((Config.freeBits (countReads (pageTaken s page) (page * 0x10000) 0x10000).free).getLsbD 0)
      fun b => { b with remap := SMap.set 0 b.remap page (remapsUsed s page + 1) }) 1 2 0x0203 noUnit (page * 0x10000)) := by
  have hgo : (!restful s || !s.mem.retireDue.contains page) = false := by simp [hrest, hdue]
  have hspare' : ¬ remapsUsed (pageTaken s page) page ≥ 4096 := by
    show ¬ remapsUsed s page ≥ 4096
    omega
  show execPageRetire page s = _
  rw [execPageRetire, hgo]
  refine congrArg Host.Outcome.next ((if_neg (by decide)).trans ((if_neg hspare').trans ?_))
  rfl

/-- What the retirement of a page comes to, once the page has been read. -/
theorem pageRetire_effect {c : State} (hread : Counted (pageTaken s page) c) (ok : Bool) :
    let u := ledger (boardSet (pageCopied c page (remapsUsed s page)) ok
      fun b => { b with remap := SMap.set 0 b.remap page (remapsUsed s page + 1) }) 1 2 0x0203 noUnit (page * 0x10000)
    u.mem.retired = s.mem.retired + (if SMap.get 0 s.trust.board.remap page = 0 then 1 else 0) ∧
      u.mem.retireDue = s.mem.retireDue.erase page ∧
      (u.mover (16 * (page / 0x200000 % 2) + 12)).done = sat32 ((s.mover (16 * (page / 0x200000 % 2) + 12)).done + 1) ∧
      u.trust.board.remap = SMap.set 0 s.trust.board.remap page (remapsUsed s page + 1) ∧
      u.mem.dram = copyPage s.mem.dram (memOff s (page * 0x10000))
        (spareBase (page / 0x200000) + remapsUsed s page * 0x10000) ∧ u.tiles = s.tiles ∧ u.stg = s.stg := by
  intro u
  obtain ⟨tr, fl, hset, hremap⟩ := boardSet_frame (pageCopied c page (remapsUsed s page)) ok
    fun b => { b with remap := SMap.set 0 b.remap page (remapsUsed s page + 1) }
  obtain ⟨r, n, q, d, hl⟩ := ledger_frame (boardSet (pageCopied c page (remapsUsed s page)) ok
    fun b => { b with remap := SMap.set 0 b.remap page (remapsUsed s page + 1) }) 1 2 0x0203 noUnit (page * 0x10000) (by decide)
  have hu : u = _ := hl
  obtain ⟨_, _, _, _, _, _, _, _, _, _, rfl⟩ := hread
  rw [hu, hset]
  exact ⟨rfl, rfl, fwDone_mover _ _, hremap, rfl, rfl, rfl⟩

/-- A request held longer than the far limit is taken and answered. -/
theorem exec_farRequestTimeout_late {h : HeldReq} {u : State} (hfind : s.mem.heldReqs.find? (fun r => r.n == h.n) = some h)
    (hlate : h.at_ + 1000 * s.mem.farLimit.toNat ≤ s.ns)
    (htake : takeMsg (s.modMem fun m => { m with heldReqs := m.heldReqs.filter fun r => r.n != h.n }) h.port (mOpc h.msg) h.msg = some u) :
    exec (.farRequestTimeout h.n) s = .next (respond u h.msg 0x84 1 0 []) := by
  show execFarRequestTimeout h.n s = _
  rw [execFarRequestTimeout, hfind]
  simp only [hlate, decide_true, if_true, htake]

end

/-- Settles O27: far-tier ports go and come, a held request is answered, and a page due for it is retired. -/
theorem farPortsAndPages : Obligations.FarPortsAndPages := by
  intro s p cap page ide h
  refine ⟨fun hp hidle hc => ⟨_, exec_farPortDown_idle hp hidle hc.tiles, rfl, rfl⟩,
    fun hp hcap hreqs hfaults => ⟨_, exec_farPortUp_idle hp hcap hreqs hfaults, rfl, rfl⟩,
    fun hp hmain => ⟨_, exec_farPortEnumerated_on hp hmain cap ide, ?_, rfl, rfl, rfl, rfl⟩, ?_,
    fun hrest hdue hspare => ⟨_, exec_pageRetire_due hrest hdue hspare, pageRetire_effect (countReads_counted ..) _⟩⟩
  · have hcap : (cap != 0) = decide (cap ≠ 0) := by by_cases hz : cap = 0 <;> simp [hz]
    exact congrArg (SMap.set false s.mem.farUp p) hcap
  · rintro hfind hport ⟨vc, hwait⟩ hlate
    obtain ⟨u, htake, hmem, htiles⟩ := takeMsg_waiting hport hwait
    refine ⟨u, exec_farRequestTimeout_late hfind hlate htake, fun r hr => ?_, by rw [hmem]; rfl, htiles⟩
    rw [hmem] at hr
    exact bne_iff_ne.1 (List.mem_filter.1 hr).2

end Sys2Proof.Machine
end

section
/-! SUPPORT. A completion whose queue lies in the exchange area, and the entry into Rest that reports one (R336, R340, R348, R399). -/

namespace Sys2Proof.Machine
open Sys2Proof.Claims

section
variable {s : State} {bs : List Byte}

/-! ## What a completion writes into the exchange area -/

theorem dramWriteBytes_dram (s : State) (off : Nat) (bs : List Byte) :
    (dramWriteBytes s off bs).mem.dram = SMap.setBytes s.mem.dram (memOff s off) bs := by
  obtain ⟨v, w, g, -, hu⟩ := dramWriteBytes_frame s off bs
  rw [hu]

/-- Bytes short of a line are one write within a beat. -/
theorem xareaPut_dram (off : Nat) (hlo : 0 < bs.length) (hhi : bs.length < 64) :
    (xareaPut s off bs).mem.dram = SMap.setBytes s.mem.dram (memOff s (xareaBase + off)) bs := by
  have hlines : cdiv bs.length 64 = 1 := by
    unfold cdiv
    omega
  have hpart : (bs.drop (64 * 0)).take 64 = bs := List.take_of_length_le hhi.le
  have hshort : ¬ (bs.length = 64 ∧ (xareaBase + off + 64 * 0) % 64 = 0) := fun h => by omega
  rw [xareaPut, hlines]
  simp only [List.range_one, List.foldl_cons, List.foldl_nil, hpart, hshort, decide_eq_true_eq, Bool.and_eq_true, if_false]
  exact dramWriteBytes_dram ..

/-- The entry of 32 bytes that a completion queue takes (R348). -/
def cqEntry (s : State) (cq cid st sq sqhd info0 info1 gen : Nat) (rvalid : Bool) : BitVec 256 :=
  pack 256 [(0, 16, cid), (16, 16, st), (32, 8, sq), (40, 1, (s.cq cq).phase.toNat), (41, 1, rvalid.toNat), (48, 16, sqhd),
    (64, 64, info0), (128, 64, info1), (192, 64, gen)]

theorem postCq_xarea {cq : Nat} (hx : bitB (s.cq cq).base 0 = true) (cid st sq sqhd info0 info1 gen : Nat) (rvalid : Bool) :
    (postCq s cq cid st sq sqhd info0 info1 gen rvalid).mem.dram =
      SMap.setBytes s.mem.dram (memOff s (xareaBase + (baseOff (s.cq cq).base + 32 * (s.cq cq).tail)))
        (leBytes 32 (cqEntry s cq cid st sq sqhd info0 info1 gen rvalid).toNat) := by
  have hlen : (leBytes 32 (cqEntry s cq cid st sq sqhd info0 info1 gen rvalid).toNat).length = 32 := leBytes_length ..
  have hput := xareaPut_dram (s := s) (baseOff (s.cq cq).base + 32 * (s.cq cq).tail) (by rw [hlen]; decide) (by rw [hlen]; decide)
  unfold postCq
  dsimp only
  rw [if_pos hx]
  obtain ⟨o, ho, up, hsend⟩ := hostSend_frame (xareaPut s (baseOff (s.cq cq).base + 32 * (s.cq cq).tail)
    (leBytes 32 (cqEntry s cq cid st sq sqhd info0 info1 gen rvalid).toNat))
    (.cpl cq (s.cq cq).tail (cqEntry s cq cid st sq sqhd info0 info1 gen rvalid)) (bitB (s.cq cq).base 0)
  exact (congrArg (fun u : State => u.mem.dram) hsend).trans hput

/-- A completion without a result changes memory by its entry alone. -/
theorem complete_mem {q : Nat} {k : Taken} (hk : (s.sq q).cur = some k) (st info0 info1 : Nat) :
    (complete s q st info0 info1).mem = (postCq s k.cq (entCid k.entry) st q k.sqhd info0 info1 k.gen false).mem := by
  have hnotify : ∀ (u : State) c, (cqNotify u c).mem = u.mem := fun u c => by
    unfold cqNotify
    split
    · obtain ⟨m, o, ho, up, h⟩ := msixSend_frame u (fldN (u.cq c).cfg 16 6)
      rw [h]
    · rfl
  have hfinish : (finish s q st info0 info1).mem = (postCq s k.cq (entCid k.entry) st q k.sqhd info0 info1 k.gen false).mem := by
    simp only [finish, hk, Option.isSome_none, Bool.false_and]
    split
    · rfl
    · rfl
  rw [complete, hk]
  exact (hnotify _ _).trans hfinish

end

/-! ## An entry into Rest that reports there -/

/-- The block in Rest, before the ledger notes the entry (R399). -/
def restEntered (s : State) : State :=
  (List.range 8).foldl (fun s b => s.modGov fun g => { g with vband := SMap.set 0 g.vband b 450 })
    (((({ dropAcc (beginHold s) with
        rest := { (dropAcc (beginHold s)).rest with st := .resting, queue := none, wakeAt := none } }).modHost
      fun h => { h with hwtCache := [] }).modMem fun m => { m with tlb := [], selfRefresh := true }).modGov
      fun g => { g with op := 0, rest := true })

theorem exec_restEntry_reports {s : State} {q : Nat} (hdue : restDue s = true) (hq : s.rest.queue = some q) :
    exec .restEntry s = .next (complete (ledgerOpen (restEntered s) 4) q 0 (ledgerOpen (restEntered s) 4).ns 0) := by
  show execRestEntry s = _
  rw [execRestEntry, hdue]
  simp only [hq, Bool.not_true, Bool.false_eq_true, if_false]
  rfl

/-- A module about to enter Rest for a REST_ENTER of queue 0, whose completion queue lies in the exchange area. -/
def restPosted : State := { State.reset with
  pins := { mainOn := true }
  rest := { st := .pending, queue := some 0 }
  host := { sqs := [(0, { cur := some { cmd := .restEnter 0 0, entry := 0x10000, gen := 0, sqhd := 0, cq := 0, waiting := false } })]
            cqs := [(0, { base := 1 })] } }

theorem restPosted_canon : Canon restPosted :=
  ⟨⟨rfl, rfl, rfl, rfl⟩, rfl, rfl, rfl, rfl, by decide +kernel, by decide +kernel, fun _ => ⟨rfl, rfl⟩⟩

theorem restDue_restPosted : restDue restPosted = true := by decide +kernel

/-- Its completion stands in the near tier, where the exchange area lies. -/
theorem restPosted_entry {u : State} (hhost : u.host = restPosted.host) (hremap : u.trust.board.remap = []) (hdram : u.mem.dram = []) :
    SMap.getBytes (complete u 0 0 0 0).mem.dram xareaBase 32 = 1 :: List.replicate 31 0 := by
  have hcur : (u.sq 0).cur = some { cmd := .restEnter 0 0, entry := 0x10000, gen := 0, sqhd := 0, cq := 0, waiting := false } := by
    rw [State.sq, hhost]
    rfl
  have hcq : u.cq 0 = { base := 1 } := by
    rw [State.cq, hhost]
    rfl
  have hoff : memOff u (xareaBase + (baseOff 1 + 32 * 0)) = xareaBase := by
    rw [memOff, hremap]
    decide
  have hent : leBytes 32 (cqEntry u 0 1 0 0 0 0 0 0 false).toNat = leBytes 32 1 := by
    rw [cqEntry, hcq]
    decide +kernel
  have hcid : entCid 0x10000 = 1 := by decide +kernel
  rw [complete_mem hcur, postCq_xarea (by rw [hcq]; decide), hcq, hdram]
  simp only [hcid]
  rw [hoff, hent]
  decide +kernel

/-- Refutes O47: `restPosted`, in good order, is due to enter Rest for a REST_ENTER, whose completion goes to a queue that BASE bit 0
places in the exchange area (R340). The entry of that completion is written into the near tier (R336), so that memory does not stay
as it was but for the translations and self-refresh, as the statement has it. -/
theorem not_restWakesAndScrubEnds : ¬ Obligations.RestWakesAndScrubEnds := by
  intro h
  obtain ⟨s', hexec, -, hmem, -⟩ := (h restPosted restPosted_canon).1 restDue_restPosted
  obtain ⟨r, n, q, d, k, hu⟩ := ledgerOpen_frame (restEntered restPosted) 4
  have hnext := exec_restEntry_reports restDue_restPosted (show restPosted.rest.queue = some 0 from rfl)
  have hentry := restPosted_entry (u := ledgerOpen (restEntered restPosted) 4) (by rw [hu]; rfl) (by rw [hu]; rfl) (by rw [hu]; rfl)
  have hns : (ledgerOpen (restEntered restPosted) 4).ns = 0 := by
    have hclock : (restEntered restPosted).ns = 0 := by decide +kernel
    rw [hu]
    exact hclock
  rw [hns] at hnext
  obtain rfl : complete _ 0 0 0 0 = s' := Host.Outcome.next.inj (hnext.symm.trans hexec)
  rw [hmem] at hentry
  exact absurd hentry (by decide)

end Sys2Proof.Machine
end

section
/-! SUPPORT. A port that stands as given in a block that is otherwise another's: writes of one port, one after the other, what reads
through them, and a message queued at a failed port (R294). -/

namespace Sys2Proof.Machine
open Sys2Proof.Claims

/-- A key stored twice holds what was stored last. -/
theorem SMap.set_set {α : Type} [DecidableEq α] (d : α) (m : SMap α) (k : Nat) (v w : α) (h : SMap.wf d m = true) :
    SMap.set d (SMap.set d m k v) k w = SMap.set d m k w := by
  induction m with
  | nil => by_cases hv : v = d <;> simp [SMap.set, hv]
  | cons e m ih =>
    obtain ⟨j, x⟩ := e
    obtain ⟨hx, hlow, hw⟩ := (SMap.wf_cons d j x m).1 h
    rcases Nat.lt_trichotomy k j with hk | rfl | hk
    · by_cases hv : v = d <;> simp [SMap.set, hk, hv]
    · by_cases hv : v = d
      · have hgone : SMap.set d m k w = SMap.set d ((k, x) :: m) k w := by
          cases m with
          | nil => simp [SMap.set]
          | cons e m =>
            have hke : k < e.1 := hlow e (by simp)
            simp [SMap.set, hke]
        simpa [SMap.set, hv] using hgone
      · simp [SMap.set, hv]
    · simp [SMap.set, show ¬ k < j by omega, show k ≠ j by omega, ih hw]

/-- The block `s` with `x` for its port `p`. -/
def State.withPort (s : State) (p : Nat) (x : Port) : State := { s with ports := SMap.set {} s.ports p x }

theorem modPort_eq (s : State) (p : Nat) (f : Port → Port) : s.modPort p f = s.withPort p (f (s.port p)) := rfl

theorem onlyPort_withPort (s : State) (p : Nat) (x : Port) : OnlyPort s (s.withPort p x) p x := ⟨rfl, rfl⟩

section
variable {s : State} {p : Nat} {x : Port}

@[simp] theorem withPort_self : (s.withPort p x).self = s.self := rfl
@[simp] theorem withPort_bound : (s.withPort p x).bound = s.bound := rfl
@[simp] theorem withPort_portCfg (q : Nat) : (s.withPort p x).portCfg q = s.portCfg q := rfl
@[simp] theorem withPort_jobDigest : jobDigest (s.withPort p x) = jobDigest s := rfl
@[simp] theorem withPort_helloFlit (q : Nat) : helloFlit (s.withPort p x) q = helloFlit s q := rfl
@[simp] theorem withPort_fab : (s.withPort p x).fab = s.fab := rfl

/-- Events are counted beside the ports. -/
theorem noteEvents_withPort (i n : Nat) : noteEvents (s.withPort p x) i n = (noteEvents s i n).withPort p x := by
  unfold noteEvents
  split <;> rfl

theorem noteEvents_ports (s : State) (i n : Nat) : (noteEvents s i n).ports = s.ports := by
  unfold noteEvents
  split <;> rfl

section
variable (hw : SMap.wf {} s.ports = true)
include hw

theorem port_withPort : (s.withPort p x).port p = x := SMap.get_set_same _ _ _ _ hw

theorem modPort_withPort (f : Port → Port) : (s.withPort p x).modPort p f = s.withPort p (f x) := by
  rw [modPort_eq, port_withPort hw]
  exact congrArg (fun m => { s with ports := m }) (SMap.set_set _ _ _ _ _ hw)

theorem portUp_withPort : portUp (s.withPort p x) p = (x.st == .up || x.st == .swap) := by
  rw [portUp, port_withPort hw]

theorem wf_withPort : SMap.wf {} (s.withPort p x).ports = true := SMap.wf_set _ _ _ _ hw

theorem wf_noteEvents (i n : Nat) : SMap.wf {} (noteEvents s i n).ports = true := by
  rw [noteEvents_ports]
  exact hw

theorem withPort_port : s.withPort p (s.port p) = s :=
  congrArg (fun m => { s with ports := m }) (SMap.set_get_self _ _ _ hw)

end

/-! ## A message queued at a failed port (R294, R296) -/

/-- The queues of a port, its place in the rotation of its detour pairs and nothing else differ. -/
def SameButQueues (x y : Port) : Prop := ∃ q d n, y = { x with outq := q, detq := d, detNext := n }

theorem SameButQueues.refl (x : Port) : SameButQueues x x := ⟨_, _, _, rfl⟩

theorem SameButQueues.trans {x y z : Port} (h : SameButQueues x y) (k : SameButQueues y z) : SameButQueues x z := by
  obtain ⟨_, _, _, rfl⟩ := h
  obtain ⟨_, _, _, rfl⟩ := k
  exact ⟨_, _, _, rfl⟩

/-- A change of the queues of one port is one of the queues of each. -/
theorem modPort_queues (hw : SMap.wf {} s.ports = true) (q : Nat) {f : Port → Port} (hf : ∀ x, SameButQueues x (f x)) :
    SameButQueues (s.port p) ((s.modPort q f).port p) := by
  by_cases hpq : p = q
  · subst hpq
    rw [State.port_modPort_same _ _ _ hw]
    exact hf _
  · rw [State.port_modPort_other _ _ _ _ hpq]
    exact SameButQueues.refl _

/-- A message leaves by a port's queues, or by those of the ports its detour pairs name. -/
theorem enqPort_queues (hw : SMap.wf {} s.ports = true) (q : Nat) (m : Msg) : SameButQueues (s.port p) ((enqPort s q m).port p) := by
  have hhold : SameButQueues (s.port p) ((s.modPort q fun x =>
      { x with outq := x.outq ++ [(channelOf (mOpc m) (mHops m) false, m)] }).port p) := modPort_queues hw q fun _ => ⟨_, _, _, rfl⟩
  unfold enqPort
  dsimp only
  split
  · cases hsend : detourSend s q m with
    | none => exact hhold
    | some u =>
      obtain ⟨d, -, rfl⟩ := Option.map_eq_some_iff.1 hsend
      have hturn : SameButQueues (s.port p) ((s.modPort q fun x => { x with detNext := d.1 }).port p) :=
        modPort_queues hw q fun _ => ⟨_, _, _, rfl⟩
      exact hturn.trans (modPort_queues (SMap.wf_set _ _ _ _ hw) d.2.1 fun _ => ⟨_, _, _, rfl⟩)
  · exact hhold

/-- It changes ports alone. -/
theorem enqPort_frame (s : State) (q : Nat) (m : Msg) : ∃ l, enqPort s q m = { s with ports := l } := by
  unfold enqPort
  dsimp only
  split
  · cases hsend : detourSend s q m with
    | none => exact ⟨_, rfl⟩
    | some u =>
      obtain ⟨d, -, rfl⟩ := Option.map_eq_some_iff.1 hsend
      exact ⟨_, rfl⟩
  · exact ⟨_, rfl⟩

end

end Sys2Proof.Machine
end

section
/-! SUPPORT. Link control flits taken in at a port: HELLO, LANE_SWAP, LANE_ACK, DOWN, RETRAINED (R284, R292, R293, R297, R298): O17. -/

namespace Sys2Proof.Machine
open Sys2Proof.Claims

section
variable {s : State} {p : Nat}

/-- A link control flit that waits is taken. -/
theorem takeCtl_control {ty : Nat} {flit : Beat} (h : Control s p ty flit) :
    takeCtl s p ty flit = some (s.withPort p (uncontrol s p flit)) := by
  obtain ⟨hty, hmem⟩ := h
  have hin : (s.port p).inCtl.contains flit = true := List.contains_iff_mem.2 hmem
  rw [takeCtl, hin, hty]
  simp only [decide_true, Bool.and_self, if_true]
  rfl

/-! ## HELLO (R298) -/

/-- Every channel of a port holds its allotment (R274). -/
theorem fullCredits_get (s : State) (p : Nat) {v : Nat} (hv : v < 16) :
    SMap.get 0 (fullCredits s p) v = (s.portCfg p).allot.getD v 0 := by
  have hrun : ∀ n : Nat, SMap.wf 0 ((List.range n).foldl (fun m v => SMap.set 0 m v ((s.portCfg p).allot.getD v 0)) []) = true ∧
      ∀ v, v < n → SMap.get 0 ((List.range n).foldl (fun m v => SMap.set 0 m v ((s.portCfg p).allot.getD v 0)) []) v =
        (s.portCfg p).allot.getD v 0 := by
    intro n
    induction n with
    | zero => exact ⟨rfl, fun v h => absurd h (by omega)⟩
    | succ n ih =>
      obtain ⟨hwf, hget⟩ := ih
      rw [List.range_succ, List.foldl_append, List.foldl_cons, List.foldl_nil]
      refine ⟨SMap.wf_set _ _ _ _ hwf, fun v hv => ?_⟩
      by_cases hvn : v = n
      · subst hvn
        exact SMap.get_set_same _ _ _ _ hwf
      · rw [SMap.get_set_other _ _ _ _ _ hvn]
        exact hget v (by omega)
  exact (hrun 16).2 v hv

/-- The HELLO `h` names the peer that the FABRIC section gives port `p`, and the job's digest (R298). -/
def HelloAgrees (s : State) (p : Nat) (h : Beat) : Prop :=
  fldN h 8 16 = (s.portCfg p).peerMod ∧ fldN h 24 8 = (s.portCfg p).peerPort ∧ fld h 32 256 = jobDigest s

/-- The port with its peer's HELLO noted. -/
def greeted (x : Port) (flit : Beat) : Port :=
  { x with hello := some flit, peerMod := fldN flit 8 16 % 2 ^ 15, peerPort := fldN flit 24 8 % 32, helloBad := false }

/-- A port that comes UP in an epoch (R274, R298). -/
def entered (s : State) (p : Nat) (x : Port) (epoch : Nat) : Port :=
  { x with st := .up, credit := fullCredits s p, epoch := epoch, sentLog := [], accepted := 0, crIn := 0, crOut := 0
           txUp := 0, owed := [], failAt := none, frozen := none, matched := true, returning := false }

theorem entered_credit (s : State) (p : Nat) (x : Port) (epoch : Nat) : (entered s p x epoch).credit = fullCredits s p := by
  rw [entered]

theorem enterUp_withPort {x : Port} (hw : SMap.wf {} s.ports = true) (epoch : Nat) :
    enterUp (s.withPort p x) p epoch = s.withPort p (entered s p x epoch) := modPort_withPort hw _

section
variable {x : Port} {h : Beat} (hw : SMap.wf {} s.ports = true) (hst : x.st = .wait) (hb : s.bound = true)
  (hrole : (s.portCfg p).role ≠ 0) (hhello : x.hello = some h)
include hw hst hb hrole hhello

theorem matchHello_ready (hagree : HelloAgrees s p h) (hready : fldN h 288 8 = 1) :
    matchHello (s.withPort p x) p = s.withPort p (entered s p x (x.epoch + 1)) := by
  obtain ⟨hmod, hport, hjob⟩ := hagree
  rw [← enterUp_withPort hw]
  simp [matchHello, port_withPort hw, hhello, hst, hb, hrole, hmod, hport, hjob, hready]

theorem matchHello_other (hagree : ¬ HelloAgrees s p h) :
    matchHello (s.withPort p x) p = ledger (s.withPort p { x with helloBad := true }) 2 3 0x0306 p
      (fldN h 8 16 + fldN h 24 8 * 2 ^ 16) := by
  have hcmp : (fldN h 8 16 == (s.portCfg p).peerMod && fldN h 24 8 == (s.portCfg p).peerPort && fld h 32 256 == jobDigest s) = false := by
    rw [← Bool.not_eq_true]
    simpa [HelloAgrees, and_assoc] using hagree
  simp [matchHello, port_withPort hw, modPort_withPort hw, hhello, hst, hb, hrole, hcmp]

end

theorem exec_hello {flit : Beat} (hw : SMap.wf {} s.ports = true) (h : Control s p 1 flit) :
    exec (.hello p flit) s = .next (matchHello (s.withPort p (greeted (uncontrol s p flit) flit)) p) := by
  show execHello p flit s = _
  rw [execHello, takeCtl_control h]
  simp only [modPort_withPort hw]
  rfl

/-! ## Lane swaps (R292) -/

/-- The port once the swap of a lane has been noted. -/
def swapNoted (x : Port) (lane : Nat) (rx : Bool) : Port :=
  if rx then { x with lanesRx := x.lanesRx ||| BitVec.ofNat 9 (2 ^ lane) } else { x with lanesTx := x.lanesTx ||| BitVec.ofNat 9 (2 ^ lane) }

/-- A lane swap noted writes the port's lanes, the count, the board record and the ledger. -/
theorem noteSwap_frame (s : State) (p lane : Nat) (rx : Bool) :
    ∃ tr fl k, noteSwap s p lane rx = { s with
      ports := SMap.set {} s.ports p (swapNoted (s.port p) lane rx)
      fab := { s.fab with laneSwaps := sat32 (s.fab.laneSwaps + 1) }, trust := tr, flt := fl, free := k } := by
  obtain ⟨tr, fl, hset, -⟩ := boardSet_frame { s with
      ports := SMap.set {} s.ports p (swapNoted (s.port p) lane rx)
      fab := { s.fab with laneSwaps := sat32 (s.fab.laneSwaps + 1) }, free := s.free + 1 }
    ((Config.freeBits s.free).getLsbD 0) fun b =>
      if rx then { b with laneRx := SMap.upd 0 b.laneRx p fun v => v ||| BitVec.ofNat 9 (2 ^ lane) }
      else { b with laneTx := SMap.upd 0 b.laneTx p fun v => v ||| BitVec.ofNat 9 (2 ^ lane) }
  obtain ⟨r, n, q, d, hlog⟩ := ledger_frame { s with
      ports := SMap.set {} s.ports p (swapNoted (s.port p) lane rx)
      fab := { s.fab with laneSwaps := sat32 (s.fab.laneSwaps + 1) }, trust := tr, flt := fl, free := s.free + 1 }
    1 3 0x0301 p (lane + bitAt rx 8) (by decide)
  exact ⟨tr, { fl with ring := r, next := n, qlen := q, suppressed := d }, s.free + 1,
    (congrArg (fun u => ledger u 1 3 0x0301 p (lane + bitAt rx 8)) hset).trans hlog⟩

/-- The port of a swap noted, and what it leaves of the block. -/
theorem noteSwap_withPort (hw : SMap.wf {} s.ports = true) (x : Port) (lane : Nat) (rx : Bool) :
    let u := noteSwap (s.withPort p x) p lane rx
    u.port p = swapNoted x lane rx ∧ SMap.wf {} u.ports = true ∧ u.fab.laneSwaps = sat32 (s.fab.laneSwaps + 1) ∧
      u.tiles = s.tiles ∧ u.mem = s.mem := by
  intro u
  obtain ⟨tr, fl, k, hu⟩ := noteSwap_frame (s.withPort p x) p lane rx
  have hports : u.ports = ((s.withPort p x).withPort p (swapNoted ((s.withPort p x).port p) lane rx)).ports := (congrArg State.ports hu :)
  have hwx := wf_withPort (p := p) (x := x) hw
  refine ⟨?_, ?_, (congrArg (fun v : State => v.fab.laneSwaps) hu :), (congrArg State.tiles hu :), (congrArg State.mem hu :)⟩
  · rw [State.port, hports, port_withPort hw]
    exact port_withPort hwx
  · rw [hports]
    exact wf_withPort hwx

/-- LANE_ACK for physical lane `lane`, which names the first frame on the new map (R284). -/
def laneAckFlit (lane : Nat) (first : BitVec 16) : Beat := pack 512 [(0, 8, 3), (8, 8, lane), (16, 16, first.toNat)]

/-- The port that answers LANE_SWAP, its transmit map due to change (R292). -/
def remapped (x : Port) : Port := { x with txMapFrom := some (x.fsn + 32), txMapDue := true }

/-- The port whose LANE_ACK has come (R292). -/
def acknowledged (x : Port) (first : BitVec 16) : Port :=
  { x with swapAsked := none, rxMapFrom := some first, st := if x.st == .swap then .up else x.st }

theorem exec_laneSwap {flit : Beat} (hw : SMap.wf {} s.ports = true) (h : Control s p 2 flit) (hlane : fldN flit 8 8 < 9)
    (hspare : (s.port p).lanesTx = 0) :
    exec (.laneSwap p flit) s = .next (sendCtl (noteSwap (s.withPort p (remapped (uncontrol s p flit))) p (fldN flit 8 8) false) p
      (laneAckFlit (fldN flit 8 8) ((s.port p).fsn + 32))) := by
  have hnew : bitB (uncontrol s p flit).lanesTx (fldN flit 8 8) = false := by
    show bitB (s.port p).lanesTx _ = false
    rw [hspare]
    exact BitVec.getLsbD_zero
  have hfree : ((uncontrol s p flit).lanesTx != 0) = false := by
    show ((s.port p).lanesTx != 0) = false
    rw [hspare]
    rfl
  show execLaneSwap p flit s = _
  rw [execLaneSwap, takeCtl_control h]
  simp only [port_withPort hw, modPort_withPort hw, hnew, hfree, ge_iff_le, Nat.not_le.2 hlane, if_false, Bool.false_eq_true]
  rfl

theorem exec_laneAck {flit : Beat} (hw : SMap.wf {} s.ports = true) (h : Control s p 3 flit)
    (hasked : (s.port p).swapAsked = some (fldN flit 8 8)) :
    exec (.laneAck p flit) s = .next (noteSwap (s.withPort p (acknowledged (uncontrol s p flit) (fld flit 16 16))) p (fldN flit 8 8) true) := by
  have hthis : ((uncontrol s p flit).swapAsked == some (fldN flit 8 8)) = true := beq_iff_eq.2 hasked
  show execLaneAck p flit s = _
  rw [execLaneAck, takeCtl_control h]
  simp only [port_withPort hw, modPort_withPort hw, hthis, if_true]
  rfl

theorem exec_down {flit : Beat} (h : Control s p 4 flit) :
    exec (.down p flit) s = .next (portFail (s.withPort p (uncontrol s p flit)) p 5) := by
  show execDown p flit s = _
  rw [execDown, takeCtl_control h]

/-! ## RETRAINED (R297) -/

/-- Nothing of the port's waits in this end's inbound buffer. -/
def Port.drained (x : Port) : Bool := x.inMsgs.all (fun e => e.1 ≥ 16) && x.buffered.all fun e => e.2 == 0

theorem inboundEmpty_eq (s : State) (p : Nat) : inboundEmpty s p = (s.port p).drained := rfl

/-- The port once this end has said RETRAINED, which it says once. -/
def saidRetrained (x : Port) : Port :=
  if x.retrSaid then x else { x with retrSaid := true, ctlq := x.ctlq ++ [pack 512 [(0, 8, 5), (8, 32, x.epoch)]] }

/-- The port with its credits as far as its return has come. -/
def recredited (s : State) (p : Nat) (x : Port) : Port :=
  if x.retrOut && x.drained then
    if x.retrIn then { saidRetrained x with credit := fullCredits s p, owed := [], buffered := [] } else saidRetrained x
  else x

theorem resetCredits_withPort {x : Port} (hw : SMap.wf {} s.ports = true) (hst : x.st = .detoured) :
    resetCredits (s.withPort p x) p = s.withPort p (recredited s p x) := by
  have hport := port_withPort (p := p) (x := x) hw
  unfold resetCredits recredited
  simp only [hport, inboundEmpty_eq, hst, bne_self_eq_false, Bool.false_or]
  by_cases hgo : (x.retrOut && x.drained) = true
  · have hno : (!x.retrOut || !x.drained) = false := by rw [← Bool.not_and, hgo]; rfl
    have hsaid : (if x.retrSaid = true then s.withPort p x else sendCtl ((s.withPort p x).modPort p fun x => { x with retrSaid := true }) p
        (pack 512 [(0, 8, 5), (8, 32, x.epoch)])) = s.withPort p (saidRetrained x) := by
      rw [saidRetrained]
      by_cases h : x.retrSaid = true
      · rw [if_pos h, if_pos h]
      · rw [if_neg h, if_neg h, modPort_withPort hw, sendCtl, modPort_withPort hw]
    rw [hno, if_neg Bool.false_ne_true, if_pos hgo, hsaid]
    split
    · exact modPort_withPort hw _
    · rfl
  · have hno : (!x.retrOut || !x.drained) = true := by
      rw [← Bool.not_and, Bool.eq_false_iff.2 hgo]
      rfl
    rw [hno, if_pos rfl, if_neg hgo]

theorem exec_retrained {flit : Beat} (hw : SMap.wf {} s.ports = true) (h : Control s p 5 flit) (hst : (s.port p).st = .detoured) :
    exec (.retrained p flit) s = .next (s.withPort p (recredited s p { uncontrol s p flit with
      retrIn := true, epoch := max (s.port p).epoch (fldN flit 8 32) })) := by
  have hst' : ((uncontrol s p flit).st == .detoured) = true := beq_iff_eq.2 hst
  show execRetrained p flit s = _
  rw [execRetrained, takeCtl_control h]
  simp only [port_withPort hw, modPort_withPort hw, hst', if_true]
  exact congrArg _ (resetCredits_withPort hw hst)

end

/-- Settles O17: the flit is taken, and what its step writes is one change of the port, with the count, the board record and the ledger
beside it for a lane swap. -/
theorem linksComeUpAndAct : Obligations.LinksComeUpAndAct := by
  refine ⟨fun s p flit hc hflit hst hb hrole => ⟨fun hagree hready => ?_, fun hother => ?_⟩, fun s p flit hc => ⟨?_, ?_, ?_, ?_⟩⟩
  · rw [exec_hello hc.ports hflit, matchHello_ready (x := greeted (uncontrol s p flit) flit) hc.ports hst hb hrole rfl hagree hready]
    refine ⟨_, rfl, ?_⟩
    rw [port_withPort hc.ports]
    refine ⟨rfl, rfl, rfl, fun v hv => ?_, rfl⟩
    rw [entered_credit, fullCredits_get s p hv]
  · rw [exec_hello hc.ports hflit, matchHello_other (x := greeted (uncontrol s p flit) flit) hc.ports hst hb hrole rfl hother]
    obtain ⟨r, n, q, d, hlog⟩ := ledger_frame (s.withPort p { greeted (uncontrol s p flit) flit with helloBad := true }) 2 3 0x0306 p
      (fldN flit 8 16 + fldN flit 24 8 * 2 ^ 16) (by decide)
    refine ⟨_, rfl, ?_⟩
    rw [hlog]
    have hport := port_withPort (p := p) (x := { greeted (uncontrol s p flit) flit with helloBad := true }) hc.ports
    exact ⟨(congrArg Port.st hport).trans hst, congrArg Port.helloBad hport, rfl⟩
  · intro hflit hlane hspare
    obtain ⟨hport, hwf, hcount, htiles, hmem⟩ := noteSwap_withPort hc.ports (remapped (uncontrol s p flit)) (fldN flit 8 8) false
    have hlanes : (s.port p).lanesTx ||| BitVec.ofNat 9 (2 ^ fldN flit 8 8) = BitVec.ofNat 9 (2 ^ fldN flit 8 8) := by
      rw [hspare]
      exact BitVec.zero_or
    refine ⟨_, exec_laneSwap hc.ports hflit hlane hspare, ?_⟩
    rw [sendCtl, State.port_modPort_same _ _ _ hwf, hport]
    exact ⟨hlanes, rfl, rfl, hcount, htiles, hmem⟩
  · intro hflit hlane hasked
    obtain ⟨hport, -, hcount, htiles, hmem⟩ :=
      noteSwap_withPort hc.ports (acknowledged (uncontrol s p flit) (fld flit 16 16)) (fldN flit 8 8) true
    have hst : (acknowledged (uncontrol s p flit) (fld flit 16 16)).st = if (s.port p).st = .swap then .up else (s.port p).st := by
      simp [acknowledged, uncontrol]
    refine ⟨_, exec_laneAck hc.ports hflit hasked, ?_⟩
    rw [hport]
    exact ⟨rfl, rfl, rfl, hst, hcount, htiles, hmem⟩
  · exact fun hflit => ⟨_, onlyPort_withPort s p _, exec_down hflit⟩
  · intro hflit hst
    refine ⟨_, exec_retrained hc.ports hflit hst, ?_⟩
    exact onlyPort_withPort s p _

end Sys2Proof.Machine
end

section
/-! SUPPORT. Lanes and ports that fail, train and return (R292 to R298): O18. -/

namespace Sys2Proof.Machine
open Sys2Proof.Claims

section
variable {s : State} {p lane : Nat}

/-! ## Lanes (R292, R293) -/

/-- The corrected bytes of a lane exceed the limit in the window in progress (R292). -/
def LanePast (s : State) (x : Port) (lane : Nat) : Prop :=
  s.ns < x.laneWin + 1000000 ∧ s.fab.laneLimit.toNat < SMap.get 0 x.laneCorr lane

theorem laneOver_iff : laneOver s p lane = true ↔ LanePast s (s.port p) lane := by
  simp [laneOver, LanePast]

section
variable (hst : (s.port p).st = .up) (hasked : (s.port p).swapAsked = none)
include hst hasked

/-- The first lane to fail puts the port in SWAP. -/
theorem laneFailing_first (hspare : (s.port p).lanesRx = 0) :
    laneFailing s p lane = s.withPort p { s.port p with swapAsked := some lane, st := .swap } := by
  simp [laneFailing, hst, hasked, hspare, bitB, modPort_eq]

/-- A lane that fails while the spare is in service fails the port. -/
theorem laneFailing_second (hspare : (s.port p).lanesRx ≠ 0) (hlane : bitB (s.port p).lanesRx lane = false) :
    laneFailing s p lane = portFail s p 1 := by
  have hbusy : (s.port p).lanesRx ≠ 0#9 := hspare
  simp [laneFailing, hst, hasked, hbusy, hlane]

end

theorem exec_laneLockLoss (hlane : lane < 9) : exec (.laneLockLoss p lane) s = .next (laneFailing s p lane) :=
  congrArg Host.Outcome.next (if_pos hlane)

theorem exec_laneErrorWindow_past (hlane : lane < 9) (hpast : LanePast s (s.port p) lane) :
    exec (.laneErrorWindow p lane (SMap.get 0 (s.port p).laneCorr lane)) s = .next (laneFailing s p lane) := by
  show execLaneErrorWindow p lane _ s = _
  simp [execLaneErrorWindow, hlane, laneOver_iff.2 hpast]

theorem exec_laneErrorWindow_else {n : Nat} (h : ¬ LanePast s (s.port p) lane ∨ n ≠ SMap.get 0 (s.port p).laneCorr lane) :
    exec (.laneErrorWindow p lane n) s = .next s := by
  have hno : (decide (lane < 9) && n == SMap.get 0 (s.port p).laneCorr lane && laneOver s p lane) = false := by
    rcases h with hpast | hn
    · rw [Bool.eq_false_iff.2 (mt laneOver_iff.1 hpast), Bool.and_false]
    · rw [beq_false_of_ne hn, Bool.and_false, Bool.false_and]
  show execLaneErrorWindow p lane n s = _
  rw [execLaneErrorWindow, hno]
  rfl

/-! ## A port that fails (R293, R295) -/

/-- The port of a job that fails at time `ns`: DETOURED, DOWN with the cause queued for the peer. -/
def failed (ns : Nat) (x : Port) (cause : Nat) : Port :=
  { x with st := .detoured, downCount := sat32 (x.downCount + 1), ctlq := [pack 512 [(0, 8, 4), (8, 8, cause)]]
           replay := [], nak := false, nakRun := 0, failAt := some ns, resynced := false, retrIn := false
           frozen := some (heldCredits x)
           retrOut := false, retrSaid := false, returning := false, swapAsked := none, inFlits := [], icvTo := none, icvBad := none, inCtl := []
           hello := none, owed := x.owed ++ x.inFlits.flatMap fun e => List.replicate e.2.length e.1
           buffered := x.inFlits.foldl (fun b e => SMap.upd 0 b e.1 fun n => n - e.2.length) x.buffered }

theorem portFail_up (hst : (s.port p).st = .up) (cause : Nat) :
    ∃ m, portFail s p cause = sendDirect (s.withPort p (failed s.ns (s.port p) cause)) p m := by
  have hup : ((s.port p).st == .up || (s.port p).st == .swap || ((s.port p).st == .wait && s.bound && (s.portCfg p).role != 0)) = true := by
    rw [hst]
    rfl
  unfold portFail
  rw [if_pos hup]
  exact ⟨_, rfl⟩

/-- A message to the peer, sent with a port as given, leaves the port but for its queues, and the block but for its ports. -/
theorem sendDirect_withPort (hw : SMap.wf {} s.ports = true) (x : Port) (m : Msg) :
    SameButQueues x ((sendDirect (s.withPort p x) p m).port p) ∧ { sendDirect (s.withPort p x) p m with ports := s.ports } = s := by
  have hqueues := enqPort_queues (p := p) (wf_withPort (p := p) (x := x) hw) p
    (mSet (mSet m 48 15 ((s.withPort p x).portCfg p).peerMod) 13 3 1)
  rw [port_withPort hw] at hqueues
  obtain ⟨l, hl⟩ := enqPort_frame (s.withPort p x) p (mSet (mSet m 48 15 ((s.withPort p x).portCfg p).peerMod) 13 3 1)
  exact ⟨hqueues, congrArg (fun u : State => { u with ports := s.ports }) hl⟩

/-! ## A port that trains and one that returns (R297, R298) -/

/-- No command waits, so no PORT_CONFIG completes (R364). -/
theorem portCfgDone_none (h : ∀ q, (s.sq q).cur = none) (act : Nat) : portCfgDone s p act = s := by
  unfold portCfgDone
  induction List.range 16 with
  | nil => rfl
  | cons q l ih => simpa only [List.foldl_cons, h q] using ih

theorem portTrain_off (hw : SMap.wf {} s.ports = true) (hst : (s.port p).st = .off) (hmain : s.pins.mainOn = true)
    (hphy : s.trust.phyOk = true) (hb : s.bound = true) (hrole : (s.portCfg p).role ≠ 0) :
    portTrain s p = s.withPort p { freshLink (s.port p) with st := .wait, failAt := none, ctlq := [helloFlit s p] } := by
  have hjob : (s.bound && (s.portCfg p).role != 0) = true := by simp [hb, hrole]
  unfold portTrain
  simp only [hmain, hphy, hst, modPort_eq s, withPort_bound, withPort_portCfg, withPort_helloFlit, hjob, sendCtl,
    Bool.not_true, Bool.or_self, Bool.false_eq_true, if_false, if_true]
  exact modPort_withPort hw _

theorem exec_portTrained_off (hp : p < 18) (hw : SMap.wf {} s.ports = true) (hst : (s.port p).st = .off) (hmain : s.pins.mainOn = true)
    (hphy : s.trust.phyOk = true) (hb : s.bound = true) (hrole : (s.portCfg p).role ≠ 0) (hcur : ∀ q, (s.sq q).cur = none) :
    exec (.portTrained p) s = .next (s.withPort p { freshLink (s.port p) with st := .wait, failAt := none, ctlq := [helloFlit s p] }) := by
  have hdone : portCfgDone (portTrain s p) p 1 = portTrain s p := by
    rw [portTrain_off hw hst hmain hphy hb hrole]
    exact portCfgDone_none (s := s.withPort p _) hcur 1
  show execPortTrained p s = _
  rw [execPortTrained, if_neg (by omega), hdone, portTrain_off hw hst hmain hphy hb hrole]

/-- A port that has said RETRAINED, heard it and is drained holds full credits (R297). -/
theorem recredited_ready {x : Port} (hin : x.retrIn = true) (hout : x.retrOut = true) (hsaid : x.retrSaid = true)
    (hdrained : x.drained = true) : recredited s p x = { x with credit := fullCredits s p, owed := [], buffered := [] } := by
  simp [recredited, saidRetrained, hin, hout, hsaid, hdrained]

/-- The port that begins its return (R297). -/
def returningPort (s : State) (p : Nat) (x : Port) : Port :=
  { x with credit := fullCredits s p, owed := [], buffered := [], returning := true, failAt := some s.ns }

theorem returningPort_fields (x : Port) : (returningPort s p x).st = x.st ∧ (returningPort s p x).epoch = x.epoch ∧
    (returningPort s p x).returning = true ∧ (returningPort s p x).failAt = some s.ns ∧ (returningPort s p x).credit = fullCredits s p := by
  simp only [returningPort, and_self]

theorem exec_portReturn_ready (hw : SMap.wf {} s.ports = true) (hready : returnReady s p = true) (hnew : (s.port p).returning = false) :
    ∃ m, exec (.portReturn p true) s = .next (sendDirect (s.withPort p (returningPort s p (s.port p))) p m) := by
  have hall := hready
  simp only [returnReady, inboundEmpty_eq, Bool.and_eq_true, beq_iff_eq] at hall
  obtain ⟨⟨⟨⟨⟨⟨hst, hin⟩, hout⟩, hsaid⟩, -⟩, hempty⟩, -⟩ := hall
  have hcredit : resetCredits s p = s.withPort p { s.port p with credit := fullCredits s p, owed := [], buffered := [] } := by
    have h := resetCredits_withPort (p := p) hw hst
    rwa [withPort_port hw, recredited_ready hin hout hsaid hempty] at h
  show ∃ m, execPortReturn p true s = _
  rw [execPortReturn, hready, hnew, hcredit]
  simp only [modPort_withPort hw, Bool.not_false, Bool.and_self, if_true]
  exact ⟨_, rfl⟩

end

/-- Settles O18: a failing lane asks for the spare or fails the port, and a port that fails, trains or returns is one change of it; the
message sent to its peer leaves by the queues. -/
theorem lanesAndPortsFail : Obligations.LanesAndPortsFail := by
  refine ⟨fun s p lane hc hlane hst => ⟨fun hspare hasked => ⟨?_, fun hpast => ?_⟩, fun hspare hown hasked => ⟨?_, fun hpast => ?_⟩, ?_⟩,
    fun s p hc => ⟨?_, ?_, ?_, rfl⟩⟩
  · exact ⟨_, exec_laneLockLoss hlane, by rw [laneFailing_first hst hasked hspare]; exact onlyPort_withPort s p _⟩
  · exact ⟨_, exec_laneErrorWindow_past hlane hpast, by rw [laneFailing_first hst hasked hspare]; exact onlyPort_withPort s p _⟩
  · rw [exec_laneLockLoss hlane, laneFailing_second hst hasked hspare hown]
  · rw [exec_laneErrorWindow_past hlane hpast, laneFailing_second hst hasked hspare hown]
  · exact fun n => exec_laneErrorWindow_else
  · intro hst
    obtain ⟨m, hfail⟩ := portFail_up hst 4
    obtain ⟨⟨q, d, n, hport⟩, hrest⟩ := sendDirect_withPort (p := p) hc.ports (failed s.ns (s.port p) 4) m
    refine ⟨_, rfl, ?_⟩
    rw [hfail, hport]
    exact ⟨rfl, rfl, rfl, rfl, (congrArg State.tiles hrest :), (congrArg State.mem hrest :), (congrArg State.stg hrest :)⟩
  · intro hp hst hmain hphy hb hrole hcur
    refine ⟨_, exec_portTrained_off hp hc.ports hst hmain hphy hb hrole hcur, ?_⟩
    rw [port_withPort hc.ports]
    exact ⟨rfl, rfl, rfl, rfl⟩
  · intro hst hin hout hsaid hresynced hempty hrest hnew
    have hready : returnReady s p = true := by simp [returnReady, hst, hin, hout, hsaid, hresynced, hempty, hrest]
    obtain ⟨m, hexec⟩ := exec_portReturn_ready hc.ports hready hnew
    obtain ⟨⟨q, d, n, hport⟩, hrest⟩ := sendDirect_withPort (p := p) hc.ports (returningPort s p (s.port p)) m
    refine ⟨_, hexec, ?_⟩
    obtain ⟨hsame, hepoch, hback, hat, hcredit⟩ := returningPort_fields (s := s) (p := p) (s.port p)
    generalize returningPort s p (s.port p) = y at *
    rw [hport]
    refine ⟨hback, hsame.trans hst, hat, hepoch, fun v hv => ?_, hrest⟩
    rw [hcredit, fullCredits_get s p hv]

end Sys2Proof.Machine
end

section
/-! SUPPORT. Responses taken in: what each gives to the transfer or mover that asked, and the fault an ERROR leaves (R252, R257, R279,
R280, R287): O22. -/

namespace Sys2Proof.Machine
open Sys2Proof.Claims

section
variable {s : State} {p vc : Nat} {m : Msg} {r : OutReq}

/-! ## A response and its tag (R280) -/

/-- A message that arrives is taken from its port. -/
theorem takeMsg_arrives {opc : Nat} (h : Arrives s p opc vc m) : takeMsg s p opc m = some (accepted s p vc m) := by
  obtain ⟨⟨hp, hopc, hwait⟩, hvc, -, -⟩ := h
  have hport : (p == 18) = false := beq_false_of_ne (by omega)
  rw [takeMsg, if_neg (by simp [hopc]), hport, hwait]
  simp only [ge_iff_le, Nat.not_le.2 hvc, if_false, Bool.false_eq_true]
  rfl

/-- The block once response `m` to request `r` has been taken in and its tag freed. -/
def answered (s : State) (p vc : Nat) (m : Msg) (r : OutReq) : State :=
  (accepted s p vc m).modFab fun f => { f with
    outstanding := f.outstanding.filter (fun q => q.tag != r.tag), rspRecv := sat64 (f.rspRecv + 1) }

theorem takeRsp_wanted (h : Wanted s m r) : takeRsp (accepted s p vc m) m = some (r, answered s p vc m r) :=
  (congrArg (Option.map _) h.1 :)

/-- What uses the response writes neither the ports nor the fabric block. -/
theorem answered_of {u : State} (hports : u.ports = (answered s p vc m r).ports) (hfab : u.fab = (answered s p vc m r).fab) :
    Answered s u p vc m r := by
  refine ⟨hports, ?_, ?_⟩ <;> rw [hfab] <;> rfl

/-- A response that is wanted frees its tag, serves its request, and what waited for a tag goes on. -/
theorem rspRow_wanted {opc : Nat} (h : Arrives s p opc vc m) (hr : Wanted s m r) (act : OutReq → State → State) :
    rspRow s p opc m act = resumeAll (act r (answered s p vc m r)) := by
  have htake : takeResponse s p opc m = some (accepted s p vc m) := by
    rw [takeResponse, h.2.2.2, if_pos rfl, takeMsg_arrives h]
  rw [rspRow, htake]
  simp only [takeRsp_wanted hr, hr.2, Bool.false_eq_true, if_false]

/-! ## Data for a mover (R287) -/

/-- A mover that has been given a beat holds it. -/
theorem moverGot_mover (s : State) (n : Nat) (d : Beat) (b : Bool) :
    (moverGot s n d b).mover n = { s.mover n with asking := false, got := some (d, b) } :=
  SMap.get_set_ne _ _ _ _ fun h => nomatch (congrArg Mover.got h :)

/-- A beat given to the mover that asked for it. -/
theorem moverGot_answered (d : Beat) (b : Bool) :
    let u := moverGot (answered s p vc m r) r.mover d b
    Answered s u p vc m r ∧ (u.mover r.mover).got = some (d, b) ∧ (u.mover r.mover).queue = (s.mover r.mover).queue ∧
      u.tiles = s.tiles ∧ u.mem = s.mem := by
  intro u
  have hmover : u.mover r.mover = _ := moverGot_mover (answered s p vc m r) r.mover d b
  rw [hmover]
  exact ⟨answered_of rfl rfl, rfl, rfl, rfl, rfl⟩

theorem exec_ack (h : Arrives s p 0x81 vc m) (hr : Wanted s m r) : exec (.ack p m) s = .next (resumeAll (answered s p vc m r)) :=
  congrArg Host.Outcome.next (rspRow_wanted h hr _)

section
variable (hr : Wanted s m r) (hmover : r.mover < 255)
include hr hmover

theorem exec_readResp_mover (h : Arrives s p 0x82 vc m) (hop : r.op = none) : exec (.readResp p m) s =
    .next (resumeAll (moverGot (answered s p vc m r) r.mover (m.data.headD 0) (mCode m == 1))) := by
  have howner : (r.mover == noMover) = false := beq_false_of_ne (by unfold noMover; omega)
  refine congrArg Host.Outcome.next ((rspRow_wanted h hr _).trans ?_)
  rw [hop]
  simp only [howner, Bool.false_eq_true, if_false]

theorem exec_atomicResp_mover (h : Arrives s p 0x83 vc m) : exec (.atomicResp p m) s =
    .next (resumeAll (moverGot (answered s p vc m r) r.mover (BitVec.ofNat 512 (mOp0 m)) false)) := by
  have howner : (r.mover == noMover) = false := beq_false_of_ne (by unfold noMover; omega)
  refine congrArg Host.Outcome.next ((rspRow_wanted h hr _).trans ?_)
  simp only [howner, Bool.false_eq_true, if_false]

end

/-! ## A beat for a transfer (R252) -/

/-- A tile that lists operation `o` reads back with its operations changed. -/
theorem tile_modOp_listed {t id : Nat} {o : Op} (h : s.op? t id = some o) (f : Op → Op) :
    (s.modOp t id f).tile t = { s.tile t with ops := onOp (s.tile t).ops id f } := by
  refine State.tile_modTile_same _ t _ fun hnone => ?_
  have hempty : (s.tile t).ops = [] := List.map_eq_nil_iff.1 (congrArg Tile.ops hnone)
  rw [State.op?, hempty] at h
  cases h

/-- The operation itself reads back as changed. -/
theorem op?_modOp_listed {t id : Nat} {o : Op} (h : s.op? t id = some o) {f : Op → Op} (hf : ∀ o, (f o).id = o.id) :
    (s.modOp t id f).op? t id = some (f o) := by
  have hsame : ((fun q : Op => q.id == id) ∘ fun q => if q.id == id then f q else q) = fun q => q.id == id := by
    funext q
    by_cases hq : q.id = id <;> simp [hq, hf]
  have hlist : (s.tile t).ops.find? (fun q => q.id == id) = some o := h
  rw [State.op?, tile_modOp_listed h f, onOp, List.find?_map, hsame, hlist]
  simp [id_of_op? h]

theorem exec_readResp_beat {t : Nat} {o : Op} (h : Arrives s p 0x82 vc m) (hr : Wanted s m r) (howner : r.op = some (t, o.id))
    (hbeats : r.nbeats = 1) (hlen : m.data.length = 1) (hop : s.op? t o.id = some o) (hcode : mCode m = 0)
    (hkind : xDkind o.desc = 0) (hspill : inSpill s (xSrcAt o.desc r.beat) = false) : exec (.readResp p m) s =
    .next (resumeAll ((answered s p vc m r).modOp t o.id fun o' => { o' with
      buf := o'.buf ++ [(r.beat, xDstAt o.desc r.beat, m.data.headD 0, false)] })) := by
  obtain ⟨d, hdata⟩ := List.length_eq_one_iff.1 hlen
  have hop' : (answered s p vc m r).op? t o.id = some o := hop
  have hspill' : inSpill (answered s p vc m r) (xSrcAt o.desc r.beat) = false := hspill
  refine congrArg Host.Outcome.next ((rspRow_wanted h hr _).trans (congrArg resumeAll ?_))
  rw [howner, hdata, hbeats, hcode]
  simp only [List.zipIdx_cons, List.zipIdx_nil, List.take_one, List.head?_cons, Option.toList_some, List.foldl_cons, List.foldl_nil,
    List.headD_cons, hop', Nat.add_zero, Nat.reduceBEq]
  rw [beatArrive_scratch hkind hspill', noteData, if_neg Bool.false_ne_true]

/-! ## The fault of an ERROR (R257, R279) -/

/-- An ADDRESS fault of work of which nothing is retried is recorded and counted; it writes memory's block alone, and no byte there. -/
theorem addFault_address (s : State) {op : Nat} (hretry : ∀ f ∈ s.mem.retried, f.op ≠ op)
    (dir mover chan : Bool) (unit gang beat va ga cnt tile : Nat) :
    let a := addFault s fAddress dir mover chan unit op gang beat va ga cnt tile
    (∃ k, a.2 = { s with mem := k }) ∧ (∃ f ∈ a.2.mem.faults, f.n = a.1 ∧ f.code = fAddress ∧ f.beat = beat) ∧
      a.2.mem.faultCount = sat32 (s.mem.faultCount + 1) ∧ a.2.mem.dram = s.mem.dram := by
  have hnew : retriedAs s fAddress dir mover unit op beat = none :=
    List.find?_eq_none.2 fun f hf => by simp [hretry f hf]
  unfold addFault
  simp only [hnew]
  exact ⟨⟨_, rfl⟩, ⟨_, List.mem_append_right _ (List.mem_singleton_self _), rfl, rfl, rfl⟩, rfl, rfl⟩

/-- A transfer held by fault `n` at beat `b`: a read's beats from there on are no longer requested (R258). -/
def heldAt (n b : Nat) (wr : Bool) (o : Op) : Op :=
  if wr then { o with held := some n }
  else { o with held := some n, reqd := min o.reqd b, asked := o.asked.filter (fun a => a.1 < b), buf := o.buf.filter (fun a => a.1 < b) }

theorem heldAt_id (n b : Nat) (wr : Bool) (o : Op) : (heldAt n b wr o).id = o.id := by
  cases wr <;> rfl

theorem heldAt_held (n b : Nat) (wr : Bool) (o : Op) : (heldAt n b wr o).held = some n := by
  cases wr <;> rfl

section
variable {t ga b : Nat} {o : Op} (wr : Bool) (hop : s.op? t o.id = some o) (hfree : o.held = none)
  (hfaults : faultsOf s false t o.id = [])
include hop hfree hfaults

/-- The first fault of a transfer is recorded and holds it. -/
theorem holdXfer_free (code : Nat) : holdXfer s t o.id code ga b wr =
    let a := addFault s code wr false (xChan o.desc) t o.id ((s.tile t).gang.getD 0) b
      (if wr then xDstAt o.desc b else xSrcAt o.desc b) ga (dCnt o.desc) t
    (if wr then a.2 else killFrom a.2 t o.id b).modOp t o.id (heldAt a.1 b wr) := by
  have hfirst : ∀ u, holdBeat u o = none := fun u => by
    rw [holdBeat, hfree]
    rfl
  simp only [holdXfer, hop, hfaults, hfirst, List.any_nil, Bool.false_eq_true, if_false, if_true]
  cases wr <;> rfl

theorem holdXfer_first (hretry : ∀ f ∈ s.mem.retried, f.op ≠ o.id) :
    let u := holdXfer s t o.id fAddress ga b wr
    (∃ n, (u.op? t o.id).map (·.held) = some (some n) ∧ ∃ f ∈ u.mem.faults, f.n = n ∧ f.code = fAddress ∧ f.beat = b) ∧
      u.mem.faultCount = sat32 (s.mem.faultCount + 1) ∧ u.mem.dram = s.mem.dram ∧ u.fab.errRsp = s.fab.errRsp := by
  obtain ⟨hframe, hfault, hcount, hdram⟩ := addFault_address s hretry wr false (xChan o.desc) t
    ((s.tile t).gang.getD 0) b (if wr then xDstAt o.desc b else xSrcAt o.desc b) ga (dCnt o.desc) t
  rw [holdXfer_free wr hop hfree hfaults]
  generalize addFault s fAddress wr false (xChan o.desc) t o.id ((s.tile t).gang.getD 0) b
    (if wr then xDstAt o.desc b else xSrcAt o.desc b) ga (dCnt o.desc) t = a at *
  obtain ⟨k, ha⟩ := hframe
  have hrest : ∀ v, v = (if wr then a.2 else killFrom a.2 t o.id b) → v.tiles = s.tiles ∧ v.mem = a.2.mem ∧ v.fab.errRsp = s.fab.errRsp := by
    rintro v rfl
    rw [ha]
    cases wr <;> exact ⟨rfl, rfl, rfl⟩
  dsimp only
  generalize (if wr then a.2 else killFrom a.2 t o.id b) = v at *
  obtain ⟨htiles, hmem, herr⟩ := hrest v rfl
  have hop' : v.op? t o.id = some o := by
    rw [State.op?, State.tile, htiles]
    exact hop
  have hheld : ((v.modOp t o.id (heldAt a.1 b wr)).op? t o.id).map (·.held) = some (some a.1) := by
    rw [op?_modOp_listed hop' (heldAt_id a.1 b wr), Option.map_some, heldAt_held]
  rw [← hmem] at hfault hcount hdram
  exact ⟨⟨a.1, hheld, hfault⟩, hcount, hdram, herr⟩

end

theorem exec_error_xfer {t : Nat} {o : Op} (h : Arrives s p 0x84 vc m) (hr : Wanted s m r) (howner : r.op = some (t, o.id))
    (hop : s.op? t o.id = some o) : ∃ ga, exec (.error p m) s = .next (resumeAll (holdXfer
      ((answered s p vc m r).modFab fun f => { f with errRsp := sat32 (f.errRsp + 1) }) t o.id fAddress ga r.beat (!r.rd))) := by
  have htake : takeResponse s p 0x84 m = some (accepted s p vc m) := by
    rw [takeResponse, h.2.2.2, if_pos rfl, takeMsg_arrives h]
  have hop' : ((answered s p vc m r).modFab fun f => { f with errRsp := sat32 (f.errRsp + 1) }).op? t o.id = some o := hop
  show ∃ ga, execError p m s = _
  rw [execError, htake]
  simp only [takeRsp_wanted hr, hr.2, Bool.false_eq_true, if_false, errorFault, howner, hop']
  exact ⟨_, rfl⟩

end

/-- Settles O22: a response that is wanted frees its tag, and what it gives is one change of the mover or transfer that asked. -/
theorem responsesFreeTheirTag : Obligations.ResponsesFreeTheirTag := by
  refine fun s p vc m r hr => ⟨fun h => ?_, fun h hop hmover => ?_, fun t o h howner hbeats hlen hop hcode hkind hspill => ?_,
    fun h hop hmover => ?_, fun t o h howner hop hfree hfaults hretry => ?_⟩
  · exact ⟨_, exec_ack h hr, answered_of rfl rfl, rfl⟩
  · exact ⟨_, exec_readResp_mover hr hmover h hop, moverGot_answered _ _⟩
  · refine ⟨_, exec_readResp_beat h hr howner hbeats hlen hop hcode hkind hspill, answered_of rfl rfl, ?_⟩
    rw [tile_modOp_listed (s := answered s p vc m r) hop]
    exact ⟨rfl, rfl, rfl⟩
  · exact ⟨_, exec_atomicResp_mover hr hmover h, moverGot_answered _ _⟩
  · obtain ⟨ga, hexec⟩ := exec_error_xfer h hr howner hop
    obtain ⟨hheld, hcount, hdram, herr⟩ := holdXfer_first (ga := ga) (b := r.beat)
      (s := (answered s p vc m r).modFab fun f => { f with errRsp := sat32 (f.errRsp + 1) }) (!r.rd) hop hfree hfaults hretry
    exact ⟨_, hexec, herr, hheld, hcount, hdram⟩

end Sys2Proof.Machine
end

section
/-! SUPPORT. Frames received: the CRC, the sequence, credits, flits and whole messages (R270, R271, R274, R282, R284, R291): O16. -/

namespace Sys2Proof.Machine
open Sys2Proof.Claims

section
variable {s : State} {p : Nat}

/-! ## What reads through a port (R269, R291) -/

theorem crcGood_iff (f : Frame) : (crc32c (leBytes 8 f.hdr.toNat ++ beatBytes f.flit) != f.crc) = false ↔ CrcGood f := by
  rw [CrcGood, bne_eq_false_iff_eq]

/-- The keys of a link hold for the port's epoch, whatever else the port holds. -/
theorem openMsg_withPort {x : Port} (hw : SMap.wf {} s.ports = true) (hepoch : x.epoch = (s.port p).epoch) (n : Nat) (fs : List Beat) :
    openMsg (s.withPort p x) p n fs = openMsg s p n fs := by
  have hkey : linkKey (s.withPort p x) p false = linkKey s p false := by
    simp only [linkKey, port_withPort hw, hepoch, withPort_self, withPort_portCfg]
    rfl
  unfold openMsg
  rw [hkey]

theorem openMsg_noteEvents (i n k : Nat) (fs : List Beat) : openMsg (noteEvents s i n) p k fs = openMsg s p k fs := by
  unfold noteEvents
  split <;> rfl

/-! ## A frame out of order (R271) -/

theorem exec_frameReceive {f : Frame} (h : Carries s p) (hcorr : f.corrected = []) : exec (.frameReceive p f) s = .next (
    if crc32c (leBytes 8 f.hdr.toNat ++ beatBytes f.flit) != f.crc then
      badFrame (s.modPort p fun x => { x with crcFail := sat32 (x.crcFail + 1) }) p (fld f.hdr 0 16 == (s.port p).ackRx + 1)
    else if fld f.hdr 0 16 == (s.port p).ackRx + 1 then goodFrame s p f.hdr f.flit
    else if !(s.port p).nak && decide ((fld f.hdr 0 16 - ((s.port p).ackRx + 1)).toNat < 2 ^ 15) then badFrame s p false
    else s) := by
  obtain ⟨hmain, hst⟩ := h
  have hgo : (!s.pins.mainOn || (s.port p).st == .off || (s.port p).st == .lost || ((s.port p).st == .detoured && !(s.port p).retrOut)) = false := by
    rw [hmain]
    rcases hst with h | h | h <;> rw [h] <;> rfl
  have hnone : correctedIn s p [] = s := rfl
  show execFrameReceive p f s = _
  rw [execFrameReceive]
  dsimp only
  rw [hgo, hcorr, hnone, if_neg Bool.false_ne_true]
  cases fld f.hdr 0 16 == (s.port p).ackRx + 1 <;> rfl

section
variable {f : Frame} (h : Carries s p) (hcorr : f.corrected = [])
include h hcorr

/-- A frame whose CRC fails asks for replay. -/
theorem exec_frameReceive_bad (hw : SMap.wf {} s.ports = true) (hcrc : ¬ CrcGood f) (hnak : (s.port p).nak = false) :
    exec (.frameReceive p f) s = .next (s.withPort p { s.port p with
      crcFail := sat32 ((s.port p).crcFail + 1), nak := true, nakRun := 0, replays := sat32 ((s.port p).replays + 1) }) := by
  rw [exec_frameReceive h hcorr, if_pos (Bool.eq_true_of_not_eq_false (mt (crcGood_iff f).1 hcrc)), modPort_eq, badFrame]
  simp only [port_withPort hw, modPort_withPort hw, hnak, Bool.not_false, if_true]

/-- A duplicate, or any frame but the next while a replay is awaited, is dropped. -/
theorem exec_frameReceive_dropped (hcrc : CrcGood f) (hseq : fld f.hdr 0 16 ≠ (s.port p).ackRx + 1)
    (hold : (s.port p).nak = true ∨ 2 ^ 15 ≤ (fld f.hdr 0 16 - ((s.port p).ackRx + 1)).toNat) :
    exec (.frameReceive p f) s = .next s := by
  have hno : (!(s.port p).nak && decide ((fld f.hdr 0 16 - ((s.port p).ackRx + 1)).toNat < 2 ^ 15)) = false := by
    rcases hold with hnak | hfar
    · rw [hnak]
      rfl
    · rw [decide_eq_false (Nat.not_lt.2 hfar), Bool.and_false]
  rw [exec_frameReceive h hcorr, (crcGood_iff f).2 hcrc, beq_false_of_ne hseq, hno]
  rfl

theorem exec_frameReceive_next (hcrc : CrcGood f) (hseq : fld f.hdr 0 16 = (s.port p).ackRx + 1) :
    exec (.frameReceive p f) s = .next (goodFrame s p f.hdr f.flit) := by
  rw [exec_frameReceive h hcorr, (crcGood_iff f).2 hcrc, hseq, beq_self_eq_true]
  rfl

end

/-! ## The next frame (R270, R271, R274) -/

/-- The port with the next frame's number taken (R270, R271). -/
def sequenced (x : Port) : Port :=
  { x with ackRx := x.ackRx + 1, nak := false, nakRun := 0
           rxMapFrom := if x.rxMapFrom = some (x.ackRx + 1) then none else x.rxMapFrom }

/-- The port with the credits that header `h` returns (R274). -/
def repaid (x : Port) (h : DWord) : Port :=
  { x with credit := SMap.upd 0 x.credit (fldN h 40 4) fun c => c + fldN h 44 6, crIn := sat64 (x.crIn + fldN h 44 6) }

/-- The port that sends again what header `h` asks for (R271). -/
def replaying (x : Port) (h : DWord) : Port :=
  { x with replay := (x.kept.takeWhile fun k => fld k.hdr 0 16 != fld h 24 16).reverse }

theorem headed_eq (s : State) (p : Nat) (h : DWord) : headed s p h =
    let y := if portUp s p then repaid (sequenced (s.port p)) h else sequenced (s.port p)
    if bitB h 23 && (s.port p).replay.isEmpty then replaying y h else y := by
  unfold headed
  cases portUp s p <;> rfl

/-- A header changes the sequence, the credits and the replay of its port, and nothing else of it. -/
theorem headed_frame (s : State) (p : Nat) (h : DWord) : ∃ c n r, headed s p h = { sequenced (s.port p) with credit := c, crIn := n, replay := r } := by
  rw [headed_eq]
  cases portUp s p <;> cases bitB h 23 && (s.port p).replay.isEmpty <;> exact ⟨_, _, _, rfl⟩

/-- The next frame: its header is taken, then its flit or link control. -/
theorem goodFrame_next {u : State} {h : DWord} (hw : SMap.wf {} s.ports = true) (hseq : fld h 0 16 = (s.port p).ackRx + 1)
    (hicv : (s.port p).icvTo = none) (hu : u = noteEvents s 16 (bitAt (bitB h 16 || fldN h 17 2 == 2) 0)) (flit : Beat) :
    goodFrame s p h flit =
      (if bitB h 16 then
        if portUp s p then takeFlitIn (u.withPort p (headed s p h)) p (fldN h 19 4) (fldN h 0 16) flit else u.withPort p (headed s p h)
      else if fldN h 17 2 == 2 then u.withPort p { headed s p h with inCtl := (s.port p).inCtl ++ [flit] }
      else u.withPort p (headed s p h)).modPort p fun x => x := by
  have hports : u.ports = s.ports := by rw [hu]; exact noteEvents_ports ..
  have hport : u.port p = s.port p := by rw [State.port, hports]; rfl
  have huw : SMap.wf {} u.ports = true := by rw [hu]; exact wf_noteEvents hw ..
  have hfsn : BitVec.ofNat 16 (fldN h 0 16) = (s.port p).ackRx + 1 := by
    rw [← hseq]
    exact BitVec.ofNat_toNat ..
  unfold goodFrame
  extract_lets x fsn vc again s1 s2 s3 s4
  have hagain : again = false := by rw [show again = x.icvTo.isSome from rfl, show x = s.port p from rfl, hicv]; rfl
  have h1 : s1 = u.withPort p (sequenced (s.port p)) := by
    have hset : s1 = u.withPort p { u.port p with
        ackRx := BitVec.ofNat 16 fsn, nak := false, nakRun := 0
        rxMapFrom := if (u.port p).rxMapFrom == some (BitVec.ofNat 16 fsn) then none else (u.port p).rxMapFrom } := by
      rw [hu]
      rfl
    rw [hset, hport, hfsn, sequenced]
    simp only [beq_iff_eq]
  have h2 : s2 = u.withPort p (if portUp s p then repaid (sequenced (s.port p)) h else sequenced (s.port p)) := by
    have hup : portUp s1 p = portUp s p := by
      rw [h1, portUp_withPort huw]
      rfl
    simp only [s2, hagain, hup, Bool.not_false, Bool.true_and]
    rw [h1]
    split
    · exact modPort_withPort huw _
    · rfl
  have h3 : s3 = u.withPort p (headed s p h) := by
    simp only [s3, hagain, Bool.not_false, Bool.true_and]
    rw [h2, headed_eq]
    split
    · exact modPort_withPort huw _
    · rfl
  have h4 : s4 = if bitB h 16 then
        if portUp s p then takeFlitIn (u.withPort p (headed s p h)) p (fldN h 19 4) (fldN h 0 16) flit else u.withPort p (headed s p h)
      else if fldN h 17 2 == 2 then u.withPort p { headed s p h with inCtl := (s.port p).inCtl ++ [flit] }
      else u.withPort p (headed s p h) := by
    obtain ⟨c, n, r, hhead⟩ := headed_frame s p h
    have hup : portUp s3 p = portUp s p := by
      rw [h3, portUp_withPort huw, hhead]
      rfl
    have hctl : (headed s p h).inCtl = (s.port p).inCtl := by rw [hhead]; rfl
    simp only [s4, hagain, hup, Bool.not_false, Bool.and_true, Bool.true_or]
    rw [h3, modPort_withPort huw, hctl]
  rw [← h4]
  refine congrArg (State.modPort s4 p) (funext fun y => ?_)
  rw [hagain]
  split <;> rfl

/-! ## Flits and whole messages (R278, R282, R291) -/

/-- Flits of the message in progress on channel `vc`, with the one that comes. -/
def flitsWith (x : Port) (vc : Nat) (flit : Beat) : List Beat := SMap.get [] x.inFlits vc ++ [flit]

/-- Number of the message in progress on channel `vc` once a flit of it comes. -/
def flitIdx (x : Port) (vc : Nat) : Nat :=
  if (SMap.get [] x.inFlits vc).isEmpty then headerIdx x vc else SMap.get 0 x.inIdx vc

/-- The port with a flit in the inbound buffer of its channel. -/
def flitIn (x : Port) (vc fsn : Nat) (flit : Beat) : Port :=
  { x with rxFlit := sat64 (x.rxFlit + 1), buffered := SMap.upd 0 x.buffered vc fun b => b + 1
           inFlits := SMap.set [] x.inFlits vc (flitsWith x vc flit), inIdx := SMap.set 0 x.inIdx vc (flitIdx x vc)
           inFsn := if (SMap.get [] x.inFlits vc).isEmpty then SMap.set 0 x.inFsn vc fsn else x.inFsn }

/-- The port with the message on channel `vc` whole and its header frame cleared of an earlier failure. -/
def wholeIn (x : Port) (vc : Nat) : Port :=
  { x with inFlits := SMap.set [] x.inFlits vc []
           icvBad := if x.icvBad == some (BitVec.ofNat 16 (SMap.get 0 x.inFsn vc)) then none else x.icvBad }

/-- The port with a whole message among those received. -/
def messageIn (x : Port) (vc : Nat) (m : Msg) : Port :=
  { x with rxMsg := sat64 (x.rxMsg + 1), accepted := x.accepted + 1, inMsgs := x.inMsgs ++ [(vc, m)] }

/-- A message taken in whole at a port whose receipts so far are those of `x`. -/
theorem messageIn_wholeIn {x z : Port} {vc : Nat} {m : Msg} (hmsg : z.rxMsg = x.rxMsg) (hcount : z.accepted = x.accepted)
    (hbad : z.icvBad = x.icvBad) (hmsgs : z.inMsgs = x.inMsgs) : messageIn (wholeIn z vc) vc m = { z with
      inFlits := SMap.set [] z.inFlits vc [], rxMsg := sat64 (x.rxMsg + 1), accepted := x.accepted + 1
      icvBad := if x.icvBad = some (BitVec.ofNat 16 (SMap.get 0 z.inFsn vc)) then none else x.icvBad
      inMsgs := x.inMsgs ++ [(vc, m)] } := by
  simp only [messageIn, wholeIn, hmsg, hcount, hbad, hmsgs, beq_iff_eq]

/-- The port that asks again for a message whose ICV failed, from its header frame on (R291). -/
def askedAgain (x : Port) (vc : Nat) : Port :=
  { x with icvFail := sat32 (x.icvFail + 1), icvBad := some (BitVec.ofNat 16 (SMap.get 0 x.inFsn vc))
           icvTo := some (vc, SMap.get 0 x.inIdx vc, x.ackRx.toNat), ackRx := BitVec.ofNat 16 (SMap.get 0 x.inFsn vc) - 1
           nak := true, nakRun := 0, replays := sat32 (x.replays + 1), inFlits := SMap.set [] x.inFlits vc []
           rxFlit := x.rxFlit - (SMap.get [] x.inFlits vc).length
           buffered := SMap.upd 0 x.buffered vc fun b => b - (SMap.get [] x.inFlits vc).length }

section
variable {x : Port} {vc : Nat} (hw : SMap.wf {} s.ports = true)
include hw

/-- A message for this module that came by its direct link stands among the received ones. -/
theorem acceptMsg_here {m : Msg} {c : Nat} (hmember : s.fab.departed.contains (mSrc m) = false) (hdetour : mDetour m = false)
    (hclass : classOf (mOpc m) = some c) (hc : c < 2) (hdst : mDst m = s.self) (htime : mOpc m ≠ 0x25) :
    acceptMsg (s.withPort p x) p vc m = s.withPort p (messageIn x vc m) := by
  have hmine : (mDst m == s.self) = true := beq_iff_eq.2 hdst
  have hplain : (mOpc m == 0x25) = false := beq_false_of_ne htime
  unfold acceptMsg
  simp only [modPort_withPort hw, withPort_fab, withPort_self, hmember, hdetour, hclass, ge_iff_le, Nat.not_le.2 hc, hmine, hplain,
    Bool.false_eq_true, if_false, if_true]
  rfl

theorem icvFailure_first (hfirst : x.icvBad ≠ some (BitVec.ofNat 16 (SMap.get 0 x.inFsn vc))) :
    icvFailure (s.withPort p x) p vc = s.withPort p (askedAgain x vc) := by
  unfold icvFailure
  simp only [port_withPort hw, modPort_withPort hw, beq_false_of_ne hfirst, Bool.false_eq_true, if_false]
  rfl

section
variable {fsn : Nat} {flit : Beat}

/-- The flits of a message that is not whole yet wait. -/
theorem takeFlitIn_part (hpart : (flitsWith x vc flit).length < 1 + fldN ((flitsWith x vc flit).headD 0) 8 5) :
    takeFlitIn (s.withPort p x) p vc fsn flit = s.withPort p (flitIn x vc fsn flit) := by
  unfold takeFlitIn
  simp only [port_withPort hw, modPort_withPort hw]
  exact if_pos hpart

variable (hwhole : 1 + fldN ((flitsWith x vc flit).headD 0) 8 5 ≤ (flitsWith x vc flit).length)
include hwhole

theorem takeFlitIn_opens {m : Msg} (hopen : openMsg s p (flitIdx x vc) (flitsWith x vc flit) = some m) (hepoch : x.epoch = (s.port p).epoch) :
    takeFlitIn (s.withPort p x) p vc fsn flit = acceptMsg (s.withPort p (wholeIn (flitIn x vc fsn flit) vc)) p vc m := by
  have hopen' := (openMsg_withPort (x := flitIn x vc fsn flit) hw hepoch (flitIdx x vc) (flitsWith x vc flit)).trans hopen
  unfold takeFlitIn
  simp only [flitIn, flitIdx, flitsWith, wholeIn] at hopen' hwhole ⊢
  simp only [port_withPort hw, modPort_withPort hw, hopen', Nat.not_lt.2 hwhole, if_false]
  rfl

theorem takeFlitIn_fails (hopen : openMsg s p (flitIdx x vc) (flitsWith x vc flit) = none) (hepoch : x.epoch = (s.port p).epoch) :
    takeFlitIn (s.withPort p x) p vc fsn flit = icvFailure (s.withPort p (flitIn x vc fsn flit)) p vc := by
  have hopen' := (openMsg_withPort (x := flitIn x vc fsn flit) hw hepoch (flitIdx x vc) (flitsWith x vc flit)).trans hopen
  unfold takeFlitIn
  simp only [flitIn, flitIdx, flitsWith] at hopen' hwhole ⊢
  simp only [port_withPort hw, modPort_withPort hw, hopen', Nat.not_lt.2 hwhole, if_false]

end
end

/-! ## The flit of the next frame -/

section
variable (s p) (h : DWord) (vc fsn : Nat) (flit : Beat)

/-- A header leaves the messages in progress as they stand. -/
theorem flitsWith_headed : flitsWith (headed s p h) vc flit = flitsWith (s.port p) vc flit := by
  obtain ⟨c, n, r, hhead⟩ := headed_frame s p h
  rw [hhead]
  rfl

theorem flitIdx_headed : flitIdx (headed s p h) vc = flitIdx (s.port p) vc := by
  obtain ⟨c, n, r, hhead⟩ := headed_frame s p h
  rw [hhead]
  rfl

theorem flitIn_headed : flitIn (headed s p h) vc fsn flit = { headed s p h with
    rxFlit := sat64 ((s.port p).rxFlit + 1), buffered := SMap.upd 0 (s.port p).buffered vc fun b => b + 1
    inFlits := SMap.set [] (s.port p).inFlits vc (flitsWith (s.port p) vc flit)
    inIdx := SMap.set 0 (s.port p).inIdx vc (flitIdx (s.port p) vc)
    inFsn := if (SMap.get [] (s.port p).inFlits vc).isEmpty then SMap.set 0 (s.port p).inFsn vc fsn else (s.port p).inFsn } := by
  obtain ⟨c, n, r, hhead⟩ := headed_frame s p h
  rw [hhead]
  rfl

/-- What else of the port a header and a flit leave as it stands. -/
theorem flitIn_headed_rest : let z := flitIn (headed s p h) vc fsn flit
    z.rxMsg = (s.port p).rxMsg ∧ z.accepted = (s.port p).accepted ∧ z.icvBad = (s.port p).icvBad ∧ z.inMsgs = (s.port p).inMsgs ∧
      z.icvFail = (s.port p).icvFail := by
  obtain ⟨c, n, r, hhead⟩ := headed_frame s p h
  rw [hhead]
  exact ⟨rfl, rfl, rfl, rfl, rfl⟩

theorem headed_epoch : (headed s p h).epoch = (s.port p).epoch := by
  obtain ⟨c, n, r, hhead⟩ := headed_frame s p h
  rw [hhead]
  rfl

end

/-! ## The block after the next frame -/

section
variable {f : Frame} (h : Carries s p) (hcorr : f.corrected = []) (hw : SMap.wf {} s.ports = true) (hcrc : CrcGood f)
  (hseq : fld f.hdr 0 16 = (s.port p).ackRx + 1) (hicv : (s.port p).icvTo = none)
include h hcorr hw hcrc hseq hicv

/-- A frame with no flit and no link control. -/
theorem exec_frameReceive_plain (htok : bitB f.hdr 16 = false) (hkind : fldN f.hdr 17 2 ≠ 2) :
    exec (.frameReceive p f) s = .next (s.withPort p (headed s p f.hdr)) := by
  rw [exec_frameReceive_next h hcorr hcrc hseq, goodFrame_next hw hseq hicv rfl, htok, beq_false_of_ne hkind]
  exact congrArg Host.Outcome.next (modPort_withPort hw _)

theorem exec_frameReceive_control (htok : bitB f.hdr 16 = false) (hkind : fldN f.hdr 17 2 = 2) :
    exec (.frameReceive p f) s = .next ((noteEvents s 16 1).withPort p { headed s p f.hdr with inCtl := (s.port p).inCtl ++ [f.flit] }) := by
  rw [exec_frameReceive_next h hcorr hcrc hseq, goodFrame_next hw hseq hicv rfl, htok, hkind]
  exact congrArg Host.Outcome.next (modPort_withPort (wf_noteEvents hw 16 1) _)

/-- A frame with a flit, at a port that is not UP. -/
theorem exec_frameReceive_down (htok : bitB f.hdr 16 = true) (hup : portUp s p = false) :
    exec (.frameReceive p f) s = .next ((noteEvents s 16 1).withPort p (headed s p f.hdr)) := by
  rw [exec_frameReceive_next h hcorr hcrc hseq, goodFrame_next hw hseq hicv rfl, htok, hup]
  exact congrArg Host.Outcome.next (modPort_withPort (wf_noteEvents hw 16 1) _)

/-- A frame with a flit, at a port that is UP: the port stands as its flit leaves it. -/
theorem exec_frameReceive_flit (htok : bitB f.hdr 16 = true) (hup : portUp s p = true) {x : Port}
    (htake : takeFlitIn ((noteEvents s 16 1).withPort p (headed s p f.hdr)) p (fldN f.hdr 19 4) (fldN f.hdr 0 16) f.flit =
      (noteEvents s 16 1).withPort p x) :
    exec (.frameReceive p f) s = .next ((noteEvents s 16 1).withPort p x) := by
  rw [exec_frameReceive_next h hcorr hcrc hseq, goodFrame_next hw hseq hicv rfl, htok, hup]
  have htake' : takeFlitIn ((noteEvents s 16 (bitAt (true || fldN f.hdr 17 2 == 2) 0)).withPort p (headed s p f.hdr)) p
      (fldN f.hdr 19 4) (fldN f.hdr 0 16) f.flit = (noteEvents s 16 1).withPort p x := htake
  rw [if_pos rfl, if_pos rfl, htake']
  exact congrArg Host.Outcome.next (modPort_withPort (wf_noteEvents hw 16 1) _)

section
variable (htok : bitB f.hdr 16 = true) (hup : portUp s p = true)
include htok hup

/-- The flit of a message that is not whole yet waits. -/
theorem exec_frameReceive_part (hpart : (flitsWith (s.port p) (fldN f.hdr 19 4) f.flit).length <
    1 + fldN ((flitsWith (s.port p) (fldN f.hdr 19 4) f.flit).headD 0) 8 5) : exec (.frameReceive p f) s =
    .next ((noteEvents s 16 1).withPort p (flitIn (headed s p f.hdr) (fldN f.hdr 19 4) (fldN f.hdr 0 16) f.flit)) := by
  rw [← flitsWith_headed s p f.hdr] at hpart
  exact exec_frameReceive_flit h hcorr hw hcrc hseq hicv htok hup (takeFlitIn_part (wf_noteEvents hw 16 1) hpart)

variable (hwhole : 1 + fldN ((flitsWith (s.port p) (fldN f.hdr 19 4) f.flit).headD 0) 8 5 ≤
  (flitsWith (s.port p) (fldN f.hdr 19 4) f.flit).length)
include hwhole

/-- A whole message for this module that came by its direct link. -/
theorem exec_frameReceive_whole {m : Msg} {c : Nat}
    (hopen : openMsg s p (flitIdx (s.port p) (fldN f.hdr 19 4)) (flitsWith (s.port p) (fldN f.hdr 19 4) f.flit) = some m)
    (hmember : s.fab.departed.contains (mSrc m) = false) (hdetour : mDetour m = false)
    (hclass : classOf (mOpc m) = some c) (hc : c < 2) (hdst : mDst m = s.self) (htime : mOpc m ≠ 0x25) : exec (.frameReceive p f) s =
    .next ((noteEvents s 16 1).withPort p (messageIn (wholeIn (flitIn (headed s p f.hdr) (fldN f.hdr 19 4) (fldN f.hdr 0 16) f.flit)
      (fldN f.hdr 19 4)) (fldN f.hdr 19 4) m)) := by
  have hu := wf_noteEvents hw 16 1
  rw [← flitsWith_headed s p f.hdr] at hwhole hopen
  rw [← flitIdx_headed s p f.hdr, ← openMsg_noteEvents (s := s) 16 1] at hopen
  exact exec_frameReceive_flit h hcorr hw hcrc hseq hicv htok hup
    ((takeFlitIn_opens hu hwhole hopen (headed_epoch s p f.hdr)).trans (acceptMsg_here hu hmember hdetour hclass hc hdst htime))

/-- A message that fails its ICV for the first time. -/
theorem exec_frameReceive_fails
    (hopen : openMsg s p (flitIdx (s.port p) (fldN f.hdr 19 4)) (flitsWith (s.port p) (fldN f.hdr 19 4) f.flit) = none)
    (hfirst : (flitIn (headed s p f.hdr) (fldN f.hdr 19 4) (fldN f.hdr 0 16) f.flit).icvBad ≠ some (BitVec.ofNat 16
      (SMap.get 0 (flitIn (headed s p f.hdr) (fldN f.hdr 19 4) (fldN f.hdr 0 16) f.flit).inFsn (fldN f.hdr 19 4)))) :
    exec (.frameReceive p f) s = .next ((noteEvents s 16 1).withPort p
      (askedAgain (flitIn (headed s p f.hdr) (fldN f.hdr 19 4) (fldN f.hdr 0 16) f.flit) (fldN f.hdr 19 4))) := by
  have hu := wf_noteEvents hw 16 1
  rw [← flitsWith_headed s p f.hdr] at hwhole hopen
  rw [← flitIdx_headed s p f.hdr, ← openMsg_noteEvents (s := s) 16 1] at hopen
  exact exec_frameReceive_flit h hcorr hw hcrc hseq hicv htok hup
    ((takeFlitIn_fails hu hwhole hopen (headed_epoch s p f.hdr)).trans (icvFailure_first hu hfirst))

end

end

end

end Sys2Proof.Machine
end

section
/-! SUPPORT. Frames sent: the header of a frame, replays, idle slots, flits and the LANE_SWAP that awaits its answer (R269 to R271,
R274 to R277, R381, R386, R387): O16. -/

namespace Sys2Proof.Machine
open Sys2Proof.Claims

/-! ## The header of a frame (R270) -/

/-- The header of the next frame of port `x`, which returns `n` credits of channel `cv`. -/
def nextHdr (x : Port) (token kind vc cv n : Nat) : DWord :=
  pack 64 [(0, 16, x.fsn.toNat), (16, 1, token), (17, 2, kind), (19, 4, vc), (23, 1, x.nak.toNat),
    (24, 16, x.ackRx.toNat), (40, 4, cv), (44, 6, n), (50, 12, x.slot)]

/-- The fields of a list follow one another from bit `lo` on and end by bit `hi`. -/
def fieldsIn (lo hi : Nat) : List (Nat × Nat × Nat) → Prop
  | [] => lo ≤ hi
  | (o, l, _) :: fs => lo ≤ o ∧ fieldsIn (o + l) hi fs

/-- What such fields add up to keeps within their bits. -/
theorem fieldsIn_sum {lo hi : Nat} {fs : List (Nat × Nat × Nat)} (h : fieldsIn lo hi fs) :
    (∃ b, (fs.map fun f => (f.2.2 % 2 ^ f.2.1) * 2 ^ f.1).sum = b * 2 ^ lo) ∧
      (fs.map fun f => (f.2.2 % 2 ^ f.2.1) * 2 ^ f.1).sum + 2 ^ lo ≤ 2 ^ hi := by
  induction fs generalizing lo with
  | nil => exact ⟨⟨0, by simp⟩, by simpa using Nat.pow_le_pow_right (by decide) h⟩
  | cons f fs ih =>
    obtain ⟨o, l, v⟩ := f
    obtain ⟨hlo, hrest⟩ := h
    obtain ⟨⟨b, hb⟩, hle⟩ := ih hrest
    have hfield : (v % 2 ^ l) * 2 ^ o + 2 ^ o ≤ 2 ^ (o + l) := by
      have hlt : v % 2 ^ l + 1 ≤ 2 ^ l := Nat.mod_lt _ (Nat.two_pow_pos l)
      calc (v % 2 ^ l) * 2 ^ o + 2 ^ o = (v % 2 ^ l + 1) * 2 ^ o := by ring
        _ ≤ 2 ^ l * 2 ^ o := Nat.mul_le_mul_right _ hlt
        _ = 2 ^ (o + l) := by ring
    have hstart : 2 ^ lo ≤ 2 ^ o := Nat.pow_le_pow_right (by decide) hlo
    simp only [List.map_cons, List.sum_cons]
    refine ⟨⟨(v % 2 ^ l + b * 2 ^ l) * 2 ^ (o - lo), ?_⟩, by omega⟩
    have hsplit : 2 ^ o = 2 ^ (o - lo) * 2 ^ lo := by rw [← Nat.pow_add, Nat.sub_add_cancel hlo]
    rw [hb, Nat.pow_add, hsplit]
    ring

/-- A field of a word put together of fields in order reads back. -/
theorem fldN_pack {w lo len v : Nat} (pre post : List (Nat × Nat × Nat)) (hpre : fieldsIn 0 lo pre) (hpost : fieldsIn (lo + len) w post) :
    fldN (pack w (pre ++ (lo, len, v) :: post)) lo len = v % 2 ^ len := by
  obtain ⟨-, hlow⟩ := fieldsIn_sum hpre
  obtain ⟨⟨b, hhigh⟩, hend⟩ := fieldsIn_sum hpost
  have hw : lo + len ≤ w := by
    by_contra hlt
    have := Nat.pow_lt_pow_right (a := 2) (by decide) (Nat.not_le.1 hlt)
    omega
  rw [fldN, BitVec.extractLsb'_toNat, Nat.shiftRight_eq_div_pow, pack, BitVec.toNat_ofNat, List.map_append, List.sum_append,
    List.map_cons, List.sum_cons, hhigh]
  generalize (pre.map fun f => (f.2.2 % 2 ^ f.2.1) * 2 ^ f.1).sum = a at hlow ⊢
  rw [hhigh] at hend
  have hlen : 2 ^ (lo + len) = 2 ^ len * 2 ^ lo := by rw [Nat.add_comm, Nat.pow_add]
  have hfield : v % 2 ^ len * 2 ^ lo + 2 ^ lo ≤ 2 ^ (lo + len) := by
    rw [hlen, ← Nat.succ_mul]
    exact Nat.mul_le_mul_right _ (Nat.mod_lt _ (Nat.two_pow_pos len))
  have hword : a + (v % 2 ^ len * 2 ^ lo + b * 2 ^ (lo + len)) = a + (v % 2 ^ len + b * 2 ^ len) * 2 ^ lo := by
    rw [hlen]
    ring
  have hlt : a + (v % 2 ^ len * 2 ^ lo + b * 2 ^ (lo + len)) < 2 ^ w := by omega
  dsimp only
  rw [Nat.mod_eq_of_lt hlt, hword, Nat.add_mul_div_right _ _ (Nat.two_pow_pos lo), Nat.div_eq_of_lt hlow, Nat.zero_add,
    Nat.add_mul_mod_self_right, Nat.mod_mod]

/-- What stands in the fields of the header that say what the frame carries. -/
theorem nextHdr_fields (x : Port) {token kind vc : Nat} (cv n : Nat) (ht : token < 2) (hk : kind < 4) (hvc : vc < 16) :
    fldN (nextHdr x token kind vc cv n) 0 16 = x.fsn.toNat ∧ fldN (nextHdr x token kind vc cv n) 16 1 = token ∧
      fldN (nextHdr x token kind vc cv n) 17 2 = kind ∧ fldN (nextHdr x token kind vc cv n) 19 4 = vc := by
  refine ⟨?_, ?_, ?_, ?_⟩
  · exact (fldN_pack [] _ (by simp [fieldsIn]) (by simp [fieldsIn])).trans (Nat.mod_eq_of_lt x.fsn.isLt)
  · exact (fldN_pack [_] _ (by simp [fieldsIn]) (by simp [fieldsIn])).trans (Nat.mod_eq_of_lt ht)
  · exact (fldN_pack [_, _] _ (by simp [fieldsIn]) (by simp [fieldsIn])).trans (Nat.mod_eq_of_lt hk)
  · exact (fldN_pack [_, _, _] _ (by simp [fieldsIn]) (by simp [fieldsIn])).trans (Nat.mod_eq_of_lt hvc)

theorem nextHdr_fsn (x : Port) {token kind vc : Nat} (cv n : Nat) (ht : token < 2) (hk : kind < 4) (hvc : vc < 16) :
    fld (nextHdr x token kind vc cv n) 0 16 = x.fsn :=
  BitVec.eq_of_toNat_eq (nextHdr_fields x cv n ht hk hvc).1

theorem nextHdr_token (x : Port) {token kind vc : Nat} (cv n : Nat) (ht : token < 2) (hk : kind < 4) (hvc : vc < 16) :
    bitB (nextHdr x token kind vc cv n) 16 = (token == 1) := by
  have hfield : fld (nextHdr x token kind vc cv n) 16 1 = BitVec.ofBool (token == 1) := by
    refine BitVec.eq_of_toNat_eq ((nextHdr_fields x cv n ht hk hvc).2.1.trans ?_)
    rcases (by omega : token = 0 ∨ token = 1) with rfl | rfl <;> rfl
  exact bitB_eq_of_fld hfield

/-- The port that has sent frame `f`, which returned `n` credits (R269, R271, R274). -/
def emitted (x : Port) (f : SentFrame) (n : Nat) : Port :=
  { x with kept := (f :: x.kept).take 8192, lastOut := some f, fsn := x.fsn + 1, owed := x.owed.drop n
           crOut := sat64 (x.crOut + n), txMapDue := x.txMapDue && x.txMapFrom != some x.fsn }

section
variable {s : State} {p : Nat}

/-- A frame goes out with the next FSN, its CRC and its parity. -/
theorem emitFrame_withPort (hw : SMap.wf {} s.ports = true) (x : Port) {token kind vc : Nat} (ht : token < 2) (hk : kind < 4)
    (hvc : vc < 16) (flit : Beat) : ∃ h n, emitFrame (s.withPort p x) p token kind vc flit =
      (noteEvents s 16 (bitAt (token == 1 || kind == 2) 0)).withPort p (emitted x (frameOf h flit) n) ∧
      fld h 0 16 = x.fsn ∧ bitB h 16 = (token == 1) ∧ fldN h 17 2 = kind ∧ fldN h 19 4 = vc := by
  let r := if portUp (s.withPort p x) p then creditRun x.owed else (0, 0)
  obtain ⟨-, -, hkind, hchan⟩ := nextHdr_fields x r.1 r.2 ht hk hvc
  refine ⟨nextHdr x token kind vc r.1 r.2, r.2, ?_, nextHdr_fsn x r.1 r.2 ht hk hvc, nextHdr_token x r.1 r.2 ht hk hvc, hkind, hchan⟩
  unfold emitFrame
  simp only [port_withPort hw, noteEvents_withPort, modPort_withPort (wf_noteEvents hw ..)]
  rfl

/-- Events, the limiter's counts and a port are all that differ (R381, R387). -/
theorem noteEvents_modGov_rest (i n : Nat) (f : GovBlk → GovBlk) (x : Port) :
    { ((noteEvents s i n).modGov f).withPort p x with ports := s.ports, gov := s.gov } = s := by
  unfold noteEvents
  split <;> rfl

/-! ## What a frame time does (R271, R275) -/

theorem exec_frameSend (h : transmits s p = true) : exec (.frameSend p) s = .next (settleMovers (sendFrame s p)) :=
  congrArg Host.Outcome.next (if_pos h)

theorem sendFrame_replay {f : SentFrame} {r : List SentFrame} (h : (s.port p).replay = f :: r) :
    sendFrame s p = s.withPort p { s.port p with replay := r, lastOut := some f } := by
  rw [sendFrame, h]
  rfl

/-- The port in its next slot (R275). -/
def slotOn (x : Port) : Port := { x with slot := (x.slot + 1) % 4096 }

/-- The frame its schedule entry gives. -/
def slotFrame (s : State) (p : Nat) : State :=
  if slotEntry s p / 0x1000 = 2 then detourSlot s p else if slotEntry s p / 0x1000 = 1 then tokenSlot s p (slotEntry s p % 16)
  else plainFrame s p

theorem sendFrame_slot (h : (s.port p).replay = []) : sendFrame s p = (slotFrame s p).modPort p slotOn := by
  rw [sendFrame, h]
  rfl

theorem sendFrame_of_slotFrame {u : State} {x : Port} (h : (s.port p).replay = []) (hu : SMap.wf {} u.ports = true)
    (hslot : slotFrame s p = u.withPort p x) : sendFrame s p = u.withPort p (slotOn x) := by
  rw [sendFrame_slot h, hslot, modPort_withPort hu]

/-! ## Idle slots (R276, R386, R387) -/

/-- The block with `n` more flits held back by the links limiter. -/
def heldMore (s : State) (n : Nat) : State := s.modGov fun g => { g with heldFlit := g.heldFlit + n }

/-- Nothing is held back in the slot: it is of no kind, its port carries no traffic, or nothing waits for its channel. -/
def NothingHeld (s : State) (p : Nat) : Prop :=
  slotEntry s p < 0x1000 ∨ portUp s p = false ∨
    (SMap.get [] (s.port p).outFlits (slotEntry s p % 16) = [] ∧ ∀ e ∈ (s.port p).outq, e.1 ≠ slotEntry s p % 16)

section
variable (h : slotEntry s p < 0x1000 ∨ (slotEntry s p < 0x2000 ∧ linkLimited s = true))
include h

theorem slotFrame_nothing_held (hnone : NothingHeld s p) : slotFrame s p = plainFrame s p := by
  by_cases hplain : slotEntry s p < 0x1000
  · have hkind : slotEntry s p / 0x1000 = 0 := by omega
    rw [slotFrame, hkind]
    rfl
  · obtain ⟨hlt, hlim⟩ := h.resolve_left hplain
    have hkind : slotEntry s p / 0x1000 = 1 := by omega
    rw [slotFrame, hkind, if_neg (by decide), if_pos rfl, tokenSlot]
    rcases hnone.resolve_left hplain with hdown | ⟨hflits, hqueue⟩
    · simp [hdown]
    · have hempty : ((SMap.get [] (s.port p).outFlits (slotEntry s p % 16)).isEmpty &&
          !(s.port p).outq.any (fun e => e.1 == slotEntry s p % 16)) = true := by
        simpa [hflits] using hqueue
      simp [hlim, hempty]

/-- A flit that the limiter holds back is counted (R386, R387). -/
theorem slotFrame_held (hsome : ¬ NothingHeld s p) : slotFrame s p = plainFrame (heldMore s 1) p := by
  obtain ⟨hplain, hnot⟩ := not_or.1 hsome
  obtain ⟨hup, hwaits⟩ := not_or.1 hnot
  obtain ⟨hlt, hlim⟩ := h.resolve_left hplain
  have hkind : slotEntry s p / 0x1000 = 1 := by omega
  have hfull : ((SMap.get [] (s.port p).outFlits (slotEntry s p % 16)).isEmpty &&
      !(s.port p).outq.any (fun e => e.1 == slotEntry s p % 16)) = false := by
    rw [← Bool.not_eq_true]
    simpa using hwaits
  rw [slotFrame, hkind, if_neg (by decide), if_pos rfl, tokenSlot]
  simp only [Bool.eq_true_of_not_eq_false hup, hlim, hfull, Bool.not_true, Bool.false_eq_true, if_false, if_true]
  rfl

end

theorem plainFrame_withPort (hw : SMap.wf {} s.ports = true) : ∃ h n, plainFrame s p = s.withPort p (emitted (s.port p) (frameOf h 0) n) ∧
    fld h 0 16 = (s.port p).fsn ∧ bitB h 16 = false := by
  obtain ⟨h, n, hsent, hfsn, htok, -, -⟩ := emitFrame_withPort (p := p) (kind := 0) (vc := 0) hw (s.port p) Nat.two_pos (by decide) (by decide) 0
  rw [withPort_port hw] at hsent
  exact ⟨h, n, hsent, hfsn, htok⟩

/-- An idle frame goes out, and what the limiter holds back is counted (R386). -/
theorem sendFrame_idle (hw : SMap.wf {} s.ports = true) (hreplay : (s.port p).replay = [])
    (hidle : slotEntry s p < 0x1000 ∨ (slotEntry s p < 0x2000 ∧ linkLimited s = true)) :
    ∃ k h n, sendFrame s p = (heldMore s k).withPort p (slotOn (emitted (s.port p) (frameOf h 0) n)) ∧
      fld h 0 16 = (s.port p).fsn ∧ bitB h 16 = false ∧ (NothingHeld s p → k = 0) ∧ (¬ NothingHeld s p → k = 1) := by
  have hslot : ∃ k, slotFrame s p = plainFrame (heldMore s k) p ∧ (NothingHeld s p → k = 0) ∧ (¬ NothingHeld s p → k = 1) := by
    by_cases hnone : NothingHeld s p
    · exact ⟨0, slotFrame_nothing_held hidle hnone, fun _ => rfl, fun h => absurd hnone h⟩
    · exact ⟨1, slotFrame_held hidle hnone, fun h => absurd h hnone, fun _ => rfl⟩
  obtain ⟨k, hslot, hzero, hone⟩ := hslot
  obtain ⟨h, n, hsent, hfsn, htok⟩ := plainFrame_withPort (s := heldMore s k) (p := p) hw
  exact ⟨k, h, n, sendFrame_of_slotFrame hreplay hw (hslot.trans hsent), hfsn, htok, hzero, hone⟩

/-! ## Flits (R274, R276) -/

/-- The port that has let a flit of channel `vc` go, at the cost of a credit, `r` being left of its message (R274, R276). -/
def flitOut (x : Port) (vc : Nat) (r : List Beat) : Port :=
  { x with credit := SMap.upd 0 x.credit vc fun c => c - 1, txFlit := sat64 (x.txFlit + 1), txUp := sat64 (x.txUp + 1)
           outFlits := SMap.set [] x.outFlits vc r }

/-- What the first and the last flit of a message note beside: the message, its place in the log, the time stamps of a TIME. -/
def SameButNotes (x y : Port) : Prop := ∃ m t1 t k o l d, y = { x with
  txMsg := m, timeTx1 := t1, timeTx := t, timeTxK := k, outCur := o, sentLog := l, detVc := d }

theorem SameButNotes.refl (x : Port) : SameButNotes x x := ⟨_, _, _, _, _, _, _, rfl⟩

theorem SameButNotes.trans {x y z : Port} (h : SameButNotes x y) (k : SameButNotes y z) : SameButNotes x z := by
  obtain ⟨_, _, _, _, _, _, _, rfl⟩ := h
  obtain ⟨_, _, _, _, _, _, _, rfl⟩ := k
  exact ⟨_, _, _, _, _, _, _, rfl⟩

theorem SameButNotes.ite {x y z : Port} {c : Prop} [Decidable c] (h : SameButNotes x y) (k : SameButNotes x z) :
    SameButNotes x (if c then y else z) := by
  split
  · exact h
  · exact k

/-- A flit's frame is emitted and counted by the limiter, and the port notes that the flit has left. -/
theorem sendFlit_eq {vc : Nat} {g : Beat} {r : List Beat} (hflits : SMap.get [] (s.port p).outFlits vc = g :: r) :
    ∃ kind f, sendFlit s p vc false = ((emitFrame s p 1 kind vc g).modGov fun b => { b with linkUsed := b.linkUsed + 1 }).modPort p f ∧
      kind < 4 ∧ ∀ x, SameButNotes (flitOut x vc r) (f x) := by
  rw [sendFlit, hflits]
  refine ⟨_, _, rfl, ?_, fun x => ?_⟩
  · have hkind : ∀ b : Bool, (if b then 0 else 1) < 4 := by decide
    exact hkind _
  · extract_lets y z
    have hsent : SameButNotes (flitOut x vc r) y := ⟨_, _, _, _, _, _, _, rfl⟩
    have hstamped : SameButNotes y z := .ite ⟨_, _, _, _, _, _, _, rfl⟩ (.refl y)
    exact (hsent.trans hstamped).trans (.ite ⟨_, _, _, _, _, _, _, rfl⟩ (.refl z))

/-- A flit goes out on its channel; the events of the link and the limiter count it (R381, R387). -/
theorem sendFlit_plain (hw : SMap.wf {} s.ports = true) {vc : Nat} {g : Beat} {r : List Beat} (hvc : vc < 16)
    (hflits : SMap.get [] (s.port p).outFlits vc = g :: r) : ∃ h n y,
      sendFlit s p vc false = ((noteEvents s 16 1).modGov fun b => { b with linkUsed := s.gov.linkUsed + 1 }).withPort p y ∧
      SameButNotes (flitOut (emitted (s.port p) (frameOf h g) n) vc r) y ∧
      fld h 0 16 = (s.port p).fsn ∧ bitB h 16 = true ∧ fldN h 19 4 = vc := by
  obtain ⟨kind, f, heq, hkind, hnotes⟩ := sendFlit_eq hflits
  obtain ⟨h, n, hsent, hfsn, htok, -, hchan⟩ := emitFrame_withPort (p := p) (token := 1) hw (s.port p) (by decide) hkind hvc g
  rw [withPort_port hw] at hsent
  refine ⟨h, n, _, ?_, hnotes _, hfsn, htok, hchan⟩
  rw [heq, hsent]
  exact modPort_withPort (s := (noteEvents s 16 1).modGov fun b => { b with linkUsed := s.gov.linkUsed + 1 }) (wf_noteEvents hw 16 1) f

/-! ## The slots (R276, R277, R292) -/

theorem slotFrame_flit {vc : Nat} {g : Beat} {r : List Beat} (hentry : slotEntry s p = 0x1000 + vc) (hvc : vc < 16)
    (hup : portUp s p = true) (hlim : linkLimited s = false) (hdet : (s.port p).detVc = none)
    (hflits : SMap.get [] (s.port p).outFlits vc = g :: r) : slotFrame s p = sendFlit s p vc false := by
  have hkind : slotEntry s p / 0x1000 = 1 := by omega
  have hchan : slotEntry s p % 16 = vc := by omega
  rw [slotFrame, hkind, hchan, if_neg (by decide), if_pos rfl, tokenSlot]
  simp [hup, hlim, hdet, hflits]

/-- A detour slot with nothing else to carry asks for the spare lane again. -/
theorem slotFrame_swap {l : Nat} (hw : SMap.wf {} s.ports = true) (hentry : slotEntry s p / 0x1000 = 2) (hctl : (s.port p).ctlq = [])
    (hasked : (s.port p).swapAsked = some l) : ∃ h n,
      slotFrame s p = (noteEvents s 16 1).withPort p (emitted { s.port p with ctlq := [] } (frameOf h (laneSwapFlit l)) n) ∧
      bitB h 16 = false ∧ fldN h 17 2 = 2 := by
  obtain ⟨h, n, hsent, -, htok, hkind, -⟩ := emitFrame_withPort (p := p) (token := 0) (kind := 2) (vc := 0) hw
    { s.port p with ctlq := [] } (by decide) (by decide) (by decide) (laneSwapFlit l)
  have hnext : ctlNext (s.port p) = some (laneSwapFlit l, []) := by
    rw [ctlNext, hctl, hasked]
    rfl
  refine ⟨h, n, ?_, htok, hkind⟩
  rw [slotFrame, if_pos hentry, detourSlot]
  simp only [hnext]
  exact hsent

end

/-- Settles O16: a frame received is one change of its port, the events of the link counted beside it; a frame sent is one too, with the
limiter's counts. -/
theorem framesCrossLinks : Obligations.FramesCrossLinks := by
  refine ⟨fun s p f hc hcarry hcorr => ?_, fun s p hc hsend => ⟨fun f r hreplay => ?_, fun hreplay hidle => ?_,
    fun vc g r hreplay hentry hvc hup hlim hdet hflits => ?_, fun l hreplay hentry hctl hasked => ?_⟩⟩
  · intro x y vc old fs idx z hf u
    have hu : SMap.wf {} u.ports = true := wf_noteEvents hc.ports 16 1
    have hz : flitIn y vc (fldN f.hdr 0 16) f.flit = z := flitIn_headed ..
    obtain ⟨hmsg, hcount, hbad, hmsgs, hicvfail⟩ := flitIn_headed_rest s p f.hdr vc (fldN f.hdr 0 16) f.flit
    rw [hz] at hmsg hcount hbad hmsgs hicvfail
    refine ⟨fun hcrc hnak => ⟨_, exec_frameReceive_bad hcarry hcorr hc.ports hcrc hnak, onlyPort_withPort ..⟩,
      fun hcrc hseq hold => exec_frameReceive_dropped hcarry hcorr hcrc hseq hold, fun hcrc hseq hicv => ⟨fun htok hkind => ?_,
      fun htok hkind => ?_, fun htok hup => ?_, fun htok hup => ⟨fun hpart => ?_, fun hwhole => ⟨fun m c hopen hdet hclass hlt hdst htime hmember => ?_,
        fun hopen hfirst => ?_⟩⟩⟩⟩
    · exact ⟨_, exec_frameReceive_plain hcarry hcorr hc.ports hcrc hseq hicv htok hkind, onlyPort_withPort ..⟩
    · exact ⟨_, exec_frameReceive_control hcarry hcorr hc.ports hcrc hseq hicv htok hkind, onlyPort_withPort ..⟩
    · exact ⟨_, exec_frameReceive_down hcarry hcorr hc.ports hcrc hseq hicv htok hup, onlyPort_withPort ..⟩
    · have hexec := exec_frameReceive_part hcarry hcorr hc.ports hcrc hseq hicv htok hup hpart
      rw [hz] at hexec
      exact ⟨_, hexec, onlyPort_withPort ..⟩
    · have hexec := exec_frameReceive_whole hcarry hcorr hc.ports hcrc hseq hicv htok hup hwhole hopen hmember hdet hclass hlt hdst htime
      rw [hz, messageIn_wholeIn hmsg hcount hbad hmsgs] at hexec
      exact ⟨_, hexec, onlyPort_withPort ..⟩
    · have hexec := exec_frameReceive_fails hcarry hcorr hc.ports hcrc hseq hicv htok hup hwhole hopen (by rw [hz, hbad]; exact hfirst)
      rw [hz] at hexec
      refine ⟨_, hexec, rfl, ?_⟩
      rw [port_withPort hu]
      exact ⟨congrArg (fun n => sat32 (n + 1)) hicvfail, rfl, rfl, hmsgs, hmsg⟩
  · rw [exec_frameSend hsend, sendFrame_replay hreplay]
    exact ⟨_, rfl, onlyPort_withPort ..⟩
  · obtain ⟨k, h, n, hsent, hfsn, htok, hnone, hsome⟩ := sendFrame_idle hc.ports hreplay hidle
    have hgov : k = if slotEntry s p < 0x1000 ∨ portUp s p = false ∨
        (SMap.get [] (s.port p).outFlits (slotEntry s p % 16) = [] ∧ ∀ e ∈ (s.port p).outq, e.1 ≠ slotEntry s p % 16) then 0 else 1 := by
      split
      next hyes => exact hnone hyes
      next hno => exact hsome hno
    rw [exec_frameSend hsend, hsent, ← hgov]
    refine ⟨_, rfl, ?_⟩
    rw [port_withPort (s := heldMore s k) hc.ports]
    exact ⟨rfl, rfl, rfl, ⟨_, rfl, rfl, hfsn, htok, rfl⟩, rfl, rfl⟩
  · obtain ⟨h, n, y, hsent, hnotes, hfsn, htok, hchan⟩ := sendFlit_plain hc.ports hvc hflits
    have hu : SMap.wf {} (noteEvents s 16 1).ports = true := wf_noteEvents hc.ports 16 1
    rw [exec_frameSend hsend, sendFrame_of_slotFrame hreplay (u := (noteEvents s 16 1).modGov _) hu
      ((slotFrame_flit hentry hvc hup hlim hdet hflits).trans hsent)]
    obtain ⟨_, _, _, _, _, _, _, rfl⟩ := hnotes
    refine ⟨_, rfl, ?_⟩
    rw [port_withPort (s := (noteEvents s 16 1).modGov _) hu]
    exact ⟨rfl, rfl, rfl, rfl, rfl, rfl, ⟨_, rfl, rfl, hfsn, htok, hchan⟩, rfl, noteEvents_modGov_rest ..⟩
  · obtain ⟨h, n, hslot, htok, hkind⟩ := slotFrame_swap hc.ports hentry hctl hasked
    have hu : SMap.wf {} (noteEvents s 16 1).ports = true := wf_noteEvents hc.ports 16 1
    rw [exec_frameSend hsend, sendFrame_of_slotFrame hreplay hu hslot]
    refine ⟨_, rfl, ?_⟩
    rw [port_withPort hu]
    exact ⟨hasked, ⟨_, rfl, rfl, htok, hkind⟩, rfl⟩

end Sys2Proof.Machine
end

section
/-! SUPPORT. Messages of the verdict round taken in, and the comparison of a TALLY with its port's receive tally (R315, R323): O14. -/

namespace Sys2Proof.Machine
open Sys2Proof.Claims

section
variable {s : State} {p : Nat} {m : Msg}

/-- A message of the round that waits for the step of its row is taken from its port and acted on. -/
theorem roundRow_waits {opc step : Nat} (h : Waits s p opc step m) (act : State → State) :
    roundRow s p opc m step act = act (taken s p m) := by
  obtain ⟨hp, hopc, harg, hwait⟩ := h
  have hport : (p == 18) = false := beq_false_of_ne (by omega)
  have htake : takeMsg s p opc m = some (taken s p m) := by
    rw [takeMsg, if_neg (by simp [hopc]), hport, hwait]
    rfl
  simp [roundRow, htake, harg]

theorem exec_tally_waits (h : Waits s p 0x28 (stepArg s) m) : exec (.tally p m) s = .next (tryVote (compareTallies
    ((taken s p m).modCm fun c => { c with tallies := c.tallies ++ [(p, BitVec.ofNat 64 (mOp0 m), mOp1 m)] }))) :=
  congrArg Host.Outcome.next (roundRow_waits h _)

/-- The first vote of a child's subtree joins those held (R323). -/
theorem exec_vote_first (h : Waits s p 0x29 (stepArg s) m) (hchild : bitB s.cm.child p = true)
    (hnew : ∀ v ∈ s.cm.childVotes, v.1 ≠ p) : exec (.vote p m) s = .next (tryVote ((taken s p m).modCm fun c =>
      { c with childVotes := c.childVotes ++ [(p, aggOf m)], votes := sat32 (c.votes + (aggOf m).count) })) := by
  have hours : (children s).contains p = true := by simp [children, hchild, h.1]
  have hfirst : (s.cm.childVotes.any fun v => v.1 == p) = false := by simpa using hnew
  have hjoins : (!(children (taken s p m)).contains p || (taken s p m).cm.childVotes.any fun v => v.1 == p) = false := by
    change (!(children s).contains p || s.cm.childVotes.any fun v => v.1 == p) = false
    rw [hours, hfirst]
    rfl
  refine congrArg Host.Outcome.next ((roundRow_waits h _).trans ?_)
  simp only [hjoins, Bool.false_eq_true, if_false]

/-! ## One comparison (R315) -/

/-- The TALLY of port `p` has been compared. -/
def tallyCompared (s : State) (p : Nat) : State := s.modCm fun c => { c with compared := p :: c.compared }

/-- It has been found to differ, which STG_LOCAL and the CM block show. -/
def tallyDiffers (s : State) (p : Nat) : State := (setLocal (tallyCompared s p) 5).modCm fun c =>
  { c with tallyFail := sat32 (c.tallyFail + 1), tallyPort := if c.tallyPort == 0x1F then p else c.tallyPort }

theorem tallyDiffers_loc (hb : s.bound = true) (p : Nat) : bitB (tallyDiffers s p).stg.loc 5 = true := by
  have hset : (setLocal (tallyCompared s p) 5).stg.loc = s.stg.loc ||| BitVec.ofNat 10 (2 ^ 5) :=
    congrArg (fun u : State => u.stg.loc) (setLocal_bound (tallyCompared s p) 5 hb)
  exact (congrArg (bitB · 5) hset).trans (bitB_or_pow _ (by decide))

theorem tallyDiffers_cm (s : State) (p : Nat) : (tallyDiffers s p).cm = { s.cm with
    compared := p :: s.cm.compared, tallyFail := sat32 (s.cm.tallyFail + 1)
    tallyPort := if s.cm.tallyPort = 0x1F then p else s.cm.tallyPort } := by
  obtain ⟨l, hset⟩ := setLocal_frame (tallyCompared s p) 5
  have hcm : (setLocal (tallyCompared s p) 5).cm = (tallyCompared s p).cm := (congrArg State.cm hset :)
  unfold tallyDiffers
  simp only [State.modCm_fields, hcm, beq_iff_eq]
  rfl

section
variable {d : DWord} {n : Nat} (hnew : p ∉ s.cm.compared)
include hnew

theorem compareTally_same (h : SMap.get 0 s.cm.rxTally p = d ∧ SMap.get 0 s.cm.rxBytes p = n) :
    compareTally s (p, d, n) = tallyCompared s p := by
  have hsame : (SMap.get 0 s.cm.rxTally p == d && SMap.get 0 s.cm.rxBytes p == n) = true := by simpa using h
  rw [compareTally, if_neg (by simpa using hnew)]
  exact if_pos hsame

theorem compareTally_differs (h : ¬ (SMap.get 0 s.cm.rxTally p = d ∧ SMap.get 0 s.cm.rxBytes p = n)) :
    compareTally s (p, d, n) = ledger (tallyDiffers s p) 2 3 0x0307 p p := by
  have hsame : ¬ (SMap.get 0 s.cm.rxTally p == d && SMap.get 0 s.cm.rxBytes p == n) = true := by simpa using h
  rw [compareTally, if_neg (by simpa using hnew)]
  exact if_neg hsame

end

end

/-- Settles O14: a message of the round is taken and joins its list, and a comparison writes the collectives' block, with STG_LOCAL and the
ledger beside it where the two differ. -/
theorem talliesAndVotesJoin : Obligations.TalliesAndVotesJoin := by
  refine ⟨fun s p m _ => ⟨fun h => ⟨_, exec_tally_waits h, rfl, rfl, rfl⟩,
    fun h hchild hnew => ⟨_, exec_vote_first h hchild hnew, rfl, rfl, rfl⟩⟩,
    fun s p d n hbound hnew => ⟨compareTally_same hnew, fun h => ?_⟩⟩
  obtain ⟨r, k, q, l, hlog⟩ := ledger_frame (tallyDiffers s p) 2 3 0x0307 p p (by decide)
  rw [compareTally_differs hnew h, hlog]
  exact ⟨tallyDiffers_loc hbound p, tallyDiffers_cm s p⟩

end Sys2Proof.Machine
end

section
/-! SUPPORT. A collective descriptor whose stream's SEQ has come past 32 bits: the counterexample to O20. -/

namespace Sys2Proof.Machine
open Sys2Proof.Claims

/-- A collective descriptor of one flit from virtual address 0 to 1 GiB, which signals tile 0 of this module at its end. -/
def oneFlit : MvEnt := ⟨pack 512 [(0, 8, 7), (24, 8, 1), (80, 48, 0x40000000), (128, 32, 64)], 0, 0⟩

/-- Module 0 of modules 0 and 1, joined to module 1 by port 0, with `oneFlit` at the head of mover 0; the first GiB of virtual addresses
is mapped to its near tier, the second to that of module 1. 2^32 messages of the descriptor's stream have been sent: the next SEQ is one
more than its field holds (R306). -/
def seqPast : State := { State.reset with
  pins := { mainOn := true }
  stg := { st := .running }
  image := some ⟨{ imageOf [] with fabric := { selfmod := 0, ports := [⟨1, 0, 1, [], []⟩], sched := [], route := [] } }, 0, 0⟩
  job := some { jobCfgOf [] 0 with members := [0, 1] }
  mem := { reserve := [(0x1FC0000000 / 8, 0x1FC0010000001), (0x1FC0010000 / 8, 7), (0x1FC0010000 / 8 + 1, 0x400000000007)] }
  ports := [(0, { st := .up })]
  movers := [(0, { queue := [oneFlit] })]
  cm := { txSeq := [(0, 2 ^ 32)] } }

/-- The block after mover 0 has gone on with its descriptor. -/
def seqPastNext : State := moverTake seqPast 0 (· == 7) []

theorem exec_seqPast : exec (.collectiveDescriptor 0 []) seqPast = .next seqPastNext := rfl

theorem seqPast_canon : Canon seqPast :=
  ⟨⟨rfl, by decide +kernel, rfl, rfl⟩, rfl, rfl, by decide +kernel, by decide +kernel, rfl, rfl, fun _ => ⟨rfl, rfl⟩⟩

theorem seqPast_head : AtHead seqPast 0 oneFlit [] :=
  ⟨by decide, rfl, List.forall_mem_nil _, List.forall_mem_nil _, rfl, rfl⟩

/-- The global addresses of the source and of the destination. -/
def seqPastSrc : Nat := 2 ^ 63
def seqPastDst : Nat := 2 ^ 63 + 2 ^ 42

theorem seqPast_reads : ∀ b, b < mvLen oneFlit.desc / 64 → Reads seqPast 0 (mvSrc oneFlit.desc + 64 * b) seqPastSrc := by
  unfold Reads Near Readable
  decide +kernel

theorem seqPast_reaches : ∀ b, b < mvLen oneFlit.desc / 64 → gaMod (seqPastDst + 64 * b) = gaMod seqPastDst ∧
    reach seqPast (dieOfMover 0) (mvDst oneFlit.desc + 64 * b) true false = .ok (seqPastDst + 64 * b) := by
  decide +kernel

/-- Its message waits at port 0, with 0 in its SEQ field; the mover, which looks for the message of SEQ 2^32, has ended its descriptor all
the same, and the descriptor's signal, for a tile of no gang, has been dropped and counted (R288). -/
theorem seqPastNext_ended : (seqPastNext.port 0).outq.map (fun e => fldN e.2.hdr 192 32) = [0] ∧
    (seqPastNext.mover 0).queue = [] ∧ seqPastNext.flt.sigDropped = 1 := by decide +kernel

/-- Refutes O20, by its first clause: in `seqPast`, in good order, the stream's count of messages has come past what the 32 bits of SEQ
hold (`Canon` does not bound it). The message goes out with SEQ 0, so that the mover does not find its own among those that wait on the link
and ends the descriptor before the message is sent (R308); its completion signal, for a tile of no gang, counts as dropped, where the
statement has the block of faults differ in what has been sent alone. -/
theorem not_collectiveDescriptorsAct : ¬ Obligations.CollectiveDescriptorsAct := by
  intro h
  obtain ⟨s', msg, hexec, -, -, -, -, -, -, -, -, -, -, -, hflt⟩ := h.1 seqPast 0 0 seqPastDst oneFlit [] []
    (fun _ => seqPastSrc) seqPast_canon seqPast_head (by decide +kernel) (by decide +kernel) (by decide +kernel) seqPast_reads
    seqPast_reaches (by decide +kernel) (by decide +kernel) (by decide +kernel) (by decide +kernel)
  obtain rfl : seqPastNext = s' := Host.Outcome.next.inj (exec_seqPast.symm.trans hexec)
  obtain ⟨-, -, hdropped⟩ := seqPastNext_ended
  rw [hflt] at hdropped
  cases hdropped

end Sys2Proof.Machine
end

section
/-! SUPPORT. The digest over GF(2^64): the product is linear in its first factor (R313): O60. -/

namespace Sys2Proof.Machine

/-- What is added to both of two words leaves their exclusive or. -/
theorem xor_xor_common (a b c : DWord) : (a ^^^ c) ^^^ (b ^^^ c) = a ^^^ b := by
  calc (a ^^^ c) ^^^ (b ^^^ c) = a ^^^ b ^^^ (c ^^^ c) := by ac_rfl
    _ = a ^^^ b := by rw [BitVec.xor_self, BitVec.xor_zero]

/-- The first factor doubled, reduced by the field's polynomial where its top bit leaves (R313). -/
def gdouble (a : DWord) : DWord := if a.getLsbD 63 then (a <<< 1) ^^^ 0x1B else a <<< 1

theorem gdouble_xor (a b : DWord) : gdouble (a ^^^ b) = gdouble a ^^^ gdouble b := by
  simp only [gdouble, BitVec.getLsbD_xor, BitVec.shiftLeft_xor_distrib]
  cases a.getLsbD 63 <;> cases b.getLsbD 63
  case false.false => rfl
  case false.true => exact BitVec.xor_assoc ..
  case true.false => exact (BitVec.xor_assoc ..).trans ((congrArg _ (BitVec.xor_comm ..)).trans (BitVec.xor_assoc ..).symm)
  case true.true => exact (xor_xor_common ..).symm

/-- The product of a sum of two first factors gathers, bit by bit of the second, what the products of each gather. -/
theorem gmulStep_xor (n : Nat) (a b c r t : DWord) :
    gmulStep n (a ^^^ b) c (r ^^^ t) = gmulStep n a c r ^^^ gmulStep n b c t := by
  induction n generalizing a b c r t with
  | zero => rfl
  | succ n ih =>
    have hgather : (if c.getLsbD 0 then r ^^^ t ^^^ (a ^^^ b) else r ^^^ t) =
        (if c.getLsbD 0 then r ^^^ a else r) ^^^ (if c.getLsbD 0 then t ^^^ b else t) := by
      split
      · ac_rfl
      · rfl
    change gmulStep n (gdouble (a ^^^ b)) (c >>> 1) (if c.getLsbD 0 then r ^^^ t ^^^ (a ^^^ b) else r ^^^ t) = _
    rw [gdouble_xor, hgather, ih]
    rfl

theorem gmul_xor (a b c : DWord) : gmul (a ^^^ b) c = gmul a c ^^^ gmul b c := by
  have h := gmulStep_xor 64 a b c 0 0
  rwa [BitVec.xor_self] at h

/-- Settles O60: a word joins the digest by exclusive or, and the salt of two words at one position leaves their sum. -/
theorem digestAddsInAnyOrder : Obligations.DigestAddsInAnyOrder := by
  intro d e k salt p q v w
  have hlinear : ∀ x c, gmul (v ^^^ w) c = gmul (v ^^^ x) c ^^^ gmul (w ^^^ x) c := fun x c => by
    rw [← gmul_xor, xor_xor_common]
  simp only [digestAdd]
  refine ⟨by ac_rfl, ?_, ?_⟩
  · rw [BitVec.xor_assoc, BitVec.xor_self, BitVec.xor_zero]
  · rw [hlinear (BitVec.ofNat 64 (salt * 2 ^ 48))]
    ac_rfl

end Sys2Proof.Machine
end

section
/-! SUPPORT. Queues enabled, disabled and rung, and an interrupt raised: O29. -/

namespace Sys2Proof.Machine
open Sys2Proof.Claims

section
variable {s : State} {q : Nat} {v : Word}

/-! ## An interrupt raised (R354) -/

theorem raiseInt_queues (s : State) (b : Nat) :
    (raiseInt s b).host.sqs = s.host.sqs ∧ (raiseInt s b).host.cqs = s.host.cqs := by
  obtain ⟨m, o, ho, up, h⟩ := raiseInt_frame s b
  rw [h]
  exact ⟨rfl, rfl⟩

theorem raiseInt_sq (s : State) (b q : Nat) : (raiseInt s b).sq q = s.sq q := by
  rw [State.sq, (raiseInt_queues s b).1, State.sq]

theorem raiseInt_cq (s : State) (b q : Nat) : (raiseInt s b).cq q = s.cq q := by
  rw [State.cq, (raiseInt_queues s b).2, State.cq]

theorem raiseInt_status (s : State) {b : Nat} (hb : b < 5) : bitB (raiseInt s b).host.intStatus b = true := by
  obtain ⟨m, o, ho, up, h⟩ := raiseInt_frame s b
  have hbit : bitB (BitVec.ofNat 5 (2 ^ b)) b = true := by
    rw [bitB, BitVec.getLsbD_ofNat, Nat.testBit_two_pow_self, decide_eq_true hb, Bool.and_true]
  rw [h, bitB_or, hbit, Bool.or_true]

/-! ## Enabling and disabling (R340, R341, R346) -/

theorem enableSq_ok (hen : (s.sq q).en = false) (hbase : (s.sq q).resvBase = false) (hcfg : (s.sq q).resvCfg = false)
    (hsize : sizeOk (s.sq q).cfg = true) (hplace : baseOk (s.sq q).base (256 * qSize (s.sq q).cfg) = true)
    (hcq : (s.cq (cqOf (s.sq q))).en = true) : enableSq s q = s.modSq q fun x =>
      { x with en := true, head := 0, passN := 0, tail := 0, taken := 0, epoch := (x.epoch + 1) % 256, stopped := false
               fails := 0, cfgErr := false } := by
  simp [enableSq, hen, hbase, hcfg, hsize, hplace, hcq]

theorem enableSq_reserved (hen : (s.sq q).en = false) (h : (s.sq q).resvBase = true ∨ (s.sq q).resvCfg = true) :
    enableSq s q = raiseInt (s.modSq q fun x => { x with cfgErr := true }) 3 := by
  rcases h with h | h <;> simp [enableSq, hen, h]

theorem cur_of_mem_sqs (hw : SMap.wf {} s.host.sqs = true) (hfree : ∀ i, (s.sq i).cur = none) :
    ∀ e ∈ s.host.sqs, e.2.cur = none := fun e he => by
  have hget : s.sq e.1 = e.2 := SMap.get_of_mem _ _ _ _ hw he
  rw [← hget]
  exact hfree e.1

theorem enableCq_ok (hw : SMap.wf {} s.host.sqs = true) (hfree : ∀ i, (s.sq i).cur = none) (hen : (s.cq q).en = false)
    (hbase : (s.cq q).resvBase = false) (hcfg : (s.cq q).resvCfg = false) (hsize : sizeOk (s.cq q).cfg = true)
    (hplace : baseOk (s.cq q).base (32 * qSize (s.cq q).cfg) = true) (hvec : 1 ≤ fldN (s.cq q).cfg 16 6) :
    enableCq s q = s.modCq q fun c =>
      { c with en := true, tail := 0, phase := true, head := 0, used := 0, reserved := 0, cfgErr := false } := by
  unfold enableCq
  extract_lets c v busy
  have hbusy : busy = 0 :=
    List.length_eq_zero_iff.2 (List.filter_eq_nil_iff.2 fun e he => by simp [cur_of_mem_sqs hw hfree e he])
  simp [c, v, hbusy, hen, hbase, hcfg, hsize, hplace, hvec]

theorem disableSq_ok (hen : (s.sq q).en = true) (hfails : (s.sq q).fails = 0) :
    disableSq s q = s.modSq q fun x => { x with en := false } := by
  simp [disableSq, dropReserve, hen, hfails]

theorem disableCq_unnamed (hen : (s.cq q).en = true) (h : ∀ i, (s.sq i).en = true → cqOf (s.sq i) ≠ q) :
    disableCq s q = s.modCq q fun c => { c with en := false } := by
  have hnone : ((List.range 16).any fun i => (s.sq i).en && cqOf (s.sq i) == q) = false :=
    List.any_eq_false.2 fun i _ hi => by
      rw [Bool.and_eq_true, beq_iff_eq] at hi
      exact h i hi.1 hi.2
  simp [disableCq, hen, hnone]

theorem disableCq_named {i : Nat} (hi : i < 16) (hen : (s.cq q).en = true) (hsq : (s.sq i).en = true) (hq : cqOf (s.sq i) = q) :
    disableCq s q = raiseInt (s.modCq q fun c => { c with cfgErr := true }) 3 := by
  have hany : ((List.range 16).any fun i => (s.sq i).en && cqOf (s.sq i) == q) = true :=
    List.any_eq_true.2 ⟨i, List.mem_range.2 hi, by simp [hsq, hq]⟩
  simp [disableCq, hen, hany]

/-! ## Doorbells (R342) -/

theorem badBell_effect (s : State) : bitB (badBell s).host.intStatus 1 = true ∧ (badBell s).host.sqs = s.host.sqs ∧
    (badBell s).host.cqs = s.host.cqs :=
  ⟨raiseInt_status s (by decide), raiseInt_queues s 1⟩

theorem ringTail_ok (hen : (s.sq q).en = true) (hpos : fldN v 0 12 < qSize (s.sq q).cfg) :
    ringTail s q v = s.modSq q fun x => { x with tail := fldN v 0 12 } := by
  simp [ringTail, hen, hpos]

theorem ringTail_bad (h : (s.sq q).en = false ∨ qSize (s.sq q).cfg ≤ fldN v 0 12) : ringTail s q v = badBell s := by
  rcases h with h | h <;> simp [ringTail, h]

theorem ringHead_ok (hen : (s.cq q).en = true) (hpos : fldN v 0 12 < qSize (s.cq q).cfg) :
    ringHead s q v = s.modCq q fun c => { c with
      head := fldN v 0 12
      used := c.used - (fldN v 0 12 + qSize (s.cq q).cfg - (s.cq q).head) % qSize (s.cq q).cfg } := by
  simp [ringHead, hen, hpos]

theorem ringHead_bad (h : (s.cq q).en = false ∨ qSize (s.cq q).cfg ≤ fldN v 0 12) : ringHead s q v = badBell s := by
  rcases h with h | h <;> simp [ringHead, h]

end

/-- Settles O29: each command is one change of its queue, or raises the error's bit beside it. -/
theorem queuesOpenAndMove : Obligations.QueuesOpenAndMove := by
  refine ⟨fun s q hc => ⟨?sqOn, ?sqReserved, ?cqOn, ?sqOff, ?cqOff, ?cqNamed, ?resume⟩, fun s q v => ⟨?tail, ?head, ?tailBad, ?headBad⟩⟩
  case sqOn => exact fun hen hbase hcfg hsize hplace hcq =>
    ⟨_, congrArg Host.Outcome.next (enableSq_ok hen hbase hcfg hsize hplace hcq), rfl⟩
  case sqReserved =>
    refine fun hen h => ⟨_, congrArg Host.Outcome.next (enableSq_reserved hen h), ?_, raiseInt_status _ (by decide), ?_⟩
    · rw [raiseInt_sq, State.sq_modSq_same _ _ _ hc.sqs]
    · exact (raiseInt_queues _ 3).2
  case cqOn => exact fun hen hbase hcfg hsize hplace hvec hfree =>
    ⟨_, congrArg Host.Outcome.next (enableCq_ok hc.sqs hfree hen hbase hcfg hsize hplace hvec), rfl⟩
  case sqOff => exact fun hen hfails => ⟨_, congrArg Host.Outcome.next (disableSq_ok hen hfails), rfl⟩
  case cqOff => exact fun hen h => ⟨_, congrArg Host.Outcome.next (disableCq_unnamed hen h), rfl⟩
  case cqNamed =>
    refine fun i hi hen hsq hq =>
      ⟨_, congrArg Host.Outcome.next (disableCq_named hi hen hsq hq), ?_, ?_, raiseInt_status _ (by decide)⟩
    · rw [raiseInt_cq, State.cq_modCq_same _ _ _ hc.cqs]
      exact hen
    · rw [raiseInt_cq, State.cq_modCq_same _ _ _ hc.cqs]
  case resume => exact ⟨_, rfl, rfl⟩
  case tail => exact fun hen hpos => ⟨_, congrArg Host.Outcome.next (ringTail_ok hen hpos), rfl⟩
  case head => exact fun hen hpos => ⟨_, congrArg Host.Outcome.next (ringHead_ok hen hpos), rfl⟩
  case tailBad => exact fun h => ⟨_, congrArg Host.Outcome.next (ringTail_bad h), badBell_effect s⟩
  case headBad => exact fun h => ⟨_, congrArg Host.Outcome.next (ringHead_bad h), badBell_effect s⟩

end Sys2Proof.Machine
end

section
/-! SUPPORT. The record of EVIDENCE, and what the SPDM responder answers: O45. -/

namespace Sys2Proof.Machine
open Sys2Proof.Claims

section
variable {s : State}

/-! ## The record of EVIDENCE (R423) -/

theorem fixLen_length (n : Nat) (bs : List Byte) : (fixLen n bs).length = n := by
  rw [fixLen, List.length_take, List.length_append, List.length_replicate]
  omega

theorem beatBytes_length (b : Beat) : (beatBytes b).length = 64 := leBytes_length 64 _

/-- Bytes 0x00 to 0x1F of the record: magic, size, flags, the identity leaf and the serial number. -/
def evHead (s : State) : List Byte :=
  leBytes 4 0x56455A54 ++ leBytes 4 10412 ++ leBytes 4 (evFlags s) ++ leBytes 4 s.trust.idLeaf ++ leBytes 16 Config.serial.toNat

/-- Bytes 0x40 to 0x4F: the time, the firmware's version and its SVN. -/
def evFirmware (s : State) : List Byte :=
  leBytes 8 s.ns ++ leBytes 4 s.trust.fwVersion.toNat ++ leBytes 4 s.trust.fwSvn.toNat

/-- Bytes 0x54 to 0x1EE7: what follows the number of the leaf. -/
def evRest (s : State) (ak : Nat) : List Byte :=
  leBytes 4 s.trust.flash.fwFloor.toNat ++ List.replicate 8 0 ++
  beatBytes ((s.image.map (·.img.digest)).getD 0) ++ leBytes 32 (jobDigest s).toNat ++
  ((List.range 8).flatMap fun j => beatBytes (SMap.get 0 s.trust.meas j)) ++ beatBytes s.trust.flash.factory.idPubkey ++
  beatBytes (Config.xmssPub (Config.trng ak)) ++ fixLen 1568 ((s.trust.kem.map Config.kemKey).getD []) ++
  fixLen 2692 s.trust.akCert ++ fixLen 2820 s.trust.flash.factory.idCert

theorem evBody_eq (s : State) (nonce : BitVec 256) (ak leaf : Nat) :
    evBody s nonce ak leaf = evHead s ++ (leBytes 32 nonce.toNat ++ (evFirmware s ++ (leBytes 4 leaf ++ evRest s ak))) := by
  unfold evBody evHead evFirmware evRest
  simp only [List.append_assoc]

theorem evHead_length (s : State) : (evHead s).length = 0x20 := by
  simp only [evHead, List.length_append, leBytes_length]

theorem evFirmware_length (s : State) : (evFirmware s).length = 0x10 := by
  simp only [evFirmware, List.length_append, leBytes_length]

theorem measurements_length (s : State) : ((List.range 8).flatMap fun j => beatBytes (SMap.get 0 s.trust.meas j)).length = 512 := by
  simp only [List.length_flatMap, beatBytes_length, List.map_const', List.length_range, List.sum_replicate]
  rfl

theorem evRest_length (s : State) (ak : Nat) : (evRest s ak).length = 0x1EE8 - 0x54 := by
  simp only [evRest, List.length_append, leBytes_length, beatBytes_length, fixLen_length, measurements_length]
  rw [List.length_replicate]

/-- The record of EVIDENCE: what the AK signs, and the signature. -/
def evRecord (s : State) (nonce : BitVec 256) (ak leaf : Nat) : List Byte :=
  evBody s nonce ak leaf ++ fixLen 2500 (Config.xmssSign (Config.trng ak) leaf (evBody s nonce ak leaf))

theorem evRecord_length (s : State) (nonce : BitVec 256) (ak leaf : Nat) : (evRecord s nonce ak leaf).length = 10412 := by
  simp only [evRecord, evBody_eq, List.length_append, evHead_length, evFirmware_length, evRest_length, leBytes_length, fixLen_length]

theorem evRecord_nonce (s : State) (nonce : BitVec 256) (ak leaf : Nat) :
    ((evRecord s nonce ak leaf).drop 0x20).take 32 = leBytes 32 nonce.toNat := by
  rw [evRecord, evBody_eq, List.append_assoc, List.append_assoc, List.drop_left' (evHead_length s), List.take_left' (leBytes_length ..)]

theorem evRecord_leaf (s : State) (nonce : BitVec 256) (ak leaf : Nat) :
    ((evRecord s nonce ak leaf).drop 0x50).take 4 = leBytes 4 leaf := by
  have hfront : (evHead s ++ (leBytes 32 nonce.toNat ++ evFirmware s)).length = 0x50 := by
    simp only [List.length_append, evHead_length, evFirmware_length, leBytes_length]
  have hsplit : evRecord s nonce ak leaf = (evHead s ++ (leBytes 32 nonce.toNat ++ evFirmware s)) ++ (leBytes 4 leaf ++
      (evRest s ak ++ fixLen 2500 (Config.xmssSign (Config.trng ak) leaf (evBody s nonce ak leaf)))) := by
    simp only [evRecord, evBody_eq s nonce ak leaf, List.append_assoc]
  rw [hsplit, List.drop_left' hfront, List.take_left' (leBytes_length ..)]

theorem evidence_leaf {d leaf : Nat} (nonce : BitVec 256) (hak : s.trust.ak = some (d, leaf)) (hleaf : leaf < 1024)
    (hid : s.trust.idExhausted = false) : evidence s nonce =
      some (evRecord s nonce d leaf, leaf, s.modTrust fun t => { t with ak := some (d, leaf + 1) }) := by
  simp [evidence, hak, hid, evRecord, hleaf]

theorem evidence_used_up {d leaf : Nat} (nonce : BitVec 256) (hak : s.trust.ak = some (d, leaf)) (hleaf : 1024 ≤ leaf) :
    evidence s nonce = none := by
  simp [evidence, hak, hleaf]

/-! ## The responder in service (R332, R416) -/

section
variable (hup : s.pins.phase = .up)
include hup

theorem spdmUp_of_up : spdmUp s = true := by rw [spdmUp, hup]; rfl

theorem exec_getMeasurements {j : Nat} (halgs : s.trust.algs = true) (hj : j < 8) :
    exec (.getMeasurements j) s = .next (answer s (.measurement j (SMap.get 0 s.trust.meas j))) := by
  show execGetMeasurements j s = _
  simp [execGetMeasurements, spdmUp_of_up hup, halgs, hj]

theorem exec_pskExchange {slot : Nat} (halgs : s.trust.algs = true) (hslot : slot < 4)
    (hfilled : (SMap.get none s.trust.flash.psk slot).isSome = true) : exec (.pskExchange slot) s =
      .next (answer (s.modTrust fun t => { t with nextSpdm := t.nextSpdm + 1, spdm := t.spdm ++ [⟨t.nextSpdm, slot, false⟩] })
        (.pskRsp s.trust.nextSpdm)) := by
  show execPskExchange slot s = _
  simp [execPskExchange, spdmUp_of_up hup, halgs, hslot, hfilled, State.modTrust]

theorem exec_pskFinish {n : Nat} {x : Spdm} (hx : spdmOf s n false = some x) (verified : Bool) : exec (.pskFinish n verified) s =
    .next (if verified then
      answer (setSpdm s fun l => (l.filter fun y => y.id != n) ++ [{ x with open_ := true }]) (.finishRsp n)
    else answer (setSpdm s fun l => l.filter fun y => y.id != n) .error) := by
  show execPskFinish n verified s = _
  simp [execPskFinish, spdmUp_of_up hup, hx]

theorem exec_heartbeat {n : Nat} (hopen : (spdmOf s n true).isSome = true) :
    exec (.heartbeat n) s = .next (answer s (.heartbeatAck n)) := by
  show execHeartbeat n s = _
  simp [execHeartbeat, spdmUp_of_up hup, hopen]

theorem exec_endSession {n : Nat} (hopen : (spdmOf s n true).isSome = true) :
    exec (.endSession n) s = .next (answer (setSpdm s fun l => l.filter fun y => y.id != n) (.ended n)) := by
  show execEndSession n s = _
  simp [execEndSession, spdmUp_of_up hup, hopen]

theorem exec_evidence_some {nonce : BitVec 256} {r : List Byte} {leaf : Nat} {u : State} (h : evidence s nonce = some (r, leaf, u)) :
    exec (.evidence nonce) s = .next (answer u (.evidence r)) := by
  show execEvidence nonce s = _
  rw [execEvidence, spdmUp_of_up hup, h]
  rfl

theorem exec_evidence_none {nonce : BitVec 256} (h : evidence s nonce = none) :
    exec (.evidence nonce) s = .next (answer s .error) := by
  show execEvidence nonce s = _
  rw [execEvidence, spdmUp_of_up hup, h]
  rfl

theorem exec_ideKm {n : Nat} (hopen : (spdmOf s n true).isSome = true) (cm : Bool) : exec (.ideKm n cm) s =
    .next (answer (s.modHost fun h => { h with ideIo := h.ideIo || !cm, ideCm := h.ideCm || cm }) (.ideKm cm)) := by
  have hnone : (spdmOf s n true).isNone = false := by rw [← Option.not_isSome, hopen]; rfl
  show execIdeKm n cm s = _
  simp [execIdeKm, spdmUp_of_up hup, hnone]

end

/-! ## A PSK (R413, R432) -/

section
variable {k slot n : Nat} {ct psk tag : List Byte}

/-- The slot may be written: empty, or filled inside a session under it. -/
def SlotOpen (s : State) (slot n : Nat) : Prop :=
  SMap.get none s.trust.flash.psk slot = none ∨ ∃ x, spdmOf s n true = some x ∧ x.slot = slot

theorem slotOpen_unrefused (hslot : slot < 4) (h : SlotOpen s slot n) : (decide (4 ≤ slot) ||
    ((SMap.get none s.trust.flash.psk slot).isSome && !(spdmOf s n true).any fun x => x.slot == slot)) = false := by
  have hlow : ¬ 4 ≤ slot := by omega
  rcases h with h | ⟨x, hx, hs⟩
  · simp [hlow, h]
  · simp [hlow, hx, hs]

theorem exec_pskProvision_carried {v : Beat} (hup : s.pins.phase = .up) (hslot : slot < 4) (h : SlotOpen s slot n)
    (hv : provisioned s ct psk tag = some v) : exec (.pskProvision slot n ct psk tag) s = .next (
      if !rpfAuth s.trust.flash then answer s .error else
        answer (s.modTrust fun t => { t with flash := { t.flash with psk := SMap.set none t.flash.psk slot (some v) } })
          (.provisioned slot)) := by
  show execPskProvision slot n ct psk tag s = _
  rw [execPskProvision, spdmUp_of_up hup]
  dsimp only
  rw [slotOpen_unrefused hslot h, hv]
  rfl

theorem exec_pskProvision_refused (hup : s.pins.phase = .up) (hslot : slot < 4) (h : SlotOpen s slot n)
    (hv : provisioned s ct psk tag = none) : exec (.pskProvision slot n ct psk tag) s = .next (answer s .error) := by
  show execPskProvision slot n ct psk tag s = _
  rw [execPskProvision, spdmUp_of_up hup]
  dsimp only
  rw [slotOpen_unrefused hslot h, hv]
  rfl

theorem exec_pskProvision_closed (hup : s.pins.phase = .up) (hfilled : (SMap.get none s.trust.flash.psk slot).isSome = true)
    (hnone : spdmOf s n true = none) : exec (.pskProvision slot n ct psk tag) s = .next (answer s .error) := by
  show execPskProvision slot n ct psk tag s = _
  simp [execPskProvision, spdmUp_of_up hup, hfilled, hnone]

theorem provisioned_of_opened {bs : List Byte} (hkem : s.trust.kem = some k)
    (hopen : gcmOpen ((Config.kemDecap k ct).setWidth 512) (leBytes 12 0) ct psk tag = some bs) (hlen : bs.length = 64) :
    provisioned s ct psk tag = some (beatOf bs) := by
  simp only [provisioned, hkem, hopen, hlen, if_true]

theorem provisioned_of_not_opened (hkem : s.trust.kem = some k)
    (hopen : gcmOpen ((Config.kemDecap k ct).setWidth 512) (leBytes 12 0) ct psk tag = none) : provisioned s ct psk tag = none := by
  simp only [provisioned, hkem, hopen]

/-- A PSK that arrives whole enters its slot where the protected area authenticates. -/
theorem exec_pskProvision_ok {bs : List Byte} (hup : s.pins.phase = .up) (hslot : slot < 4) (h : SlotOpen s slot n)
    (hkem : s.trust.kem = some k) (hlen : bs.length = 64) (hkey : s.trust.flash.rpfKey = kRpf)
    (hopen : gcmOpen ((Config.kemDecap k ct).setWidth 512) (leBytes 12 0) ct psk tag = some bs) :
    exec (.pskProvision slot n ct psk tag) s = .next (answer (s.modTrust fun t =>
      { t with flash := { t.flash with psk := SMap.set none t.flash.psk slot (some (beatOf bs)) } }) (.provisioned slot)) := by
  have hauth : rpfAuth s.trust.flash = true := by rw [rpfAuth, hkey, beq_self_eq_true]
  rw [exec_pskProvision_carried hup hslot h (provisioned_of_opened hkem hopen hlen), hauth]
  rfl

theorem exec_pskProvision_error (hup : s.pins.phase = .up) (hslot : slot < 4) (h : SlotOpen s slot n) (hkem : s.trust.kem = some k)
    (hbad : gcmOpen ((Config.kemDecap k ct).setWidth 512) (leBytes 12 0) ct psk tag = none ∨ s.trust.flash.rpfKey ≠ kRpf) :
    exec (.pskProvision slot n ct psk tag) s = .next (answer s .error) := by
  cases hv : provisioned s ct psk tag with
  | none => exact exec_pskProvision_refused hup hslot h hv
  | some v =>
    have hauth : rpfAuth s.trust.flash = false := beq_false_of_ne <| hbad.resolve_left fun hnone => by
      rw [provisioned_of_not_opened hkem hnone] at hv
      cases hv
    rw [exec_pskProvision_carried hup hslot h hv, hauth]
    rfl

end

end

/-- Settles O45: each request gives one answer, and beside it a change of the sessions, of the AK's leaf, of a PSK slot or of the
upstream port's streams. -/
theorem spdmRequestsAnswered : Obligations.SpdmRequestsAnswered := by
  refine fun s j n slot nonce ct psk tag cm => ⟨?version, fun hup => ⟨⟨_, ?capabilities, rfl⟩, ⟨_, ?algorithms, rfl⟩, ?measurements,
    ?exchange, ?finish, ?finishBad, ?heartbeat, ?endSession, ?evidence, ?evidenceNone, ?provision, ?provisionFilled, ?ideKm⟩⟩
  case version =>
    refine fun h => ⟨_, ?_, rfl⟩
    show execGetVersion s = _
    rcases h with h | h <;> simp [execGetVersion, spdmUp, h] <;> rfl
  case capabilities =>
    show execGetCapabilities s = _
    rw [execGetCapabilities, spdmUp_of_up hup]
    rfl
  case algorithms =>
    show execNegotiateAlgorithms true true s = _
    rw [execNegotiateAlgorithms, spdmUp_of_up hup]
    rfl
  case measurements => exact fun halgs hj => ⟨_, exec_getMeasurements hup halgs hj, rfl⟩
  case exchange => exact fun halgs hslot hfilled => ⟨_, exec_pskExchange hup halgs hslot hfilled, rfl⟩
  case finish => exact fun x hx => ⟨_, exec_pskFinish hup hx true, rfl⟩
  case finishBad => exact fun x hx => ⟨_, exec_pskFinish hup hx false, rfl⟩
  case heartbeat => exact fun hopen => ⟨_, exec_heartbeat hup hopen, rfl⟩
  case endSession => exact fun hopen => ⟨_, exec_endSession hup hopen, rfl⟩
  case evidence => exact fun d leaf hak hleaf hid => ⟨_, _, exec_evidence_some hup (evidence_leaf nonce hak hleaf hid), rfl, evRecord_length ..,
      evRecord_nonce .., evRecord_leaf ..⟩
  case evidenceNone => exact fun d leaf hak hleaf => ⟨_, exec_evidence_none hup (evidence_used_up nonce hak hleaf), rfl⟩
  case provision => exact fun k hkem hslot h => ⟨fun bs hopen hlen hkey =>
    ⟨_, exec_pskProvision_ok hup hslot h hkem hlen hkey hopen, rfl⟩, fun hbad => ⟨_, exec_pskProvision_error hup hslot h hkem hbad, rfl⟩⟩
  case provisionFilled => exact fun hfilled hnone => ⟨_, exec_pskProvision_closed hup hfilled hnone, rfl⟩
  case ideKm => exact fun hopen => ⟨_, exec_ideKm hup hopen cm, rfl, rfl, rfl⟩

end Sys2Proof.Machine
end

section
/-! SUPPORT. A completion queue whose TAIL lies past its SIZE: the counterexample to O37. -/

namespace Sys2Proof.Machine
open Sys2Proof.Claims

/-- The command, a NOP. -/
def tailTaken : Taken := { cmd := .nop 0 0, entry := 0x10001, gen := 0, sqhd := 0, cq := 0, waiting := false }

/-- A command taken whose completion queue, of four entries in the exchange area, has TAIL so far past SIZE that its next entry would
stand at the first byte of the far tier. `Canon` does not bound TAIL. -/
def tailPast : State := { State.reset with
  host := { linkUp := true
            sqs := [(0, { cur := some tailTaken })]
            cqs := [(0, { base := 1, cfg := 4, tail := (0x10000000000 - 0x1FF0000000) / 32 })] } }

theorem tailPast_canon : Canon tailPast :=
  ⟨⟨rfl, rfl, rfl, rfl⟩, rfl, rfl, rfl, rfl, by decide +kernel, by decide +kernel, fun _ => ⟨rfl, rfl⟩⟩

theorem tailPast_offset : 0x1FF0000000 + (baseOff (tailPast.cq tailTaken.cq).base + 32 * (tailPast.cq tailTaken.cq).tail) =
    0x10000000000 := by decide +kernel

/-- Nothing is poisoned there and no tag is kept; whether a write has made the far-tier beats known (R266) is no part of `Sound`. -/
theorem tailPast_sound : Sound tailPast 0x10000000000 := by
  unfold Sound
  decide +kernel

/-- The write of the entry reads its granule for the tag: eight far-tier beats that nothing has written, of eight free values each. -/
theorem complete_tailPast_free : (complete tailPast 0 0 0 0).free = 64 := by decide +kernel

/-- Refutes O37, by its second clause: in `tailPast`, in good order, the entry of a completion falls on far-tier beats that nothing has
written. Their reads (R263) draw free values and are logged, while the statement has the completion change nothing but the host block,
memory and counts. The statement has no hypothesis that TAIL is below SIZE. -/
theorem not_entriesTakenAndCompleted : ¬ Obligations.EntriesTakenAndCompleted := by
  intro h
  obtain ⟨-, hcompletes, -⟩ := h
  obtain ⟨-, -, -, -, -, -, -, -, hframe⟩ := hcompletes tailPast 0 0 0 0 tailTaken tailPast_canon rfl rfl (by decide +kernel)
  have hfree := congrArg State.free (hframe (by decide +kernel) (by rw [tailPast_offset]; exact tailPast_sound))
  dsimp only at hfree
  rw [complete_tailPast_free] at hfree
  exact absurd hfree (by decide)

end Sys2Proof.Machine
end

section
/-! SUPPORT. The lines of the exchange area, the window table, and words that a master writes: O30. -/

namespace Sys2Proof.Machine
open Sys2Proof.Claims

section
variable {s : State} {off : Nat}

/-! ## A granule of a reserve read without an error (R263, R264, R381) -/

/-- The block with the events of the window counted as given (R381). -/
def withEvents (s : State) (ev : SMap Nat) : State := { s with gov := { s.gov with events := ev } }

theorem beatEvent_withEvents (s : State) (ev : SMap Nat) (off : Nat) : ∃ ev', beatEvent (withEvents s ev) off = withEvents s ev' :=
  ⟨_, rfl⟩

theorem readForTag_clean (ev : SMap Nat) (hoff : off < 0x4000000000) (hdead : chanDead s off = false)
    (hpoison : SMap.get false s.mem.poison (off / 64) = false) (htag : tagMatches s off = true) :
    ∃ ev', readForTag (withEvents s ev) off = withEvents s ev' := by
  have hread := dramRead_clean (s := withEvents s ev) hoff hdead hpoison htag
  obtain ⟨ev', hev⟩ := beatEvent_withEvents s ev off
  refine ⟨ev', ?_⟩
  rw [readForTag, hread]
  exact hev

theorem devOwned_reserve (hoff : off < 0x4000000000) (hres : inReserve off = true) : devOwned s off = true := by
  rw [devOwned, hres, Bool.true_or, Bool.and_true, decide_eq_true hoff]

theorem tagged_reserve (hoff : off < 0x4000000000) (hres : inReserve off = true) : tagged s off = true := by
  rw [tagged, devOwned_reserve hoff hres, Bool.or_true]

theorem line_of_granule {a : Nat} (hoff : off < 0x4000000000) (hres : inReserve off = true) (h : a / 512 = off / 512) :
    a < 0x4000000000 ∧ inReserve a = true := by
  simp only [inReserve, ge_iff_le, decide_eq_true_eq] at hres ⊢
  omega

/-- The lines of a granule of a reserve have one tag, so it matches for all of them or for none. -/
theorem tagMatches_granule {a : Nat} (hoff : off < 0x4000000000) (hres : inReserve off = true) (h : a / 512 = off / 512) :
    tagMatches s a = tagMatches s off := by
  obtain ⟨ha, hares⟩ := line_of_granule hoff hres h
  have hplace : tagOff s a = tagOff s off := by
    rw [tagOff, tagOff, if_pos ha, if_pos hoff]
    omega
  have hkeys : tierKeys s a = tierKeys s off := by
    simp only [tierKeys, devOwned_reserve ha hares, devOwned_reserve hoff hres, if_true]
  have htag : granuleTag s a = granuleTag s off := by
    simp only [granuleTag, granuleCipher, hkeys, h]
  simp only [tagMatches, tagged_reserve ha hares, tagged_reserve hoff hres, hplace, htag]

/-- A granule whose lines read without an error is read for its tag, and its reads are counted as events alone. -/
theorem readRest_sound (hoff : off < 0x4000000000) (hres : inReserve off = true) (h : Sound s off) (own : Bool) :
    ∃ ev, readRest s off own = withEvents s ev := by
  have hga : gaOff off = off := Nat.mod_eq_of_lt (by omega)
  rw [Sound, hga] at h
  obtain ⟨htag, hlines⟩ := h (tagged_reserve hoff hres)
  rw [readRest, if_pos (tagged_reserve hoff hres)]
  refine List.foldlRecOn (motive := fun u => ∃ ev, u = withEvents s ev) _ readForTag ⟨s.gov.events, rfl⟩ ?_
  rintro u ⟨ev, rfl⟩ a ha
  obtain ⟨i, hi, rfl⟩ := List.mem_map.1 (List.mem_of_mem_filter ha)
  obtain ⟨hdead, hpoison⟩ := hlines i (List.mem_range.1 hi)
  have hi' := List.mem_range.1 hi
  have hgranule : (off / 512 * 512 + 64 * i) / 512 = off / 512 := by omega
  have hline : (off / 512 * 512 + 64 * i) / 64 = off / 512 * 8 + i := by omega
  exact readForTag_clean ev (line_of_granule hoff hres hgranule).1 hdead (by rw [hline]; exact hpoison)
    (by rw [tagMatches_granule hoff hres hgranule]; exact htag)

/-- A line of a reserve written where its granule reads without an error: the line, its granule's tag and the memory events. -/
theorem dramWrite_sound (hoff : off < 0x4000000000) (hres : inReserve off = true) (h : Sound s off) (hclean : s.mem.poison = [])
    (b : Beat) : ∃ ev g, dramWrite s off b = { withEvents s ev with
      mem := { s.mem with dram := SMap.setBeat s.mem.dram (memOff s off) b, tags := g } } := by
  obtain ⟨ev, hread⟩ := readRest_sound hoff hres h false
  obtain ⟨ev', hev⟩ := beatEvent_withEvents s ev off
  have hfar : ¬ off ≥ 0x10000000000 := by omega
  obtain ⟨g, hg⟩ := tagForm_written (withEvents s ev') (SMap.setBeat s.mem.dram (memOff s off) b) [] s.mem.farWritten off
  refine ⟨ev', g, ?_⟩
  rw [dramWrite, hread, hev]
  simp only [State.modMem, hfar, if_false]
  have hpoison : SMap.set false (withEvents s ev').mem.poison (off / 64) false = [] := by
    show SMap.set false s.mem.poison _ _ = _
    rw [hclean]
    rfl
  rw [hpoison]
  refine hg.trans ?_
  simp only [withEvents, hclean]

/-- The same, as what is left: the line at its place, and nothing else but the granule's tag and the memory events. -/
theorem dramWrite_sound_effect (hoff : off < 0x4000000000) (hres : inReserve off = true) (h : Sound s off) (hclean : s.mem.poison = [])
    (b : Beat) : (dramWrite s off b).mem.dram = SMap.setBeat s.mem.dram (memOff s off) b ∧
      { (dramWrite s off b).mem with dram := s.mem.dram, tags := s.mem.tags } = s.mem ∧
      { dramWrite s off b with mem := s.mem, gov := events s (dramWrite s off b) } = s := by
  obtain ⟨ev, g, hw⟩ := dramWrite_sound hoff hres h hclean b
  refine ⟨?dram, ?mem, ?rest⟩
  case dram => rw [hw]
  case mem => rw [hw]
  case rest =>
    rw [hw]
    rfl

/-! ## The exchange area (R336) -/

/-- Offsets of the exchange area lie in the reserve of the near tier's first half. -/
theorem xarea_inReserve (h : off < 0x10000000) :
    xareaBase + off / 64 * 64 < 0x4000000000 ∧ inReserve (xareaBase + off / 64 * 64) = true := by
  simp only [inReserve, xareaBase, ge_iff_le, decide_eq_true_eq]
  omega

theorem xareaOff_inside (h : off < 0x10000000) : xareaOff s (s.host.hdm.toNat / 0x10000000 * 0x10000000 + off) = some off := by
  simp [xareaOff, h]

theorem xareaOff_outside {hpa : Nat} (h : hpa < s.host.hdm.toNat / 0x10000000 * 0x10000000 ∨
    s.host.hdm.toNat / 0x10000000 * 0x10000000 + 0x10000000 ≤ hpa) : xareaOff s hpa = none := by
  rw [xareaOff, if_neg]
  simp only [Bool.and_eq_true, decide_eq_true_eq]
  omega

theorem exec_exchangeWrite (h : off < 0x10000000) (line : Beat) :
    exec (.exchangeAreaAccess true (s.host.hdm.toNat / 0x10000000 * 0x10000000 + off) line) s =
      .next (dramWrite s (xareaBase + off / 64 * 64) line) := by
  show execExchangeAreaAccess _ _ _ _ = _
  rw [execExchangeAreaAccess, xareaOff_inside h]
  rfl

theorem exec_exchangeRead (h : off < 0x10000000) (line : Beat) :
    exec (.exchangeAreaAccess false (s.host.hdm.toNat / 0x10000000 * 0x10000000 + off) line) s =
      .next ((dramRead s (xareaBase + off / 64 * 64)).2.2.modHost fun h =>
        { h with out := h.out ++ [.xarea off (dramRead s (xareaBase + off / 64 * 64)).1] }) := by
  show execExchangeAreaAccess _ _ _ _ = _
  rw [execExchangeAreaAccess, xareaOff_inside h]
  rfl

theorem exec_exchange_unmapped {hpa : Nat} (h : hpa < s.host.hdm.toNat / 0x10000000 * 0x10000000 ∨
    s.host.hdm.toNat / 0x10000000 * 0x10000000 + 0x10000000 ≤ hpa) (wr : Bool) (line : Beat) :
    exec (.exchangeAreaAccess wr hpa line) s = .next s := by
  show execExchangeAreaAccess _ _ _ _ = _
  rw [execExchangeAreaAccess, xareaOff_outside h]

/-! ## Configuration requests (R358) -/

/-- What answers a configuration request: retry status until 60 ms past t_b, then vendor and device. -/
def configAnswer (s : State) : HostOut :=
  if s.pins.tb.all (fun t => decide (s.ns < t + 60000000)) then .configRetry else .configOk ((0x4480 : BitVec 16) ++ Config.vendorId)

theorem exec_configRequest (s : State) :
    exec .configRequest s = .next (s.modHost fun h => { h with out := h.out ++ [configAnswer s] }) := by
  show execConfigRequest s = _
  unfold execConfigRequest configAnswer
  -- an unknown predicate stands for the comparison, whose numeral would be unfolded
  obtain ⟨early, hearly⟩ : ∃ early : Nat → Bool, (fun t => decide (s.ns < t + 60000000)) = early := ⟨_, rfl⟩
  rw [hearly]
  cases s.pins.tb <;> rfl

/-! ## The window table (R352) -/

theorem exec_hwtInval {v : DWord} (hv : bitB v 0 = true) (hfaults : s.mem.faults = []) (ents : SMap DWord) :
    exec (.hwtInval v ents) s = .next ((hostTell s ents).modHost fun h => { h with
      hwtCache := h.hwtCache.filter fun e => decide (e.1 < fldN v 21 19) || decide (fldN v 21 19 + fldN v 1 20 < e.1) }) := by
  show Host.Outcome.next (hwtInvalidate (hostTell s ents) v) = _
  simp [hwtInvalidate, hv, hostTell, State.modHost, hfaults]

/-! ## Register writes (R9 to R12) -/

theorem exec_registerWrite_word {who : Master} (hmain : s.pins.mainOn = true) (hwho : who ≠ .bmc) (halign : off % 4 = 0) (v : DWord) :
    exec (.registerWrite who off 4 v) s = .next (writeWord s who off (v.setWidth 32)) := by
  show execRegisterWrite _ _ _ _ _ = _
  simp [execRegisterWrite, hmain, hwho, halign]

theorem exec_registerWrite_unaligned {who : Master} (h : off % 4 ≠ 0) (v : DWord) :
    exec (.registerWrite who off 4 v) s = .next s := by
  show execRegisterWrite _ _ _ _ _ = _
  simp [execRegisterWrite, h]

theorem exec_registerWrite_railsOff {who : Master} {width : Nat} (hmain : s.pins.mainOn = false) (v : DWord) :
    exec (.registerWrite who off width v) s = .next s := by
  show execRegisterWrite _ _ _ _ _ = _
  simp [execRegisterWrite, hmain]

/-- A tail doorbell (R338, R342). -/
theorem writeBar0_tail {q : Nat} (hq : q < 16) (w : Word) : writeWord s .bar0 (0x1000 + 0x100 * q) w = ringTail s q w := by
  have hbar : 0x1000 + 0x100 * q < 0x400000 := by omega
  have hbells : 0x1000 ≤ 0x1000 + 0x100 * q ∧ 0x1000 + 0x100 * q < 0x2000 := by omega
  have htail : (0x1000 + 0x100 * q) % 0x100 = 0 := by omega
  have hqueue : (0x1000 + 0x100 * q) / 0x100 - 16 = q := by omega
  simp only [writeWord, writeBar0, hbar, hbells, htail, hqueue, and_self, if_true]

end

/-- Settles O30: the lines of the exchange area lie in a reserve, whose granules have tags that are read before a write; every other
access is one change of the register or of what has been sent to the host. -/
theorem hostAccessesAct : Obligations.HostAccessesAct := by
  refine ⟨fun s v addr ents off hpa line => ⟨?inval, ⟨_, rfl, rfl⟩, ⟨_, rfl, rfl⟩, ⟨_, rfl, rfl⟩, ?write, ?read, ?unmapped, ?config⟩,
    fun s v hmain => ⟨⟨_, ?intEnable, rfl⟩, ⟨_, ?intStatus, rfl⟩, ⟨_, ?cap, rfl⟩, ⟨_, ?threshold, rfl⟩, ?tail, ?unaligned, ?railsOff⟩⟩
  case inval => exact fun hv hfaults => ⟨_, exec_hwtInval hv hfaults ents, rfl, rfl⟩
  case write =>
    intro hoff hclean hsound
    obtain ⟨hnear, hres⟩ := xarea_inReserve hoff
    exact ⟨_, exec_exchangeWrite hoff line, dramWrite_sound_effect hnear hres hsound hclean line⟩
  case read =>
    intro hoff hclean hdead htag
    obtain ⟨hnear, -⟩ := xarea_inReserve hoff
    have hread := dramRead_clean hnear hdead (by rw [hclean]; rfl) htag
    refine ⟨_, exec_exchangeRead hoff line, ?_⟩
    rw [hread]
    rfl
  case unmapped => exact fun wr h => exec_exchange_unmapped h wr line
  case config =>
    exact ⟨_, exec_configRequest s, rfl, rfl⟩
  case intEnable => exact exec_registerWrite_word hmain (by decide) (by decide) v
  case intStatus => exact exec_registerWrite_word hmain (by decide) (by decide) v
  case cap => exact exec_registerWrite_word hmain (by decide) (by decide) v
  case threshold => exact exec_registerWrite_word hmain (by decide) (by decide) v
  case tail =>
    intro q hq
    rw [exec_registerWrite_word hmain (by decide) (by omega), writeBar0_tail hq]
    rfl
  case unaligned => exact fun who off h => exec_registerWrite_unaligned h v
  case railsOff => exact fun who off width => exec_registerWrite_railsOff rfl v

end Sys2Proof.Machine
end

section
/-! SUPPORT. What a link-loss reset leaves, and what the faults it ends and the waits a link that comes back retries leave
alone: O31. -/

namespace Sys2Proof.Machine
open Sys2Proof.Claims

section
variable {s u : State}

/-! ## What no operation in flight touches

Ending or retrying what waits for the host moves data, signals, messages, faults and completions. The step's state, the
image, the time, the flash store and the link's own registers are none of these; `lasting` collects them. -/

/-- The link's registers of the host block. -/
def linkRegs (h : HostBlk) : Bool × Bool × Nat × DWord × Nat := (h.linkUp, h.llr, h.llrCause, h.llrTime, h.llrCount)

/-- What no operation in flight touches. -/
def lasting (s : State) := (s.stg.st, s.image, s.tm.now, s.trust.flash, linkRegs s.host)

@[simp] theorem lasting_modMem (f : MemBlk → MemBlk) : lasting (s.modMem f) = lasting s := rfl
@[simp] theorem lasting_modFab (f : FabBlk → FabBlk) : lasting (s.modFab f) = lasting s := rfl
@[simp] theorem lasting_modCm (f : CmBlk → CmBlk) : lasting (s.modCm f) = lasting s := rfl
@[simp] theorem lasting_modFlt (f : FltBlk → FltBlk) : lasting (s.modFlt f) = lasting s := rfl
@[simp] theorem lasting_modGov (f : GovBlk → GovBlk) : lasting (s.modGov f) = lasting s := rfl
@[simp] theorem lasting_modTile (t : Nat) (f : Tile → Tile) : lasting (s.modTile t f) = lasting s := rfl
@[simp] theorem lasting_modOp (t id : Nat) (f : Op → Op) : lasting (s.modOp t id f) = lasting s := rfl
@[simp] theorem lasting_dropOp (t id : Nat) : lasting (s.dropOp t id) = lasting s := rfl
@[simp] theorem lasting_modMover (m : Nat) (f : Mover → Mover) : lasting (s.modMover m f) = lasting s := rfl
@[simp] theorem lasting_modPort (p : Nat) (f : Port → Port) : lasting (s.modPort p f) = lasting s := rfl
@[simp] theorem lasting_modSq (q : Nat) (f : Sq → Sq) : lasting (s.modSq q f) = lasting s := rfl
@[simp] theorem lasting_modCq (q : Nat) (f : Cq → Cq) : lasting (s.modCq q f) = lasting s := rfl
@[simp] theorem lasting_drawn (n : Nat) : lasting { s with free := n } = lasting s := rfl

@[simp] theorem lasting_modStg {f : StgBlk → StgBlk} (h : ∀ g, (f g).st = g.st) : lasting (s.modStg f) = lasting s := by
  simp only [lasting, State.modStg, h]

@[simp] theorem lasting_modHost {f : HostBlk → HostBlk} (h : ∀ x, (f x).linkUp = x.linkUp ∧ (f x).llr = x.llr ∧
    (f x).llrCause = x.llrCause ∧ (f x).llrTime = x.llrTime ∧ (f x).llrCount = x.llrCount) :
    lasting (s.modHost f) = lasting s := by
  simp only [lasting, State.modHost, linkRegs, h]

@[simp] theorem lasting_foldl {α : Type} {f : State → α → State} (l : List α) (h : ∀ u a, lasting (f u a) = lasting u) :
    lasting (l.foldl f s) = lasting s :=
  foldl_keep (P := fun u => lasting u = lasting s) l f (fun u a hu => (h u a).trans hu) s rfl

/-! ## Interrupts, the ledger and traffic toward the host -/

@[simp] theorem lasting_msixSend (v : Nat) : lasting (msixSend s v) = lasting s := by
  unfold msixSend; dsimp only; split_ifs <;> simp

@[simp] theorem lasting_raiseInt (b : Nat) : lasting (raiseInt s b) = lasting s := by
  unfold raiseInt; dsimp only; split_ifs <;> simp

@[simp] theorem lasting_ledger (sev src code unit data : Nat) : lasting (ledger s sev src code unit data) = lasting s := by
  unfold ledger
  split_ifs
  · exact lasting_modFlt _
  · exact (lasting_raiseInt 4).trans (lasting_modFlt _)
  · exact lasting_modFlt _

@[simp] theorem lasting_hostSend (o : HostOut) (xarea : Bool) : lasting (hostSend s o xarea) = lasting s := by
  unfold hostSend; split_ifs <;> simp

@[simp] theorem lasting_cqNotify (cq : Nat) : lasting (cqNotify s cq) = lasting s := by
  unfold cqNotify; split_ifs <;> simp

@[simp] theorem lasting_hostPut (addr : Nat) (bs : List Byte) : lasting (hostPut s addr bs) = lasting s := by simp [hostPut]

@[simp] theorem lasting_hwtFill (off : Nat) : lasting (hwtFill s off) = lasting s := by
  unfold hwtFill; dsimp only; split_ifs <;> simp

@[simp] theorem lasting_windowPut (off : Nat) (ct : Beat) : lasting (windowPut s off ct) = lasting s := by simp [windowPut]

@[simp] theorem lasting_wtagPut (g : Nat) (ct : List Byte) : lasting (wtagPut s g ct) = lasting s := by simp [wtagPut]

@[simp] theorem lasting_hostWinWrite (off : Nat) (d : Beat) : lasting (hostWinWrite s off d) = lasting s := by simp [hostWinWrite]

@[simp] theorem lasting_flushGranule (off : Nat) (part : List Beat) : lasting (flushGranule s off part) = lasting s := by
  unfold flushGranule; split_ifs <;> simp

@[simp] theorem lasting_hwinRefresh : lasting (hwinRefresh s) = lasting s := by simp [hwinRefresh]

/-! ## The tiers -/

@[simp] theorem lasting_noteEvents (i n : Nat) : lasting (noteEvents s i n) = lasting s := by
  unfold noteEvents; split_ifs <;> simp

@[simp] theorem lasting_beatEvent (off : Nat) : lasting (beatEvent s off) = lasting s := by simp [beatEvent]

@[simp] theorem lasting_drawBeat : lasting (drawBeat s).2 = lasting s := by simp [drawBeat]

@[simp] theorem lasting_dramRead (off : Nat) : lasting (dramRead s off).2.2 = lasting s := by
  unfold dramRead; dsimp only; split_ifs <;> simp

@[simp] theorem lasting_readForTag (off : Nat) : lasting (readForTag s off) = lasting s := by
  unfold readForTag; dsimp only; split_ifs <;> simp

@[simp] theorem lasting_readRest (off : Nat) (own : Bool) : lasting (readRest s off own) = lasting s := by
  unfold readRest; split_ifs <;> simp

@[simp] theorem lasting_tagForm (off : Nat) : lasting (tagForm s off) = lasting s := by
  unfold tagForm; dsimp only; split_ifs <;> simp

@[simp] theorem lasting_dramWrite (off : Nat) (b : Beat) : lasting (dramWrite s off b) = lasting s := by simp [dramWrite]

@[simp] theorem lasting_dramWriteBytes (off : Nat) (bs : List Byte) : lasting (dramWriteBytes s off bs) = lasting s := by
  simp [dramWriteBytes]

@[simp] theorem lasting_xareaPut (off : Nat) (bs : List Byte) : lasting (xareaPut s off bs) = lasting s := by
  unfold xareaPut
  refine lasting_foldl _ fun u i => ?_
  dsimp only
  split_ifs <;> simp

/-! ## Completions -/

@[simp] theorem lasting_postResult (e : BitVec 2048) (gen st : Nat) (body : List Byte) :
    lasting (postResult s e gen st body) = lasting s := by
  unfold postResult; dsimp only; split_ifs <;> simp

@[simp] theorem lasting_postCq (cq cid st sq sqhd info0 info1 gen : Nat) (rvalid : Bool) :
    lasting (postCq s cq cid st sq sqhd info0 info1 gen rvalid) = lasting s := by
  unfold postCq; dsimp only; split_ifs <;> simp

@[simp] theorem lasting_finish (q st info0 info1 : Nat) (body : Option (List Byte)) :
    lasting (finish s q st info0 info1 body) = lasting s := by
  unfold finish
  cases (s.sq q).cur with
  | none => rfl
  | some k => cases body <;> (dsimp only; split_ifs <;> simp)

@[simp] theorem lasting_complete (q st info0 info1 : Nat) (body : Option (List Byte)) :
    lasting (complete s q st info0 info1 body) = lasting s := by
  unfold complete; split <;> simp

/-! ## Messages and signals -/

@[simp] theorem lasting_loopErr (m : Msg) (code : Nat) : lasting (loopErr s m code) = lasting s := by simp [loopErr]

theorem lasting_detourSend {p : Nat} {m : Msg} (h : detourSend s p m = some u) : lasting u = lasting s := by
  obtain ⟨d, -, rfl⟩ := Option.map_eq_some_iff.1 h
  simp [detPush]

@[simp] theorem lasting_enqPort (p : Nat) (m : Msg) : lasting (enqPort s p m) = lasting s := by
  unfold enqPort; dsimp only
  split_ifs
  · cases h : detourSend s p m with
    | none => simp
    | some u => simp [lasting_detourSend h]
  · simp

@[simp] theorem lasting_routeFault (m : Msg) : lasting (routeFault s m) = lasting s := by simp [routeFault]

@[simp] theorem lasting_routeRsp (m : Msg) : lasting (routeRsp s m) = lasting s := by
  unfold routeRsp; split <;> simp

@[simp] theorem lasting_respond (r : Msg) (opc code op0 : Nat) (data : List Beat) :
    lasting (respond s r opc code op0 data) = lasting s := by simp [respond]

@[simp] theorem lasting_goneErr (m : Msg) : lasting (goneErr s m) = lasting s := by
  unfold goneErr; split_ifs <;> simp

@[simp] theorem lasting_routeDrop (m : Msg) : lasting (routeDrop s m) = lasting s := by
  unfold routeDrop; dsimp only; split_ifs <;> simp

@[simp] theorem lasting_routeReq (m : Msg) : lasting (routeReq s m) = lasting s := by
  unfold routeReq
  split_ifs
  · simp
  · split <;> simp

theorem lasting_sendReq {op : Option (Nat × Nat)} {mover beat nbeats : Nat} {rd : Bool} {m : Msg}
    (h : sendReq s op mover beat nbeats rd m = some u) : lasting u = lasting s := by
  obtain ⟨t, -, rfl⟩ := Option.map_eq_some_iff.1 h
  simp

@[simp] theorem lasting_sendSignal (dst t c amt : Nat) : lasting (sendSignal s dst t c amt) = lasting s := by
  unfold sendSignal
  split
  · next u h => exact lasting_sendReq h
  · simp

@[simp] theorem lasting_dropSignal (t c amt : Nat) : lasting (dropSignal s t c amt) = lasting s := by simp [dropSignal]

@[simp] theorem lasting_applySignal (src : Option Nat) (t c amt : Nat) : lasting (applySignal s src t c amt) = lasting s := rfl

@[simp] theorem lasting_deliverSignal (src : Option Nat) (t c amt : Nat) : lasting (deliverSignal s src t c amt) = lasting s := by
  unfold deliverSignal; split_ifs <;> simp

@[simp] theorem lasting_signalLocal (src : Option Nat) (t c amt : Nat) : lasting (signalLocal s src t c amt) = lasting s := by
  unfold signalLocal; split_ifs <;> simp

@[simp] theorem lasting_signalTo (src : Option Nat) (dst t c amt : Nat) : lasting (signalTo s src dst t c amt) = lasting s := by
  unfold signalTo; split_ifs <;> simp

/-! ## Faults that end what they hold -/

@[simp] theorem lasting_retryGone (mover : Bool) (unit op : Nat) : lasting (retryGone s mover unit op) = lasting s := by simp [retryGone]

@[simp] theorem lasting_dropFault (n : Nat) : lasting (dropFault s n) = lasting s := by simp [dropFault]

@[simp] theorem lasting_setLocal (b : Nat) : lasting (setLocal s b) = lasting s := by
  unfold setLocal; split_ifs <;> simp

@[simp] theorem lasting_moverNext (m : Nat) : lasting (moverNext s m) = lasting s := by simp [moverNext]

@[simp] theorem lasting_killMover (m b : Nat) : lasting (killMover s m b) = lasting s := by simp [killMover]

@[simp] theorem lasting_moverDone (m : Nat) : lasting (moverDone s m) = lasting s := by
  unfold moverDone; split <;> simp

@[simp] theorem lasting_endMover (m b : Nat) : lasting (endMover s m b) = lasting s := by
  unfold endMover; dsimp only; split_ifs <;> simp

@[simp] theorem lasting_copyClear (q : Nat) : lasting (copyClear s q) = lasting s := by
  unfold copyClear; dsimp only; split_ifs <;> simp

@[simp] theorem lasting_addBytes (q n : Nat) : lasting (addBytes s q n) = lasting s := by simp [addBytes]

@[simp] theorem lasting_copyEnd (q st : Nat) : lasting (copyEnd s q st) = lasting s := by simp [copyEnd]

@[simp] theorem lasting_copyFail (q : Nat) (f : FaultRec) : lasting (copyFail s q f) = lasting s := by
  unfold copyFail; dsimp only
  split
  · simp
  · split_ifs <;> simp

@[simp] theorem lasting_killFrom (t id beat : Nat) : lasting (killFrom s t id beat) = lasting s := by simp [killFrom]

@[simp] theorem lasting_returnCredits (t : Nat) (chan : Bool) (n : Nat) : lasting (returnCredits s t chan n) = lasting s := by
  simp [returnCredits]

@[simp] theorem lasting_finishXfer (t : Nat) (o : Op) : lasting (finishXfer s t o) = lasting s := by
  unfold finishXfer; dsimp only; split_ifs <;> simp

@[simp] theorem lasting_endXfer (t id from_ : Nat) : lasting (endXfer s t id from_) = lasting s := by
  unfold endXfer
  split
  · rfl
  · dsimp only
    split
    · split_ifs <;> simp
    · split_ifs <;> simp

@[simp] theorem lasting_errorOut (f : FaultRec) : lasting (errorOut s f) = lasting s := by
  unfold errorOut; split_ifs <;> simp [errorMover, errorXfer]

@[simp] theorem lasting_hwinErrors : lasting (hwinErrors s) = lasting s := by
  unfold hwinErrors
  refine lasting_foldl _ fun u f => ?_
  split <;> simp

/-! ## Faults that retry what they hold -/

@[simp] theorem lasting_demandPte (va pg die : Nat) : lasting (demandPte s va pg die) = lasting s := by
  unfold demandPte; dsimp only; split_ifs <;> simp

@[simp] theorem lasting_demandFill (va : Nat) : lasting (demandFill s va) = lasting s := by
  unfold demandFill
  dsimp only
  split <;> simp [fwDone]

@[simp] theorem lasting_addFault (code : Nat) (dir mover chan : Bool) (unit op gang beat va ga cnt tile : Nat) :
    lasting (addFault s code dir mover chan unit op gang beat va ga cnt tile).2 = lasting s := by
  unfold addFault
  extract_lets record n f shown
  have hshown : ∀ u, lasting (shown u) = lasting u := by
    intro u
    simp only [shown]
    split_ifs <;> simp
  split
  · exact (hshown _).trans (lasting_modMem _)
  · dsimp only
    split_ifs
    · exact (lasting_ledger ..).trans ((hshown _).trans (lasting_modMem _))
    · exact (hshown _).trans (lasting_modMem _)

@[simp] theorem lasting_cmdFault (q code ga va b : Nat) (wr : Bool) : lasting (cmdFault s q code ga va b wr) = lasting s := by
  unfold cmdFault; split_ifs <;> simp

@[simp] theorem lasting_winFault (q b off : Nat) (wr : Bool) : lasting (winFault s q b off wr) = lasting s := by simp [winFault]

@[simp] theorem lasting_winReady (q b off : Nat) (wr : Bool) : lasting (winReady s q b off wr).1 = lasting s := by
  unfold winReady; split_ifs <;> simp

@[simp] theorem lasting_holdCopy (q code ga va b : Nat) (wr : Bool) : lasting (holdCopy s q code ga va b wr) = lasting s := by
  simp [holdCopy]

@[simp] theorem lasting_holdMover (m code ga va b : Nat) (wr : Bool) : lasting (holdMover s m code ga va b wr) = lasting s := by
  unfold holdMover
  split
  · rfl
  · split_ifs <;> simp

@[simp] theorem lasting_tlbNote (die va : Nat) : lasting (tlbNote s die va) = lasting s := by
  unfold tlbNote; dsimp only; split_ifs <;> simp

@[simp] theorem lasting_drainPush (t a : Nat) (rd : Bool) (d : Beat) (after : DrainAfter) :
    lasting (drainPush s t a rd d after) = lasting s := by simp [drainPush]

@[simp] theorem lasting_mvPut (m : Nat) (e : MvEnt) : lasting (mvPut s m e) = lasting s := by simp [mvPut]

@[simp] theorem lasting_keepBeat (m : Nat) (d : Beat) (p : Bool) : lasting (keepBeat s m d p) = lasting s := by simp [keepBeat]

@[simp] theorem lasting_atPos (m n : Nat) : lasting (atPos s m n) = lasting s := by simp [atPos]

@[simp] theorem lasting_noteData (p : Bool) : lasting (noteData s p) = lasting s := by
  unfold noteData; split_ifs <;> simp

@[simp] theorem lasting_placeWrite (off : Nat) (b : Beat) : lasting (placeWrite s off b) = lasting s := by
  unfold placeWrite; split <;> simp

@[simp] theorem lasting_placeRead (off : Nat) : lasting (placeRead s off).2.2 = lasting s := by
  unfold placeRead
  split
  · simp
  · simp
  · dsimp only; split_ifs <;> rfl
  · rfl
  · rfl

@[simp] theorem lasting_signalRemote (t c amt : Nat) : lasting (signalRemote s t c amt) = lasting s := by
  unfold signalRemote; split_ifs <;> simp

@[simp] theorem lasting_sigWord (w : Nat) : lasting (sigWord s w) = lasting s := by
  unfold sigWord; split_ifs <;> simp

/-! ### Copies of the host's commands -/

@[simp] theorem lasting_copyStore (q b va : Nat) (d : Beat) : lasting (copyStore s q b va d).1 = lasting s := by
  unfold copyStore
  split
  · simp
  · dsimp only
    split_ifs
    · split <;> simp
    · split
      · next u h => simp [lasting_sendReq h]
      · simp

@[simp] theorem lasting_copyFetch (q b va : Nat) : lasting (copyFetch s q b va).1 = lasting s := by
  unfold copyFetch
  dsimp only
  split
  · simp
  · split_ifs
    · rfl
    · split
      · simp
      · split_ifs
        · split <;> simp
        · split
          · next u h => simp [lasting_sendReq h]
          · simp

theorem lasting_copyInRun (fuel q woff va : Nat) (lines : List Beat) (lim : Option Nat) :
    lasting (copyInRun fuel s q woff va lines lim).1 = lasting s := by
  induction fuel generalizing s with
  | zero => rfl
  | succ n ih =>
    unfold copyInRun
    dsimp only
    split
    · rfl
    · split_ifs <;> simp [ih]

theorem lasting_copyOutRun (fuel q woff va len : Nat) : lasting (copyOutRun fuel s q woff va len).1 = lasting s := by
  induction fuel generalizing s with
  | zero => rfl
  | succ n ih =>
    unfold copyOutRun
    dsimp only
    split_ifs
    · split
      · simp
      · split_ifs <;> simp [ih]
    · rfl
    · simp
    · simp [ih]

theorem lasting_inlineRun (fuel q va : Nat) (bs : List Byte) : lasting (inlineRun fuel s q va bs).1 = lasting s := by
  induction fuel generalizing s with
  | zero => rfl
  | succ n ih =>
    unfold inlineRun
    dsimp only
    split
    · rfl
    · split
      · split_ifs <;> simp [ih]
      · simp
      · split
        · simp [ih]
        · split
          · simp
          · split_ifs <;> simp [ih]

@[simp] theorem lasting_copyGo (q : Nat) : lasting (copyGo s q) = lasting s := by
  unfold copyGo
  split
  · rfl
  · split_ifs
    · rfl
    · split
      · dsimp only; split_ifs <;> simp [lasting_copyInRun]
      · dsimp only; split_ifs <;> simp [lasting_copyOutRun]
      · dsimp only; split_ifs <;> simp [lasting_inlineRun]
      · rfl

/-! ### Movers -/

@[simp] theorem lasting_moverSettle (m : Nat) : lasting (moverSettle s m) = lasting s := by
  unfold moverSettle
  split
  · split_ifs <;> simp
  · rfl

@[simp] theorem lasting_fetch (m b va : Nat) (win : List (Beat × Bool)) : lasting (fetch s m b va win).s = lasting s := by
  unfold fetch
  dsimp only
  split
  · simp
  · split_ifs
    · rfl
    · split
      · simp
      · split_ifs
        · split
          · simp
          · split <;> simp
          · simp
        · split
          · next u h => simp [lasting_sendReq h]
          · rfl

@[simp] theorem lasting_storeTo (m b va : Nat) (d : Beat) (p : Bool) : lasting (storeTo s m b va d p).1 = lasting s := by
  unfold storeTo
  split
  · simp
  · dsimp only
    split_ifs
    · split
      · simp
      · simp
      · split <;> simp
      · simp
    · split
      · next u h => simp [lasting_sendReq h]
      · simp

@[simp] theorem lasting_atomicTarget (m : Nat) (d : Beat) : lasting (atomicTarget s m d) = lasting s := by
  unfold atomicTarget
  dsimp only
  split_ifs
  · simp
  · rfl
  · split
    · simp
    · split_ifs
      · simp [atomicDo]
      · simp
      · split
        · next u h => simp [lasting_sendReq h]
        · simp

theorem lasting_atomicRun (m : Nat) (d : Beat) : lasting (atomicRun s m d) = lasting s := by
  have htarget : lasting (if (s.mover m).pos = 0 then atomicTarget s m d else s) = lasting s := by split_ifs <;> simp
  unfold atomicRun
  generalize (if (s.mover m).pos = 0 then atomicTarget s m d else s) = u at htarget
  dsimp only
  split
  · exact htarget
  · split
    · exact htarget
    · split_ifs <;> simp [htarget]

@[simp] theorem lasting_collSend (p b ga : Nat) (d : Beat) (data : List Beat) : lasting (collSend s p b ga d data) = lasting s := by
  unfold collSend
  dsimp only
  split_ifs <;> simp [sendDirect]

theorem lasting_collRun (fuel m : Nat) (d : Beat) (win : List (Beat × Bool)) : lasting (collRun fuel s m d win) = lasting s := by
  induction fuel generalizing s win with
  | zero => rfl
  | succ n ih =>
    unfold collRun
    dsimp only
    split_ifs
    · rfl
    · split <;> simp [ih]
    · split <;> simp [ih]

@[simp] theorem lasting_permAdd (dir : Bool) (e : BitVec 256) (j : Nat) (x : Beat) : lasting (permAdd s dir e j x) = lasting s := rfl

theorem lasting_permBeats (fuel m : Nat) (dir : Bool) (e : BitVec 256) (win : List (Beat × Bool)) :
    lasting (permBeats fuel s m dir e win).1 = lasting s := by
  induction fuel generalizing s win with
  | zero => rfl
  | succ n ih =>
    unfold permBeats
    dsimp only
    split
    · rfl
    · split
      · simp
      · split_ifs <;> simp [ih]

theorem lasting_permRun (fuel m : Nat) (d : Beat) (win : List (Beat × Bool)) : lasting (permRun fuel s m d win) = lasting s := by
  induction fuel generalizing s win with
  | zero => rfl
  | succ n ih =>
    unfold permRun
    dsimp only
    split_ifs
    · rfl
    · split
      · next e _ =>
        have hbeats := lasting_permBeats (s := s) (peLen e / 64) m (pDir d) e win
        split <;> next h => simp [ih, h ▸ hbeats]
      · split <;> simp [ih]

theorem lasting_copyRun (fuel m : Nat) (d : Beat) (win : List (Beat × Bool)) : lasting (copyRun fuel s m d win) = lasting s := by
  induction fuel generalizing s win with
  | zero => rfl
  | succ n ih =>
    unfold copyRun
    dsimp only
    split_ifs
    · rfl
    · split
      · simp
      · split_ifs <;> simp [ih]

@[simp] theorem lasting_moverRun (m : Nat) (win : List (Beat × Bool)) : lasting (moverRun s m win) = lasting s := by
  unfold moverRun
  split
  · rfl
  · dsimp only
    split_ifs
    · rfl
    · simp
    · rw [lasting_moverSettle]
      split <;> simp [lasting_atomicRun, lasting_collRun, lasting_permRun, lasting_copyRun]

/-! ### Transfers of tiles -/

@[simp] theorem lasting_holdXfer (t id code ga b : Nat) (wr : Bool) : lasting (holdXfer s t id code ga b wr) = lasting s := by
  unfold holdXfer
  split
  · rfl
  · split_ifs <;> simp

theorem lasting_requestBeats (fuel t id : Nat) : lasting (requestBeats fuel s t id) = lasting s := by
  induction fuel generalizing s with
  | zero => rfl
  | succ n ih =>
    unfold requestBeats
    split
    · rfl
    · split_ifs
      · rfl
      · dsimp only
        split
        · simp
        · split_ifs
          · rw [ih, lasting_modOp]
            split <;> simp
          · split
            · simp
            · next u h => rw [ih, lasting_modOp, lasting_sendReq h, lasting_tlbNote]

@[simp] theorem lasting_requestAll (t id : Nat) : lasting (requestAll s t id) = lasting s := by
  unfold requestAll
  split
  · split_ifs <;> simp [lasting_requestBeats]
  · rfl

@[simp] theorem lasting_faultResume (f : FaultRec) : lasting (faultResume s f) = lasting s := by
  unfold faultResume
  dsimp only
  split_ifs <;> simp

@[simp] theorem lasting_retryFault (f : FaultRec) : lasting (retryFault s f) = lasting s := by
  unfold retryFault
  dsimp only
  split_ifs <;> simp

/-! ## The host's registers and queues reset (R357) -/

/-- The host's queues. -/
def queues (s : State) : SMap Sq × SMap Cq := (s.host.sqs, s.host.cqs)

theorem sq_cq_reset (h : queues s = ([], [])) (q : Nat) : s.sq q = {} ∧ s.cq q = {} := by
  obtain ⟨hsqs, hcqs⟩ := Prod.mk.inj h
  rw [State.sq, State.cq, hsqs, hcqs]
  exact ⟨rfl, rfl⟩

@[simp] theorem queues_hwinRefresh : queues (hwinRefresh s) = queues s := rfl

@[simp] theorem lasting_ptpBoot : lasting (ptpBoot s) = lasting s := rfl

@[simp] theorem lasting_waits (pre : PreemptBlk) (rest : RestBlk) : lasting { s with pre := pre, rest := rest } = lasting s := rfl

@[simp] theorem lasting_resetHostRegs : lasting (resetHostRegs s) = lasting s := by
  unfold resetHostRegs
  simp only [lasting_hwinRefresh, lasting_ptpBoot, lasting_modFlt, lasting_waits, lasting_modGov]
  simp

theorem queues_resetHostRegs : queues (resetHostRegs s) = ([], []) := rfl

/-! ## The job unbound (R217) -/

@[simp] theorem lasting_freezeAll : lasting (freezeAll s) = lasting s := by
  obtain ⟨g, hg, -⟩ := freezeAll_frame s
  rw [hg]
  rfl

@[simp] theorem queues_freezeAll : queues (freezeAll s) = queues s := by
  obtain ⟨g, hg, -⟩ := freezeAll_frame s
  rw [hg]
  rfl

@[simp] theorem stopTrim_now (t : TimeBlk) : (stopTrim t).now = t.now := by
  unfold stopTrim
  split <;> rfl

@[simp] theorem lasting_leaveRound : lasting (leaveRound s) = lasting s := by
  simp only [lasting, leaveRound, stopTrim_now]

@[simp] theorem queues_leaveRound : queues (leaveRound s) = queues s := rfl

@[simp] theorem lasting_clearMeas (j : Nat) : lasting (clearMeas s j) = lasting s := rfl

@[simp] theorem lasting_leaveJob : lasting (leaveJob s) = lasting s := by
  obtain ⟨_, _, _, _, hleft⟩ := leaveJob_sent s
  rw [hleft]
  rfl

@[simp] theorem lasting_modPc (f : PcBlk → PcBlk) : lasting (s.modPc f) = lasting s := rfl
@[simp] theorem lasting_keysGone : lasting (s.modTrust fun t => { t with jobKeys := none, fabricKey := none }) = lasting s := rfl

@[simp] theorem lasting_jobGone : lasting { s with job := none } = lasting s := rfl

@[simp] theorem lasting_left (tiles gangs wires crossing pre movers ports) : lasting { s with
    tiles := tiles, gangs := gangs, wires := wires, crossing := crossing, pre := pre, movers := movers, ports := ports } = lasting s :=
  rfl

theorem lasting_modStg_st (f : StgBlk → StgBlk) : lasting (s.modStg f) = ((f s.stg).st, (lasting s).2) := rfl

/-- Unbinding sets the step's state; the rest stays. -/
theorem lasting_unbind (h : s.bound = true) : lasting (unbind s) = (.unbound, (lasting s).2) := by
  unfold unbind
  rw [if_neg (by simp [h])]
  simp only [lasting_hwinRefresh, lasting_clearMeas, lasting_leaveRound, lasting_jobGone, lasting_keysGone, lasting_modCm,
    lasting_modFab, lasting_modFlt, lasting_modMem, lasting_modPc]
  rw [lasting_modStg_st, lasting_left, lasting_leaveJob]

theorem unbind_job (h : s.bound = true) :
    (unbind s).job = none ∧ (unbind s).trust.jobKeys = none ∧ (unbind s).trust.fabricKey = none := by
  unfold unbind
  rw [if_neg (by simp [h])]
  exact ⟨rfl, rfl, rfl⟩

theorem unbind_unbound (h : s.bound = false) : unbind s = s := by
  rw [unbind, if_pos (by simp [h])]

@[simp] theorem queues_modMem (f : MemBlk → MemBlk) : queues (s.modMem f) = queues s := rfl
@[simp] theorem queues_modFab (f : FabBlk → FabBlk) : queues (s.modFab f) = queues s := rfl
@[simp] theorem queues_modCm (f : CmBlk → CmBlk) : queues (s.modCm f) = queues s := rfl
@[simp] theorem queues_modFlt (f : FltBlk → FltBlk) : queues (s.modFlt f) = queues s := rfl
@[simp] theorem queues_modPc (f : PcBlk → PcBlk) : queues (s.modPc f) = queues s := rfl
@[simp] theorem queues_modStg (f : StgBlk → StgBlk) : queues (s.modStg f) = queues s := rfl
@[simp] theorem queues_modTrust (f : TrustBlk → TrustBlk) : queues (s.modTrust f) = queues s := rfl
@[simp] theorem queues_clearMeas (j : Nat) : queues (clearMeas s j) = queues s := rfl
@[simp] theorem queues_jobGone : queues { s with job := none } = queues s := rfl

@[simp] theorem queues_left (tiles gangs wires crossing pre movers ports) : queues { s with
    tiles := tiles, gangs := gangs, wires := wires, crossing := crossing, pre := pre, movers := movers, ports := ports } = queues s :=
  rfl

@[simp] theorem queues_leaveJob : queues (leaveJob s) = queues s := by
  obtain ⟨_, _, _, _, hleft⟩ := leaveJob_sent s
  rw [hleft]
  rfl

@[simp] theorem queues_unbind : queues (unbind s) = queues s := by
  cases h : s.bound with
  | false => rw [unbind_unbound h]
  | true =>
    unfold unbind
    rw [if_neg (by simp [h])]
    simp only [queues_hwinRefresh, queues_clearMeas, queues_leaveRound, queues_jobGone, queues_modTrust, queues_modCm,
      queues_modFab, queues_modFlt, queues_modMem, queues_modPc, queues_modStg, queues_left, queues_leaveJob]

/-! ## READY (R333) -/

/-- Setting READY writes it, and in the trust block what an activation waited for. -/
theorem tryReady_frame (s : State) : ∃ ready was activating at_ floor, tryReady s = { s with
    host := { s.host with ready := ready, wasReady := was }
    trust := { s.trust with activating := activating, restartAt := at_, flash := { s.trust.flash with fwFloor := floor } } } := by
  unfold tryReady
  split
  · obtain ⟨floor, hfloor⟩ : ∃ floor, (if rpfAuth s.trust.flash && decide (s.trust.flash.fwFloor.toNat < s.trust.fwSvn.toNat) then
        { s.trust.flash with fwFloor := s.trust.fwSvn } else s.trust.flash) = { s.trust.flash with fwFloor := floor } := by
      split <;> exact ⟨_, rfl⟩
    refine ⟨true, true, false, none, floor, ?_⟩
    rw [← hfloor]
    rfl
  · exact ⟨_, _, _, _, _, rfl⟩

/-! ## The exchange area zeroed (R266) -/

theorem SMap.get_dropRange {α : Type} (d : α) (m : SMap α) {lo hi k : Nat} (hlo : lo ≤ k) (hhi : k < hi) :
    SMap.get d (SMap.dropRange m lo hi) k = d := by
  rcases SMap.get_mem d (SMap.dropRange m lo hi) k with h | h
  · exact h
  · have hkept := (List.mem_filter.1 h).2
    simp only [Bool.or_eq_true, decide_eq_true_eq] at hkept
    omega

/-! ## Link loss -/

/-- The first part of a link-loss reset: what waits for the host ends in error, the host's registers and queues are reset, the gangs
stop. -/
def lossStopped (s : State) (cause : Nat) : State :=
  freezeAll (resetHostRegs (hwinErrors (ledger (s.modHost fun h => { h with ready := false }) 2 5 0x0501 noUnit cause)))

/-- The second part, the job unbound: the lacing round, the image, the session and the exchange area are gone. -/
def lossErased (s : State) : State :=
  zeroExchange ((clearMeas (eraseSession { leaveRound s with image := none }) 4).modMem fun m => { m with scrub := true })

/-- The last part: what the reset says of itself (R333, R355). -/
def lossTold (s : State) (held cause t0 : Nat) : State :=
  s.modHost fun h =>
    { h with heldOut := [], upHeld := 0, downSince := none, llr := true, llrNow := true, llrCause := cause
             llrTime := BitVec.ofNat 64 t0, llrDropped := sat32 held, llrCount := sat32 (h.llrCount + 1) }

theorem linkLoss_eq (s : State) (cause t0 : Nat) :
    linkLoss s cause t0 = tryReady (lossTold (lossErased (unbind (lossStopped s cause))) (hostHeld s) cause t0) := rfl

/-- Up to the job's end a link-loss reset leaves what lasts, and the queues are empty. -/
theorem lasting_lossStopped (s : State) (cause : Nat) : lasting (lossStopped s cause) = lasting s := by
  rw [lossStopped, lasting_freezeAll, lasting_resetHostRegs, lasting_hwinErrors, lasting_ledger]
  rfl

theorem queues_lossStopped (s : State) (cause : Nat) : queues (lossStopped s cause) = ([], []) := by
  rw [lossStopped, queues_freezeAll, queues_resetHostRegs]

theorem lossStopped_bound (s : State) (cause : Nat) : (lossStopped s cause).bound = s.bound := by
  have hlast := lasting_lossStopped s cause
  generalize lossStopped s cause = u at hlast ⊢
  have hst : u.stg.st = s.stg.st := congrArg Prod.fst hlast
  rw [State.bound, hst, State.bound]

theorem lasting_lossErased : lasting (lossErased s) = ((lasting s).1, none, (lasting s).2.2) :=
  congrArg (fun l : StepState × _ => (l.1, none, l.2.2)) (lasting_leaveRound (s := s))

theorem queues_zeroExchange : queues (zeroExchange s) = queues s := by
  unfold zeroExchange
  exact queues_modMem _

theorem queues_eraseSession : queues (eraseSession s) = queues s := by
  rw [eraseSession, queues_clearMeas, queues_modTrust]

theorem queues_lossErased : queues (lossErased s) = queues s := by
  rw [lossErased, queues_zeroExchange, queues_modMem, queues_clearMeas, queues_eraseSession]
  rfl

theorem lossErased_job : (lossErased s).job = s.job ∧ (lossErased s).trust.jobKeys = s.trust.jobKeys ∧
    (lossErased s).trust.fabricKey = s.trust.fabricKey := ⟨rfl, rfl, rfl⟩

theorem lossErased_gone : (lossErased s).trust.session = none ∧ (lossErased s).mem.scrub = true ∧ (lossErased s).lace.offers = [] ∧
    (lossErased s).lace.due = none := ⟨rfl, rfl, rfl, rfl⟩

theorem lossErased_exchange {a : Nat} (hlo : 0x1FF0000000 ≤ a) (hhi : a < 0x2000000000) :
    SMap.get 0 (lossErased s).mem.dram a = 0 := SMap.get_dropRange 0 _ hlo hhi

/-- Of what lasts, unbinding sets the step's state alone. -/
theorem unbind_lasting : lasting (unbind s) = (.unbound, (lasting s).2) := by
  cases h : s.bound with
  | true => exact lasting_unbind h
  | false =>
    have hst : s.stg.st = .unbound := by simpa [State.bound] using h
    rw [unbind_unbound h, ← hst]
    rfl

/-- What a link-loss reset keeps and what it clears before it says so. -/
theorem lasting_lossCleared (s : State) (cause : Nat) :
    lasting (lossErased (unbind (lossStopped s cause))) = (.unbound, none, (lasting s).2.2) := by
  rw [lasting_lossErased, unbind_lasting, lasting_lossStopped]

theorem queues_lossCleared (s : State) (cause : Nat) : queues (lossErased (unbind (lossStopped s cause))) = ([], []) := by
  rw [queues_lossErased, queues_unbind, queues_lossStopped]

theorem lossCleared_job (h : s.bound = true) (cause : Nat) :
    let t := lossErased (unbind (lossStopped s cause))
    t.job = none ∧ t.trust.jobKeys = none ∧ t.trust.fabricKey = none := by
  obtain ⟨hjob, hkeys, hfabric⟩ := unbind_job ((lossStopped_bound s cause).trans h)
  obtain ⟨hjob', hkeys', hfabric'⟩ := lossErased_job (s := unbind (lossStopped s cause))
  exact ⟨hjob'.trans hjob, hkeys'.trans hkeys, hfabric'.trans hfabric⟩

/-- What is held after a link-loss reset. -/
theorem linkLoss_leaves (s : State) (cause t0 : Nat) :
    let t := linkLoss s cause t0
    t.stg.st = .unbound ∧ t.image = none ∧ (s.bound = true → t.job = none ∧ t.trust.jobKeys = none ∧ t.trust.fabricKey = none) ∧
    t.trust.session = none ∧ (∀ q, t.sq q = {} ∧ t.cq q = {}) ∧ t.mem.scrub = true ∧
    (∀ a, 0x1FF0000000 ≤ a → a < 0x2000000000 → SMap.get 0 t.mem.dram a = 0) ∧
    t.host.llr = true ∧ t.host.llrCause = cause ∧ t.host.llrTime = BitVec.ofNat 64 t0 ∧
    t.host.llrCount = sat32 (s.host.llrCount + 1) ∧ t.host.llrDropped = sat32 (hostHeld s) ∧ t.lace.offers = [] ∧
    t.lace.due = none ∧ t.host.heldOut = [] ∧ t.tm.now = s.tm.now ∧ t.trust.flash.idIdx = s.trust.flash.idIdx := by
  rw [linkLoss_eq]
  have hlast := lasting_lossCleared s cause
  have hqueues := queues_lossCleared s cause
  have hjob := fun h : s.bound = true => lossCleared_job h cause
  obtain ⟨hsession, hscrub, hoffers, hdue⟩ := lossErased_gone (s := unbind (lossStopped s cause))
  have hzero := fun a lo hi => lossErased_exchange (s := unbind (lossStopped s cause)) (a := a) lo hi
  generalize lossErased (unbind (lossStopped s cause)) = u at *
  obtain ⟨_, _, _, _, _, hready⟩ := tryReady_frame (lossTold u (hostHeld s) cause t0)
  rw [hready]
  simp only [lasting, linkRegs, Prod.mk.injEq] at hlast
  obtain ⟨hst, himage, hnow, hflash, -, -, -, -, hcount⟩ := hlast
  exact ⟨hst, himage, hjob, hsession, sq_cq_reset hqueues, hscrub, hzero, rfl, rfl, rfl,
    congrArg (fun n => sat32 (n + 1)) hcount, rfl, hoffers, hdue, rfl, hnow, congrArg (·.idIdx) hflash⟩

/-! ## The link's events -/

/-- The link came up: what was held goes out, width and rate are shown (R333, R464). -/
def linkCame (s : State) (lanes rate : Nat) : State :=
  s.modHost fun h =>
    { h with linkUp := true, downSince := none, width := lanes, rate := 2 * rate, out := h.out ++ h.heldOut, heldOut := []
             upHeld := 0, trained := true, retrains := if h.trained then (h.retrains + 1) % 65536 else h.retrains }

/-- A link narrower or slower than its best is noted in the ledger (R464). -/
def linkNoted (s : State) (lanes rate : Nat) : State :=
  if lanes < 16 || rate < 64 then ledger s 1 5 0x0502 noUnit (hostLink s) else s

theorem linkNoted_frame (s : State) (lanes rate : Nat) : ∃ flt, linkNoted s lanes rate = { s with flt := flt } := by
  unfold linkNoted
  split
  · obtain ⟨_, _, _, _, hledger⟩ := ledger_frame s 1 5 0x0502 noUnit (hostLink s) (by decide)
    exact ⟨_, hledger⟩
  · exact ⟨_, rfl⟩

theorem linkNoted_full (s : State) : linkNoted s 16 64 = s := rfl

/-- The waits for the host that a link that came up retries. -/
def linkRetries (s : State) : State :=
  (s.mem.faults.filter fun f => f.code == fHwin).foldl (fun s f => match faultOf s f.n with
    | some f => retryFault s f
    | none => s) s

@[simp] theorem lasting_linkRetries : lasting (linkRetries s) = lasting s := by
  unfold linkRetries
  refine lasting_foldl _ fun u f => ?_
  split <;> simp

theorem linkRetries_none (h : s.mem.faults = []) : linkRetries s = s := by
  rw [linkRetries, h]
  rfl

theorem exec_linkUp {lanes rate : Nat} (hdown : s.host.linkUp = false) (hperst : s.pins.hostPerst = false) (hmain : s.pins.mainOn = true)
    (hlanes : lanes = 16 ∨ lanes = 8 ∨ lanes = 4) (hrate : rate = 64 ∨ rate = 32 ∨ rate = 16 ∨ rate = 8) :
    exec (.linkUp lanes rate) s = .next (tryReady (linkRetries (linkNoted (linkCame (lateLoss s) lanes rate) lanes rate))) := by
  show execLinkUp lanes rate s = _
  unfold execLinkUp
  have hok : ((lanes == 16 || lanes == 8 || lanes == 4) && (rate == 64 || rate == 32 || rate == 16 || rate == 8)) = true := by
    simpa [or_assoc] using And.intro hlanes hrate
  simp only [hok, hdown, hperst, hmain]
  rfl

/-- A link down for less than 2 ms is no loss. -/
theorem lateLoss_early (h : ∀ t, s.host.downSince = some t → s.ns < t + 2000000) : lateLoss s = s := by
  unfold lateLoss
  cases hdown : s.host.downSince with
  | none => rfl
  | some t => exact if_neg (Nat.not_le.2 (h t hdown))

theorem lateLoss_late {t : Nat} (hdown : s.host.downSince = some t) (h : t + 2000000 ≤ s.ns) : lateLoss s = downLoss s t := by
  unfold lateLoss
  rw [hdown]
  exact if_pos h

/-- A loss once READY has been set is a link-loss reset (R333). -/
theorem hostLoss_ready (hready : s.host.wasReady = true) (hup : s.pins.phase = .up) (cause t0 : Nat) :
    hostLoss s cause t0 = linkLoss s cause t0 := by
  simp [hostLoss, hready, hup]

theorem hostLoss_unready (hready : s.host.wasReady = false) (cause t0 : Nat) : hostLoss s cause t0 = s := by
  simp [hostLoss, hready]

theorem hostReset_on (hmain : s.pins.mainOn = true) (hphase : s.pins.phase ≠ .fatalHold) (cause : Nat) :
    hostReset s cause = linkLoss s cause s.ns := by
  simp [hostReset, hmain, hphase]

theorem hostReset_off (h : s.pins.mainOn = false ∨ s.pins.phase = .fatalHold) (cause : Nat) : hostReset s cause = s := by
  rcases h with h | h <;> simp [hostReset, h]

/-- The block with the down time cleared as a loss by it begins. -/
def downCleared (s : State) : State := s.modHost fun h => { h with downSince := none }

theorem lateLoss_ready {t : Nat} (hdown : s.host.downSince = some t) (h : t + 2000000 ≤ s.ns) (hready : s.host.wasReady = true)
    (hup : s.pins.phase = .up) : lateLoss s = linkLoss (downCleared s) 1 (t + 2000000) := by
  rw [lateLoss_late hdown h, downLoss]
  exact hostLoss_ready (s := downCleared s) hready hup _ _

/-- A link that comes up in time, nothing waiting for the host: what was held goes out, and width and rate are shown. -/
theorem linkUp_inTime {lanes rate : Nat} (hfaults : s.mem.faults = []) (h : ∀ t, s.host.downSince = some t → s.ns < t + 2000000)
    (hdown : s.host.linkUp = false) (hperst : s.pins.hostPerst = false) (hmain : s.pins.mainOn = true)
    (hlanes : lanes = 16 ∨ lanes = 8 ∨ lanes = 4) (hrate : rate = 64 ∨ rate = 32 ∨ rate = 16 ∨ rate = 8) :
    ∃ s', exec (.linkUp lanes rate) s = .next s' ∧ s'.host.linkUp = true ∧ s'.host.width = lanes ∧ s'.host.rate = 2 * rate ∧
      s'.host.out = s.host.out ++ s.host.heldOut ∧ s'.host.heldOut = [] ∧ s'.tiles = s.tiles ∧ s'.mem = s.mem := by
  refine ⟨_, exec_linkUp hdown hperst hmain hlanes hrate, ?_⟩
  rw [lateLoss_early h]
  obtain ⟨flt, hlogged⟩ := linkNoted_frame (linkCame s lanes rate) lanes rate
  have hnone := linkRetries_none (s := { linkCame s lanes rate with flt := flt }) hfaults
  rw [hlogged, hnone]
  obtain ⟨_, _, _, _, _, hready⟩ := tryReady_frame { linkCame s lanes rate with flt := flt }
  rw [hready]
  exact ⟨rfl, rfl, rfl, rfl, rfl, rfl, rfl⟩

/-- A link that comes up after 2 ms, READY having been set: the loss is a link-loss reset, and what is retried after it leaves it
so. -/
theorem linkUp_late {t : Nat} (hdown : s.host.linkUp = false) (hperst : s.pins.hostPerst = false) (hmain : s.pins.mainOn = true)
    (hsince : s.host.downSince = some t) (h : t + 2000000 ≤ s.ns) (hready : s.host.wasReady = true) (hup : s.pins.phase = .up) :
    ∃ s', exec (.linkUp 16 64) s = .next s' ∧ s'.host.linkUp = true ∧ s'.host.llr = true ∧ s'.host.llrCause = 1 ∧
      s'.host.llrTime = BitVec.ofNat 64 (t + 2000000) ∧ s'.stg.st = .unbound ∧ s'.image = none := by
  refine ⟨_, exec_linkUp hdown hperst hmain (.inl rfl) (.inl rfl), ?_⟩
  rw [lateLoss_ready hsince h hready hup, linkNoted_full]
  obtain ⟨hst, himage, -, -, -, -, -, hllr, hcause, htime, -⟩ := linkLoss_leaves (downCleared s) 1 (t + 2000000)
  generalize linkLoss (downCleared s) 1 (t + 2000000) = u at *
  have hlast := lasting_linkRetries (s := linkCame u 16 64)
  generalize linkRetries (linkCame u 16 64) = w at *
  obtain ⟨_, _, _, _, _, htried⟩ := tryReady_frame w
  rw [htried]
  simp only [lasting, linkRegs, Prod.mk.injEq] at hlast
  obtain ⟨hst', himage', -, -, hlink, hllr', hcause', htime', -⟩ := hlast
  exact ⟨hlink, hllr'.trans hllr, hcause'.trans hcause, htime'.trans htime, hst'.trans hst, himage'.trans himage⟩

/-- The host's reset pin low: the link is down, not as a lost link but by the pin. -/
def perstLow (s : State) : State :=
  ({ s with pins := { s.pins with hostPerst := true } } : State).modHost fun h => { h with linkUp := false, downSince := none }

theorem exec_hostPerstAssert (hperst : s.pins.hostPerst = false) (hready : s.host.wasReady = true) (hup : s.pins.phase = .up) :
    exec .hostPerstAssert s = .next (linkLoss (perstLow s) 2 s.ns) := by
  show Host.Outcome.next (if s.pins.hostPerst then s else hostLoss (perstLow s) 2 s.ns) = _
  rw [if_neg (by simp [hperst]), hostLoss_ready (s := perstLow s) hready hup]

end

/-- Settles O31: nothing that a link-loss reset ends in error, and nothing that a link that comes back retries, touches the step's
state, the image, the time or the link's registers (`lasting`). -/
theorem linkLossResetsBlock : Obligations.LinkLossResetsBlock := by
  refine ⟨fun s lanes rate => ⟨?down, ?up, ?late, ?timeout, ?perst, ⟨_, rfl, rfl⟩, ?hot, ?unready, ?reset, ?held⟩,
    linkLoss_leaves⟩
  case down =>
    intro hup
    exact ⟨_, congrArg Host.Outcome.next (if_pos hup), rfl⟩
  case up => exact fun hdown hperst hmain hlanes hrate hfaults h => linkUp_inTime hfaults h hdown hperst hmain hlanes hrate
  case late =>
    rintro t hdown hperst hmain rfl rfl hsince h hready hup
    exact linkUp_late hdown hperst hmain hsince h hready hup
  case timeout =>
    intro t hsince h hready hup
    exact ⟨downCleared s, congrArg Host.Outcome.next (lateLoss_ready hsince h hready hup), rfl, rfl⟩
  case perst => exact fun hperst hready hup => ⟨perstLow s, exec_hostPerstAssert hperst hready hup, rfl, rfl, rfl, rfl⟩
  case hot => exact fun hready hup => congrArg Host.Outcome.next (hostLoss_ready hready hup 3 s.ns)
  case unready => exact fun hready => congrArg Host.Outcome.next (hostLoss_unready hready 3 s.ns)
  case reset =>
    exact fun hmain hphase =>
      ⟨congrArg Host.Outcome.next (hostReset_on hmain hphase 4), congrArg Host.Outcome.next (hostReset_on hmain hphase 5)⟩
  case held =>
    exact fun h => ⟨congrArg Host.Outcome.next (hostReset_off h 4), congrArg Host.Outcome.next (hostReset_off h 5)⟩

end Sys2Proof.Machine
end

section
/-! SUPPORT. Commands with a meaning of their own that nothing holds back, and the queries, which complete at once: O32. -/

namespace Sys2Proof.Machine
open Sys2Proof.Claims

section

variable {s u : State} {q : Nat} {c : Instr} {e : BitVec 2048} {op : Nat}

/-- The meaning that a command with entry `e` of queue `q` has once nothing holds it and no check refuses it (R360 to R376); a command
that is none of these is left to `serveCmd`. -/
def meaning (s : State) (q : Nat) (e : BitVec 2048) : Instr → State
  | .nop _ _ => serveNop s q e
  | .identify _ _ => serveIdentify s q
  | .sessionOpen _ _ => serveSessionOpen s q e
  | .sessionClose _ _ => serveSessionClose s q
  | .attest _ _ => serveAttest s q e
  | .imageLoad _ _ img tags => serveImageLoad s q e img tags
  | .imageUnload _ _ => serveImageUnload s q
  | .jobBind _ _ cfg tags => serveJobBind s q e cfg tags
  | .jobRelease _ _ => serveJobRelease s q e
  | .jobReleaseForce _ _ => serveJobRelease s q e
  | .powerSet _ _ => servePowerSet s q e
  | .powerQuery _ _ => servePowerQuery s q
  | .ledgerRead _ _ => serveLedgerRead s q e
  | .auditRead _ _ => serveAuditRead s q
  | .firmwareStage _ _ fw ok => serveFirmwareStage s q e fw ok
  | .firmwareActivate _ _ => serveFirmwareActivate s q
  | .portConfigOut _ _ => servePortConfig s q e
  | .portConfigReturn _ _ => servePortConfig s q e
  | .portStatus _ _ => servePortStatus s q e
  | _ => serveCmd s q

/-- Taking an entry leaves every block but the host's. -/
@[simp] theorem taking_trust (s : State) (q : Nat) (c : Instr) (e : BitVec 2048) : (taking s q c e).trust = s.trust := by
  obtain ⟨b, hb, -⟩ := taking_frame s q c e
  rw [hb]

@[simp] theorem taking_flt (s : State) (q : Nat) (c : Instr) (e : BitVec 2048) : (taking s q c e).flt = s.flt := by
  obtain ⟨b, hb, -⟩ := taking_frame s q c e
  rw [hb]

theorem Ready.serveCmd_eq (h : Ready u q c e) : serveCmd u q = meaning u q e c := by
  obtain ⟨⟨k, hk, rfl, rfl, hwait⟩, hw, hrest, hheld, hcheck⟩ := h
  have hsame := modSq_notWaiting hw hk hwait
  unfold meaning
  split
  case h_20 => rfl
  all_goals
    rename_i hcmd
    simp only [serveCmd, hk, hrest, hheld, Bool.or_false, Bool.false_eq_true, if_false, hsame, hcheck, bne_self_eq_false]
    rw [hcmd]

/-- An offered entry of its row's own opcode leads to what its command's meaning makes of the block with the entry taken. -/
theorem runs_of_meaning {row : Bool} {f : State → State} (h : Offered s q e op)
    (hexec : exec c s = .next (command s q c e row)) (hrow : row = true)
    (hserve : meaning (taking s q c e) q e c = f (taking s q c e)) : Runs s q e c f :=
  runs_of_serve h hexec hrow ((taking_ready h c).serveCmd_eq.trans hserve)

theorem exec_of_meaning {row : Bool} {w : State} (h : Offered s q e op)
    (hexec : exec c s = .next (command s q c e row)) (hrow : row = true)
    (hserve : meaning (taking s q c e) q e c = w) : exec c s = .next w :=
  runs_of_meaning (f := fun _ => w) h hexec hrow hserve

end

section
variable {s : State} {q : Nat} {e : BitVec 2048}

theorem runs_nop (h : Offered s q e 0x0001) : Runs s q e (.nop q e) fun u => complete u q 0 (entParam e 0x20 64) 0 :=
  runs_of_meaning h rfl (isOp_of_offered h) rfl

theorem runs_identify (h : Offered s q e 0x0002) :
    Runs s q e (.identify q e) fun u => complete u q 0 0x00A14480 0 (some (identRecord u)) :=
  runs_of_meaning h rfl (isOp_of_offered h) rfl

/-- While a leaf of the AK is left, ATTEST uses it and keeps the nonce (R421). -/
theorem serveAttest_leaf {d leaf : Nat} (hak : s.trust.ak = some (d, leaf)) (hleaf : leaf < 1024)
    (hleft : s.trust.idExhausted = false) :
    let nonce : BitVec 256 := BitVec.ofNat 256 (leNat (entPayload e))
    serveAttest s q e = complete { s with trust := { s.trust with
      ak := some (d, leaf + 1), nonces := (nonce :: s.trust.nonces).take 16 } } q 0 leaf 0 (some (evRecord s nonce d leaf)) := by
  intro nonce
  rw [serveAttest, evidence_leaf nonce hak hleaf hleft]
  rfl

theorem runs_attest {d leaf : Nat} (h : Offered s q e 0x0102) (hak : s.trust.ak = some (d, leaf)) (hleaf : leaf < 1024)
    (hleft : s.trust.idExhausted = false) : ∃ r, Runs s q e (.attest q e) fun u => complete { u with trust := { u.trust with
      ak := some (d, leaf + 1), nonces := (BitVec.ofNat 256 (leNat (entPayload e)) :: u.trust.nonces).take 16 } } q 0 leaf 0 (some r) :=
  ⟨evRecord (taking s q (.attest q e) e) (BitVec.ofNat 256 (leNat (entPayload e))) d leaf,
    runs_of_meaning h rfl (isOp_of_offered h) (serveAttest_leaf (by rwa [taking_trust]) hleaf (by rwa [taking_trust]))⟩

theorem runs_powerQuery (h : Offered s q e 0x0401) : ∃ r, Runs s q e (.powerQuery q e) fun u =>
    complete u q 0 (u.gov.meas % 2 ^ 32 + u.gov.op * 2 ^ 32) 0 (some r) :=
  ⟨_, runs_of_meaning h rfl (isOp_of_offered h) rfl⟩

theorem runs_ledgerRead (h : Offered s q e 0x0501) (hlo : 1 ≤ entParam e 0x28 32) (hhi : entParam e 0x28 32 ≤ 65536) :
    let old := s.flt.next - s.flt.ring.length
    Runs s q e (.ledgerRead q e) fun u => complete u q 0 old 0 (some
      (((s.flt.ring.drop (entParam e 0x20 64 - old)).take (entParam e 0x28 32)).flatMap fun x => leBytes 32 x.toNat)) := by
  refine runs_of_meaning h rfl (isOp_of_offered h) ?_
  rw [← taking_flt s q (.ledgerRead q e) e]
  exact if_neg (by simp only [Bool.or_eq_true, decide_eq_true_eq]; omega)

/-- With a snapshot taken, AUDIT_READ completes at once (R453). -/
theorem runs_auditRead (h : Offered s q e 0x0502) (hgen : s.flt.snapGen ≠ 0) : ∃ m r, Runs s q e (.auditRead q e) fun u =>
    complete { u with flt := { u.flt with audMask := BitVec.ofNat 5 m } } q 0 m 0 (some r) := by
  exact ⟨_, auditRecord _ (snapMask _), runs_of_meaning h rfl (isOp_of_offered h)
    (if_pos (by simpa using hgen) : serveAuditRead _ q = auditDone (taking s q (.auditRead q e) e) q)⟩

theorem runs_portStatus (h : Offered s q e 0x0701) (hp : entParam e 0x20 8 < 18) : ∃ r, Runs s q e (.portStatus q e) fun u =>
    complete u q 0 (fpStatus u (entParam e 0x20 8)) 0 (some r) :=
  ⟨_, runs_of_meaning h rfl (isOp_of_offered h) (if_neg (by omega))⟩

end

/-- Settles O32: each query's meaning is its completion, with the leaf, the nonce or the mask it counts. -/
theorem queriesComplete : Obligations.QueriesComplete :=
  fun _ _ _ => ⟨runs_nop, runs_identify, fun _ _ => runs_attest, runs_powerQuery, runs_ledgerRead, runs_auditRead, runs_portStatus⟩

end Sys2Proof.Machine
end

section
/-! SUPPORT. The window extent that a command reads, and the settings commands: O36. -/

namespace Sys2Proof.Machine
open Sys2Proof.Claims

section
variable {s u v : State} {q : Nat} {e : BitVec 2048}

/-! ## The block with an entry taken -/

@[simp] theorem taking_gov (s : State) (q : Nat) (c : Instr) (e : BitVec 2048) : (taking s q c e).gov = s.gov := by
  obtain ⟨b, hb, -⟩ := taking_frame s q c e
  rw [hb]

@[simp] theorem taking_ports (s : State) (q : Nat) (c : Instr) (e : BitVec 2048) : (taking s q c e).ports = s.ports := by
  obtain ⟨b, hb, -⟩ := taking_frame s q c e
  rw [hb]

theorem taking_bound (s : State) (q : Nat) (c : Instr) (e : BitVec 2048) : (taking s q c e).bound = s.bound := by
  obtain ⟨b, hb, -⟩ := taking_frame s q c e
  rw [hb]
  rfl

@[simp] theorem taking_image (s : State) (q : Nat) (c : Instr) (e : BitVec 2048) : (taking s q c e).image = s.image := by
  obtain ⟨b, hb, -⟩ := taking_frame s q c e
  rw [hb]

/-- A command just taken has written nothing yet (R373). -/
theorem taking_applied (s : State) (q : Nat) (c : Instr) (e : BitVec 2048) :
    ∃ k, ((taking s q c e).sq q).cur = some k ∧ k.applied = false := by
  unfold taking takeEntry
  rw [State.sq, State.modSq, SMap.get_set_ne]
  · exact ⟨_, rfl, rfl⟩
  · exact fun h => nomatch congrArg Sq.cur h

theorem taking_wf (h : Canon s) (q : Nat) (c : Instr) (e : BitVec 2048) : SMap.wf {} (taking s q c e).host.sqs = true :=
  ((taking_evolves s q c e).canon h).sqs

theorem waitCmd_cur {k : Taken} (hw : SMap.wf {} s.host.sqs = true) (hk : (s.sq q).cur = some k) :
    ((waitCmd s q).sq q).cur = some { k with waiting := true } := by
  rw [waitCmd, State.sq_modSq_same _ _ _ hw, hk]
  rfl

/-! ## A window extent whose pages are all served (R351, R352) -/

theorem hwtFill_frame (s : State) (off : Nat) : ∃ c, hwtFill s off = { s with host := { s.host with hwtCache := c } } := by
  unfold hwtFill
  dsimp only
  split <;> exact ⟨_, rfl⟩

/-- An extent served in full leaves its pages in the window table's cache and nothing else. -/
theorem winAll_served {woff len : Nat} (h : winAll s q woff len = (v, true)) :
    ∃ c, v = { s with host := { s.host with hwtCache := c } } := by
  unfold winAll at h
  dsimp only at h
  split at h
  · cases h
  · obtain rfl := (Prod.mk.inj h).1
    refine foldl_keep (P := fun u : State => ∃ c, u = { s with host := { s.host with hwtCache := c } }) _ _ ?_ s ⟨_, rfl⟩
    rintro _ i ⟨c, rfl⟩
    exact hwtFill_frame _ _

/-- With the entry taken and its extent served, the block differs in the host's part alone. -/
theorem winAll_taking {c : Instr} {woff len : Nat} (h : winAll (taking s q c e) q woff len = (v, true)) :
    ∃ b, v = { s with host := b } := by
  obtain ⟨b, hb, -⟩ := taking_frame s q c e
  obtain ⟨m, hm⟩ := winAll_served h
  exact ⟨_, by rw [hm, hb]⟩

/-! ## POWER_SET (R373, R385) -/

/-- A field stored over itself leaves the word. -/
theorem setFld_fldN_self {w : Nat} (x : BitVec w) (lo len : Nat) : setFld x lo len (fldN x lo len) = x := by
  refine BitVec.eq_of_getLsbD_eq fun i hi => ?_
  rw [setFld_getLsbD _ _ _ _ _ hi]
  split
  next h =>
    rw [fldN, BitVec.testBit_toNat, BitVec.getLsbD_extractLsb', show lo + (i - lo) = i by omega]
    simp [show i - lo < len by omega]
  next => rfl

/-- What POWER_SET writes: the cap with `c`, the order with `o` and a code that names one. -/
def capWritten (s : State) (e : BitVec 2048) (c o : Bool) : State := { s with gov := { s.gov with
  cap := if c then BitVec.ofNat 32 (entParam e 0x20 32) else s.gov.cap
  ctrl := if o && decide (entParam e 0x24 8 ≤ 5) then setFld s.gov.ctrl 0 3 (entParam e 0x24 8) else s.gov.ctrl } }

/-- GOV_CTRL written with another order changes the order's field alone, and that only to a code that names an order (R11, R386). -/
theorem writeGov_order {n : Nat} (hn : n ≤ 7) : writeGov s 4 (setFld s.gov.ctrl 0 3 n) =
    { s with gov := { s.gov with ctrl := if n ≤ 5 then setFld s.gov.ctrl 0 3 n else s.gov.ctrl } } := by
  have hfield : fldN (setFld s.gov.ctrl 0 3 n) 0 3 = n := (fldN_setFld _ _ _ _ (by omega)).trans (Nat.mod_eq_of_lt (by omega))
  have hother : ∀ lo, 3 ≤ lo → fldN (setFld s.gov.ctrl 0 3 n) lo 4 = fldN s.gov.ctrl lo 4 := fun lo h =>
    fldN_setFld_other _ _ _ _ _ _ (.inr h)
  have hself : ∀ lo, 3 ≤ lo → ∀ x : Word, fldN x lo 4 = fldN s.gov.ctrl lo 4 →
      putField x (setFld s.gov.ctrl 0 3 n) lo 4 (fun _ => true) = x := fun lo h x hx => by
    rw [putField, if_pos rfl, hother lo h, ← hx, setFld_fldN_self]
  have hfirst : putField s.gov.ctrl (setFld s.gov.ctrl 0 3 n) 0 3 (fun c => decide (c ≤ 5)) =
      if n ≤ 5 then setFld s.gov.ctrl 0 3 n else s.gov.ctrl := by
    rw [putField, hfield]
    simp only [decide_eq_true_eq]
  have hsame : ∀ lo, 3 ≤ lo →
      fldN (if n ≤ 5 then setFld s.gov.ctrl 0 3 n else s.gov.ctrl) lo 4 = fldN s.gov.ctrl lo 4 := fun lo h => by
    split
    · exact hother lo h
    · rfl
  rw [writeGov, if_pos rfl, State.modGov, hfirst, hself 3 (by omega) _ (hsame 3 (by omega)), hself 7 (by omega) _ (hsame 7 (by omega))]

/-- The fields that VALID names are written. -/
theorem capSet_eq {c o : Bool} (hv : entParam e 0x25 8 = c.toNat + 2 * o.toNat) (ho : o = true → entParam e 0x24 8 ≤ 7) :
    capSet s e = capWritten s e c o := by
  cases c <;> cases o
  all_goals
    simp only [Bool.toNat_false, Bool.toNat_true] at hv
    simp only [capSet, hv]
  · rfl
  · exact (writeGov_order (ho rfl)).trans (by simp [capWritten])
  · rfl
  · exact (writeGov_order (s := s.modGov _) (ho rfl)).trans (by simp [capWritten, State.modGov])

/-- The cap in force once a cap in range is set: the least of it and the BMC's (R385). -/
theorem capInForce_written {o : Bool} (h : entParam e 0x20 32 ≤ 2000000) :
    capInForce (capWritten s e true o) = min (entParam e 0x20 32) s.gov.bmcCap.toNat := by
  have hcap : (BitVec.ofNat 32 (entParam e 0x20 32)).toNat = entParam e 0x20 32 := by
    rw [BitVec.toNat_ofNat]
    omega
  show min (min (BitVec.ofNat 32 (entParam e 0x20 32)).toNat s.gov.bmcCap.toNat) 2000000 = _
  rw [hcap]
  omega

/-- VALID's two bits. -/
theorem valid_bits {n : Nat} {c o : Bool} (hv : n = c.toNat + 2 * o.toNat) : (n % 2 == 1) = c ∧ (n / 2 % 2 == 1) = o := by
  subst hv
  cases c <;> cases o <;> exact ⟨rfl, rfl⟩

theorem powerSetOk_eq {c o : Bool} (hv : entParam e 0x25 8 = c.toNat + 2 * o.toNat)
    (hcap : c = true → 1 ≤ entParam e 0x20 32 ∧ entParam e 0x20 32 ≤ 2000000) (ho : o = true → entParam e 0x24 8 ≤ 7) :
    powerSetOk e = true := by
  obtain ⟨hc, ho'⟩ := valid_bits hv
  simp only [powerSetOk, hc, ho', Bool.not_eq_true', Bool.or_eq_false_iff, Bool.and_eq_false_imp, beq_eq_false_iff_ne,
    decide_eq_false_iff_not]
  exact ⟨fun h => by have := hcap h; omega, fun h => by have := ho h; omega⟩

/-- A POWER_SET not yet applied writes its fields; what follows depends on the cap they give. -/
theorem servePowerSet_eq {k : Taken} {c o : Bool} (hk : (s.sq q).cur = some k) (happ : k.applied = false)
    (hok : powerSetOk e = true) (hv : entParam e 0x25 8 = c.toNat + 2 * o.toNat) (hsome : (c || o) = true)
    (ho : o = true → entParam e 0x24 8 ≤ 7) :
    let t := capWritten s e c o
    servePowerSet s q e =
      if c = true ∧ entParam e 0x20 32 < 180000 then complete t q 0x0501 (capInForce t) 0
      else if c = true ∧ s.gov.effCap ≠ capInForce t then
        waitCmd (t.modSq q fun x => { x with cur := x.cur.map fun k => { k with applied := true } }) q
      else complete t q 0 (capInForce t) 0 := by
  intro t
  have hodd : (entParam e 0x25 8 % 2 = 1) = (c = true) := by rw [← (valid_bits hv).1, beq_iff_eq]
  have hzero : entParam e 0x25 8 ≠ 0 := by
    rw [hv]
    rcases Bool.or_eq_true_iff.1 hsome with rfl | rfl
    · simp
    · simp
  have heff : t.gov.effCap = s.gov.effCap := rfl
  unfold servePowerSet
  simp only [hok, hk, Option.map_some, Option.getD_some, happ, hzero, decide_false, Bool.or_false, Bool.not_true,
    Bool.false_eq_true, if_false, capSet_eq hv ho, hodd, Bool.and_eq_true, decide_eq_true_eq, bne_iff_ne]
  rfl

/-- A POWER_SET of the order alone completes at once. -/
theorem runs_powerSet_order (h : Offered s q e 0x0400) (hv : entParam e 0x25 8 = 2) (ho : entParam e 0x24 8 ≤ 7) :
    Runs s q e (.powerSet q e) fun u => complete (capWritten u e false true) q 0 (capInForce u) 0 := by
  obtain ⟨k, hk, happ⟩ := taking_applied s q (.powerSet q e) e
  have hv' : entParam e 0x25 8 = false.toNat + 2 * true.toNat := hv
  have hok : powerSetOk e = true := powerSetOk_eq hv' (fun h => nomatch h) fun _ => ho
  exact runs_of_meaning h rfl (isOp_of_offered h) ((servePowerSet_eq hk happ hok hv' rfl fun _ => ho).trans (by simp; rfl))

section
variable {o : Bool} (hv : entParam e 0x25 8 = true.toNat + 2 * o.toNat) (hlo : 1 ≤ entParam e 0x20 32)
  (hhi : entParam e 0x20 32 ≤ 2000000) (ho : o = true → entParam e 0x24 8 ≤ 7)
include hv hlo hhi ho

/-- What a POWER_SET with a cap in range comes to. -/
theorem meaning_powerSet_cap :
    let t := capWritten (taking s q (.powerSet q e) e) e true o
    let now := min (entParam e 0x20 32) s.gov.bmcCap.toNat
    meaning (taking s q (.powerSet q e) e) q e (.powerSet q e) =
      if entParam e 0x20 32 < 180000 then complete t q 0x0501 now 0
      else if s.gov.effCap ≠ now then waitCmd (t.modSq q fun x => { x with cur := x.cur.map fun k => { k with applied := true } }) q
      else complete t q 0 now 0 := by
  obtain ⟨k, hk, happ⟩ := taking_applied s q (.powerSet q e) e
  have hok : powerSetOk e = true := powerSetOk_eq hv (fun _ => ⟨hlo, hhi⟩) ho
  refine (servePowerSet_eq hk happ hok hv rfl ho).trans ?_
  simp only [capInForce_written hhi, taking_gov, true_and]

variable (h : Offered s q e 0x0400)
include h

theorem runs_powerSet_low (hlow : entParam e 0x20 32 < 180000) : Runs s q e (.powerSet q e) fun u =>
    complete (capWritten u e true o) q 0x0501 (min (entParam e 0x20 32) s.gov.bmcCap.toNat) 0 :=
  runs_of_meaning h rfl (isOp_of_offered h) ((meaning_powerSet_cap hv hlo hhi ho).trans (if_pos hlow))

theorem runs_powerSet_inForce (hhigh : 180000 ≤ entParam e 0x20 32)
    (heff : s.gov.effCap = min (entParam e 0x20 32) s.gov.bmcCap.toNat) : Runs s q e (.powerSet q e) fun u =>
    complete (capWritten u e true o) q 0 (min (entParam e 0x20 32) s.gov.bmcCap.toNat) 0 :=
  runs_of_meaning h rfl (isOp_of_offered h) ((meaning_powerSet_cap hv hlo hhi ho).trans
    ((if_neg (by omega)).trans (if_neg (not_not_intro heff))))

/-- A cap not yet in force is waited for, its fields written (log 53). -/
theorem exec_powerSet_waits (hhigh : 180000 ≤ entParam e 0x20 32)
    (heff : s.gov.effCap ≠ min (entParam e 0x20 32) s.gov.bmcCap.toNat) : ∃ s', exec (.powerSet q e) s = .next s' ∧
      (∃ k, (s'.sq q).cur = some k ∧ k.waiting = true ∧ k.applied = true) ∧ { s' with host := s.host } = capWritten s e true o := by
  obtain ⟨k, hk, -⟩ := taking_applied s q (.powerSet q e) e
  have hw := taking_wf h.1 q (.powerSet q e) e
  refine ⟨_, exec_of_meaning h rfl (isOp_of_offered h) ((meaning_powerSet_cap hv hlo hhi ho).trans
    ((if_neg (by omega)).trans (if_pos heff))), ⟨{ k with applied := true, waiting := true }, ?_, rfl, rfl⟩, ?_⟩
  · have hsame := State.sq_modSq_same (s := capWritten (taking s q (.powerSet q e) e) e true o) q
      (fun x => { x with cur := x.cur.map fun k => { k with applied := true } }) hw
    exact waitCmd_cur (k := { k with applied := true }) (SMap.wf_set _ _ _ _ hw)
      ((congrArg Sq.cur hsame).trans (congrArg (Option.map fun k : Taken => { k with applied := true }) hk))
  · obtain ⟨b, hb, -⟩ := taking_frame s q (.powerSet q e) e
    rw [hb]
    rfl

end

/-! ## Firmware (R375, R414) -/

/-- FIRMWARE_STAGE of an extent that is served: the package goes to the bank not active, and is staged where it is good. -/
theorem runs_firmwareStage {fw : FwPkg} (h : Offered s q e 0x0600) (hpldm : s.trust.pldmHolds = false)
    (hext : extentOk (entParam e 0x20 64) (entParam e 0x28 32) = true) (hlo : 4096 ≤ entParam e 0x28 32)
    (hhi : entParam e 0x28 32 ≤ 2 ^ 26)
    (hwin : winAll (taking s q (.firmwareStage q e fw true) e) q (entParam e 0x20 64) (entParam e 0x28 32) = (v, true)) :
    let p := winPkg v (entParam e 0x20 64) (entParam e 0x28 32) fw.bytes
    Runs s q e (.firmwareStage q e fw true) fun _ => complete (stageFw v p (fwOk s p)) q (if fwOk s p then 0 else 0x0602)
      (if fwOk s p then (pkgVersion p).toNat else 0) 0 := by
  have hok : ∀ p, fwOk v p = fwOk s p := by
    obtain ⟨b, rfl⟩ := winAll_taking hwin
    exact fun _ => rfl
  have hin : (s.trust.pldmHolds || !extentOk (entParam e 0x20 64) (entParam e 0x28 32) || decide (entParam e 0x28 32 < 4096) ||
      decide (entParam e 0x28 32 > 2 ^ 26)) = false := by
    simp [hpldm, hext]
    omega
  dsimp only
  refine runs_of_meaning h rfl (isOp_of_offered h) ?_
  change serveFirmwareStage _ q e fw true = _
  unfold serveFirmwareStage
  simp only [taking_trust, hin, hwin, hok, Bool.not_true, Bool.false_eq_true, if_false]
  cases fwOk s (winPkg v (entParam e 0x20 64) (entParam e 0x28 32) fw.bytes) <;> rfl

theorem stageFw_frame (s : State) (p : FwPkg) (ok : Bool) : (stageFw s p ok).trust.staged = ok ∧
    (if s.trust.flash.active1 then
        (stageFw s p ok).trust.flash.bank0 = some p ∧ (stageFw s p ok).trust.flash.bank1 = s.trust.flash.bank1
      else (stageFw s p ok).trust.flash.bank1 = some p ∧ (stageFw s p ok).trust.flash.bank0 = s.trust.flash.bank0) ∧
    (stageFw s p ok).tiles = s.tiles ∧ (stageFw s p ok).mem = s.mem := by
  refine ⟨rfl, ?_, rfl, rfl⟩
  simp only [stageFw, State.modTrust]
  split <;> exact ⟨rfl, rfl⟩

theorem runs_firmwareActivate (h : Offered s q e 0x0601) (hbound : s.bound = false) (himage : s.image = none)
    (hstaged : s.trust.staged = true) : ∃ i, Runs s q e (.firmwareActivate q e) fun u =>
      complete { u with trust := { u.trust with restartDue := true } } q 0 i 0 := by
  have hmay : ((taking s q (.firmwareActivate q e) e).bound || (taking s q (.firmwareActivate q e) e).image.isSome ||
      !(taking s q (.firmwareActivate q e) e).trust.staged) = false := by
    simp [taking_bound, hbound, himage, hstaged]
  exact ⟨((stagedPkg (taking s q (.firmwareActivate q e) e)).map fun p => (pkgVersion p).toNat).getD 0,
    runs_of_meaning h rfl (isOp_of_offered h) (if_neg (Bool.eq_false_iff.1 hmay))⟩

/-! ## PORT_CONFIG (R293, R376) -/

/-- An UP port taken out of service fails, DOWN with a free cause (log 3), and the command waits for its recovery. -/
theorem servePortConfig_out (hw : SMap.wf {} s.ports = true) (hact : entParam e 0x21 8 = 0) (hp : entParam e 0x20 8 < 18)
    (hup : (s.port (entParam e 0x20 8)).st = .up) : ∃ m n, servePortConfig s q e = waitCmd { s with ports := m, free := n } q ∧
      (SMap.get {} m (entParam e 0x20 8)).st = .detoured := by
  generalize hpe : entParam e 0x20 8 = p at hp hup ⊢
  obtain ⟨x, hfail⟩ := portFail_up (s := s.draw.2) hup (fldN s.draw.1 0 8)
  obtain ⟨⟨o, d, n, hport⟩, hframe⟩ := sendDirect_withPort (s := s.draw.2) (p := p) hw
    (failed s.draw.2.ns (s.draw.2.port p) (fldN s.draw.1 0 8)) x
  rw [← hfail] at hport hframe
  generalize hu : portFail s.draw.2 p (fldN s.draw.1 0 8) = u at hport hframe
  have hst : (u.port p).st = .detoured := by rw [hport]; rfl
  have hres : (u.port p).resynced = false := by rw [hport]; rfl
  have hus : u = { s with ports := u.ports, free := s.free + 1 } := congrArg (fun w : State => { w with ports := u.ports }) hframe
  refine ⟨u.ports, s.free + 1, ?_, hst⟩
  rw [← hus]
  unfold servePortConfig
  simp [hpe, hact, portUp, hup, show ¬ 18 ≤ p by omega, hu, hst, hres]

theorem exec_portConfigOut (h : Offered s q e 0x0700) (hact : entParam e 0x21 8 = 0) (hp : entParam e 0x20 8 < 18)
    (hup : (s.port (entParam e 0x20 8)).st = .up) : ∃ s', exec (.portConfigOut q e) s = .next s' ∧
      (s'.port (entParam e 0x20 8)).st = .detoured ∧ (∃ k, (s'.sq q).cur = some k ∧ k.waiting = true) ∧
      s'.tiles = s.tiles ∧ s'.mem = s.mem ∧ s'.stg = s.stg := by
  obtain ⟨k, hk, -⟩ := taking_cur s q (.portConfigOut q e) e
  have hsqs := taking_wf h.1 q (.portConfigOut q e) e
  have hports : (taking s q (.portConfigOut q e) e).ports = s.ports := taking_ports ..
  obtain ⟨m, n, hserve, hst⟩ := servePortConfig_out (s := taking s q (.portConfigOut q e) e) (q := q)
    (by rw [hports]; exact h.1.ports) hact hp (by rw [State.port, hports]; exact hup)
  refine ⟨_, exec_of_meaning h rfl (by simp [isOp_of_offered h, hact]) hserve, hst, ⟨_, waitCmd_cur hsqs hk, rfl⟩, ?_⟩
  obtain ⟨b, hb, -⟩ := taking_frame s q (.portConfigOut q e) e
  rw [hb]
  exact ⟨rfl, rfl, rfl⟩

theorem runs_portConfigReturn (h : Offered s q e 0x0700) (hact : entParam e 0x21 8 = 1) (hp : entParam e 0x20 8 < 18)
    (hst : (s.port (entParam e 0x20 8)).st = .up ∨ (s.port (entParam e 0x20 8)).st = .wait) :
    Runs s q e (.portConfigReturn q e) fun u => complete u q 0 (fpStatus u (entParam e 0x20 8)) 0 := by
  refine runs_of_meaning h rfl (by simp [isOp_of_offered h, hact]) ?_
  change servePortConfig _ q e = _
  obtain ⟨b, hb, -⟩ := taking_frame s q (.portConfigReturn q e) e
  have hport : (taking s q (.portConfigReturn q e) e).port (entParam e 0x20 8) = s.port (entParam e 0x20 8) := by rw [hb]; rfl
  unfold servePortConfig
  rcases hst with hst | hst <;> simp [hact, hport, portUp, hst, show ¬ 18 ≤ entParam e 0x20 8 by omega]

end

/-- Settles O36: what POWER_SET writes is `capWritten`, and what follows depends on the cap in force; a package goes to its bank with
`stageFw`; a port out of service fails as any UP port does. -/
theorem settingsCommandsAct : Obligations.SettingsCommandsAct := by
  refine fun s q e => ⟨fun h => ⟨fun hv horder => ?order, fun both hv hlo hhi horder => ?cap⟩,
    fun fw v h hpldm hext hlo hhi hwin => ?stage, runs_firmwareActivate, exec_portConfigOut, runs_portConfigReturn⟩
  case order => exact runs_powerSet_order h hv horder
  case cap =>
    have hv' : entParam e 0x25 8 = true.toNat + 2 * both.toNat := by rw [hv]; cases both <;> rfl
    exact ⟨runs_powerSet_low hv' hlo hhi horder h, runs_powerSet_inForce hv' hlo hhi horder h,
      exec_powerSet_waits hv' hlo hhi horder h⟩
  case stage =>
    refine ⟨_, runs_firmwareStage h hpldm hext hlo hhi hwin, ?_⟩
    obtain ⟨b, rfl⟩ := winAll_taking hwin
    exact stageFw_frame { s with host := b } _ _

end Sys2Proof.Machine
end

section
/-! SUPPORT. The session's opening and end, the image's load, and the job's binding and release: O33. -/

namespace Sys2Proof.Machine
open Sys2Proof.Claims

section
variable {s u v : State} {q : Nat} {c : Instr} {e : BitVec 2048}

/-! ## Opening messages and their fragments (R366, R424, R425) -/

/-- The nonce that an opening message answers. -/
def openNonce (msg : List Byte) : List Byte := (msg.drop 8).take 32

/-- An opening message has its length and magic, and answers a nonce that ATTEST took (R424). -/
def Asked (s : State) (msg : List Byte) : Prop :=
  msg.length = 1688 ∧ leNat (msg.take 4) = 0x4F535A54 ∧ ∃ x ∈ s.trust.nonces, leBytes 32 x.toNat = openNonce msg

/-- The secret that the message's ciphertext shares under key pair `k`. -/
def openShared (msg : List Byte) (k : Nat) : Beat := (Config.kemDecap k ((msg.drop 0x28).take 1568)).setWidth 512

/-- The job secret that the message seals; none where its tag fails. -/
def openSecret (msg : List Byte) (k : Nat) : Option (List Byte) :=
  gcmOpen (kdf 256 (openShared msg k) (openNonce msg) "ZT-B4480 JS") (leBytes 12 0) (msg.take 0x648)
    ((msg.drop 0x648).take 32) ((msg.drop 0x668).take 16)

/-- The nonce that the device answers with. -/
def openDraw (s : State) : List Byte := leBytes 32 (Config.trng s.trust.draws).toNat

/-- The session's key (R425). -/
def openKey (s : State) (msg : List Byte) (k : Nat) : Beat :=
  kdf 256 (openShared msg k) (openDraw s ++ openNonce msg) "ZT-B4480 SESSION"

/-- The message as `openSession` tests it. -/
theorem asked_iff (s : State) (msg : List Byte) : Asked s msg ↔
    (msg.length != 1688 || leNat (msg.take 4) != 0x4F535A54 ||
      !(s.trust.nonces.any fun n => leBytes 32 n.toNat == (msg.drop 8).take 32)) = false := by
  simp only [Asked, openNonce, Bool.or_eq_false_iff, bne_eq_false_iff_eq, Bool.not_eq_false', List.any_eq_true, beq_iff_eq, and_assoc]

/-- A message that is asked for and opens gives the session with its reply. -/
theorem openSession_opened {handle k : Nat} {msg js : List Byte} (hasked : Asked s msg) (hkem : s.trust.kem = some k)
    (hopen : openSecret msg k = some js) : openSession s handle msg = some
      (extend (s.modTrust fun t => { t with draws := t.draws + 1, session := some (handle, openKey s msg k, beatOf js, 0) }) 6
        (Config.shake256 msg), leBytes 4 handle ++ leBytes 4 0 ++ openDraw s ++
          (beatBytes (kdf 256 (openKey s msg k) (beatBytes (Config.shake256 msg)) "ZT-B4480 CONFIRM")).take 32) := by
  unfold openSecret openShared openNonce at hopen
  unfold openSession
  simp only [(asked_iff s msg).1 hasked, hkem, hopen]
  rfl

/-- Any other message gives none. -/
theorem openSession_refused {handle : Nat} {msg : List Byte}
    (h : Asked s msg → s.trust.kem = none ∨ ∃ k, s.trust.kem = some k ∧ openSecret msg k = none) :
    openSession s handle msg = none := by
  unfold openSession
  dsimp only
  split
  · rfl
  next hasked =>
    rcases h ((asked_iff s msg).2 (Bool.eq_false_iff.2 hasked)) with hkem | ⟨k, hkem, hopen⟩
    · rw [hkem]
    · unfold openSecret openShared openNonce at hopen
      simp only [hkem, hopen]

theorem addFragment_more {f : Frags} (h : f.bytes.length < f.msglen) (first : Bool) : addFragment s q f first =
    complete (s.modTrust fun t => { t with frags := some f }) q 0 (if first then f.handle else f.bytes.length) 0 := if_pos h

/-- The last fragment has its message processed. -/
theorem addFragment_last {f : Frags} {r : List Byte} (h : f.bytes.length = f.msglen) (first : Bool)
    (hopen : openSession (s.modTrust fun t => { t with frags := none }) f.handle f.bytes = some (v, r)) :
    addFragment s q f first = complete v q 0 f.handle 0 (some r) := by
  rw [addFragment, if_neg (by omega), hopen]

theorem addFragment_refused {f : Frags} (h : f.bytes.length = f.msglen) (first : Bool)
    (hopen : openSession (s.modTrust fun t => { t with frags := none }) f.handle f.bytes = none) :
    addFragment s q f first = badFragment s q 0x0202 := by
  rw [addFragment, if_neg (by omega), hopen]

/-- A first fragment in order takes the next handle. -/
theorem serveSessionOpen_first (hfrags : s.trust.frags = none) (hsession : s.trust.session = none) (hoff : entParam e 0x24 32 = 0)
    (hent : entSession e = 0) (hlen : (entPayload e).length < entParam e 0x20 32) (hmax : entParam e 0x20 32 ≤ 8192) :
    serveSessionOpen s q e = addFragment (s.modTrust fun t => { t with nextHandle := s.trust.nextHandle + 1 }) q
      ⟨q, s.trust.nextHandle, entParam e 0x20 32, entPayload e⟩ true := by
  have hin : (s.trust.session.isSome || decide (entParam e 0x20 32 = 0) || decide (entParam e 0x20 32 > 8192) ||
      entParam e 0x24 32 != 0 || entSession e != 0 || decide ((entPayload e).length > entParam e 0x20 32)) = false := by
    simp [hsession, hoff, hent]
    omega
  unfold serveSessionOpen
  simp only [hfrags, hin, Bool.false_eq_true, if_false]

/-- A later fragment that fits goes after what is held. -/
theorem serveSessionOpen_next {f : Frags} (hfrags : s.trust.frags = some f) (hqueue : f.queue = q)
    (hlen : f.msglen = entParam e 0x20 32) (hoff : f.bytes.length = entParam e 0x24 32) (hent : entSession e = f.handle)
    (hmax : (f.bytes ++ entPayload e).length ≤ f.msglen) :
    serveSessionOpen s q e = addFragment s q { f with bytes := f.bytes ++ entPayload e } false := by
  rw [List.length_append, hlen, hoff] at hmax
  have hin : (f.queue != q || f.msglen != entParam e 0x20 32 || f.bytes.length != entParam e 0x24 32 || entSession e != f.handle ||
      decide (entParam e 0x24 32 + (entPayload e).length > entParam e 0x20 32)) = false := by
    simp [hqueue, hlen, hoff, hent]
    omega
  unfold serveSessionOpen
  simp only [hfrags, hin, Bool.false_eq_true, if_false]

theorem runs_sessionOpen_first (h : Offered s q e 0x0100) (hfrags : s.trust.frags = none) (hsession : s.trust.session = none)
    (hoff : entParam e 0x24 32 = 0) (hent : entSession e = 0) (hlen : (entPayload e).length < entParam e 0x20 32)
    (hmax : entParam e 0x20 32 ≤ 8192) : Runs s q e (.sessionOpen q e) fun u => complete { u with trust := { u.trust with
      nextHandle := s.trust.nextHandle + 1
      frags := some ⟨q, s.trust.nextHandle, entParam e 0x20 32, entPayload e⟩ } } q 0 s.trust.nextHandle 0 := by
  refine runs_of_meaning h rfl (isOp_of_offered h) ?_
  have htrust := taking_trust s q (.sessionOpen q e) e
  generalize taking s q (.sessionOpen q e) e = u at htrust ⊢
  rw [← htrust] at hfrags hsession ⊢
  exact (serveSessionOpen_first hfrags hsession hoff hent hlen hmax).trans (addFragment_more hlen true)

section
variable {f : Frags} (h : Offered s q e 0x0100) (hfrags : s.trust.frags = some f) (hqueue : f.queue = q)
  (hlen : f.msglen = entParam e 0x20 32) (hoff : f.bytes.length = entParam e 0x24 32) (hent : entSession e = f.handle)
include h hfrags hqueue hlen hoff hent

theorem runs_sessionOpen_next (hmore : (f.bytes ++ entPayload e).length < f.msglen) : Runs s q e (.sessionOpen q e) fun u =>
    complete { u with trust := { u.trust with frags := some { f with bytes := f.bytes ++ entPayload e } } } q 0
      (f.bytes ++ entPayload e).length 0 :=
  runs_of_meaning h rfl (isOp_of_offered h) ((serveSessionOpen_next (by rwa [taking_trust]) hqueue hlen hoff hent hmore.le).trans
    (addFragment_more hmore false))

theorem runs_sessionOpen_opened {k : Nat} {js : List Byte} (hlast : (f.bytes ++ entPayload e).length = f.msglen)
    (hasked : Asked s (f.bytes ++ entPayload e)) (hkem : s.trust.kem = some k)
    (hopen : openSecret (f.bytes ++ entPayload e) k = some js) :
    let msg := f.bytes ++ entPayload e
    let digest := Config.shake256 msg
    Runs s q e (.sessionOpen q e) fun u => complete { u with trust := { u.trust with
      frags := none, draws := u.trust.draws + 1, session := some (f.handle, openKey s msg k, beatOf js, 0)
      meas := SMap.upd 0 u.trust.meas 6 fun m => Config.shake256 (beatBytes m ++ beatBytes digest) } } q 0 f.handle 0
      (some (leBytes 4 f.handle ++ leBytes 4 0 ++ openDraw s ++
        (beatBytes (kdf 256 (openKey s msg k) (beatBytes digest) "ZT-B4480 CONFIRM")).take 32)) := by
  intro msg digest
  refine runs_of_meaning h rfl (isOp_of_offered h) ?_
  have htrust := taking_trust s q (.sessionOpen q e) e
  generalize taking s q (.sessionOpen q e) e = u at htrust ⊢
  have hasked' : Asked (u.modTrust fun t => { t with frags := none }) msg := by
    rw [Asked, State.modTrust, htrust]
    exact hasked
  have hkey : openKey (u.modTrust fun t => { t with frags := none }) msg k = openKey s msg k := by
    rw [openKey, openDraw, State.modTrust, htrust]
    rfl
  have hdraw : openDraw (u.modTrust fun t => { t with frags := none }) = openDraw s := by
    rw [openDraw, State.modTrust, htrust]
    rfl
  have hopened := openSession_opened (handle := f.handle) hasked' (by rw [State.modTrust, htrust]; exact hkem) hopen
  rw [hkey, hdraw] at hopened
  exact (serveSessionOpen_next (by rwa [htrust]) hqueue hlen hoff hent hlast.le).trans (addFragment_last hlast false hopened)

theorem runs_sessionOpen_refused (hlast : (f.bytes ++ entPayload e).length = f.msglen)
    (hno : Asked s (f.bytes ++ entPayload e) →
      s.trust.kem = none ∨ ∃ k, s.trust.kem = some k ∧ openSecret (f.bytes ++ entPayload e) k = none) :
    Runs s q e (.sessionOpen q e) fun u => complete { u with trust := { u.trust with frags := none } } q 0x0202 0 0 := by
  refine runs_of_meaning h rfl (isOp_of_offered h) ?_
  have htrust := taking_trust s q (.sessionOpen q e) e
  generalize taking s q (.sessionOpen q e) e = u at htrust ⊢
  refine (serveSessionOpen_next (by rwa [htrust]) hqueue hlen hoff hent hlast.le).trans
    (addFragment_refused hlast false (openSession_refused ?_))
  rw [Asked, State.modTrust, htrust]
  exact hno

end

/-! ## The session closed, the image unloaded -/

theorem runs_sessionClose (h : Offered s q e 0x0101) (hbound : s.bound = false) (himage : s.image = none) :
    Runs s q e (.sessionClose q e) fun u =>
      complete { u with trust := { u.trust with session := none, frags := none, meas := SMap.set 0 u.trust.meas 6 0 } } q 0 0 0 :=
  runs_of_meaning h rfl (isOp_of_offered h) (if_neg (by simp [taking_bound, hbound, himage]))

theorem runs_imageUnload (h : Offered s q e 0x0201) (himage : s.image.isSome = true) (hbound : s.bound = false) :
    Runs s q e (.imageUnload q e) fun u =>
      complete { u with image := none, trust := { u.trust with meas := SMap.set 0 u.trust.meas 4 0 } } q 0 0 0 := by
  have hsome : s.image ≠ none := Option.isSome_iff_ne_none.1 himage
  exact runs_of_meaning h rfl (isOp_of_offered h) (if_neg (by simp [taking_bound, hbound, hsome]))

/-! ## JOB_RELEASE (R369) -/

/-- What unbinding a job keeps and what it clears. -/
theorem unbind_leaves (h : s.bound = true) : (unbind s).stg.st = .unbound ∧ (unbind s).job = none ∧ (unbind s).trust.jobKeys = none ∧
    (unbind s).trust.fabricKey = none ∧ (unbind s).mem.scrub = true ∧ (unbind s).image = s.image ∧
    (unbind s).mem.dram = s.mem.dram := by
  have hlast := lasting_unbind h
  simp only [lasting, Prod.mk.injEq] at hlast
  obtain ⟨hst, himage, -⟩ := hlast
  obtain ⟨hjob, hkeys, hfabric⟩ := unbind_job h
  have hmem : (leaveJob s).mem = s.mem := by
    obtain ⟨_, _, _, _, hleft⟩ := leaveJob_sent s
    rw [hleft]
  have hleft : (unbind s).mem.scrub = true ∧ (unbind s).mem.dram = (leaveJob s).mem.dram := by
    unfold unbind
    rw [if_neg (by simp [h])]
    exact ⟨rfl, rfl⟩
  exact ⟨hst, hjob, hkeys, hfabric, hleft.1, himage, hleft.2.trans (by rw [hmem])⟩

/-- No other queue holds a command just after one is taken of a free module. -/
theorem jobQueues_taking {op : Nat} (h : Offered s q e op) (c : Instr) : jobQueues (taking s q c e) q = [] := by
  obtain ⟨-, -, -, -, hfree, -⟩ := h
  refine List.filter_eq_nil_iff.2 fun i _ => ?_
  by_cases hi : i = q
  · simp [hi]
  · simp [taking_sq_other hi, hfree i]

/-- Alone among the queues, a release in IDLE or by force unbinds the job and completes, its CQ's interrupt the turn's only one. -/
theorem serveJobRelease_alone {k : Taken} (hk : (s.sq q).cur = some k) (hbound : s.bound = true) (halone : jobQueues s q = [])
    (hmay : bitB e 0x100 = true ∨ s.stg.st = .idle) :
    serveJobRelease s q e = complete (unbind (if bitB e 0x100 then freezeAll s else s)) q 0 0 0 := by
  have hin : (!s.bound || (!bitB e 0x100 && (s.stg.st != .idle || !(jobQueues s q).isEmpty))) = false := by
    rcases hmay with hmay | hmay <;> simp [hbound, halone, hmay]
  have hqueues : queues (unbind (if bitB e 0x100 then freezeAll s else s)) = queues s := by
    rw [queues_unbind]
    split
    · exact queues_freezeAll
    · rfl
  have hcur : ((unbind (if bitB e 0x100 then freezeAll s else s)).sq q).cur = some k := by
    rw [← hk]
    exact congrArg (fun x : SMap Sq × SMap Cq => (SMap.get {} x.1 q).cur) hqueues
  have hcqs : cqsOf s [q] = [k.cq] := by simp [cqsOf, hk, List.eraseDups_cons]
  unfold serveJobRelease
  dsimp only
  rw [if_neg (Bool.eq_false_iff.1 hin), halone, List.nil_append, hcqs, complete, hcur]
  rfl

theorem runs_jobRelease {op : Nat} {row : Bool} (h : Offered s q e op) (hexec : exec c s = .next (command s q c e row)) (hrow : row = true)
    (hmean : meaning (taking s q c e) q e c = serveJobRelease (taking s q c e) q e) (hbound : s.bound = true)
    (hmay : bitB e 0x100 = true ∨ s.stg.st = .idle) : ∃ v, Runs s q e c (fun _ => complete v q 0 0 0) ∧
      v.stg.st = .unbound ∧ v.job = none ∧ v.trust.jobKeys = none ∧ v.trust.fabricKey = none ∧ v.mem.scrub = true ∧
      v.image = s.image ∧ v.mem.dram = s.mem.dram := by
  obtain ⟨k, hk, -⟩ := taking_cur s q c e
  obtain ⟨b, hb, -⟩ := taking_frame s q c e
  have halone := jobQueues_taking h c
  refine ⟨_, runs_of_meaning h hexec hrow (hmean.trans (serveJobRelease_alone hk ((taking_bound ..).trans hbound) halone ?_)), ?_⟩
  · rw [hb]
    exact hmay
  · obtain ⟨g, hg, -⟩ := freezeAll_frame { s with host := b }
    rw [hb]
    split
    · rw [hg]
      exact unbind_leaves (s := { s with host := b, gangs := g }) hbound
    · exact unbind_leaves (s := { s with host := b }) hbound

/-! ## IMAGE_LOAD (R367, R428) -/

section
variable {bytes : SMap Byte} {tags : Tags}

/-- The parameters of an IMAGE_LOAD are in range, and no image is kept (R367). -/
structure LoadOk (s : State) (e : BitVec 2048) : Prop where
  none_kept : s.image = none
  extent : extentOk (entParam e 0x20 64) (entParam e 0x28 64) = true
  least : 256 ≤ entParam e 0x28 64
  most : entParam e 0x28 64 ≤ 2 ^ 34
  aligned : entParam e 0x30 64 % 0x10000 = 0
  near : nearRange true (entParam e 0x30 64) (roundUp (entParam e 0x28 64) 0x10000) = true

/-- The image kept from `keep` on, and measured (R367, R422). -/
def imageKept (v : State) (keep size : Nat) (img : Image) : State :=
  extend (rangePut { v with image := some ⟨img, keep, size⟩ } keep size img.raw) 4 img.digest

theorem imageKept_leaves (v : State) (keep size : Nat) (plain : SMap Byte) : let img := imageOf plain
    let w := imageKept v keep size img
    w.image = some ⟨img, keep, size⟩ ∧ w.mem = (rangePut v keep size plain).mem ∧
    w.trust = { v.trust with meas := SMap.upd 0 v.trust.meas 4 fun m => Config.shake256 (beatBytes m ++ beatBytes img.digest) } ∧
    { w with image := v.image, mem := v.mem, trust := v.trust } = v := ⟨rfl, rfl, rfl, rfl⟩

theorem LoadOk.passes (h : LoadOk s e) : (s.image.isSome || !extentOk (entParam e 0x20 64) (entParam e 0x28 64) ||
    decide (entParam e 0x28 64 < 256) || decide (entParam e 0x28 64 > 2 ^ 34) || entParam e 0x30 64 % 0x10000 != 0 ||
    !nearRange true (entParam e 0x30 64) (roundUp (entParam e 0x28 64) 0x10000)) = false := by
  obtain ⟨hnone, hext, hlo, hhi, hkeep, hnear⟩ := h
  simp [hnone, hext, hkeep, hnear]
  omega

section
variable (h : LoadOk s e) (hwin : winAll s q (entParam e 0x20 64) (entParam e 0x28 64) = (v, true))
include h hwin

/-- A tag that fails after `n` bytes ends the load with the bytes before it at KEEP. -/
theorem serveImageLoad_stopped {n : Nat} (htag : tagStop tags (entParam e 0x20 64) (entParam e 0x28 64) = some n) :
    serveImageLoad s q e bytes tags = complete (if n = 0 then v else
      rangePut v (entParam e 0x30 64) n (winPlain v (entParam e 0x20 64) (entParam e 0x28 64) bytes)) q 0x0202 n 0 := by
  unfold serveImageLoad
  simp only [h.passes, hwin, htag, Bool.not_true, Bool.false_eq_true, if_false]

/-- An image whose tags pass, in order and authenticated, is kept. -/
theorem serveImageLoad_kept (htag : tagStop tags (entParam e 0x20 64) (entParam e 0x28 64) = none) {img : Image}
    (himg : img = imageOf (winPlain v (entParam e 0x20 64) (entParam e 0x28 64) bytes))
    (hok : imageOk img (entParam e 0x28 64) = true) (hauth : imageAuthOk v img = true) :
    serveImageLoad s q e bytes tags = complete (imageKept v (entParam e 0x30 64) (entParam e 0x28 64) img) q 0 img.imageSize 0
      (some (beatBytes img.digest)) := by
  subst himg
  unfold serveImageLoad
  simp only [h.passes, hwin, htag, hok, hauth, Bool.not_true, Bool.false_eq_true, if_false]
  rfl

end

theorem LoadOk.taking (h : LoadOk s e) (c : Instr) : LoadOk (taking s q c e) e :=
  ⟨(taking_image ..).trans h.none_kept, h.extent, h.least, h.most, h.aligned, h.near⟩

/-- A check pass that fails, or a first granule that does, writes nothing. -/
theorem tagStop_nothing {woff size : Nat} (h : tags = .failCheck ∨ tags = .failWrite 0) (hsize : 0 < size) :
    tagStop tags woff size = some 0 := by
  have hbytes : bytesBefore woff 0 = 0 := by unfold bytesBefore; omega
  rcases h with rfl | rfl
  · rfl
  · rw [tagStop, hbytes, if_pos hsize]

/-- The bytes before a later granule whose tag fails. -/
theorem tagStop_after {woff size g : Nat} (h : 512 * (g + 1) - woff % 512 < size) :
    tagStop (.failWrite (g + 1)) woff size = some (512 * (g + 1) - woff % 512) := by
  have hbytes : bytesBefore woff (g + 1) = 512 * (g + 1) - woff % 512 := by unfold bytesBefore; omega
  rw [tagStop, hbytes, if_pos h]

section
variable (h : Offered s q e 0x0200) (hload : LoadOk s e)
  (hwin : winAll (taking s q (.imageLoad q e bytes tags) e) q (entParam e 0x20 64) (entParam e 0x28 64) = (v, true))
include h hload hwin

theorem exec_imageLoad_kept (htags : tags = .pass) {img : Image}
    (himg : img = imageOf (winPlain v (entParam e 0x20 64) (entParam e 0x28 64) bytes))
    (hok : imageOk img (entParam e 0x28 64) = true) (hauth : imageAuthOk s img = true) :
    exec (.imageLoad q e bytes tags) s = .next (complete (imageKept v (entParam e 0x30 64) (entParam e 0x28 64) img) q 0 img.imageSize 0
      (some (beatBytes img.digest))) := by
  have hauth' : imageAuthOk v img = true := by
    obtain ⟨b, rfl⟩ := winAll_taking hwin
    exact hauth
  exact exec_of_meaning h rfl (isOp_of_offered h) (serveImageLoad_kept (hload.taking _) hwin (by rw [htags]; rfl) himg hok hauth')

theorem exec_imageLoad_nothing (htags : tags = .failCheck ∨ tags = .failWrite 0) :
    exec (.imageLoad q e bytes tags) s = .next (complete v q 0x0202 0 0) :=
  exec_of_meaning h rfl (isOp_of_offered h)
    (serveImageLoad_stopped (hload.taking _) hwin (tagStop_nothing htags (Nat.lt_of_lt_of_le (by decide) hload.least)))

theorem exec_imageLoad_stopped {g : Nat} (htags : tags = .failWrite (g + 1))
    (hn : 512 * (g + 1) - entParam e 0x20 64 % 512 < entParam e 0x28 64) :
    exec (.imageLoad q e bytes tags) s = .next (complete (rangePut v (entParam e 0x30 64) (512 * (g + 1) - entParam e 0x20 64 % 512)
      (winPlain v (entParam e 0x20 64) (entParam e 0x28 64) bytes)) q 0x0202 (512 * (g + 1) - entParam e 0x20 64 % 512) 0) := by
  subst htags
  refine exec_of_meaning h rfl (isOp_of_offered h) ((serveImageLoad_stopped (hload.taking _) hwin (tagStop_after hn)).trans ?_)
  rw [if_neg (by omega)]

end

end

/-! ## JOB_BIND (R368, R179) -/

/-- HELLO at the ports changes ports and the ledger alone (R298). -/
theorem sayHello_keeps {α : Type} (f : State → α) (hf : ∀ (s : State) m g, f { s with ports := m, flt := g } = f s) (s : State) :
    f (sayHello s) = f s := by
  refine foldl_keep (P := fun u => f u = f s) _ _ (fun u p h => ?_) s rfl
  split
  · refine Eq.trans ?_ h
    unfold matchHello
    dsimp only
    repeat' split
    · exact hf u _ _
    · exact hf u _ _
    · obtain ⟨r, n, k, d, hlog⟩ := ledger_frame
        ((sendCtl u p (helloFlit u p)).modPort p fun x => { x with helloBad := true }) 2 3 0x0306 p (fldN ‹Beat› 8 16 + fldN ‹Beat› 24 8 * 2 ^ 16) (by decide)
      rw [hlog]
      exact hf u _ _
    · exact hf u _ _
    · exact hf u _ _
  · exact h

/-- Values stored at keys, each the key's own: a key of the list reads its value, any other what was there. -/
theorem SMap.get_foldl_set_own {α : Type} [DecidableEq α] (d : α) (x : Nat → α) (l : List Nat) (m : SMap α) (h : SMap.wf d m = true)
    (t : Nat) : SMap.get d (l.foldl (fun m t => SMap.set d m t (x t)) m) t = if t ∈ l then x t else SMap.get d m t := by
  induction l generalizing m with
  | nil => rfl
  | cons a l ih =>
    rw [List.foldl_cons, ih _ (SMap.wf_set _ _ _ _ h)]
    by_cases hl : t ∈ l
    · simp [hl]
    · by_cases ha : t = a
      · subst ha
        simp [hl, SMap.get_set_same _ _ _ _ h]
      · simp [hl, ha, SMap.get_set_other _ _ _ _ _ ha]

/-- A tile without a job but for the faults found in it. -/
def faultsOnly (x : Tile) : Tile := { failing := x.failing, hardFail := x.hardFail }

/-- The tiles that keep a fault through a bind. -/
def faultyTiles (s : State) : SMap Tile :=
  s.tiles.filterMap fun e => if e.2.failing || e.2.hardFail then some (e.1, faultsOnly e.2) else none

theorem faultsOnly_sound {x : Tile} (h : (x.failing || x.hardFail) = false) : faultsOnly x = {} := by
  obtain ⟨hf, hh⟩ := Bool.or_eq_false_iff.1 h
  rw [faultsOnly, hf, hh]

theorem wf_faultyTiles (hw : SMap.wf {} s.tiles = true) : SMap.wf {} (faultyTiles s) = true := by
  refine SMap.wf_filterMap _ _ _ _ hw fun e r hr => ?_
  split at hr
  next hfault =>
    obtain rfl := Option.some.inj hr
    refine ⟨rfl, fun h => ?_⟩
    have hf : e.2.failing = false := congrArg Tile.failing h
    have hh : e.2.hardFail = false := congrArg Tile.hardFail h
    simp [hf, hh] at hfault
  next => cases hr

theorem faultyTiles_get (hw : SMap.wf {} s.tiles = true) (t : Nat) : SMap.get {} (faultyTiles s) t = faultsOnly (s.tile t) := by
  cases hfault : (s.tile t).failing || (s.tile t).hardFail with
  | true =>
    have hmem : (t, s.tile t) ∈ s.tiles := (SMap.get_mem ({} : Tile) s.tiles t).resolve_left fun h => by
      rw [State.tile, h] at hfault
      cases hfault
    exact SMap.get_of_mem _ _ _ _ (wf_faultyTiles hw) (List.mem_filterMap.2 ⟨_, hmem, if_pos hfault⟩)
  | false =>
    rw [faultsOnly_sound hfault]
    refine (SMap.get_mem ({} : Tile) (faultyTiles s) t).resolve_right fun h => ?_
    obtain ⟨e, he, hsome⟩ := List.mem_filterMap.1 h
    split at hsome
    next hbad =>
      obtain rfl : e.1 = t := congrArg Prod.fst (Option.some.inj hsome)
      rw [State.tile, SMap.get_of_mem _ _ _ _ hw he] at hfault
      rw [hfault] at hbad
      cases hbad
    next => cases hsome

/-- A tile as a job starts with it. -/
def boundTile (s : State) (img : Image) (t : Nat) : Tile := { loadTile (imgTile img t) {} with
  gang := some (SMap.get 0 img.tileMap t), press := [{ id := 0 }], failing := (s.tile t).failing, hardFail := (s.tile t).hardFail }

/-- Binding writes every tile: those of the tile map as the image gives them, over those that keep a fault (R430). -/
theorem bindTiles_eq (s : State) (img : Image) : bindTiles s img = { s with
    tiles := (mappedTiles img).foldl (fun m t => SMap.set {} m t (boundTile s img t)) (faultyTiles s)
    gangs := [], wires := [], crossing := [] } := rfl

theorem bindTiles_frame (s : State) (img : Image) : ∃ m, bindTiles s img = { s with
    tiles := m, gangs := [], wires := [], crossing := [] } := ⟨_, rfl⟩

theorem bindTiles_tile (hw : SMap.wf {} s.tiles = true) (img : Image) (t : Nat) :
    (bindTiles s img).tile t = if t ∈ mappedTiles img then boundTile s img t else faultsOnly (s.tile t) := by
  rw [bindTiles_eq, State.tile, SMap.get_foldl_set_own _ _ _ _ (wf_faultyTiles hw)]
  by_cases ht : t ∈ mappedTiles img
  · rw [if_pos ht, if_pos ht]
  · rw [if_neg ht, if_neg ht, faultyTiles_get hw]

theorem doBind_tiles (s : State) (k : Kept) (cfg : JobCfg) : (doBind s k cfg).tiles = (bindTiles s k.img).tiles := by
  obtain ⟨m, hm⟩ := bindTiles_frame s k.img
  have htiles : (bindTiles s k.img).tiles = m := congrArg State.tiles hm
  rw [htiles]
  unfold doBind
  extract_lets img js kf b
  have hb : b = _ := hm
  clear_value b
  subst hb
  exact sayHello_keeps State.tiles (fun _ _ _ => rfl) _

/-- What the job's binding sets (R368), and what it leaves. -/
theorem doBind_leaves (s : State) (k : Kept) (cfg : JobCfg) : let w := doBind s k cfg
    w.job = some cfg ∧ w.stg.st = .idle ∧ w.stg.step = cfg.step ∧ w.stg.parity = cfg.parity ∧
    w.stg.deadlineUs = BitVec.ofNat 32 cfg.deadlineUs ∧ w.cm.parent = cfg.parent ∧ w.cm.child = BitVec.ofNat 18 cfg.child ∧
    w.cm.jobSize = cfg.jobSize ∧ w.pc.ladder = bindLadder (ladderWords k.img cfg) ∧ w.tm.incr = jobIncr s.tm.incr ∧
    w.mem.dram = s.mem.dram ∧ w.image = s.image := by
  refine ⟨sayHello_keeps State.job (fun _ _ _ => rfl) _, sayHello_keeps (·.stg.st) (fun _ _ _ => rfl) _,
    sayHello_keeps (·.stg.step) (fun _ _ _ => rfl) _, sayHello_keeps (·.stg.parity) (fun _ _ _ => rfl) _,
    sayHello_keeps (·.stg.deadlineUs) (fun _ _ _ => rfl) _, sayHello_keeps (·.cm.parent) (fun _ _ _ => rfl) _,
    sayHello_keeps (·.cm.child) (fun _ _ _ => rfl) _, sayHello_keeps (·.cm.jobSize) (fun _ _ _ => rfl) _,
    sayHello_keeps (·.pc.ladder) (fun _ _ _ => rfl) _, sayHello_keeps (·.tm.incr) (fun _ _ _ => rfl) _,
    sayHello_keeps (·.mem.dram) (fun _ _ _ => rfl) _, ?_⟩
  cases s
  exact sayHello_keeps State.image (fun _ _ _ => rfl) _

theorem doBind_tile (hw : SMap.wf {} s.tiles = true) (k : Kept) (cfg : JobCfg) (t : Nat) :
    (doBind s k cfg).tile t = if t ∈ mappedTiles k.img then boundTile s k.img t else faultsOnly (s.tile t) := by
  rw [← bindTiles_tile hw, State.tile, doBind_tiles, State.tile]

/-- A JOB_BIND of the kept image `k` has its parameters in range, and neither the scrub nor the bring-up to wait for (R361, R467). -/
structure BindReady (s : State) (k : Kept) (e : BitVec 2048) : Prop where
  image : s.image = some k
  unbound : s.bound = false
  extent : extentOk (entParam e 0x20 64) (entParam e 0x28 32) = true
  least : 0x1100 ≤ entParam e 0x28 32
  most : entParam e 0x28 32 ≤ 2 ^ 22
  scrubbed : s.mem.scrub = false
  full : s.pins.full = true

theorem BindReady.taking {k : Kept} (h : BindReady s k e) (c : Instr) : BindReady (taking s q c e) k e := by
  obtain ⟨b, hb, -⟩ := taking_frame s q c e
  rw [hb]
  exact ⟨h.image, h.unbound, h.extent, h.least, h.most, h.scrubbed, h.full⟩

/-- A configuration in order binds the job, the image being read once more. -/
theorem serveJobBind_bound {k : Kept} {bytes : SMap Byte} {cfg : JobCfg} (h : BindReady s k e)
    (hwin : winAll s q (entParam e 0x20 64) (entParam e 0x28 32) = (v, true))
    (hcfg : cfg = jobCfgOf (winPlain v (entParam e 0x20 64) (entParam e 0x28 32) bytes) (entParam e 0x28 32))
    (hok : bindOk (countReads v k.keep k.size) (keptNow v k) cfg (entParam e 0x28 32) = true) :
    let w := doBind (countReads v k.keep k.size) (keptNow v k) cfg
    serveJobBind s q e bytes .pass = complete w q 0 (portsUp w) 0 := by
  intro w
  obtain ⟨himage, hbound, hext, hlo, hhi, hscrub, hfull⟩ := h
  obtain ⟨hkeep, hsize⟩ := keptNow_place v k
  have hin : (s.bound || !extentOk (entParam e 0x20 64) (entParam e 0x28 32) || decide (entParam e 0x28 32 < 0x1100) ||
      decide (entParam e 0x28 32 > 2 ^ 22)) = false := by
    simp [hbound, hext]
    omega
  have hwait : (s.mem.scrub || !s.pins.full) = false := by simp [hscrub, hfull]
  subst hcfg
  unfold serveJobBind
  simp only [himage, hin, hwait, hwin, tagStop, hkeep, hsize, hok, Bool.not_true, Bool.false_eq_true, if_false]
  rfl

theorem exec_jobBind {k : Kept} {bytes : SMap Byte} {cfg : JobCfg} (h : Offered s q e 0x0210) (hready : BindReady s k e)
    (hwin : winAll (taking s q (.jobBind q e bytes .pass) e) q (entParam e 0x20 64) (entParam e 0x28 32) = (v, true))
    (hcfg : cfg = jobCfgOf (winPlain v (entParam e 0x20 64) (entParam e 0x28 32) bytes) (entParam e 0x28 32))
    (hok : bindOk (countReads v k.keep k.size) (keptNow v k) cfg (entParam e 0x28 32) = true) :
    let w := doBind (countReads v k.keep k.size) (keptNow v k) cfg
    exec (.jobBind q e bytes .pass) s = .next (complete w q 0 (portsUp w) 0) :=
  exec_of_meaning h rfl (isOp_of_offered h) (serveJobBind_bound (hready.taking _) hwin hcfg hok)

/-- Reading the image leaves the tiles, the time and the image. -/
theorem countReads_leaves (s : State) (lo n : Nat) : (countReads s lo n).tiles = s.tiles ∧ (countReads s lo n).tm = s.tm ∧
    (countReads s lo n).image = s.image := by
  obtain ⟨_, _, _, _, _, _, _, _, _, _, _, _, _, _, _, _, _, _, _, _, h⟩ := countReads_posted s lo n
  rw [h]
  exact ⟨rfl, rfl, rfl⟩

/-- The block that a bind leaves, beside the one the command came to: with the entry taken and the extent served, and the kept image
read, the tiles, the time, the bytes and the image are those it came to. -/
theorem jobBind_leaves {b : HostBlk} {k : Kept} (hw : SMap.wf {} s.tiles = true) (hv : v = { s with host := b }) (cfg : JobCfg) :
    let w := doBind (countReads v k.keep k.size) (keptNow v k) cfg
    w.job = some cfg ∧ w.stg.st = .idle ∧ w.stg.step = cfg.step ∧ w.stg.parity = cfg.parity ∧
    w.stg.deadlineUs = BitVec.ofNat 32 cfg.deadlineUs ∧ w.cm.parent = cfg.parent ∧ w.cm.child = BitVec.ofNat 18 cfg.child ∧
    w.cm.jobSize = cfg.jobSize ∧ w.pc.ladder = bindLadder (ladderWords (keptNow v k).img cfg) ∧ w.tm.incr = jobIncr s.tm.incr ∧
    (∀ t, t ∈ mappedTiles (keptNow v k).img → w.tile t = boundTile s (keptNow v k).img t) ∧
    (∀ t, t ∉ mappedTiles (keptNow v k).img → w.tile t = faultsOnly (s.tile t)) ∧
    w.mem.dram = s.mem.dram ∧ w.image = s.image := by
  obtain ⟨htiles, htm, himage⟩ := countReads_leaves v k.keep k.size
  have hdram := countReads_dram v k.keep k.size
  generalize keptNow v k = k'
  generalize countReads v k.keep k.size = u at *
  subst hv
  have htile : ∀ t, u.tile t = s.tile t := fun t => congrArg (SMap.get ({} : Tile) · t) htiles
  obtain ⟨hjob, hst, hstep, hpar, hdead, hparent, hchild, hsize, hladder, hincr, hmem, himg⟩ := doBind_leaves u k' cfg
  have hall := doBind_tile (s := u) (by rw [htiles]; exact hw) k' cfg
  refine ⟨hjob, hst, hstep, hpar, hdead, hparent, hchild, hsize, hladder, hincr.trans (by rw [htm]), fun t ht => ?_, fun t ht => ?_,
    hmem.trans hdram, himg.trans himage⟩
  · rw [hall, if_pos ht, boundTile, htile, boundTile]
  · rw [hall, if_neg ht, htile]

end

/-- Settles O33: an opening message is its fragments put together; a release unbinds the job; an image is kept with `imageKept`; and
binding a job sets every tile from the image read back, or to its faults alone. -/
theorem sessionsImagesAndJobs : Obligations.SessionsImagesAndJobs := by
  refine ⟨fun s q e => ⟨runs_sessionOpen_first, fun f h hfrags hqueue hlen hoff hent => ⟨?more, ?opened, ?refused⟩,
    runs_sessionClose, runs_imageUnload, fun h hforce hidle => ?release, fun h hforce hbound => ?force⟩, fun s v q e => ⟨?load, ?bind⟩⟩
  case more => exact runs_sessionOpen_next h hfrags hqueue hlen hoff hent
  case opened => exact fun k js => runs_sessionOpen_opened h hfrags hqueue hlen hoff hent
  case refused => exact runs_sessionOpen_refused h hfrags hqueue hlen hoff hent
  case release =>
    exact runs_jobRelease h rfl (by simp [isOp_of_offered h, hforce]) rfl (by simp [State.bound, hidle]) (.inr hidle)
  case force => exact runs_jobRelease h rfl (by simp [isOp_of_offered h, hforce]) rfl hbound (.inl hforce)
  case load =>
    intro bytes tags size keep plain img h himage hext hlo hhi hkeep hnear hwin
    have hload : LoadOk s e := ⟨himage, hext, hlo, hhi, hkeep, hnear⟩
    exact ⟨fun htags hok hauth => ⟨_, exec_imageLoad_kept h hload hwin htags rfl hok hauth, imageKept_leaves v keep size plain⟩,
      exec_imageLoad_nothing h hload hwin, fun g htags hn => exec_imageLoad_stopped h hload hwin htags hn⟩
  case bind =>
    intro k bytes size cfg k' u h himage hbound hext hlo hhi hscrub hfull hwin hok
    have hready : BindReady s k e := ⟨himage, hbound, hext, hlo, hhi, hscrub, hfull⟩
    obtain ⟨b, hv⟩ := winAll_taking hwin
    exact ⟨_, exec_jobBind h hready hwin rfl hok, jobBind_leaves h.1.tiles hv cfg⟩

end Sys2Proof.Machine
end
